-- ==== Sys2Proof/Word.lean ====
section
/-! DEFINITION. The machine's word types: names for the widths the spec gives its registers (R65). -/

namespace Sys2Proof

/-- A 64-bit scalar register, work register, CSR or address (R65, R165). -/
abbrev Word := BitVec 64

/-- One byte of memory. -/
abbrev Byte := BitVec 8

/-- A 2048-bit vector register: 64 lanes of 32 bits, and narrower views of the same bits (R65). -/
abbrev VReg := BitVec 2048

/-- A 32-bit syllable of a bundle (R52). -/
abbrev Syllable := BitVec 32

end Sys2Proof
end

