-- ==== Sys2Proof/Config.lean ====
section
/-! DEFINITION. What the spec leaves to one device or to its surroundings: constants without a body, of which no
proof can see a value. -/

namespace Sys2Proof.Config

/-- The temperature code of column sensor `i` at the sample taken in cycle `c` (R21 fixes its range and resolution
only; the range is kept by the reader). UNVERIFIED value, free. -/
opaque sensorReading (c i : Nat) : BitVec 16

/-- The Hokudal public key fixed in fuses (R364): the coordinates of its point. Free. -/
opaque hokudalKey : Nat × Nat

/-- The private key of the device's identity, created at manufacture (R364). Free. -/
opaque identityKey : Nat

/-- The secret number of the device's signature of a digest (R343: the standard leaves it to the signer). Free. -/
opaque signNonce (digest : BitVec 512) : Nat

/-- The SHA-512 digest of the firmware in boot flash (R364, R368); free. -/
opaque firmwareDigest : BitVec 512

/-- The `GEOM` of a handle whose LNEW or LBIND failed before it read one (R261, R262 leave it open). Free. -/
opaque failedGeom (n : Nat) : BitVec 9

end Sys2Proof.Config
end

