-- ==== Sys2Proof/Syntax.lean ====
section
/-! DEFINITION. The instructions: one constructor per row of spec/opcode_table.json, 228 slot operations (R78) and 53
events of the device (spec/95_what_each_step_holds.md). A slot operation holds its operands with lends and extensions
already resolved (R58, R59): `i` an RI immediate, `o` a memory offset in access units or a branch displacement, `t` a
landing distance, `c` an ordering class, `p` and `n` the fields P and PN, `w` the field W. An event names its target:
`k` a context, `c` a core, `q` the issue number of a pending access or command, `j` a job, `m` a host module, `t` a tag. -/

namespace Sys2Proof

/-- `DDEV` and `SDEV` of a Sveth flit (R361). -/
structure FlitEnds where
  dst : BitVec 13
  src : BitVec 13
  deriving DecidableEq, Repr

/-- A Sveth flit's `SEQ`, and the `SEQ` up to which it acknowledges flits of the other direction (R409). -/
structure FlitSeqs where
  seq : BitVec 24
  acked : BitVec 24
  deriving DecidableEq, Repr

/-- A port and the `SEQ` of a flit that it sent (R409). -/
structure FlitName where
  port : Fin 16
  seq : BitVec 24
  deriving DecidableEq, Repr

/-- A command's issue number, and how many of its blocks came out whole before it was cut off (R405). -/
structure CutOff where
  seq : Nat
  blocks : Nat
  deriving DecidableEq, Repr

/-- The address and the `LEN` of a host message to management space (R358). -/
structure MgmtSpan where
  addr : BitVec 64
  len : BitVec 32
  deriving DecidableEq, Repr

/-- One step of the machine: a slot operation of a bundle, or an event of the device. -/
inductive Instr where
  /-- NOP (R52). An empty bundle, a header with a zero slot mask, issues in one schedule cycle and has no other effect. `c` is the header's CAIRN bit (R53). -/
  | nop (c : Bool)
  /-- ADD (R116). Predicated integer add of two s registers, modulo 2^n, in a 64-bit or 32-bit form. -/
  | add (d a b : Fin 64) (p : Fin 16) (n w : Bool)
  /-- SUB (R116). Predicated integer subtract of two s registers, modulo 2^n. -/
  | sub (d a b : Fin 64) (p : Fin 16) (n w : Bool)
  /-- MUL (R116). Predicated multiply that keeps the low n bits of the product. -/
  | mul (d a b : Fin 64) (p : Fin 16) (n w : Bool)
  /-- MULH_S (R116). Predicated signed multiply that keeps the high half of the 2n-bit product. -/
  | mulhS (d a b : Fin 64) (p : Fin 16) (n w : Bool)
  /-- MULH_U (R116). Predicated unsigned multiply that keeps the high half of the 2n-bit product. -/
  | mulhU (d a b : Fin 64) (p : Fin 16) (n w : Bool)
  /-- DIV_S (R117). Predicated signed division rounded toward zero, with defined results for a zero divisor and overflow, and never a trap. -/
  | divS (d a b : Fin 64) (p : Fin 16) (n w : Bool)
  /-- DIV_U (R117). Predicated unsigned division, which gives all ones for a zero divisor. -/
  | divU (d a b : Fin 64) (p : Fin 16) (n w : Bool)
  /-- REM_S (R117). Predicated signed remainder, whose result has the sign of the dividend. -/
  | remS (d a b : Fin 64) (p : Fin 16) (n w : Bool)
  /-- REM_U (R117). Predicated unsigned remainder. -/
  | remU (d a b : Fin 64) (p : Fin 16) (n w : Bool)
  /-- AND (R116). Predicated bitwise AND of two s registers. -/
  | and (d a b : Fin 64) (p : Fin 16) (n w : Bool)
  /-- OR (R116). Predicated bitwise OR of two s registers. -/
  | or (d a b : Fin 64) (p : Fin 16) (n w : Bool)
  /-- XOR (R116). Predicated bitwise XOR of two s registers. -/
  | xor (d a b : Fin 64) (p : Fin 16) (n w : Bool)
  /-- ANDN (R116). Predicated x AND NOT y. -/
  | andn (d a b : Fin 64) (p : Fin 16) (n w : Bool)
  /-- SHL (R116). Predicated left shift by y mod n. -/
  | shl (d a b : Fin 64) (p : Fin 16) (n w : Bool)
  /-- SHR (R116). Predicated logical right shift by y mod n. -/
  | shr (d a b : Fin 64) (p : Fin 16) (n w : Bool)
  /-- SRA (R116). Predicated arithmetic right shift by y mod n. -/
  | sra (d a b : Fin 64) (p : Fin 16) (n w : Bool)
  /-- ROTL (R116). Predicated rotate left by y mod n. -/
  | rotl (d a b : Fin 64) (p : Fin 16) (n w : Bool)
  /-- CLZ (R116). Predicated count of leading zeros, giving n for zero. -/
  | clz (d a : Fin 64) (p : Fin 16) (n w : Bool)
  /-- CTZ (R116). Predicated count of trailing zeros, giving n for zero. -/
  | ctz (d a : Fin 64) (p : Fin 16) (n w : Bool)
  /-- POPC (R116). Predicated population count. -/
  | popc (d a : Fin 64) (p : Fin 16) (n w : Bool)
  /-- MIN_S (R116). Predicated signed minimum. -/
  | minS (d a b : Fin 64) (p : Fin 16) (n w : Bool)
  /-- MIN_U (R116). Predicated unsigned minimum. -/
  | minU (d a b : Fin 64) (p : Fin 16) (n w : Bool)
  /-- MAX_S (R116). Predicated signed maximum. -/
  | maxS (d a b : Fin 64) (p : Fin 16) (n w : Bool)
  /-- MAX_U (R116). Predicated unsigned maximum. -/
  | maxU (d a b : Fin 64) (p : Fin 16) (n w : Bool)
  /-- SEXT (R118). Sign-extends s[a] from the bit that the immediate names. -/
  | sext (d a i : Fin 64)
  /-- ZEXT (R118). Zero-extends s[a] from the bit that the immediate names. -/
  | zext (d a i : Fin 64)
  /-- BFX_S (R118). Extracts a bit field of s[a] and sign-extends it. -/
  | bfxS (d a l m : Fin 64)
  /-- BFX_U (R118). Extracts a bit field of s[a] and zero-extends it. -/
  | bfxU (d a l m : Fin 64)
  /-- BFI (R118). Inserts the low bits of s[a] into a bit field of s[d]. -/
  | bfi (d a l m : Fin 64)
  /-- SEL (R119). Selects s[a] or s[b] by predicate p[c]. -/
  | sel (d a b : Fin 64) (c : Fin 16)
  /-- PAND (R119). Predicated AND of two predicates. -/
  | pand (d a b p : Fin 16) (n : Bool)
  /-- POR (R119). Predicated OR of two predicates. -/
  | por (d a b p : Fin 16) (n : Bool)
  /-- PXOR (R119). Predicated XOR of two predicates. -/
  | pxor (d a b p : Fin 16) (n : Bool)
  /-- PNOT (R119). Predicated NOT of a predicate. -/
  | pnot (d a p : Fin 16) (n : Bool)
  /-- ADDI (R118). Adds a signed immediate to s[a]. -/
  | addi (d a : Fin 64) (i : BitVec 32)
  /-- ANDI (R118). ANDs s[a] with a sign-extended immediate. -/
  | andi (d a : Fin 64) (i : BitVec 32)
  /-- ORI (R118). ORs s[a] with a sign-extended immediate. -/
  | ori (d a : Fin 64) (i : BitVec 32)
  /-- XORI (R118). XORs s[a] with a sign-extended immediate. -/
  | xori (d a : Fin 64) (i : BitVec 32)
  /-- SHLI (R118). Shifts s[a] left by an immediate of 0–63. -/
  | shli (d a i : Fin 64)
  /-- SHRI (R118). Shifts s[a] right logically by an immediate. -/
  | shri (d a i : Fin 64)
  /-- SRAI (R118). Shifts s[a] right arithmetically by an immediate. -/
  | srai (d a i : Fin 64)
  /-- LUI (R118). Places the immediate in the upper 32 bits above s[a][31:0]. -/
  | lui (d a : Fin 64) (i : BitVec 32)
  /-- MOVI (R118). Loads a sign-extended immediate into s[d]. -/
  | movi (d : Fin 64) (i : BitVec 32)
  /-- CMP_EQ (R119). Predicated compare that sets p[d] when x = y. -/
  | cmpEq (d : Fin 16) (a b : Fin 64) (p : Fin 16) (n w : Bool)
  /-- CMP_NE (R119). Predicated compare that sets p[d] when x ≠ y. -/
  | cmpNe (d : Fin 16) (a b : Fin 64) (p : Fin 16) (n w : Bool)
  /-- CMP_LT (R119). Predicated signed less-than compare. -/
  | cmpLt (d : Fin 16) (a b : Fin 64) (p : Fin 16) (n w : Bool)
  /-- CMP_GE (R119). Predicated signed greater-or-equal compare. -/
  | cmpGe (d : Fin 16) (a b : Fin 64) (p : Fin 16) (n w : Bool)
  /-- CMP_LTU (R119). Predicated unsigned less-than compare. -/
  | cmpLtu (d : Fin 16) (a b : Fin 64) (p : Fin 16) (n w : Bool)
  /-- CMP_GEU (R119). Predicated unsigned greater-or-equal compare. -/
  | cmpGeu (d : Fin 16) (a b : Fin 64) (p : Fin 16) (n w : Bool)
  /-- CMP_TST (R119). Predicated test that sets p[d] when x AND y is nonzero. -/
  | cmpTst (d : Fin 16) (a b : Fin 64) (p : Fin 16) (n w : Bool)
  /-- CMP_TSTN (R119). Predicated test that sets p[d] when x AND y is zero. -/
  | cmpTstn (d : Fin 16) (a b : Fin 64) (p : Fin 16) (n w : Bool)
  /-- FADD (R120). Predicated FP32 add with one rounding. -/
  | fadd (d a b : Fin 64) (p : Fin 16) (n : Bool)
  /-- FMUL (R120). Predicated FP32 multiply with one rounding. -/
  | fmul (d a b : Fin 64) (p : Fin 16) (n : Bool)
  /-- FFMA (R120). FP32 fused multiply-add a × b + c with one rounding. -/
  | ffma (d a b c : Fin 64)
  /-- FCVT (R121). Converts a scalar between float and integer formats with one rounding. -/
  | fcvt (d a : Fin 64) (l : Bool) (t s : Fin 16)
  /-- FCMP_EQ (R122). Predicated FP32 equality compare into a predicate. -/
  | fcmpEq (d : Fin 16) (a b : Fin 64) (p : Fin 16) (n : Bool)
  /-- FCMP_LT (R122). Predicated FP32 less-than compare, which sets NV on a NaN. -/
  | fcmpLt (d : Fin 16) (a b : Fin 64) (p : Fin 16) (n : Bool)
  /-- FCMP_LE (R122). Predicated FP32 less-or-equal compare, which sets NV on a NaN. -/
  | fcmpLe (d : Fin 16) (a b : Fin 64) (p : Fin 16) (n : Bool)
  /-- FCMP_UN (R122). Predicated unordered test of two FP32 values. -/
  | fcmpUn (d : Fin 16) (a b : Fin 64) (p : Fin 16) (n : Bool)
  /-- FMINMAX_MIN (R122). Predicated FP32 minimum with the NaN and signed-zero rules. -/
  | fminmaxMin (d a b : Fin 64) (p : Fin 16) (n : Bool)
  /-- FMINMAX_MAX (R122). Predicated FP32 maximum with the NaN and signed-zero rules. -/
  | fminmaxMax (d a b : Fin 64) (p : Fin 16) (n : Bool)
  /-- LD_B (R123). Loads a sign-extended byte from the core's scratchpad, landing at t + 3. -/
  | ldB (d a : Fin 64) (o : BitVec 32) (c : Fin 16)
  /-- LD_H (R123). Loads a sign-extended halfword from the scratchpad. -/
  | ldH (d a : Fin 64) (o : BitVec 32) (c : Fin 16)
  /-- LD_W (R123). Loads a sign-extended word from the scratchpad. -/
  | ldW (d a : Fin 64) (o : BitVec 32) (c : Fin 16)
  /-- LD_D (R123). Loads a doubleword from the scratchpad. -/
  | ldD (d a : Fin 64) (o : BitVec 32) (c : Fin 16)
  /-- LD_BZ (R123). Loads a zero-extended byte from the scratchpad. -/
  | ldBz (d a : Fin 64) (o : BitVec 32) (c : Fin 16)
  /-- LD_HZ (R123). Loads a zero-extended halfword from the scratchpad. -/
  | ldHz (d a : Fin 64) (o : BitVec 32) (c : Fin 16)
  /-- LD_WZ (R123). Loads a zero-extended word from the scratchpad. -/
  | ldWz (d a : Fin 64) (o : BitVec 32) (c : Fin 16)
  /-- ST_B (R123). Stores a byte to the scratchpad in the issue cycle. -/
  | stB (d a : Fin 64) (o : BitVec 32) (c : Fin 16)
  /-- ST_H (R123). Stores a halfword to the scratchpad. -/
  | stH (d a : Fin 64) (o : BitVec 32) (c : Fin 16)
  /-- ST_W (R123). Stores a word to the scratchpad. -/
  | stW (d a : Fin 64) (o : BitVec 32) (c : Fin 16)
  /-- ST_D (R123). Stores a doubleword to the scratchpad. -/
  | stD (d a : Fin 64) (o : BitVec 32) (c : Fin 16)
  /-- LDL_W (R125). Landing load of a sign-extended word from a global or local address, landing at t + dist. -/
  | ldlW (d a : Fin 64) (o : BitVec 24) (t : BitVec 16) (c : Fin 16)
  /-- LDL_WZ (R125). Landing load of a zero-extended word. -/
  | ldlWz (d a : Fin 64) (o : BitVec 24) (t : BitVec 16) (c : Fin 16)
  /-- LDL_D (R125). Landing load of a doubleword. -/
  | ldlD (d a : Fin 64) (o : BitVec 24) (t : BitVec 16) (c : Fin 16)
  /-- L1INV (R126). Writes back and then invalidates the L1 sectors of a range, freezing the context until they are done. -/
  | l1inv (a b : Fin 64) (p : Fin 16) (n : Bool)
  /-- L1WB (R126). Writes back the dirty L1 sectors of a range, leaving them clean. -/
  | l1wb (a b : Fin 64) (p : Fin 16) (n : Bool)
  /-- AMO_ADD (R128). Sends an atomic add to the home slice, which returns the old value to the return queue. -/
  | amoAdd (z : Bool) (c : Fin 16) (a b : Fin 64)
  /-- AMO_AND (R128). Atomic AND at the home slice, returning the old value. -/
  | amoAnd (z : Bool) (c : Fin 16) (a b : Fin 64)
  /-- AMO_OR (R128). Atomic OR at the home slice, returning the old value. -/
  | amoOr (z : Bool) (c : Fin 16) (a b : Fin 64)
  /-- AMO_XOR (R128). Atomic XOR at the home slice, returning the old value. -/
  | amoXor (z : Bool) (c : Fin 16) (a b : Fin 64)
  /-- AMO_MIN (R128). Atomic signed minimum at the home slice, returning the old value. -/
  | amoMin (z : Bool) (c : Fin 16) (a b : Fin 64)
  /-- AMO_MAX (R128). Atomic signed maximum at the home slice, returning the old value. -/
  | amoMax (z : Bool) (c : Fin 16) (a b : Fin 64)
  /-- AMO_SWAP (R128). Atomic swap at the home slice, returning the old value. -/
  | amoSwap (z : Bool) (c : Fin 16) (a b : Fin 64)
  /-- AMO_CAS (R128). Atomic compare-and-swap at the home slice, returning the old value. -/
  | amoCas (z : Bool) (c : Fin 16) (a b x : Fin 64)
  /-- RED_ADD (R128). Atomic add at the home slice, with no returned value. -/
  | redAdd (z : Bool) (c : Fin 16) (a b : Fin 64)
  /-- RED_AND (R128). Atomic AND at the home slice, with no returned value. -/
  | redAnd (z : Bool) (c : Fin 16) (a b : Fin 64)
  /-- RED_OR (R128). Atomic OR at the home slice, with no returned value. -/
  | redOr (z : Bool) (c : Fin 16) (a b : Fin 64)
  /-- RED_MIN (R128). Atomic signed minimum at the home slice, with no returned value. -/
  | redMin (z : Bool) (c : Fin 16) (a b : Fin 64)
  /-- RED_MAX (R128). Atomic signed maximum at the home slice, with no returned value. -/
  | redMax (z : Bool) (c : Fin 16) (a b : Fin 64)
  /-- AMOPOP (R129). Pops the oldest AMO return value into s[d] at t + 3, freezing while it has not arrived. -/
  | amopop (d : Fin 64) (p : Fin 16) (n : Bool)
  /-- SPART (R130). Sets a massif slice's scratch-window way count, writing back and zeroing changed ways, and lands the previous count. -/
  | spart (d a : Fin 64) (i : Fin 17)
  /-- BR (R131). Predicated relative branch, taken with two delay bundles. -/
  | br (p : Fin 16) (n : Bool) (o : BitVec 35)
  /-- JMP (R131). Predicated jump to an absolute syllable index in the code section. -/
  | jmp (p : Fin 16) (n : Bool) (o : BitVec 35)
  /-- JMPR (R131). Predicated jump to the syllable index held in s[a]. -/
  | jmpr (a : Fin 64) (p : Fin 16) (n : Bool)
  /-- CALL (R131). Predicated relative call that writes the return index to s63. -/
  | call (p : Fin 16) (n : Bool) (o : BitVec 35)
  /-- RET (R131). Predicated return to the syllable index in s[a], by default s63. -/
  | ret (a : Fin 64) (p : Fin 16) (n : Bool)
  /-- LOOP (R132). Opens a zero-overhead loop whose body runs s[a] times. -/
  | loop (a : Fin 64) (i : BitVec 32)
  /-- TRAP (R133). Enters the trap handler with CODE 1 and SUB set to the immediate. -/
  | trap (i : BitVec 16)
  /-- ERET (R134). Leaves handler mode and resumes at TBUN. -/
  | eret (p : Fin 16) (n : Bool)
  /-- HALT (R135). Ends the context, discarding register results still in flight while issued engine work completes. -/
  | halt (p : Fin 16) (n : Bool)
  /-- YIELD (R136). Moves the context to last place in its priority's round robin and gives up the issue width if a rival is ready. -/
  | yield (p : Fin 16) (n : Bool)
  /-- CSRR (R137). Reads a CSR into s[d]. -/
  | csrr (d : Fin 64) (i : BitVec 12)
  /-- CSRW (R137). Reads a CSR and writes s[a] into it field by field. -/
  | csrw (d a : Fin 64) (i : BitVec 12)
  /-- CSRS (R137). Reads a CSR and sets the bits of s[a] in it. -/
  | csrs (d a : Fin 64) (i : BitVec 12)
  /-- CSRC (R137). Reads a CSR and clears the bits of s[a] in it. -/
  | csrc (d a : Fin 64) (i : BitVec 12)
  /-- RLAND_REDO (R139). In handler mode, reissues the faulted load from its captured operands so that it lands after ERET. -/
  | rlandRedo (p : Fin 16) (n : Bool)
  /-- RLAND_SET (R139). In handler mode, records s[a] as the value of the faulted load. -/
  | rlandSet (a : Fin 64) (p : Fin 16) (n : Bool)
  /-- VADD (R142). Lane-wise add on FP32 or INT32 lanes. -/
  | vadd (d a b : Fin 64) (p : Fin 16) (n w : Bool)
  /-- VSUB (R142). Lane-wise subtract. -/
  | vsub (d a b : Fin 64) (p : Fin 16) (n w : Bool)
  /-- VMUL (R142). Lane-wise multiply. -/
  | vmul (d a b : Fin 64) (p : Fin 16) (n w : Bool)
  /-- VFMA (R142). Lane-wise fused multiply-add into v[d]. -/
  | vfma (d a b : Fin 64) (p : Fin 16) (n : Bool)
  /-- VFMS (R142). Lane-wise fused z − x × y. -/
  | vfms (d a b : Fin 64) (p : Fin 16) (n : Bool)
  /-- VMIN (R142). Lane-wise minimum. -/
  | vmin (d a b : Fin 64) (p : Fin 16) (n w : Bool)
  /-- VMAX (R142). Lane-wise maximum. -/
  | vmax (d a b : Fin 64) (p : Fin 16) (n w : Bool)
  /-- VABS (R142). Lane-wise absolute value. -/
  | vabs (d a : Fin 64) (p : Fin 16) (n w : Bool)
  /-- VNEG (R142). Lane-wise negation. -/
  | vneg (d a : Fin 64) (p : Fin 16) (n w : Bool)
  /-- VSEL (R144). Selects every lane from v[a] or v[b] by the mask. -/
  | vsel (d a b : Fin 64) (p : Fin 16) (n : Bool)
  /-- VAND (R142). Lane-wise bitwise AND. -/
  | vand (d a b : Fin 64) (p : Fin 16) (n : Bool)
  /-- VOR (R142). Lane-wise bitwise OR. -/
  | vor (d a b : Fin 64) (p : Fin 16) (n : Bool)
  /-- VXOR (R142). Lane-wise bitwise XOR. -/
  | vxor (d a b : Fin 64) (p : Fin 16) (n : Bool)
  /-- VSHL (R142). Lane-wise left shift. -/
  | vshl (d a b : Fin 64) (p : Fin 16) (n : Bool)
  /-- VSHR (R142). Lane-wise logical right shift. -/
  | vshr (d a b : Fin 64) (p : Fin 16) (n : Bool)
  /-- VSRA (R142). Lane-wise arithmetic right shift. -/
  | vsra (d a b : Fin 64) (p : Fin 16) (n : Bool)
  /-- VEXP2 (R145). Lane-wise correctly rounded 2^x. -/
  | vexp2 (d a : Fin 64) (p : Fin 16) (n : Bool)
  /-- VLOG2 (R145). Lane-wise correctly rounded log₂ x. -/
  | vlog2 (d a : Fin 64) (p : Fin 16) (n : Bool)
  /-- VRCP (R145). Lane-wise correctly rounded reciprocal. -/
  | vrcp (d a : Fin 64) (p : Fin 16) (n : Bool)
  /-- VRSQ (R145). Lane-wise correctly rounded reciprocal square root. -/
  | vrsq (d a : Fin 64) (p : Fin 16) (n : Bool)
  /-- VCMP_EQ (R146). Lane-wise equality compare into a mask register. -/
  | vcmpEq (d : Fin 16) (a b : Fin 64) (p : Fin 16) (n w : Bool)
  /-- VCMP_NE (R146). Lane-wise not-equal compare into a mask. -/
  | vcmpNe (d : Fin 16) (a b : Fin 64) (p : Fin 16) (n w : Bool)
  /-- VCMP_LT (R146). Lane-wise less-than compare into a mask. -/
  | vcmpLt (d : Fin 16) (a b : Fin 64) (p : Fin 16) (n w : Bool)
  /-- VCMP_LE (R146). Lane-wise less-or-equal compare into a mask. -/
  | vcmpLe (d : Fin 16) (a b : Fin 64) (p : Fin 16) (n w : Bool)
  /-- VCMP_GT (R146). Lane-wise greater-than compare into a mask. -/
  | vcmpGt (d : Fin 16) (a b : Fin 64) (p : Fin 16) (n w : Bool)
  /-- VCMP_GE (R146). Lane-wise greater-or-equal compare into a mask. -/
  | vcmpGe (d : Fin 16) (a b : Fin 64) (p : Fin 16) (n w : Bool)
  /-- VCMP_UN (R146). Lane-wise unordered test on FP32 lanes. -/
  | vcmpUn (d : Fin 16) (a b : Fin 64) (p : Fin 16) (n : Bool)
  /-- VCMP_LTU (R146). Lane-wise unsigned less-than compare on INT32 lanes. -/
  | vcmpLtu (d : Fin 16) (a b : Fin 64) (p : Fin 16) (n : Bool)
  /-- VCMP_ORD (R146). Lane-wise ordered test on FP32 lanes. -/
  | vcmpOrd (d : Fin 16) (a b : Fin 64) (p : Fin 16) (n : Bool)
  /-- VCMP_GEU (R146). Lane-wise unsigned greater-or-equal compare on INT32 lanes. -/
  | vcmpGeu (d : Fin 16) (a b : Fin 64) (p : Fin 16) (n : Bool)
  /-- VCVT (R149). Converts 64 elements between vector formats with one rounding. -/
  | vcvt (d a : Fin 64) (k : Fin 8) (t s : Fin 16)
  /-- VQNT (R152). Quantises 64 FP32 lanes into dithered or plain INT4, INT8 or DXB codes. -/
  | vqnt (d a : Fin 64) (f : Fin 4) (k : Fin 8) (s : Fin 16) (r : Fin 8) (v : BitVec 20)
  /-- VDQ (R153). Decodes 64 narrow codes into FP32 lanes, removing each code's dither offset. -/
  | vdq (d a : Fin 64) (f : Fin 4) (k : Fin 8) (s : Fin 16) (r : Fin 8) (v : BitVec 20)
  /-- VPERMB (R154). Byte permute of v[a] by the indices in v[b]. -/
  | vpermb (d a b : Fin 64) (p : Fin 16) (n : Bool)
  /-- VPERMW (R154). Lane permute of v[a] by the indices in v[b]. -/
  | vpermw (d a b : Fin 64) (p : Fin 16) (n : Bool)
  /-- VBCAST (R154). Broadcasts s[a][31:0] into the active lanes. -/
  | vbcast (d a : Fin 64) (p : Fin 16) (n : Bool)
  /-- VEXTR (R154). Extracts one lane, zero-extended, into an s register. -/
  | vextr (d a i : Fin 64)
  /-- VIOTA (R154). Writes each active lane's index as INT32. -/
  | viota (d : Fin 64) (p : Fin 16) (n : Bool)
  /-- VREDADD (R155). Sums the lanes in a fixed pairwise tree into every lane. -/
  | vredadd (d a : Fin 64) (p : Fin 16) (n w : Bool)
  /-- VREDMAX (R155). Tree maximum of the lanes. -/
  | vredmax (d a : Fin 64) (p : Fin 16) (n w : Bool)
  /-- VREDMIN (R155). Tree minimum of the lanes. -/
  | vredmin (d a : Fin 64) (p : Fin 16) (n w : Bool)
  /-- VTRIP (R156). Updates an online-softmax triple in v[d] to v[d+2] with new scores and values. -/
  | vtrip (d a b : Fin 64)
  /-- VLD (R158). Loads 256 bytes of scratchpad into a vector register. -/
  | vld (d a : Fin 64) (o : BitVec 32) (c : Fin 16)
  /-- VST (R158). Stores a vector register as 256 bytes of scratchpad. -/
  | vst (d a : Fin 64) (o : BitVec 32) (c : Fin 16)
  /-- VLDS (R159). Strided scratchpad word load into the active lanes. -/
  | vlds (d a b : Fin 64) (p : Fin 16) (n : Bool)
  /-- VGATH (R159). Gathers scratchpad words by lane offsets. -/
  | vgath (d a b : Fin 64) (p : Fin 16) (n : Bool)
  /-- VSCAT (R159). Scatters lanes to scratchpad words by lane offsets. -/
  | vscat (d a b : Fin 64) (p : Fin 16) (n : Bool)
  /-- VLDL (R160). Landing load of 256 bytes into a vector register. -/
  | vldl (d a : Fin 64) (o : BitVec 24) (t : BitVec 16) (c : Fin 16)
  /-- VSTG (R161). Stores 256 bytes to a global address through L1, or to space 0 or 2. -/
  | vstg (d a : Fin 64) (o : BitVec 32) (c : Fin 16)
  /-- VLDA (R163). Reads half an accumulator row into a vector register. -/
  | vlda (d a : Fin 64) (h : Bool) (r : Fin 128) (e : Fin 8)
  /-- VSTA (R164). Writes or adds a vector register into half an accumulator row. -/
  | vsta (d a : Fin 64) (x h : Bool) (r : Fin 128) (e : Fin 8)
  /-- MAND (R147). Masked AND of two mask registers. -/
  | mand (d a b p : Fin 16) (n : Bool)
  /-- MOR (R147). Masked OR of two mask registers. -/
  | mor (d a b p : Fin 16) (n : Bool)
  /-- MNOT (R147). Masked NOT of a mask register. -/
  | mnot (d a p : Fin 16) (n : Bool)
  /-- MPOPC (R147). Counts the set bits of a masked mask into an s register. -/
  | mpopc (d : Fin 64) (a p : Fin 16) (n : Bool)
  /-- MMA (R227). Claims A and B tiles from operand rings and runs one full 128×128 array step into a bank. -/
  | mma (e a b : Fin 8) (o : Bool) (f g : Fin 8) (x y : Bool)
  /-- MTILE (R227). Array step over a sub-rectangle and k-count given by a shape register. -/
  | mtile (e a b : Fin 8) (s : Fin 64) (o : Bool) (f g : Fin 8) (x y : Bool)
  /-- MZERO (R228). Zeroes the named bands of a bank at t + 1. -/
  | mzero (e : Fin 8) (m : BitVec 8)
  /-- MDRAIN (R230). Drains bands of a bank, converted or quantised, to memory, counted on a completion ring. -/
  | mdrain (e : Fin 8) (a d : Fin 64) (z : Bool)
  /-- MRING (R232). Describes an operand ring and resets its head, tail and claim counts. -/
  | mring (o : Fin 8) (s : Fin 64)
  /-- ACALLOC (R233). Allocates a bank in a mode, zeroes it and gives every band to the issuer. -/
  | acalloc (e : Fin 8) (m : Fin 4) (a : BitVec 8)
  /-- ACFREE (R233). Frees a bank. -/
  | acfree (e : Fin 8)
  /-- ACOWN (R233). Hands the named float bands to another context of the core. -/
  | acown (e : Fin 8) (b : BitVec 8) (k : Fin 4)
  /-- CPSET (R191). Writes one word of a pattern register at t + 1. -/
  | cpset (a : Fin 8) (s w : Fin 64)
  /-- CPY (R203). Queues a copy that walks an affine pattern, counted on a completion ring. -/
  | cpy (a g : Fin 8) (i : BitVec 6) (r : Bool) (o : Fin 8) (c x : Fin 16)
  /-- CPYM (R204). Multicasts a copy to each core named in the AUX mask. -/
  | cpym (a g : Fin 8) (i : BitVec 6) (r : Bool) (o : Fin 8) (c x : Fin 16)
  /-- CPYR (R205). Copies 4-byte words into accumulator entries, overwriting or adding. -/
  | cpyr (a g : Fin 8) (i : BitVec 6) (r : Bool) (o : Fin 8) (c x : Fin 16)
  /-- CPYX (R206). Decodes a compressed stream into the destination blocks of a walk. -/
  | cpyx (a g : Fin 8) (i : BitVec 6) (r : Bool) (o : Fin 8) (c x : Fin 16)
  /-- CPF (R207). Prefetches the sectors of a walk into their home slices or into L1. -/
  | cpf (a g : Fin 8) (i : BitVec 6) (r : Bool) (o : Fin 8) (c x : Fin 16)
  /-- CPWB (R207). Writes dirty slice sectors of a walk back to memory, optionally invalidating them. -/
  | cpwb (a g : Fin 8) (i : BitVec 6) (r : Bool) (o : Fin 8) (c x : Fin 16)
  /-- RINIT (R200). Waits for the ring's commands to end, then resets the ring with a new capacity and clears any failure. -/
  | rinit (g : Fin 8) (c : BitVec 12)
  /-- XEXP (R213). Decodes N bare compressed sectors in beats. -/
  | xexp (d s n x : Fin 64)
  /-- XTRN (R214). Transposes rows into columns of codes in beats, without decoding them. -/
  | xtrn (d s n x : Fin 64)
  /-- XCVT (R215). Converts, dequantises or re-dithers chunks between formats in beats. -/
  | xcvt (d s n : Fin 64) (b a : Fin 8)
  /-- XZVC (R216). Compresses N chunks into one stream chunk and lands its length. -/
  | xzvc (d s n l : Fin 64)
  /-- XFILL (R212). Fills N 256-byte chunks with the 8 bytes of s[SS]. -/
  | xfill (d s n x : Fin 64)
  /-- FMTW (R294). Writes FMT, effective for operations issued five bundles later. -/
  | fmtw (a : Fin 64)
  /-- SCLLD (R294). Writes one SCL entry, effective five bundles later. -/
  | sclld (a : Fin 64) (n : Fin 16)
  /-- DFRM (R295). Writes a frame field (SEED, ROWO, COLO or CFG) at t + 1. -/
  | dfrm (a : Fin 64) (f : Fin 4) (r : Fin 8)
  /-- DFRM_ADD (R295). Adds to a frame's ROWO or COLO at t + 1. -/
  | dfrmAdd (a : Fin 64) (f : Fin 4) (r : Fin 8)
  /-- FENCE (R284). Orders earlier and later accesses of the named classes within each path in a scope, freezing until covered accesses perform. -/
  | fence (m : BitVec 16) (s : Fin 8)
  /-- FENCEX (R285). Orders earlier accesses on the from paths before later accesses on the to paths. -/
  | fencex (s : Fin 8) (f t : BitVec 6)
  /-- DSYNC_WORD (R291). Ends a superstep at word level: releases and arrives at the barrier. -/
  | dsyncWord
  /-- DSYNC_PHRASE (R291). Ends a superstep at phrase level, with L1 write-back. -/
  | dsyncPhrase
  /-- DSYNC_CLAUSE (R291). Ends a superstep at clause level. -/
  | dsyncClause
  /-- DSYNC_SENTENCE (R291). Ends a superstep at sentence level. -/
  | dsyncSentence
  /-- DSYNC_PARAGRAPH (R291). Ends a superstep at paragraph level, sending an arrival flit to device 0. -/
  | dsyncParagraph
  /-- FLADD (R298). Sends a flag add, with release, to a core's flag word. -/
  | fladd (c v w : Fin 64)
  /-- FLSET (R298). Sets a flag word on each core of a mask, with release. -/
  | flset (v m t w : Fin 64)
  /-- FLWAIT (R298). Waits until the core's flag word meets a condition, then acquires and lands the value. -/
  | flwait (d v : Fin 64) (c : Fin 4) (w : Fin 64)
  /-- AWAIT (R197). Issues only once the ring's FILL − CONS reaches n. -/
  | await (g : Fin 8) (n : BitVec 22)
  /-- RELEASE (R197). Raises the ring's CONS by n at t + 1. -/
  | release (g : Fin 8) (n : BitVec 22)
  /-- WNEXT (R300). Requests the next item of a work pool into a work register at t + dist. -/
  | wnext (w : Fin 8) (p : Fin 16) (t : BitVec 16)
  /-- WROT (R300). Lands w0 in an s register and rotates the work-register window base. -/
  | wrot (d : Fin 64) (k : Fin 8)
  /-- LNEW (R261). Writes a new ladder descriptor from a parameter record, forms the power rows and binds the handle. -/
  | lnew (p a : Fin 64) (e : Bool) (g : Fin 8) (h : Fin 16)
  /-- LBIND (R262). Binds a handle to a descriptor, reading its GEOM when the operation runs. -/
  | lbind (a : Fin 64) (e : Bool) (g : Fin 8) (h : Fin 16)
  /-- LAPPEND (R264). Appends a token or a prebuilt span to a ladder, merging on carry within the budget. -/
  | lappend (o : Fin 64) (e : Bool) (g : Fin 8) (h : Fin 16)
  /-- LCARRY (R265). Completes a pending carry within a merge budget. -/
  | lcarry (b : Fin 64) (e : Bool) (g : Fin 8) (h : Fin 16)
  /-- LFORK (R266). Forks ladder X into ladder Y, sharing its blocks. -/
  | lfork (x : Fin 16) (e : Bool) (g : Fin 8) (h : Fin 16)
  /-- LTRUNC (R251). Truncates a ladder to T tokens from its reachable spans. -/
  | ltrunc (t : Fin 64) (e : Bool) (g : Fin 8) (h : Fin 16)
  /-- LDROP (R252). Releases every present block, empties the ladder and unbinds the handle. -/
  | ldrop (e : Bool) (g : Fin 8) (h : Fin 16)
  /-- LREAD (R267). Reads the ladder over a range of levels against a query and writes a triple record. -/
  | lread (r q : Fin 64) (e : Bool) (g : Fin 8) (h : Fin 16)
  /-- LWALK (R268). Lists the present blocks in combining order to the scratchpad. -/
  | lwalk (l : Fin 64) (e : Bool) (g : Fin 8) (h : Fin 16)
  /-- LKEEP (R265). Writes the ladder's keep mask. -/
  | lkeep (m : Fin 64) (e : Bool) (g : Fin 8) (h : Fin 16)
  /-- LCNT (R269). Lands the ladder's count and carry state at t + dist. -/
  | lcnt (d : Fin 64) (h : Fin 16) (t : BitVec 16)
  /-- MCINIT (R272). Configures a merge cell and clears its slots, status and output. -/
  | mcinit (f c : Fin 64) (e : Bool) (g : Fin 8)
  /-- MCDEP (R272). Deposits a triple record into a cell slot, combining the cell once every slot is filled. -/
  | mcdep (r c : Fin 64) (e : Bool) (g : Fin 8) (s : Fin 64)
  /-- MCGET (R272). Copies a cell's output record to the scratchpad. -/
  | mcget (r c : Fin 64) (e : Bool) (g : Fin 8)
  /-- TSPAWN (R324). Enqueues a task descriptor in its domain's pool and gives it a sequence number. -/
  | tspawn (a : Fin 64) (e : Bool) (g : Fin 8)
  /-- TBEGIN (R325). Opens a delivered boosted task, loading its undo region and continuation. -/
  | tbegin (c d u : Fin 64) (q : Bool)
  /-- TCOMMIT (R326). Releases and commits the task, freeing its holds and releasing spurs held for it. -/
  | tcommit
  /-- TCOMMIT_ORD (R326). Commits once no older task of the domain is uncommitted. -/
  | tcommitOrd
  /-- TABORT (R327). Records the reason and retracts the task at once. -/
  | tabort (w : Fin 64)
  /-- VCALL (R328). Requests a hold of a verb kind on an object and enters the verb routine at the grant. -/
  | vcall (o k : Fin 64)
  /-- VINV (R329). Registers the inverse arguments of the current verb. -/
  | vinv (f n : Fin 64)
  /-- VRET (R330). Ends the verb and pushes its undo entry, or returns into retraction. -/
  | vret
  /-- GLOAD (R331). Loads n rows of a domain's grammar table into every home slice. -/
  | gload (d a : Fin 64) (e : Bool) (g : Fin 8) (n : Fin 64)
  /-- VTAB (R331). Loads a domain's verb table. -/
  | vtab (d a : Fin 64) (e : Bool) (g : Fin 8)
  /-- TSTAT (R332). Lands a selected field of the context's task state. -/
  | tstat (d : Fin 64) (s : Fin 4)
  /-- TRANSFORM_BEAT (R210). At each beat's schedule cycle an X operation reads a source chunk, and its destination chunk lands L cycles later. -/
  | transformBeat (k : Fin 1024)
  /-- DOMAIN_BARRIER_RELEASE (R46). When every member of a domain has arrived, the barrier releases, invalidating L1 and letting the members acquire. -/
  | domainBarrierRelease (j : BitVec 32) (l : Fin 5) (u : Nat)
  /-- FLAG_WRITE_ARRIVES (R288). A flag write performs at the target flag file, waking waiters whose condition it meets. -/
  | flagWriteArrives (c : Fin 256) (q : Nat)
  /-- WNEXT_SERVE (R48). The work distributor serves a request with the next item, a task or the exhausted value, or holds it. -/
  | wnextServe (s : Fin 4) (p : Fin 16)
  /-- THERMAL_HOLD_TIMEOUT (R23). A request held for a hot column is released after 2048 cycles. -/
  | thermalHoldTimeout (k : Fin 1024)
  /-- HOLD_REQUEST (R310). A hold request reaches the object's home slice, which grants it or resolves the conflict by aborting the younger task. -/
  | holdRequest (k : Fin 1024)
  /-- ABORT_DELIVERY (R319). A pending abort is delivered to a task at its next eligible bundle boundary. -/
  | abortDelivery (k : Fin 1024)
  /-- RESULT_LANDS (R26). When a context's schedule clock reaches a result's landing cycle, the result is written to its destination. -/
  | resultLands (k : Fin 1024)
  /-- LANDING_DATA_ARRIVES (R28). Data of a variable-latency result arrives and waits in the landing buffer, releasing a frozen context. -/
  | landingDataArrives (c : Fin 256) (q : Nat)
  /-- QUANT_EXPIRY (R32). After QUANT consecutive bundles with a rival ready, the selected context gives up the issue width. -/
  | quantExpiry (c : Fin 256)
  /-- CONTEXT_PROMOTION (R32). A ready context whose wait count reaches 1024 is promoted and served first. -/
  | contextPromotion (c : Fin 256)
  /-- DEFERRED_REFUSAL (R379). A refusal of a store, AMO, RED or VSTG reaches the context and is taken at its next bundle boundary. -/
  | deferredRefusal (c : Fin 256) (q : Nat)
  /-- AMO_PERFORM (R128). The home slice performs an AMO or RED on the word and returns the old value for an AMO. -/
  | amoPerform (c : Fin 256) (q : Nat)
  /-- COPY_COMPLETE (R196). A copy command completes, and its increment is applied in issue order to the ring's FILL. -/
  | copyComplete (c : Fin 256) (q : Nat)
  /-- DREN_INCREMENT (R199). A destination core's ring is raised by a copy's increment when its bytes complete. -/
  | drenIncrement (i : Nat)
  /-- DECODER_WATCHDOG (R405). A CPYX chunk is cut off with LENGTH when the decoder's emission or busy-cycle count passes its limit. -/
  | decoderWatchdog (c : Fin 256) (q : CutOff)
  /-- MMA_STEP_RETIRE (R221). An array step retires 32 cycles after issue and pops its claimed tiles. -/
  | mmaStepRetire (c : Fin 256)
  /-- DRAIN_COMPLETE (R231). A drain completes and raises its ring. -/
  | drainComplete (c : Fin 256) (q : Nat)
  /-- LADDER_OP_COMPLETE (R258). A ladder, merge-cell or task command completes and raises its ring. -/
  | ladderOpComplete (c : Fin 256) (q : Nat)
  /-- THERMAL_SAMPLE (R21). Every 1024 cycles all column sensors are sampled together. -/
  | thermalSample
  /-- SLICE_EXPIRY (R39). At the end of a time-slice turn, the scheduler hands the core to the longest-waiting job of equal priority. -/
  | sliceExpiry (c : Fin 256)
  /-- CORE_RESTORE (R436). A saved core's state is restored and its instruction store refilled before it resumes. -/
  | coreRestore (c : Fin 256)
  /-- GRANT_FLOOR_MET (R43). A restored core's credits reach 4096, allowing it to be pre-empted or rotated again. -/
  | grantFloorMet (c : Fin 256)
  /-- JOB_ADMIT (R36). A waiting job starts once no higher-priority job holds its named cores. -/
  | jobAdmit (j : BitVec 32)
  /-- SHADOW_SAVE (R42). Background writes of dirty register groups, pages and bank quarters to the save area. -/
  | shadowSave (c : Fin 256)
  /-- BUDGET_PERIOD (R367). Every 4096 cycles the background-class budgets are renewed. -/
  | budgetPeriod
  /-- PATROL_SCRUB_VISIT (R395). A slice's scrubber reads one sector and rewrites corrected code words. -/
  | patrolScrubVisit (u : Fin 256)
  /-- BUS_TEST (R406). In an idle bus cycle the tester drives a pattern and replaces a failing lane with a spare. -/
  | busTest (c : Fin 256) (b f : Bool)
  /-- ROLLBACK (R398). A rollback-class error makes the core rerun its contexts twice from their shadow copies and compare. -/
  | rollback (c : Fin 256)
  /-- ROLLBACK_PASS_TIMEOUT (R398). A rollback pass that does not end within 2^28 cycles ends the job with NOREPEAT. -/
  | rollbackPassTimeout (c : Fin 256)
  /-- READ (R358). A host message reads LEN bytes at ADDR and is answered by RDATA. -/
  | hostRead (m : Fin 8) (t : BitVec 16) (a : BitVec 64) (l : BitVec 32)
  /-- WRITE (R358). A host message writes data bytes at ADDR and is answered by ACK. -/
  | hostWrite (m : Fin 8) (t : BitVec 16) (a : BitVec 64) (l : BitVec 32) (x : List (BitVec 8))
  /-- RDATA (R358). Data returned by the host for a device read. -/
  | rdata (m : Fin 8) (t : BitVec 16) (x : List (BitVec 8))
  /-- ACK (R358). The host acknowledges a device write. -/
  | ack (m : Fin 8) (t : BitVec 16) (l : BitVec 32)
  /-- START (R359). The host starts a job: checks the image, copies data segments and proceeds to launch. -/
  | start (m : Fin 8) (t : BitVec 16) (j : BitVec 32) (x : List (BitVec 8))
  /-- TLBINV (R360). The host invalidates a job's translations. -/
  | tlbinv (m : Fin 8) (t : BitVec 16) (j : BitVec 32) (a : BitVec 64) (l : BitVec 32)
  /-- MREAD (R365). The host reads 8 bytes of management space. -/
  | mread (m : Fin 8) (t : BitVec 16) (a : MgmtSpan)
  /-- MWRITE (R365). The host writes 8 bytes of management space. -/
  | mwrite (m : Fin 8) (t : BitVec 16) (a : MgmtSpan) (x : BitVec 64)
  /-- ATTEST (R364). The host asks for a signed attestation report over a nonce. -/
  | attest (m : Fin 8) (t : BitVec 16) (x : List (BitVec 8))
  /-- RESERVED_HOST_TYPE (R407). A host message of TYPE 9–15 is discarded and answered with status 0x10. -/
  | reservedHostType (m : Fin 8) (t : BitVec 16) (y : Fin 7)
  /-- HOST_ANSWER_TIMEOUT (R401). A host access with no answer within 2^24 cycles is refused with LHOST status 0xFFFF. -/
  | hostAnswerTimeout (c : Fin 256) (q : Nat)
  /-- REMOTE_WRITE (R362). A Sveth flit writes data at a destination VA on this device. Of every flit: `p` the port, `z` its devices,
  `n` its sequence numbers. -/
  | remoteWrite (p : Fin 16) (z : FlitEnds) (n : FlitSeqs) (j : BitVec 32) (a : BitVec 64) (x : List (BitVec 8))
  /-- WRITE_ACKNOWLEDGEMENT (R362). A Sveth flit acknowledges a remote write. -/
  | writeAcknowledgement (p : Fin 16) (z : FlitEnds) (n : FlitSeqs) (c : Fin 256) (q : Nat) (r : BitVec 16)
  /-- FLAG (R362). A Sveth flit carries a remote flag write. -/
  | flag (p : Fin 16) (z : FlitEnds) (n : FlitSeqs) (j : BitVec 32) (a : BitVec 64) (v : BitVec 32) (o : Bool)
  /-- BARRIER_ARRIVAL (R363). A device's paragraph barrier arrival reaches device 0, which counts it. -/
  | barrierArrival (p : Fin 16) (z : FlitEnds) (n : FlitSeqs) (j b : BitVec 32)
  /-- BARRIER_RELEASE (R363). Device 0's release flit releases this device's paragraph members. -/
  | barrierRelease (p : Fin 16) (z : FlitEnds) (n : FlitSeqs) (j b : BitVec 32)
  /-- SVETH_ACK_TIMEOUT (R409). A flit unacknowledged within 4096 cycles is resent, and the port goes down after 16 resends. -/
  | svethAckTimeout (p : Fin 16)
  /-- SVETH_CRC_MISMATCH (R409). A Sveth flit arrives with a CRC-32 mismatch; the receiver reports it, and the sender resends from that SEQ, taking the port down after 16 resends. -/
  | svethCrcMismatch (p : FlitName)
  /-- UCIE_MODULE_RETRAIN_FAIL (R408). A UCIe module that fails retraining is taken out of use. -/
  | ucieModuleRetrainFail (m : Fin 8)
  /-- UCIE_RETRAINING_SUCCEEDS (R408). A UCIe module that was taken out of use retrains successfully, and the device again accepts host messages on it. -/
  | ucieRetrainingSucceeds (m : Fin 8)
  /-- POWER_ON (R368). Bring-up verifies firmware, trains links and HBM, zeroes memories and sends the attestation and health records. -/
  | powerOn (f : Bool) (m : BitVec 8) (b : Bool) (c : BitVec 256) (p : BitVec 16)
  /-- ENGINE_FAULT (R385). An access of a copy, drain, ladder, merge-cell or task command meets a fault, the command stops at once, and its ring takes the FCODE and stops applying increments. -/
  | engineFault (c : Fin 256) (q : Nat)
  /-- HALTED_ENGINE_RESULT (R135). After a context has halted, each engine result with a fixed landing cycle takes effect in 1.5 GHz cycle c_H + (L - t_H), or later when its engine finishes it later. -/
  | haltedEngineResult (k : Fin 1024)
  deriving DecidableEq, Repr

end Sys2Proof
end

