-- ==== Sys2Proof/WellFormed.lean ====
section
/-! DEFINITION. Which instructions are well formed: the limits the encodings put on operand values beyond their widths
(R59, R118, R121, R132, R148, R150, R156, R191, R233, R257, R295–R300, R323). An instruction outside them has no encoding. -/

namespace Sys2Proof

/-- The format codes a conversion may name: FP32, FP16, BF16, E4M3, E5M2, E2M1, INT32 (R121, R148). -/
def convCode (x : Fin 16) : Bool := x.val ≤ 5 || x.val = 8

/-- Width in bits of a conversion format (R149). -/
def convWidth (x : Fin 16) : Nat :=
  if x.val = 0 ∨ x.val = 8 then 32 else if x.val ≤ 2 then 16 else if x.val ≤ 4 then 8 else 4

/-- The legal immediates of FCVT (R121): `l` is L, `t` DST, `s` SRC. -/
def fcvtLegal (l : Bool) (t s : Fin 16) : Bool :=
  convCode t && convCode s && !(t.val = 8 && s.val = 8) && (!l || t.val = 8 || s.val = 8)

/-- The legal immediates of VCVT (R148): `k` is PART, `t` DST, `s` SRC. -/
def vcvtLegal (k : Fin 8) (t s : Fin 16) : Bool :=
  convCode t && convCode s && (convWidth t = 32 || convWidth s = 32) &&
    (if convWidth t = 32 && convWidth s = 32 then k.val = 0 else k.val < 32 / min (convWidth t) (convWidth s))

/-- The legal PART of VQNT and VDQ by code format (R150). -/
def partLegal (f : Fin 4) (k : Fin 8) : Bool :=
  if f.val = 0 then true else if f.val = 1 then k.val ≤ 3 else if f.val = 2 then k.val ≤ 6 else k.val ≤ 2

/-- The CSR numbers of R68. -/
def csrLegal (i : BitVec 12) : Bool :=
  let n := i.toNat
  n ≤ 8 || (0x10 ≤ n && n ≤ 0x16) || n = 0x20 || n = 0x21 || n = 0x30 || (0x40 ≤ n && n ≤ 0x4F) || (0x50 ≤ n && n ≤ 0x5F)

/-- The legal MODE and ANC of ACALLOC (R233). -/
def acallocLegal (m : Fin 4) (a : BitVec 8) : Bool :=
  m.val < 3 && -112 ≤ a.toInt && a.toInt ≤ 112 && (m.val = 2 || a = 0)

/-- Whether an instruction is one that an encoding can give: every operand inside the limits of its entry. Events have no
encoding and no limit. -/
def Instr.wf : Instr → Bool
  | .nop _ => true
  | .add _ _ _ _ _ _ => true
  | .sub _ _ _ _ _ _ => true
  | .mul _ _ _ _ _ _ => true
  | .mulhS _ _ _ _ _ _ => true
  | .mulhU _ _ _ _ _ _ => true
  | .divS _ _ _ _ _ _ => true
  | .divU _ _ _ _ _ _ => true
  | .remS _ _ _ _ _ _ => true
  | .remU _ _ _ _ _ _ => true
  | .and _ _ _ _ _ _ => true
  | .or _ _ _ _ _ _ => true
  | .xor _ _ _ _ _ _ => true
  | .andn _ _ _ _ _ _ => true
  | .shl _ _ _ _ _ _ => true
  | .shr _ _ _ _ _ _ => true
  | .sra _ _ _ _ _ _ => true
  | .rotl _ _ _ _ _ _ => true
  | .clz _ _ _ _ _ => true
  | .ctz _ _ _ _ _ => true
  | .popc _ _ _ _ _ => true
  | .minS _ _ _ _ _ _ => true
  | .minU _ _ _ _ _ _ => true
  | .maxS _ _ _ _ _ _ => true
  | .maxU _ _ _ _ _ _ => true
  | .sext _ _ _ => true
  | .zext _ _ _ => true
  | .bfxS _ _ l m => decide (l.val + m.val < 64)
  | .bfxU _ _ l m => decide (l.val + m.val < 64)
  | .bfi _ _ l m => decide (l.val + m.val < 64)
  | .sel _ _ _ _ => true
  | .pand _ _ _ _ _ => true
  | .por _ _ _ _ _ => true
  | .pxor _ _ _ _ _ => true
  | .pnot _ _ _ _ => true
  | .addi _ _ _ => true
  | .andi _ _ _ => true
  | .ori _ _ _ => true
  | .xori _ _ _ => true
  | .shli _ _ _ => true
  | .shri _ _ _ => true
  | .srai _ _ _ => true
  | .lui _ _ _ => true
  | .movi _ _ => true
  | .cmpEq _ _ _ _ _ _ => true
  | .cmpNe _ _ _ _ _ _ => true
  | .cmpLt _ _ _ _ _ _ => true
  | .cmpGe _ _ _ _ _ _ => true
  | .cmpLtu _ _ _ _ _ _ => true
  | .cmpGeu _ _ _ _ _ _ => true
  | .cmpTst _ _ _ _ _ _ => true
  | .cmpTstn _ _ _ _ _ _ => true
  | .fadd _ _ _ _ _ => true
  | .fmul _ _ _ _ _ => true
  | .ffma _ _ _ _ => true
  | .fcvt _ _ l t s => fcvtLegal l t s
  | .fcmpEq _ _ _ _ _ => true
  | .fcmpLt _ _ _ _ _ => true
  | .fcmpLe _ _ _ _ _ => true
  | .fcmpUn _ _ _ _ _ => true
  | .fminmaxMin _ _ _ _ _ => true
  | .fminmaxMax _ _ _ _ _ => true
  | .ldB _ _ _ _ => true
  | .ldH _ _ _ _ => true
  | .ldW _ _ _ _ => true
  | .ldD _ _ _ _ => true
  | .ldBz _ _ _ _ => true
  | .ldHz _ _ _ _ => true
  | .ldWz _ _ _ _ => true
  | .stB _ _ _ _ => true
  | .stH _ _ _ _ => true
  | .stW _ _ _ _ => true
  | .stD _ _ _ _ => true
  | .ldlW _ _ _ t _ => decide (t ≠ 0#16)
  | .ldlWz _ _ _ t _ => decide (t ≠ 0#16)
  | .ldlD _ _ _ t _ => decide (t ≠ 0#16)
  | .l1inv _ _ _ _ => true
  | .l1wb _ _ _ _ => true
  | .amoAdd _ _ _ _ => true
  | .amoAnd _ _ _ _ => true
  | .amoOr _ _ _ _ => true
  | .amoXor _ _ _ _ => true
  | .amoMin _ _ _ _ => true
  | .amoMax _ _ _ _ => true
  | .amoSwap _ _ _ _ => true
  | .amoCas _ _ _ _ _ => true
  | .redAdd _ _ _ _ => true
  | .redAnd _ _ _ _ => true
  | .redOr _ _ _ _ => true
  | .redMin _ _ _ _ => true
  | .redMax _ _ _ _ => true
  | .amopop _ _ _ => true
  | .spart _ _ _ => true
  | .br _ _ _ => true
  | .jmp _ _ _ => true
  | .jmpr _ _ _ => true
  | .call _ _ _ => true
  | .ret _ _ _ => true
  | .loop _ i => decide (1 ≤ i.toInt)
  | .trap _ => true
  | .eret _ _ => true
  | .halt _ _ => true
  | .yield _ _ => true
  | .csrr _ i => csrLegal i
  | .csrw _ _ i => csrLegal i
  | .csrs _ _ i => csrLegal i
  | .csrc _ _ i => csrLegal i
  | .rlandRedo _ _ => true
  | .rlandSet _ _ _ => true
  | .vadd _ _ _ _ _ _ => true
  | .vsub _ _ _ _ _ _ => true
  | .vmul _ _ _ _ _ _ => true
  | .vfma _ _ _ _ _ => true
  | .vfms _ _ _ _ _ => true
  | .vmin _ _ _ _ _ _ => true
  | .vmax _ _ _ _ _ _ => true
  | .vabs _ _ _ _ _ => true
  | .vneg _ _ _ _ _ => true
  | .vsel _ _ _ _ _ => true
  | .vand _ _ _ _ _ => true
  | .vor _ _ _ _ _ => true
  | .vxor _ _ _ _ _ => true
  | .vshl _ _ _ _ _ => true
  | .vshr _ _ _ _ _ => true
  | .vsra _ _ _ _ _ => true
  | .vexp2 _ _ _ _ => true
  | .vlog2 _ _ _ _ => true
  | .vrcp _ _ _ _ => true
  | .vrsq _ _ _ _ => true
  | .vcmpEq _ _ _ _ _ _ => true
  | .vcmpNe _ _ _ _ _ _ => true
  | .vcmpLt _ _ _ _ _ _ => true
  | .vcmpLe _ _ _ _ _ _ => true
  | .vcmpGt _ _ _ _ _ _ => true
  | .vcmpGe _ _ _ _ _ _ => true
  | .vcmpUn _ _ _ _ _ => true
  | .vcmpLtu _ _ _ _ _ => true
  | .vcmpOrd _ _ _ _ _ => true
  | .vcmpGeu _ _ _ _ _ => true
  | .vcvt _ _ k t s => vcvtLegal k t s
  | .vqnt _ _ f k _ _ _ => partLegal f k
  | .vdq _ _ f k s _ _ => decide (partLegal f k ∧ (2 ≤ f.val → s = 0))
  | .vpermb _ _ _ _ _ => true
  | .vpermw _ _ _ _ _ => true
  | .vbcast _ _ _ _ => true
  | .vextr _ _ _ => true
  | .viota _ _ _ => true
  | .vredadd _ _ _ _ _ => true
  | .vredmax _ _ _ _ _ => true
  | .vredmin _ _ _ _ _ => true
  | .vtrip d _ _ => decide (d.val ≤ 61)
  | .vld _ _ _ _ => true
  | .vst _ _ _ _ => true
  | .vlds _ _ _ _ _ => true
  | .vgath _ _ _ _ _ => true
  | .vscat _ _ _ _ _ => true
  | .vldl _ _ _ t _ => decide (t ≠ 0#16)
  | .vstg _ _ _ _ => true
  | .vlda _ _ _ _ _ => true
  | .vsta _ _ _ _ _ _ => true
  | .mand _ _ _ _ _ => true
  | .mor _ _ _ _ _ => true
  | .mnot _ _ _ _ => true
  | .mpopc _ _ _ _ => true
  | .mma _ _ _ _ _ _ _ _ => true
  | .mtile _ _ _ _ _ _ _ _ _ => true
  | .mzero _ _ => true
  | .mdrain _ _ _ _ => true
  | .mring _ _ => true
  | .acalloc _ m a => acallocLegal m a
  | .acfree _ => true
  | .acown _ _ _ => true
  | .cpset _ _ w => decide (w.val < 24)
  | .cpy _ _ _ _ _ _ _ => true
  | .cpym _ _ _ _ _ _ _ => true
  | .cpyr _ _ _ _ _ _ _ => true
  | .cpyx _ _ _ _ _ _ _ => true
  | .cpf _ _ _ _ _ _ _ => true
  | .cpwb _ _ _ _ _ _ _ => true
  | .rinit _ _ => true
  | .xexp _ _ _ _ => true
  | .xtrn _ _ _ _ => true
  | .xcvt _ _ _ _ _ => true
  | .xzvc _ _ _ _ => true
  | .xfill _ _ _ _ => true
  | .fmtw _ => true
  | .sclld _ _ => true
  | .dfrm _ _ _ => true
  | .dfrmAdd _ f _ => decide (f = 1 ∨ f = 2)
  | .fence _ s => decide (s.val ≤ 4)
  | .fencex s f t => decide (s.val ≤ 4 ∧ f ≠ 0#6 ∧ t ≠ 0#6)
  | .dsyncWord => true
  | .dsyncPhrase => true
  | .dsyncClause => true
  | .dsyncSentence => true
  | .dsyncParagraph => true
  | .fladd _ _ _ => true
  | .flset _ _ _ _ => true
  | .flwait _ _ c _ => decide (c.val ≤ 2)
  | .await _ n => decide (n.toNat ≤ 4095)
  | .release _ n => decide (n.toNat ≤ 4095)
  | .wnext _ _ t => decide (32 ≤ t.toNat)
  | .wrot _ _ => true
  | .lnew _ _ e g _ => decide (e = false → g = 0)
  | .lbind _ e g _ => decide (e = false → g = 0)
  | .lappend _ e g _ => decide (e = false → g = 0)
  | .lcarry _ e g _ => decide (e = false → g = 0)
  | .lfork _ e g _ => decide (e = false → g = 0)
  | .ltrunc _ e g _ => decide (e = false → g = 0)
  | .ldrop e g _ => decide (e = false → g = 0)
  | .lread _ _ e g _ => decide (e = false → g = 0)
  | .lwalk _ e g _ => decide (e = false → g = 0)
  | .lkeep _ e g _ => decide (e = false → g = 0)
  | .lcnt _ _ t => decide (32 ≤ t.toNat)
  | .mcinit _ _ e g => decide (e = false → g = 0)
  | .mcdep _ _ e g _ => decide (e = false → g = 0)
  | .mcget _ _ e g => decide (e = false → g = 0)
  | .tspawn _ e g => decide (e = false → g = 0)
  | .tbegin _ _ _ _ => true
  | .tcommit => true
  | .tcommitOrd => true
  | .tabort _ => true
  | .vcall _ k => decide (8 ≤ k.val)
  | .vinv _ n => decide (n.val ≤ 6)
  | .vret => true
  | .gload _ _ e g _ => decide (e = false → g = 0)
  | .vtab _ _ e g => decide (e = false → g = 0)
  | .tstat _ _ => true
  | .transformBeat _ => true
  | .domainBarrierRelease _ _ _ => true
  | .flagWriteArrives _ _ => true
  | .wnextServe _ _ => true
  | .thermalHoldTimeout _ => true
  | .holdRequest _ => true
  | .abortDelivery _ => true
  | .resultLands _ => true
  | .landingDataArrives _ _ => true
  | .quantExpiry _ => true
  | .contextPromotion _ => true
  | .deferredRefusal _ _ => true
  | .amoPerform _ _ => true
  | .copyComplete _ _ => true
  | .drenIncrement _ => true
  | .decoderWatchdog _ _ => true
  | .mmaStepRetire _ => true
  | .drainComplete _ _ => true
  | .ladderOpComplete _ _ => true
  | .thermalSample => true
  | .sliceExpiry _ => true
  | .coreRestore _ => true
  | .grantFloorMet _ => true
  | .jobAdmit _ => true
  | .shadowSave _ => true
  | .budgetPeriod => true
  | .patrolScrubVisit _ => true
  | .busTest _ _ _ => true
  | .rollback _ => true
  | .rollbackPassTimeout _ => true
  | .hostRead _ _ _ _ => true
  | .hostWrite _ _ _ _ _ => true
  | .rdata _ _ _ => true
  | .ack _ _ _ => true
  | .start _ _ _ _ => true
  | .tlbinv _ _ _ _ _ => true
  | .mread _ _ _ => true
  | .mwrite _ _ _ _ => true
  | .attest _ _ _ => true
  | .reservedHostType _ _ _ => true
  | .hostAnswerTimeout _ _ => true
  | .remoteWrite _ _ _ _ _ _ => true
  | .writeAcknowledgement _ _ _ _ _ _ => true
  | .flag _ _ _ _ _ _ _ => true
  | .barrierArrival _ _ _ _ _ => true
  | .barrierRelease _ _ _ _ _ => true
  | .svethAckTimeout _ => true
  | .svethCrcMismatch _ => true
  | .ucieModuleRetrainFail _ => true
  | .ucieRetrainingSucceeds _ => true
  | .powerOn _ _ _ _ _ => true
  | .engineFault _ _ => true
  | .haltedEngineResult _ => true

end Sys2Proof
end

