-- ==== Sys2Proof/Decode.lean ====
section
/-! DEFINITION. Decoding a bundle (R52–R59, R78): total on any words, an illegal bundle rejected by name. After it, the
encoder of one instruction as a bundle of its own, from the same tables. -/

namespace Sys2Proof

/-- Bits [lo + n − 1 : lo] of a word. -/
def fld (w lo n : Nat) : Nat := w / 2 ^ lo % 2 ^ n

/-- A register number or another field below `n`. -/
def num (n : Nat) [NeZero n] (x : Nat) : Fin n := Fin.ofNat n x

/-- The slot kinds of R78: V0 and V1 share the V map, C0 and C1 the C map. -/
inductive SlotKind where
  | s | v | m | c | x | k
  deriving DecidableEq, Repr

/-- The kind of a slot in the numbering of LSLOT (R53). -/
def slotKind (n : Nat) : SlotKind :=
  if n = 0 then .s else if n ≤ 2 then .v else if n = 3 then .m else if n ≤ 5 then .c else if n = 6 then .x else .k

/-- The syllable formats of R55; `none` marks an opcode value that R78 calls illegal. -/
inductive Format where
  | rr | ri | rrr | mem | lnd | br | engM | engC | engX | engK | none
  deriving DecidableEq, Repr

/-- The format of an S-slot opcode (R78). -/
def formatS (o : Nat) : Format :=
  if o ≤ 0x17 then .rr else if o ≤ 0x1C then .ri else if o = 0x1D then .rrr else if o ≤ 0x21 then .rr
  else if o ≤ 0x2A then .ri else if o ≤ 0x2F then .none else if o ≤ 0x37 then .rr else if o ≤ 0x3F then .none
  else if o ≤ 0x41 then .rr else if o = 0x42 then .rrr else if o = 0x43 then .ri else if o ≤ 0x49 then .rr
  else if o ≤ 0x5F then .none else if o ≤ 0x6A then .mem else if o ≤ 0x6D then .lnd else if o ≤ 0x6F then .rr
  else if o ≤ 0x7C then .rrr else if o = 0x7D then .rr else if o = 0x7E then .ri else if o = 0x7F then .none
  else if o ≤ 0x81 then .br else if o = 0x82 then .rr else if o = 0x83 then .br else if o = 0x84 then .rr
  else if o ≤ 0x86 then .ri else if o ≤ 0x89 then .rr else if o ≤ 0x9F then .none else if o ≤ 0xA3 then .ri
  else if o = 0xA4 then .rr else .none

/-- The format of a V-slot opcode (R78). -/
def formatV (o : Nat) : Format :=
  if o ≤ 0x13 then .rr else if o ≤ 0x17 then .none else if o ≤ 0x1F then .rr else if o ≤ 0x3F then .none
  else if o ≤ 0x42 then .ri else if o ≤ 0x4F then .none else if o ≤ 0x52 then .rr else if o = 0x53 then .ri
  else if o = 0x54 then .rr else if o ≤ 0x5F then .none else if o ≤ 0x62 then .rr else if o ≤ 0x67 then .none
  else if o = 0x68 then .rrr else if o ≤ 0x6F then .none else if o ≤ 0x71 then .mem else if o ≤ 0x74 then .rr
  else if o = 0x75 then .lnd else if o = 0x76 then .mem else if o ≤ 0x78 then .ri else if o ≤ 0x8F then .none
  else if o ≤ 0x93 then .rr else .none

/-- The format of an opcode in the map of its slot (R78). -/
def format (k : SlotKind) (o : Nat) : Format :=
  match k with
  | .s => formatS o
  | .v => formatV o
  | .m => if o ≤ 4 ∨ (8 ≤ o ∧ o ≤ 10) then .engM else .none
  | .c => if o ≤ 7 then .engC else .none
  | .x => if o ≤ 4 then .engX else .none
  | .k => if o ≤ 2 ∨ (0x10 ≤ o ∧ o ≤ 0x16) ∨ (0x18 ≤ o ∧ o ≤ 0x1E) ∨ (0x40 ≤ o ∧ o ≤ 0x4A) ∨ (0x50 ≤ o ∧ o ≤ 0x52) ∨
      (0x60 ≤ o ∧ o ≤ 0x6A) then .engK else .none

/-- How a syllable's immediate is carried (R58): in its own field, with the 16 lend bits, or in a 32-bit extension. -/
inductive Imm where
  | bare
  | lend (l : Nat)
  | ext (e : Nat)
  deriving DecidableEq, Repr

/-- Whether a lend may go to a syllable of this format (R54). -/
def Format.lendable : Format → Bool
  | .ri | .mem | .lnd | .br | .engK => true
  | .rr | .rrr | .engM | .engC | .engX | .none => false

/-- Whether a syllable that no lend reaches consumes an extension (R58, R59). -/
def Format.consumes (f : Format) (w : Nat) : Bool :=
  match f with
  | .ri => w % 4096 = 0x800
  | .mem => fld w 4 8 = 0x80
  | .lnd => true
  | .rr | .rrr | .br | .engM | .engC | .engX | .engK | .none => false

/-- The RI immediate of R58, as 32 bits signed. -/
def riImm (w : Nat) : Imm → BitVec 32
  | .bare => (BitVec.ofNat 12 w).signExtend 32
  | .lend l => (BitVec.ofNat 28 (l * 4096 + w % 4096)).signExtend 32
  | .ext e => BitVec.ofNat 32 e

/-- The immediate of VLDA and VSTA (R162), whose bits [31:12] are 0: an extension or a lend carries only 0x800. -/
def rowImm (w : Nat) : Imm → Option Nat
  | .bare => some (w % 4096)
  | .lend l => if l = 0 ∧ w % 4096 = 0x800 then some 0x800 else none
  | .ext e => if e = 0x800 then some 0x800 else none

/-- The view row of VQNT and VDQ (R150), signed 20 bits. -/
def viewRow (w : Nat) : Imm → BitVec 20
  | .bare => 0
  | .lend l => (BitVec.ofNat 16 l).signExtend 20
  | .ext e => BitVec.ofNat 20 (e / 4096)

/-- The low 12 bits of the immediate of R58, for entries that read fields of it: the bit fields of R118. DESIGN CHOICE (see the log):
R118 limits I[11:0] only, and bits I[31:12] of a lend or an extension are ignored. -/
def riLow (w : Nat) : Imm → Nat
  | .bare => w % 4096
  | .lend _ => w % 4096
  | .ext e => e % 4096

/-- The MEM offset of R58, in units of the access size. -/
def memOff (w : Nat) : Imm → BitVec 32
  | .bare => (BitVec.ofNat 8 (fld w 4 8)).signExtend 32
  | .lend l => (BitVec.ofNat 24 (l * 256 + fld w 4 8)).signExtend 32
  | .ext e => BitVec.ofNat 32 e

/-- The landing distance of R59. -/
def lndDist : Imm → BitVec 16
  | .bare => 0
  | .lend l => BitVec.ofNat 16 l
  | .ext e => BitVec.ofNat 16 e

/-- The LND offset of R59, in units of the access size, 24 bits signed. -/
def lndOff (w : Nat) : Imm → BitVec 24
  | .bare => (BitVec.ofNat 8 (fld w 4 8)).signExtend 24
  | .lend _ => (BitVec.ofNat 8 (fld w 4 8)).signExtend 24
  | .ext e => BitVec.ofNat 24 (e / 65536 * 256 + fld w 4 8)

/-- The displacement of BR and CALL (R58): two's complement. -/
def brDisp (w : Nat) : Imm → BitVec 35
  | .lend l => BitVec.ofNat 35 (l * 524288 + w % 524288)
  | .bare => (BitVec.ofNat 19 w).signExtend 35
  | .ext _ => 0

/-- The target of JMP (R58, R131): unsigned. -/
def jmpDisp (w : Nat) : Imm → BitVec 35
  | .lend l => BitVec.ofNat 35 (l * 524288 + w % 524288)
  | .bare => BitVec.ofNat 35 (w % 524288)
  | .ext _ => 0

/-- The K immediate of R58, 22 bits unsigned. -/
def kImm (w : Nat) : Imm → BitVec 22
  | .lend l => BitVec.ofNat 22 (l * 64 + w % 64)
  | .bare => BitVec.ofNat 22 (w % 64)
  | .ext _ => 0

/-- An instruction when the fields that its entry leaves unused are 0 (R78) and it is well formed. -/
def legal (zero : Bool) (i : Instr) : Option Instr := if zero && i.wf then some i else none

/-- The S-slot syllable `w`, its immediate carried as `x` (R78 and the entries it names). DESIGN CHOICE (see the log): of the immediate of
`BFX.S`, `BFX.U` and `BFI` only the 12 bits that `riLow` takes count. -/
def decodeS (w : Nat) (x : Imm) : Option Instr :=
  match w / 16777216 with
  | 0x00 => legal (true) (.add (num 64 (fld w 18 6)) (num 64 (fld w 12 6)) (num 64 (fld w 6 6)) (num 16 (fld w 2 4)) (fld w 1 1 == 1) (fld w 0 1 == 1))
  | 0x01 => legal (true) (.sub (num 64 (fld w 18 6)) (num 64 (fld w 12 6)) (num 64 (fld w 6 6)) (num 16 (fld w 2 4)) (fld w 1 1 == 1) (fld w 0 1 == 1))
  | 0x02 => legal (true) (.mul (num 64 (fld w 18 6)) (num 64 (fld w 12 6)) (num 64 (fld w 6 6)) (num 16 (fld w 2 4)) (fld w 1 1 == 1) (fld w 0 1 == 1))
  | 0x03 => legal (true) (.mulhS (num 64 (fld w 18 6)) (num 64 (fld w 12 6)) (num 64 (fld w 6 6)) (num 16 (fld w 2 4)) (fld w 1 1 == 1) (fld w 0 1 == 1))
  | 0x04 => legal (true) (.mulhU (num 64 (fld w 18 6)) (num 64 (fld w 12 6)) (num 64 (fld w 6 6)) (num 16 (fld w 2 4)) (fld w 1 1 == 1) (fld w 0 1 == 1))
  | 0x05 => legal (true) (.divS (num 64 (fld w 18 6)) (num 64 (fld w 12 6)) (num 64 (fld w 6 6)) (num 16 (fld w 2 4)) (fld w 1 1 == 1) (fld w 0 1 == 1))
  | 0x06 => legal (true) (.divU (num 64 (fld w 18 6)) (num 64 (fld w 12 6)) (num 64 (fld w 6 6)) (num 16 (fld w 2 4)) (fld w 1 1 == 1) (fld w 0 1 == 1))
  | 0x07 => legal (true) (.remS (num 64 (fld w 18 6)) (num 64 (fld w 12 6)) (num 64 (fld w 6 6)) (num 16 (fld w 2 4)) (fld w 1 1 == 1) (fld w 0 1 == 1))
  | 0x08 => legal (true) (.remU (num 64 (fld w 18 6)) (num 64 (fld w 12 6)) (num 64 (fld w 6 6)) (num 16 (fld w 2 4)) (fld w 1 1 == 1) (fld w 0 1 == 1))
  | 0x09 => legal (true) (.and (num 64 (fld w 18 6)) (num 64 (fld w 12 6)) (num 64 (fld w 6 6)) (num 16 (fld w 2 4)) (fld w 1 1 == 1) (fld w 0 1 == 1))
  | 0x0A => legal (true) (.or (num 64 (fld w 18 6)) (num 64 (fld w 12 6)) (num 64 (fld w 6 6)) (num 16 (fld w 2 4)) (fld w 1 1 == 1) (fld w 0 1 == 1))
  | 0x0B => legal (true) (.xor (num 64 (fld w 18 6)) (num 64 (fld w 12 6)) (num 64 (fld w 6 6)) (num 16 (fld w 2 4)) (fld w 1 1 == 1) (fld w 0 1 == 1))
  | 0x0C => legal (true) (.andn (num 64 (fld w 18 6)) (num 64 (fld w 12 6)) (num 64 (fld w 6 6)) (num 16 (fld w 2 4)) (fld w 1 1 == 1) (fld w 0 1 == 1))
  | 0x0D => legal (true) (.shl (num 64 (fld w 18 6)) (num 64 (fld w 12 6)) (num 64 (fld w 6 6)) (num 16 (fld w 2 4)) (fld w 1 1 == 1) (fld w 0 1 == 1))
  | 0x0E => legal (true) (.shr (num 64 (fld w 18 6)) (num 64 (fld w 12 6)) (num 64 (fld w 6 6)) (num 16 (fld w 2 4)) (fld w 1 1 == 1) (fld w 0 1 == 1))
  | 0x0F => legal (true) (.sra (num 64 (fld w 18 6)) (num 64 (fld w 12 6)) (num 64 (fld w 6 6)) (num 16 (fld w 2 4)) (fld w 1 1 == 1) (fld w 0 1 == 1))
  | 0x10 => legal (true) (.rotl (num 64 (fld w 18 6)) (num 64 (fld w 12 6)) (num 64 (fld w 6 6)) (num 16 (fld w 2 4)) (fld w 1 1 == 1) (fld w 0 1 == 1))
  | 0x11 => legal (fld w 6 6 == 0) (.clz (num 64 (fld w 18 6)) (num 64 (fld w 12 6)) (num 16 (fld w 2 4)) (fld w 1 1 == 1) (fld w 0 1 == 1))
  | 0x12 => legal (fld w 6 6 == 0) (.ctz (num 64 (fld w 18 6)) (num 64 (fld w 12 6)) (num 16 (fld w 2 4)) (fld w 1 1 == 1) (fld w 0 1 == 1))
  | 0x13 => legal (fld w 6 6 == 0) (.popc (num 64 (fld w 18 6)) (num 64 (fld w 12 6)) (num 16 (fld w 2 4)) (fld w 1 1 == 1) (fld w 0 1 == 1))
  | 0x14 => legal (true) (.minS (num 64 (fld w 18 6)) (num 64 (fld w 12 6)) (num 64 (fld w 6 6)) (num 16 (fld w 2 4)) (fld w 1 1 == 1) (fld w 0 1 == 1))
  | 0x15 => legal (true) (.minU (num 64 (fld w 18 6)) (num 64 (fld w 12 6)) (num 64 (fld w 6 6)) (num 16 (fld w 2 4)) (fld w 1 1 == 1) (fld w 0 1 == 1))
  | 0x16 => legal (true) (.maxS (num 64 (fld w 18 6)) (num 64 (fld w 12 6)) (num 64 (fld w 6 6)) (num 16 (fld w 2 4)) (fld w 1 1 == 1) (fld w 0 1 == 1))
  | 0x17 => legal (true) (.maxU (num 64 (fld w 18 6)) (num 64 (fld w 12 6)) (num 64 (fld w 6 6)) (num 16 (fld w 2 4)) (fld w 1 1 == 1) (fld w 0 1 == 1))
  | 0x18 => legal (decide ((riImm w x).toNat < 64)) (.sext (num 64 (fld w 18 6)) (num 64 (fld w 12 6)) (num 64 (riImm w x).toNat))
  | 0x19 => legal (decide ((riImm w x).toNat < 64)) (.zext (num 64 (fld w 18 6)) (num 64 (fld w 12 6)) (num 64 (riImm w x).toNat))
  | 0x1A => legal (true) (.bfxS (num 64 (fld w 18 6)) (num 64 (fld w 12 6)) (num 64 (fld (riLow w x) 0 6)) (num 64 (fld (riLow w x) 6 6)))
  | 0x1B => legal (true) (.bfxU (num 64 (fld w 18 6)) (num 64 (fld w 12 6)) (num 64 (fld (riLow w x) 0 6)) (num 64 (fld (riLow w x) 6 6)))
  | 0x1C => legal (true) (.bfi (num 64 (fld w 18 6)) (num 64 (fld w 12 6)) (num 64 (fld (riLow w x) 0 6)) (num 64 (fld (riLow w x) 6 6)))
  | 0x1D => legal (fld w 4 2 == 0) (.sel (num 64 (fld w 18 6)) (num 64 (fld w 12 6)) (num 64 (fld w 6 6)) (num 16 (fld w 0 4)))
  | 0x1E => legal (fld w 0 1 == 0 && fld w 10 2 == 0 && fld w 16 2 == 0 && fld w 22 2 == 0) (.pand (num 16 (fld w 18 4)) (num 16 (fld w 12 4)) (num 16 (fld w 6 4)) (num 16 (fld w 2 4)) (fld w 1 1 == 1))
  | 0x1F => legal (fld w 0 1 == 0 && fld w 10 2 == 0 && fld w 16 2 == 0 && fld w 22 2 == 0) (.por (num 16 (fld w 18 4)) (num 16 (fld w 12 4)) (num 16 (fld w 6 4)) (num 16 (fld w 2 4)) (fld w 1 1 == 1))
  | 0x20 => legal (fld w 0 1 == 0 && fld w 10 2 == 0 && fld w 16 2 == 0 && fld w 22 2 == 0) (.pxor (num 16 (fld w 18 4)) (num 16 (fld w 12 4)) (num 16 (fld w 6 4)) (num 16 (fld w 2 4)) (fld w 1 1 == 1))
  | 0x21 => legal (fld w 0 1 == 0 && fld w 6 6 == 0 && fld w 16 2 == 0 && fld w 22 2 == 0) (.pnot (num 16 (fld w 18 4)) (num 16 (fld w 12 4)) (num 16 (fld w 2 4)) (fld w 1 1 == 1))
  | 0x22 => legal (true) (.addi (num 64 (fld w 18 6)) (num 64 (fld w 12 6)) (riImm w x))
  | 0x23 => legal (true) (.andi (num 64 (fld w 18 6)) (num 64 (fld w 12 6)) (riImm w x))
  | 0x24 => legal (true) (.ori (num 64 (fld w 18 6)) (num 64 (fld w 12 6)) (riImm w x))
  | 0x25 => legal (true) (.xori (num 64 (fld w 18 6)) (num 64 (fld w 12 6)) (riImm w x))
  | 0x26 => legal (decide ((riImm w x).toNat < 64)) (.shli (num 64 (fld w 18 6)) (num 64 (fld w 12 6)) (num 64 (riImm w x).toNat))
  | 0x27 => legal (decide ((riImm w x).toNat < 64)) (.shri (num 64 (fld w 18 6)) (num 64 (fld w 12 6)) (num 64 (riImm w x).toNat))
  | 0x28 => legal (decide ((riImm w x).toNat < 64)) (.srai (num 64 (fld w 18 6)) (num 64 (fld w 12 6)) (num 64 (riImm w x).toNat))
  | 0x29 => legal (true) (.lui (num 64 (fld w 18 6)) (num 64 (fld w 12 6)) (riImm w x))
  | 0x2A => legal (fld w 12 6 == 0) (.movi (num 64 (fld w 18 6)) (riImm w x))
  | 0x30 => legal (fld w 22 2 == 0) (.cmpEq (num 16 (fld w 18 4)) (num 64 (fld w 12 6)) (num 64 (fld w 6 6)) (num 16 (fld w 2 4)) (fld w 1 1 == 1) (fld w 0 1 == 1))
  | 0x31 => legal (fld w 22 2 == 0) (.cmpNe (num 16 (fld w 18 4)) (num 64 (fld w 12 6)) (num 64 (fld w 6 6)) (num 16 (fld w 2 4)) (fld w 1 1 == 1) (fld w 0 1 == 1))
  | 0x32 => legal (fld w 22 2 == 0) (.cmpLt (num 16 (fld w 18 4)) (num 64 (fld w 12 6)) (num 64 (fld w 6 6)) (num 16 (fld w 2 4)) (fld w 1 1 == 1) (fld w 0 1 == 1))
  | 0x33 => legal (fld w 22 2 == 0) (.cmpGe (num 16 (fld w 18 4)) (num 64 (fld w 12 6)) (num 64 (fld w 6 6)) (num 16 (fld w 2 4)) (fld w 1 1 == 1) (fld w 0 1 == 1))
  | 0x34 => legal (fld w 22 2 == 0) (.cmpLtu (num 16 (fld w 18 4)) (num 64 (fld w 12 6)) (num 64 (fld w 6 6)) (num 16 (fld w 2 4)) (fld w 1 1 == 1) (fld w 0 1 == 1))
  | 0x35 => legal (fld w 22 2 == 0) (.cmpGeu (num 16 (fld w 18 4)) (num 64 (fld w 12 6)) (num 64 (fld w 6 6)) (num 16 (fld w 2 4)) (fld w 1 1 == 1) (fld w 0 1 == 1))
  | 0x36 => legal (fld w 22 2 == 0) (.cmpTst (num 16 (fld w 18 4)) (num 64 (fld w 12 6)) (num 64 (fld w 6 6)) (num 16 (fld w 2 4)) (fld w 1 1 == 1) (fld w 0 1 == 1))
  | 0x37 => legal (fld w 22 2 == 0) (.cmpTstn (num 16 (fld w 18 4)) (num 64 (fld w 12 6)) (num 64 (fld w 6 6)) (num 16 (fld w 2 4)) (fld w 1 1 == 1) (fld w 0 1 == 1))
  | 0x40 => legal (fld w 0 1 == 0) (.fadd (num 64 (fld w 18 6)) (num 64 (fld w 12 6)) (num 64 (fld w 6 6)) (num 16 (fld w 2 4)) (fld w 1 1 == 1))
  | 0x41 => legal (fld w 0 1 == 0) (.fmul (num 64 (fld w 18 6)) (num 64 (fld w 12 6)) (num 64 (fld w 6 6)) (num 16 (fld w 2 4)) (fld w 1 1 == 1))
  | 0x42 => legal (true) (.ffma (num 64 (fld w 18 6)) (num 64 (fld w 12 6)) (num 64 (fld w 6 6)) (num 64 (fld w 0 6)))
  | 0x43 => legal (decide ((riImm w x).toNat < 512)) (.fcvt (num 64 (fld w 18 6)) (num 64 (fld w 12 6)) (fld (riLow w x) 8 1 == 1) (num 16 (fld (riLow w x) 4 4)) (num 16 (fld (riLow w x) 0 4)))
  | 0x44 => legal (fld w 0 1 == 0 && fld w 22 2 == 0) (.fcmpEq (num 16 (fld w 18 4)) (num 64 (fld w 12 6)) (num 64 (fld w 6 6)) (num 16 (fld w 2 4)) (fld w 1 1 == 1))
  | 0x45 => legal (fld w 0 1 == 0 && fld w 22 2 == 0) (.fcmpLt (num 16 (fld w 18 4)) (num 64 (fld w 12 6)) (num 64 (fld w 6 6)) (num 16 (fld w 2 4)) (fld w 1 1 == 1))
  | 0x46 => legal (fld w 0 1 == 0 && fld w 22 2 == 0) (.fcmpLe (num 16 (fld w 18 4)) (num 64 (fld w 12 6)) (num 64 (fld w 6 6)) (num 16 (fld w 2 4)) (fld w 1 1 == 1))
  | 0x47 => legal (fld w 0 1 == 0 && fld w 22 2 == 0) (.fcmpUn (num 16 (fld w 18 4)) (num 64 (fld w 12 6)) (num 64 (fld w 6 6)) (num 16 (fld w 2 4)) (fld w 1 1 == 1))
  | 0x48 => legal (fld w 0 1 == 0) (.fminmaxMin (num 64 (fld w 18 6)) (num 64 (fld w 12 6)) (num 64 (fld w 6 6)) (num 16 (fld w 2 4)) (fld w 1 1 == 1))
  | 0x49 => legal (fld w 0 1 == 0) (.fminmaxMax (num 64 (fld w 18 6)) (num 64 (fld w 12 6)) (num 64 (fld w 6 6)) (num 16 (fld w 2 4)) (fld w 1 1 == 1))
  | 0x60 => legal (true) (.ldB (num 64 (fld w 18 6)) (num 64 (fld w 12 6)) (memOff w x) (num 16 (fld w 0 4)))
  | 0x61 => legal (true) (.ldH (num 64 (fld w 18 6)) (num 64 (fld w 12 6)) (memOff w x) (num 16 (fld w 0 4)))
  | 0x62 => legal (true) (.ldW (num 64 (fld w 18 6)) (num 64 (fld w 12 6)) (memOff w x) (num 16 (fld w 0 4)))
  | 0x63 => legal (true) (.ldD (num 64 (fld w 18 6)) (num 64 (fld w 12 6)) (memOff w x) (num 16 (fld w 0 4)))
  | 0x64 => legal (true) (.ldBz (num 64 (fld w 18 6)) (num 64 (fld w 12 6)) (memOff w x) (num 16 (fld w 0 4)))
  | 0x65 => legal (true) (.ldHz (num 64 (fld w 18 6)) (num 64 (fld w 12 6)) (memOff w x) (num 16 (fld w 0 4)))
  | 0x66 => legal (true) (.ldWz (num 64 (fld w 18 6)) (num 64 (fld w 12 6)) (memOff w x) (num 16 (fld w 0 4)))
  | 0x67 => legal (true) (.stB (num 64 (fld w 18 6)) (num 64 (fld w 12 6)) (memOff w x) (num 16 (fld w 0 4)))
  | 0x68 => legal (true) (.stH (num 64 (fld w 18 6)) (num 64 (fld w 12 6)) (memOff w x) (num 16 (fld w 0 4)))
  | 0x69 => legal (true) (.stW (num 64 (fld w 18 6)) (num 64 (fld w 12 6)) (memOff w x) (num 16 (fld w 0 4)))
  | 0x6A => legal (true) (.stD (num 64 (fld w 18 6)) (num 64 (fld w 12 6)) (memOff w x) (num 16 (fld w 0 4)))
  | 0x6B => legal (true) (.ldlW (num 64 (fld w 18 6)) (num 64 (fld w 12 6)) (lndOff w x) (lndDist x) (num 16 (fld w 0 4)))
  | 0x6C => legal (true) (.ldlWz (num 64 (fld w 18 6)) (num 64 (fld w 12 6)) (lndOff w x) (lndDist x) (num 16 (fld w 0 4)))
  | 0x6D => legal (true) (.ldlD (num 64 (fld w 18 6)) (num 64 (fld w 12 6)) (lndOff w x) (lndDist x) (num 16 (fld w 0 4)))
  | 0x6E => legal (fld w 0 1 == 0 && fld w 18 6 == 0) (.l1inv (num 64 (fld w 12 6)) (num 64 (fld w 6 6)) (num 16 (fld w 2 4)) (fld w 1 1 == 1))
  | 0x6F => legal (fld w 0 1 == 0 && fld w 18 6 == 0) (.l1wb (num 64 (fld w 12 6)) (num 64 (fld w 6 6)) (num 16 (fld w 2 4)) (fld w 1 1 == 1))
  | 0x70 => legal (fld w 23 1 == 0 && fld w 0 6 == 0) (.amoAdd (fld w 22 1 == 1) (num 16 (fld w 18 4)) (num 64 (fld w 12 6)) (num 64 (fld w 6 6)))
  | 0x71 => legal (fld w 23 1 == 0 && fld w 0 6 == 0) (.amoAnd (fld w 22 1 == 1) (num 16 (fld w 18 4)) (num 64 (fld w 12 6)) (num 64 (fld w 6 6)))
  | 0x72 => legal (fld w 23 1 == 0 && fld w 0 6 == 0) (.amoOr (fld w 22 1 == 1) (num 16 (fld w 18 4)) (num 64 (fld w 12 6)) (num 64 (fld w 6 6)))
  | 0x73 => legal (fld w 23 1 == 0 && fld w 0 6 == 0) (.amoXor (fld w 22 1 == 1) (num 16 (fld w 18 4)) (num 64 (fld w 12 6)) (num 64 (fld w 6 6)))
  | 0x74 => legal (fld w 23 1 == 0 && fld w 0 6 == 0) (.amoMin (fld w 22 1 == 1) (num 16 (fld w 18 4)) (num 64 (fld w 12 6)) (num 64 (fld w 6 6)))
  | 0x75 => legal (fld w 23 1 == 0 && fld w 0 6 == 0) (.amoMax (fld w 22 1 == 1) (num 16 (fld w 18 4)) (num 64 (fld w 12 6)) (num 64 (fld w 6 6)))
  | 0x76 => legal (fld w 23 1 == 0 && fld w 0 6 == 0) (.amoSwap (fld w 22 1 == 1) (num 16 (fld w 18 4)) (num 64 (fld w 12 6)) (num 64 (fld w 6 6)))
  | 0x77 => legal (fld w 23 1 == 0) (.amoCas (fld w 22 1 == 1) (num 16 (fld w 18 4)) (num 64 (fld w 12 6)) (num 64 (fld w 6 6)) (num 64 (fld w 0 6)))
  | 0x78 => legal (fld w 23 1 == 0 && fld w 0 6 == 0) (.redAdd (fld w 22 1 == 1) (num 16 (fld w 18 4)) (num 64 (fld w 12 6)) (num 64 (fld w 6 6)))
  | 0x79 => legal (fld w 23 1 == 0 && fld w 0 6 == 0) (.redAnd (fld w 22 1 == 1) (num 16 (fld w 18 4)) (num 64 (fld w 12 6)) (num 64 (fld w 6 6)))
  | 0x7A => legal (fld w 23 1 == 0 && fld w 0 6 == 0) (.redOr (fld w 22 1 == 1) (num 16 (fld w 18 4)) (num 64 (fld w 12 6)) (num 64 (fld w 6 6)))
  | 0x7B => legal (fld w 23 1 == 0 && fld w 0 6 == 0) (.redMin (fld w 22 1 == 1) (num 16 (fld w 18 4)) (num 64 (fld w 12 6)) (num 64 (fld w 6 6)))
  | 0x7C => legal (fld w 23 1 == 0 && fld w 0 6 == 0) (.redMax (fld w 22 1 == 1) (num 16 (fld w 18 4)) (num 64 (fld w 12 6)) (num 64 (fld w 6 6)))
  | 0x7D => legal (fld w 0 1 == 0 && fld w 6 12 == 0) (.amopop (num 64 (fld w 18 6)) (num 16 (fld w 2 4)) (fld w 1 1 == 1))
  | 0x7E => legal (decide ((riImm w x).toNat < 17)) (.spart (num 64 (fld w 18 6)) (num 64 (fld w 12 6)) (num 17 (riImm w x).toNat))
  | 0x80 => legal (true) (.br (num 16 (fld w 20 4)) (fld w 19 1 == 1) (brDisp w x))
  | 0x81 => legal (true) (.jmp (num 16 (fld w 20 4)) (fld w 19 1 == 1) (jmpDisp w x))
  | 0x82 => legal (fld w 0 1 == 0 && fld w 6 6 == 0 && fld w 18 6 == 0) (.jmpr (num 64 (fld w 12 6)) (num 16 (fld w 2 4)) (fld w 1 1 == 1))
  | 0x83 => legal (true) (.call (num 16 (fld w 20 4)) (fld w 19 1 == 1) (brDisp w x))
  | 0x84 => legal (fld w 0 1 == 0 && fld w 6 6 == 0 && fld w 18 6 == 0) (.ret (num 64 (fld w 12 6)) (num 16 (fld w 2 4)) (fld w 1 1 == 1))
  | 0x85 => legal (fld w 18 6 == 0) (.loop (num 64 (fld w 12 6)) (riImm w x))
  | 0x86 => legal (fld w 12 12 == 0 && decide ((riImm w x).toNat < 65536)) (.trap (BitVec.ofNat 16 (riImm w x).toNat))
  | 0x87 => legal (fld w 0 1 == 0 && fld w 6 18 == 0) (.eret (num 16 (fld w 2 4)) (fld w 1 1 == 1))
  | 0x88 => legal (fld w 0 1 == 0 && fld w 6 18 == 0) (.halt (num 16 (fld w 2 4)) (fld w 1 1 == 1))
  | 0x89 => legal (fld w 0 1 == 0 && fld w 6 18 == 0) (.yield (num 16 (fld w 2 4)) (fld w 1 1 == 1))
  | 0xA0 => legal (fld w 12 6 == 0 && decide ((riImm w x).toNat < 4096)) (.csrr (num 64 (fld w 18 6)) (BitVec.ofNat 12 (riImm w x).toNat))
  | 0xA1 => legal (decide ((riImm w x).toNat < 4096)) (.csrw (num 64 (fld w 18 6)) (num 64 (fld w 12 6)) (BitVec.ofNat 12 (riImm w x).toNat))
  | 0xA2 => legal (decide ((riImm w x).toNat < 4096)) (.csrs (num 64 (fld w 18 6)) (num 64 (fld w 12 6)) (BitVec.ofNat 12 (riImm w x).toNat))
  | 0xA3 => legal (decide ((riImm w x).toNat < 4096)) (.csrc (num 64 (fld w 18 6)) (num 64 (fld w 12 6)) (BitVec.ofNat 12 (riImm w x).toNat))
  | 0xA4 => (legal (fld w 0 1 == 0 && fld w 6 18 == 0) (.rlandRedo (num 16 (fld w 2 4)) (fld w 1 1 == 1))) <|> (legal (fld w 0 1 == 0 && fld w 18 6 == 0 && fld w 6 6 == 1) (.rlandSet (num 64 (fld w 12 6)) (num 16 (fld w 2 4)) (fld w 1 1 == 1)))
  | _ => none

/-- The V-slot syllable `w`, its immediate carried as `x` (R78 and the entries it names). -/
def decodeV (w : Nat) (x : Imm) : Option Instr :=
  match w / 16777216 with
  | 0x00 => legal (true) (.vadd (num 64 (fld w 18 6)) (num 64 (fld w 12 6)) (num 64 (fld w 6 6)) (num 16 (fld w 2 4)) (fld w 1 1 == 1) (fld w 0 1 == 1))
  | 0x01 => legal (true) (.vsub (num 64 (fld w 18 6)) (num 64 (fld w 12 6)) (num 64 (fld w 6 6)) (num 16 (fld w 2 4)) (fld w 1 1 == 1) (fld w 0 1 == 1))
  | 0x02 => legal (true) (.vmul (num 64 (fld w 18 6)) (num 64 (fld w 12 6)) (num 64 (fld w 6 6)) (num 16 (fld w 2 4)) (fld w 1 1 == 1) (fld w 0 1 == 1))
  | 0x03 => legal (fld w 0 1 == 0) (.vfma (num 64 (fld w 18 6)) (num 64 (fld w 12 6)) (num 64 (fld w 6 6)) (num 16 (fld w 2 4)) (fld w 1 1 == 1))
  | 0x04 => legal (fld w 0 1 == 0) (.vfms (num 64 (fld w 18 6)) (num 64 (fld w 12 6)) (num 64 (fld w 6 6)) (num 16 (fld w 2 4)) (fld w 1 1 == 1))
  | 0x05 => legal (true) (.vmin (num 64 (fld w 18 6)) (num 64 (fld w 12 6)) (num 64 (fld w 6 6)) (num 16 (fld w 2 4)) (fld w 1 1 == 1) (fld w 0 1 == 1))
  | 0x06 => legal (true) (.vmax (num 64 (fld w 18 6)) (num 64 (fld w 12 6)) (num 64 (fld w 6 6)) (num 16 (fld w 2 4)) (fld w 1 1 == 1) (fld w 0 1 == 1))
  | 0x07 => legal (fld w 6 6 == 0) (.vabs (num 64 (fld w 18 6)) (num 64 (fld w 12 6)) (num 16 (fld w 2 4)) (fld w 1 1 == 1) (fld w 0 1 == 1))
  | 0x08 => legal (fld w 6 6 == 0) (.vneg (num 64 (fld w 18 6)) (num 64 (fld w 12 6)) (num 16 (fld w 2 4)) (fld w 1 1 == 1) (fld w 0 1 == 1))
  | 0x09 => legal (fld w 0 1 == 0) (.vsel (num 64 (fld w 18 6)) (num 64 (fld w 12 6)) (num 64 (fld w 6 6)) (num 16 (fld w 2 4)) (fld w 1 1 == 1))
  | 0x0A => legal (fld w 0 1 == 0) (.vand (num 64 (fld w 18 6)) (num 64 (fld w 12 6)) (num 64 (fld w 6 6)) (num 16 (fld w 2 4)) (fld w 1 1 == 1))
  | 0x0B => legal (fld w 0 1 == 0) (.vor (num 64 (fld w 18 6)) (num 64 (fld w 12 6)) (num 64 (fld w 6 6)) (num 16 (fld w 2 4)) (fld w 1 1 == 1))
  | 0x0C => legal (fld w 0 1 == 0) (.vxor (num 64 (fld w 18 6)) (num 64 (fld w 12 6)) (num 64 (fld w 6 6)) (num 16 (fld w 2 4)) (fld w 1 1 == 1))
  | 0x0D => legal (fld w 0 1 == 0) (.vshl (num 64 (fld w 18 6)) (num 64 (fld w 12 6)) (num 64 (fld w 6 6)) (num 16 (fld w 2 4)) (fld w 1 1 == 1))
  | 0x0E => legal (fld w 0 1 == 0) (.vshr (num 64 (fld w 18 6)) (num 64 (fld w 12 6)) (num 64 (fld w 6 6)) (num 16 (fld w 2 4)) (fld w 1 1 == 1))
  | 0x0F => legal (fld w 0 1 == 0) (.vsra (num 64 (fld w 18 6)) (num 64 (fld w 12 6)) (num 64 (fld w 6 6)) (num 16 (fld w 2 4)) (fld w 1 1 == 1))
  | 0x10 => legal (fld w 0 1 == 0 && fld w 6 6 == 0) (.vexp2 (num 64 (fld w 18 6)) (num 64 (fld w 12 6)) (num 16 (fld w 2 4)) (fld w 1 1 == 1))
  | 0x11 => legal (fld w 0 1 == 0 && fld w 6 6 == 0) (.vlog2 (num 64 (fld w 18 6)) (num 64 (fld w 12 6)) (num 16 (fld w 2 4)) (fld w 1 1 == 1))
  | 0x12 => legal (fld w 0 1 == 0 && fld w 6 6 == 0) (.vrcp (num 64 (fld w 18 6)) (num 64 (fld w 12 6)) (num 16 (fld w 2 4)) (fld w 1 1 == 1))
  | 0x13 => legal (fld w 0 1 == 0 && fld w 6 6 == 0) (.vrsq (num 64 (fld w 18 6)) (num 64 (fld w 12 6)) (num 16 (fld w 2 4)) (fld w 1 1 == 1))
  | 0x18 => legal (fld w 22 2 == 0) (.vcmpEq (num 16 (fld w 18 4)) (num 64 (fld w 12 6)) (num 64 (fld w 6 6)) (num 16 (fld w 2 4)) (fld w 1 1 == 1) (fld w 0 1 == 1))
  | 0x19 => legal (fld w 22 2 == 0) (.vcmpNe (num 16 (fld w 18 4)) (num 64 (fld w 12 6)) (num 64 (fld w 6 6)) (num 16 (fld w 2 4)) (fld w 1 1 == 1) (fld w 0 1 == 1))
  | 0x1A => legal (fld w 22 2 == 0) (.vcmpLt (num 16 (fld w 18 4)) (num 64 (fld w 12 6)) (num 64 (fld w 6 6)) (num 16 (fld w 2 4)) (fld w 1 1 == 1) (fld w 0 1 == 1))
  | 0x1B => legal (fld w 22 2 == 0) (.vcmpLe (num 16 (fld w 18 4)) (num 64 (fld w 12 6)) (num 64 (fld w 6 6)) (num 16 (fld w 2 4)) (fld w 1 1 == 1) (fld w 0 1 == 1))
  | 0x1C => legal (fld w 22 2 == 0) (.vcmpGt (num 16 (fld w 18 4)) (num 64 (fld w 12 6)) (num 64 (fld w 6 6)) (num 16 (fld w 2 4)) (fld w 1 1 == 1) (fld w 0 1 == 1))
  | 0x1D => legal (fld w 22 2 == 0) (.vcmpGe (num 16 (fld w 18 4)) (num 64 (fld w 12 6)) (num 64 (fld w 6 6)) (num 16 (fld w 2 4)) (fld w 1 1 == 1) (fld w 0 1 == 1))
  | 0x1E => (legal (fld w 22 2 == 0 && fld w 0 1 == 0) (.vcmpUn (num 16 (fld w 18 4)) (num 64 (fld w 12 6)) (num 64 (fld w 6 6)) (num 16 (fld w 2 4)) (fld w 1 1 == 1))) <|> (legal (fld w 22 2 == 0 && fld w 0 1 == 1) (.vcmpLtu (num 16 (fld w 18 4)) (num 64 (fld w 12 6)) (num 64 (fld w 6 6)) (num 16 (fld w 2 4)) (fld w 1 1 == 1)))
  | 0x1F => (legal (fld w 22 2 == 0 && fld w 0 1 == 0) (.vcmpOrd (num 16 (fld w 18 4)) (num 64 (fld w 12 6)) (num 64 (fld w 6 6)) (num 16 (fld w 2 4)) (fld w 1 1 == 1))) <|> (legal (fld w 22 2 == 0 && fld w 0 1 == 1) (.vcmpGeu (num 16 (fld w 18 4)) (num 64 (fld w 12 6)) (num 64 (fld w 6 6)) (num 16 (fld w 2 4)) (fld w 1 1 == 1)))
  | 0x40 => legal (decide ((riImm w x).toNat < 2048)) (.vcvt (num 64 (fld w 18 6)) (num 64 (fld w 12 6)) (num 8 (fld (riLow w x) 8 3)) (num 16 (fld (riLow w x) 4 4)) (num 16 (fld (riLow w x) 0 4)))
  | 0x41 => legal (true) (.vqnt (num 64 (fld w 18 6)) (num 64 (fld w 12 6)) (num 4 (fld (riLow w x) 10 2)) (num 8 (fld (riLow w x) 7 3)) (num 16 (fld (riLow w x) 3 4)) (num 8 (fld (riLow w x) 0 3)) (viewRow w x))
  | 0x42 => legal (true) (.vdq (num 64 (fld w 18 6)) (num 64 (fld w 12 6)) (num 4 (fld (riLow w x) 10 2)) (num 8 (fld (riLow w x) 7 3)) (num 16 (fld (riLow w x) 3 4)) (num 8 (fld (riLow w x) 0 3)) (viewRow w x))
  | 0x50 => legal (fld w 0 1 == 0) (.vpermb (num 64 (fld w 18 6)) (num 64 (fld w 12 6)) (num 64 (fld w 6 6)) (num 16 (fld w 2 4)) (fld w 1 1 == 1))
  | 0x51 => legal (fld w 0 1 == 0) (.vpermw (num 64 (fld w 18 6)) (num 64 (fld w 12 6)) (num 64 (fld w 6 6)) (num 16 (fld w 2 4)) (fld w 1 1 == 1))
  | 0x52 => legal (fld w 0 1 == 0 && fld w 6 6 == 0) (.vbcast (num 64 (fld w 18 6)) (num 64 (fld w 12 6)) (num 16 (fld w 2 4)) (fld w 1 1 == 1))
  | 0x53 => legal (decide ((riImm w x).toNat < 64)) (.vextr (num 64 (fld w 18 6)) (num 64 (fld w 12 6)) (num 64 (riImm w x).toNat))
  | 0x54 => legal (fld w 0 1 == 0 && fld w 6 12 == 0) (.viota (num 64 (fld w 18 6)) (num 16 (fld w 2 4)) (fld w 1 1 == 1))
  | 0x60 => legal (fld w 6 6 == 0) (.vredadd (num 64 (fld w 18 6)) (num 64 (fld w 12 6)) (num 16 (fld w 2 4)) (fld w 1 1 == 1) (fld w 0 1 == 1))
  | 0x61 => legal (fld w 6 6 == 0) (.vredmax (num 64 (fld w 18 6)) (num 64 (fld w 12 6)) (num 16 (fld w 2 4)) (fld w 1 1 == 1) (fld w 0 1 == 1))
  | 0x62 => legal (fld w 6 6 == 0) (.vredmin (num 64 (fld w 18 6)) (num 64 (fld w 12 6)) (num 16 (fld w 2 4)) (fld w 1 1 == 1) (fld w 0 1 == 1))
  | 0x68 => legal (fld w 0 6 == 0) (.vtrip (num 64 (fld w 18 6)) (num 64 (fld w 12 6)) (num 64 (fld w 6 6)))
  | 0x70 => legal (true) (.vld (num 64 (fld w 18 6)) (num 64 (fld w 12 6)) (memOff w x) (num 16 (fld w 0 4)))
  | 0x71 => legal (true) (.vst (num 64 (fld w 18 6)) (num 64 (fld w 12 6)) (memOff w x) (num 16 (fld w 0 4)))
  | 0x72 => legal (fld w 0 1 == 0) (.vlds (num 64 (fld w 18 6)) (num 64 (fld w 12 6)) (num 64 (fld w 6 6)) (num 16 (fld w 2 4)) (fld w 1 1 == 1))
  | 0x73 => legal (fld w 0 1 == 0) (.vgath (num 64 (fld w 18 6)) (num 64 (fld w 12 6)) (num 64 (fld w 6 6)) (num 16 (fld w 2 4)) (fld w 1 1 == 1))
  | 0x74 => legal (fld w 0 1 == 0) (.vscat (num 64 (fld w 18 6)) (num 64 (fld w 12 6)) (num 64 (fld w 6 6)) (num 16 (fld w 2 4)) (fld w 1 1 == 1))
  | 0x75 => legal (true) (.vldl (num 64 (fld w 18 6)) (num 64 (fld w 12 6)) (lndOff w x) (lndDist x) (num 16 (fld w 0 4)))
  | 0x76 => legal (true) (.vstg (num 64 (fld w 18 6)) (num 64 (fld w 12 6)) (memOff w x) (num 16 (fld w 0 4)))
  | 0x77 => (rowImm w x).bind fun r => legal (decide (r < 2048)) (.vlda (num 64 (fld w 18 6)) (num 64 (fld w 12 6)) (fld r 10 1 == 1) (num 128 (fld r 3 7)) (num 8 (fld r 0 3)))
  | 0x78 => (rowImm w x).bind fun r => legal (true) (.vsta (num 64 (fld w 18 6)) (num 64 (fld w 12 6)) (fld r 11 1 == 1) (fld r 10 1 == 1) (num 128 (fld r 3 7)) (num 8 (fld r 0 3)))
  | 0x90 => legal (fld w 0 1 == 0 && fld w 10 2 == 0 && fld w 16 2 == 0 && fld w 22 2 == 0) (.mand (num 16 (fld w 18 4)) (num 16 (fld w 12 4)) (num 16 (fld w 6 4)) (num 16 (fld w 2 4)) (fld w 1 1 == 1))
  | 0x91 => legal (fld w 0 1 == 0 && fld w 10 2 == 0 && fld w 16 2 == 0 && fld w 22 2 == 0) (.mor (num 16 (fld w 18 4)) (num 16 (fld w 12 4)) (num 16 (fld w 6 4)) (num 16 (fld w 2 4)) (fld w 1 1 == 1))
  | 0x92 => legal (fld w 0 1 == 0 && fld w 6 6 == 0 && fld w 16 2 == 0 && fld w 22 2 == 0) (.mnot (num 16 (fld w 18 4)) (num 16 (fld w 12 4)) (num 16 (fld w 2 4)) (fld w 1 1 == 1))
  | 0x93 => legal (fld w 0 1 == 0 && fld w 6 6 == 0 && fld w 16 2 == 0) (.mpopc (num 64 (fld w 18 6)) (num 16 (fld w 12 4)) (num 16 (fld w 2 4)) (fld w 1 1 == 1))
  | _ => none

/-- The M-slot syllable `w` (R78 and the entries it names). -/
def decodeM (w : Nat) : Option Instr :=
  match w / 16777216 with
  | 0x00 => legal (fld w 9 6 == 0) (.mma (num 8 (fld w 21 3)) (num 8 (fld w 18 3)) (num 8 (fld w 15 3)) (fld w 8 1 == 1) (num 8 (fld w 5 3)) (num 8 (fld w 2 3)) (fld w 1 1 == 1) (fld w 0 1 == 1))
  | 0x01 => legal (true) (.mtile (num 8 (fld w 21 3)) (num 8 (fld w 18 3)) (num 8 (fld w 15 3)) (num 64 (fld w 9 6)) (fld w 8 1 == 1) (num 8 (fld w 5 3)) (num 8 (fld w 2 3)) (fld w 1 1 == 1) (fld w 0 1 == 1))
  | 0x02 => legal (fld w 0 7 == 0 && fld w 15 6 == 0) (.mzero (num 8 (fld w 21 3)) (BitVec.ofNat 8 (fld w 7 8)))
  | 0x03 => legal (fld w 0 2 == 0 && fld w 15 6 == 0) (.mdrain (num 8 (fld w 21 3)) (num 64 (fld w 9 6)) (num 64 (fld w 3 6)) (fld w 2 1 == 1))
  | 0x04 => legal (fld w 0 9 == 0 && fld w 15 3 == 0 && fld w 21 3 == 0) (.mring (num 8 (fld w 18 3)) (num 64 (fld w 9 6)))
  | 0x08 => legal (fld w 0 5 == 0 && fld w 15 6 == 0) (.acalloc (num 8 (fld w 21 3)) (num 4 (fld w 13 2)) (BitVec.ofNat 8 (fld w 5 8)))
  | 0x09 => legal (fld w 0 21 == 0) (.acfree (num 8 (fld w 21 3)))
  | 0x0A => legal (fld w 0 5 == 0 && fld w 15 6 == 0) (.acown (num 8 (fld w 21 3)) (BitVec.ofNat 8 (fld w 7 8)) (num 4 (fld w 5 2)))
  | _ => none

/-- The C-slot syllable `w` (R78 and the entries it names). -/
def decodeC (w : Nat) : Option Instr :=
  match w / 16777216 with
  | 0x00 => legal (fld w 12 9 == 0) (.cpset (num 8 (fld w 21 3)) (num 64 (fld w 6 6)) (num 64 (fld w 0 6)))
  | 0x01 => some (.cpy (num 8 (fld w 21 3)) (num 8 (fld w 18 3)) (BitVec.ofNat 6 (fld w 12 6)) (fld w 11 1 == 1) (num 8 (fld w 8 3)) (num 16 (fld w 4 4)) (num 16 (fld w 0 4)))
  | 0x02 => some (.cpym (num 8 (fld w 21 3)) (num 8 (fld w 18 3)) (BitVec.ofNat 6 (fld w 12 6)) (fld w 11 1 == 1) (num 8 (fld w 8 3)) (num 16 (fld w 4 4)) (num 16 (fld w 0 4)))
  | 0x03 => some (.cpyr (num 8 (fld w 21 3)) (num 8 (fld w 18 3)) (BitVec.ofNat 6 (fld w 12 6)) (fld w 11 1 == 1) (num 8 (fld w 8 3)) (num 16 (fld w 4 4)) (num 16 (fld w 0 4)))
  | 0x04 => some (.cpyx (num 8 (fld w 21 3)) (num 8 (fld w 18 3)) (BitVec.ofNat 6 (fld w 12 6)) (fld w 11 1 == 1) (num 8 (fld w 8 3)) (num 16 (fld w 4 4)) (num 16 (fld w 0 4)))
  | 0x05 => some (.cpf (num 8 (fld w 21 3)) (num 8 (fld w 18 3)) (BitVec.ofNat 6 (fld w 12 6)) (fld w 11 1 == 1) (num 8 (fld w 8 3)) (num 16 (fld w 4 4)) (num 16 (fld w 0 4)))
  | 0x06 => some (.cpwb (num 8 (fld w 21 3)) (num 8 (fld w 18 3)) (BitVec.ofNat 6 (fld w 12 6)) (fld w 11 1 == 1) (num 8 (fld w 8 3)) (num 16 (fld w 4 4)) (num 16 (fld w 0 4)))
  | 0x07 => legal (fld w 12 6 == 0 && fld w 21 3 == 0) (.rinit (num 8 (fld w 18 3)) (BitVec.ofNat 12 (fld w 0 12)))
  | _ => none

/-- The X-slot syllable `w` (R78 and the entries it names). -/
def decodeX (w : Nat) : Option Instr :=
  match w / 16777216 with
  | 0x00 => some (.xexp (num 64 (fld w 18 6)) (num 64 (fld w 12 6)) (num 64 (fld w 6 6)) (num 64 (fld w 0 6)))
  | 0x01 => some (.xtrn (num 64 (fld w 18 6)) (num 64 (fld w 12 6)) (num 64 (fld w 6 6)) (num 64 (fld w 0 6)))
  | 0x02 => legal (true) (.xcvt (num 64 (fld w 18 6)) (num 64 (fld w 12 6)) (num 64 (fld w 6 6)) (num 8 (fld w 3 3)) (num 8 (fld w 0 3)))
  | 0x03 => legal (true) (.xzvc (num 64 (fld w 18 6)) (num 64 (fld w 12 6)) (num 64 (fld w 6 6)) (num 64 (fld w 0 6)))
  | 0x04 => some (.xfill (num 64 (fld w 18 6)) (num 64 (fld w 12 6)) (num 64 (fld w 6 6)) (num 64 (fld w 0 6)))
  | _ => none

/-- The K-slot syllable `w`, its immediate carried as `x` (R78 and the entries it names). -/
def decodeK (w : Nat) (x : Imm) : Option Instr :=
  match w / 16777216 with
  | 0x00 => if x = .bare then legal (fld w 0 12 == 0 && fld w 18 6 == 0) (.fmtw (num 64 (fld w 12 6))) else none
  | 0x01 => if x = .bare then legal (fld w 4 8 == 0 && fld w 18 6 == 0) (.sclld (num 64 (fld w 12 6)) (num 16 (fld w 0 4))) else none
  | 0x02 => (if x = .bare then legal (fld w 5 7 == 0 && fld w 18 6 == 0) (.dfrm (num 64 (fld w 12 6)) (num 4 (fld w 3 2)) (num 8 (fld w 0 3))) else none) <|> (if x = .bare then legal (fld w 6 6 == 0 && fld w 18 6 == 0 && fld w 5 1 == 1) (.dfrmAdd (num 64 (fld w 12 6)) (num 4 (fld w 3 2)) (num 8 (fld w 0 3))) else none)
  | 0x10 => if x = .bare then legal (fld w 0 4 == 0 && fld w 7 1 == 0) (.fence (BitVec.ofNat 16 (fld w 8 16)) (num 8 (fld w 4 3))) else none
  | 0x11 => if x = .bare then legal (fld w 12 6 == 0 && fld w 21 3 == 0) (.fencex (num 8 (fld w 18 3)) (BitVec.ofNat 6 (fld w 6 6)) (BitVec.ofNat 6 (fld w 0 6))) else none
  | 0x12 => if x = .bare then legal (fld w 0 24 == 0) (.dsyncWord) else none
  | 0x13 => if x = .bare then legal (fld w 0 24 == 0) (.dsyncPhrase) else none
  | 0x14 => if x = .bare then legal (fld w 0 24 == 0) (.dsyncClause) else none
  | 0x15 => if x = .bare then legal (fld w 0 24 == 0) (.dsyncSentence) else none
  | 0x16 => if x = .bare then legal (fld w 0 24 == 0) (.dsyncParagraph) else none
  | 0x18 => if x = .bare then legal (fld w 18 6 == 0) (.fladd (num 64 (fld w 12 6)) (num 64 (fld w 6 6)) (num 64 (fld w 0 6))) else none
  | 0x19 => if x = .bare then legal (true) (.flset (num 64 (fld w 18 6)) (num 64 (fld w 12 6)) (num 64 (fld w 6 6)) (num 64 (fld w 0 6))) else none
  | 0x1A => if x = .bare then legal (fld w 8 4 == 0) (.flwait (num 64 (fld w 18 6)) (num 64 (fld w 12 6)) (num 4 (fld w 6 2)) (num 64 (fld w 0 6))) else none
  | 0x1B => legal (fld w 9 15 == 0) (.await (num 8 (fld w 6 3)) (kImm w x))
  | 0x1C => legal (fld w 9 15 == 0) (.release (num 8 (fld w 6 3)) (kImm w x))
  | 0x1D => match x with
    | .lend l => legal (fld w 6 12 == 0 && fld w 21 3 == 0 && fld w 4 2 == 0) (.wnext (num 8 (fld w 18 3)) (num 16 (fld w 0 4)) (BitVec.ofNat 16 l))
    | .bare => none
    | .ext _ => none
  | 0x1E => if x = .bare then legal (fld w 3 15 == 0) (.wrot (num 64 (fld w 18 6)) (num 8 (fld w 0 3))) else none
  | 0x40 => if x = .bare then legal (fld w 4 2 == 0 && fld w 9 2 == 0) (.lnew (num 64 (fld w 18 6)) (num 64 (fld w 12 6)) (fld w 11 1 == 1) (num 8 (fld w 6 3)) (num 16 (fld w 0 4))) else none
  | 0x41 => if x = .bare then legal (fld w 4 2 == 0 && fld w 9 2 == 0 && fld w 18 6 == 0) (.lbind (num 64 (fld w 12 6)) (fld w 11 1 == 1) (num 8 (fld w 6 3)) (num 16 (fld w 0 4))) else none
  | 0x42 => if x = .bare then legal (fld w 4 2 == 0 && fld w 9 2 == 0 && fld w 18 6 == 0) (.lappend (num 64 (fld w 12 6)) (fld w 11 1 == 1) (num 8 (fld w 6 3)) (num 16 (fld w 0 4))) else none
  | 0x43 => if x = .bare then legal (fld w 4 2 == 0 && fld w 9 2 == 0 && fld w 18 6 == 0) (.lcarry (num 64 (fld w 12 6)) (fld w 11 1 == 1) (num 8 (fld w 6 3)) (num 16 (fld w 0 4))) else none
  | 0x44 => if x = .bare then legal (fld w 4 2 == 0 && fld w 9 2 == 0 && fld w 16 8 == 0) (.lfork (num 16 (fld w 12 4)) (fld w 11 1 == 1) (num 8 (fld w 6 3)) (num 16 (fld w 0 4))) else none
  | 0x45 => if x = .bare then legal (fld w 4 2 == 0 && fld w 9 2 == 0 && fld w 18 6 == 0) (.ltrunc (num 64 (fld w 12 6)) (fld w 11 1 == 1) (num 8 (fld w 6 3)) (num 16 (fld w 0 4))) else none
  | 0x46 => if x = .bare then legal (fld w 4 2 == 0 && fld w 9 2 == 0 && fld w 12 12 == 0) (.ldrop (fld w 11 1 == 1) (num 8 (fld w 6 3)) (num 16 (fld w 0 4))) else none
  | 0x47 => if x = .bare then legal (fld w 4 2 == 0 && fld w 9 2 == 0) (.lread (num 64 (fld w 18 6)) (num 64 (fld w 12 6)) (fld w 11 1 == 1) (num 8 (fld w 6 3)) (num 16 (fld w 0 4))) else none
  | 0x48 => if x = .bare then legal (fld w 4 2 == 0 && fld w 9 2 == 0 && fld w 18 6 == 0) (.lwalk (num 64 (fld w 12 6)) (fld w 11 1 == 1) (num 8 (fld w 6 3)) (num 16 (fld w 0 4))) else none
  | 0x49 => if x = .bare then legal (fld w 4 2 == 0 && fld w 9 2 == 0 && fld w 18 6 == 0) (.lkeep (num 64 (fld w 12 6)) (fld w 11 1 == 1) (num 8 (fld w 6 3)) (num 16 (fld w 0 4))) else none
  | 0x4A => match x with
    | .lend l => legal (fld w 6 12 == 0 && fld w 4 2 == 0) (.lcnt (num 64 (fld w 18 6)) (num 16 (fld w 0 4)) (BitVec.ofNat 16 l))
    | .bare => none
    | .ext _ => none
  | 0x50 => if x = .bare then legal (fld w 0 6 == 0 && fld w 9 2 == 0) (.mcinit (num 64 (fld w 18 6)) (num 64 (fld w 12 6)) (fld w 11 1 == 1) (num 8 (fld w 6 3))) else none
  | 0x51 => if x = .bare then legal (fld w 9 2 == 0) (.mcdep (num 64 (fld w 18 6)) (num 64 (fld w 12 6)) (fld w 11 1 == 1) (num 8 (fld w 6 3)) (num 64 (fld w 0 6))) else none
  | 0x52 => if x = .bare then legal (fld w 0 6 == 0 && fld w 9 2 == 0) (.mcget (num 64 (fld w 18 6)) (num 64 (fld w 12 6)) (fld w 11 1 == 1) (num 8 (fld w 6 3))) else none
  | 0x60 => if x = .bare then legal (fld w 0 6 == 0 && fld w 9 2 == 0 && fld w 18 6 == 0) (.tspawn (num 64 (fld w 12 6)) (fld w 11 1 == 1) (num 8 (fld w 6 3))) else none
  | 0x61 => if x = .bare then legal (fld w 1 5 == 0) (.tbegin (num 64 (fld w 18 6)) (num 64 (fld w 12 6)) (num 64 (fld w 6 6)) (fld w 0 1 == 1)) else none
  | 0x62 => if x = .bare then legal (fld w 0 24 == 0) (.tcommit) else none
  | 0x63 => if x = .bare then legal (fld w 0 24 == 0) (.tcommitOrd) else none
  | 0x64 => if x = .bare then legal (fld w 6 18 == 0) (.tabort (num 64 (fld w 0 6))) else none
  | 0x65 => if x = .bare then legal (fld w 6 6 == 0 && fld w 18 6 == 0) (.vcall (num 64 (fld w 12 6)) (num 64 (fld w 0 6))) else none
  | 0x66 => if x = .bare then legal (fld w 6 6 == 0 && fld w 18 6 == 0) (.vinv (num 64 (fld w 12 6)) (num 64 (fld w 0 6))) else none
  | 0x67 => if x = .bare then legal (fld w 0 24 == 0) (.vret) else none
  | 0x68 => if x = .bare then legal (fld w 9 2 == 0) (.gload (num 64 (fld w 18 6)) (num 64 (fld w 12 6)) (fld w 11 1 == 1) (num 8 (fld w 6 3)) (num 64 (fld w 0 6))) else none
  | 0x69 => if x = .bare then legal (fld w 0 6 == 0 && fld w 9 2 == 0) (.vtab (num 64 (fld w 18 6)) (num 64 (fld w 12 6)) (fld w 11 1 == 1) (num 8 (fld w 6 3))) else none
  | 0x6A => if x = .bare then legal (fld w 2 16 == 0) (.tstat (num 64 (fld w 18 6)) (num 4 (fld w 0 2))) else none
  | _ => none

/-- A syllable in the slot of its kind. -/
def decodeSyllable (k : SlotKind) (w : Nat) (x : Imm) : Option Instr :=
  match k with
  | .s => decodeS w x
  | .v => decodeV w x
  | .m => decodeM w
  | .c => decodeC w
  | .x => decodeX w
  | .k => decodeK w x

/-! ### Bundles -/

/-- A decoded bundle: its CAIRN bit, its length in syllables, and its slot operations in slot order. -/
structure Bundle where
  cairn : Bool
  len : Nat
  ops : List (Fin 8 × Instr)
  deriving DecidableEq, Repr

/-- Why a bundle is illegal (R54, R78): its header, or the syllable of a slot. -/
inductive Reject where
  | header
  | slot (n : Fin 8) (w : Nat)
  deriving DecidableEq, Repr

/-- The slots of a header's MASK, in slot order (R52, R53): slot n is bit 31 − n. -/
def maskSlots (h : Nat) : List (Fin 8) := (List.finRange 8).filter fun n => fld h (31 - n.val) 1 == 1

/-- The lend that a header gives to slot `n` (R53). -/
def lendTo (h : Nat) (n : Fin 8) : Option Nat :=
  if fld h 20 1 = 1 ∧ fld h 17 3 = n.val then some (fld h 0 16) else none

/-- Gives each syllable its immediate: the header's lend, or the next extension in slot order (R58). Answers the syllables
with their immediates, and the extensions left over; `none` when the extensions run out. -/
def takeImms (h : Nat) : List (Fin 8) → List Nat → List Nat → Option (List (Fin 8 × Nat × Imm) × List Nat)
  | [], _, es => some ([], es)
  | _ :: _, [], _ => none
  | n :: ns, w :: ws, es =>
    match lendTo h n with
    | some l => (takeImms h ns ws es).map fun r => ((n, w, .lend l) :: r.1, r.2)
    | none =>
      if (format (slotKind n.val) (w / 16777216)).consumes w then
        match es with
        | [] => none
        | e :: es' => (takeImms h ns ws es').map fun r => ((n, w, .ext e) :: r.1, r.2)
      else (takeImms h ns ws es).map fun r => ((n, w, .bare) :: r.1, r.2)

/-- Decodes the syllables in slot order; the first illegal one rejects the bundle (R375). -/
def decodeOps : List (Fin 8 × Nat × Imm) → Except Reject (List (Fin 8 × Instr))
  | [] => .ok []
  | (n, w, x) :: r =>
    match decodeSyllable (slotKind n.val) w x with
    | none => .error (.slot n w)
    | some i => match decodeOps r with
      | .error e => .error e
      | .ok l => .ok ((n, i) :: l)

/-- Whether the lend of a header is legal (R54): none with its bits 0, or one to a slot present whose format takes it. -/
def lendLegal (h : Nat) (slots : List (Fin 8)) (ws : List Nat) : Bool :=
  if fld h 20 1 = 0 then fld h 17 3 == 0 && fld h 0 16 == 0
  else (slots.zip ws).any fun q =>
    q.1.val == fld h 17 3 && (format (slotKind q.1.val) (q.2 / 16777216)).lendable

/-- The number of syllables of the bundle that a header begins (R52). -/
def bundleLen (h : Nat) : Nat := 1 + (maskSlots h).length + fld h 22 2

/-- Decodes the bundle at the start of `ws`, the syllables from its header to the end of the code section (R54). An empty
bundle is NOP. -/
def decodeBundle (ws : List Nat) : Except Reject Bundle :=
  match ws with
  | [] => .error .header
  | h :: r =>
    let slots := maskSlots h
    let n := slots.length
    if r.length < n + fld h 22 2 ∨ fld h 16 1 ≠ 0 ∨ ¬ lendLegal h slots (r.take n) then .error .header
    else match takeImms h slots (r.take n) ((r.drop n).take (fld h 22 2)) with
      | none => .error .header
      | some (q, left) =>
        if left ≠ [] then .error .header
        else match decodeOps q with
          | .error e => .error e
          | .ok ops =>
            .ok ⟨fld h 21 1 == 1, bundleLen h, if ops = [] then [(0, .nop (fld h 21 1 == 1))] else ops⟩

/-! ### Encoding -/

/-- An instruction as a syllable: the slot it is put in (V0 and C0 for the shared maps), the syllable, the immediate. -/
structure Encoded where
  slot : Fin 8
  word : Nat
  imm : Imm
  deriving DecidableEq, Repr

/-- 1 for a set bit. -/
def bit (b : Bool) : Nat := if b then 1 else 0

/-- An RI syllable with immediate `i` (R58, R339): in its field when it fits and is not the sentinel, else an extension. -/
def encRI (s : Fin 8) (w : Nat) (i : BitVec 32) : Encoded :=
  if -2048 < i.toInt ∧ i.toInt < 2048 then ⟨s, w + i.toNat % 4096, .bare⟩ else ⟨s, w + 0x800, .ext i.toNat⟩

/-- An RI syllable whose entry reads the low 12 bits `n` of the immediate only: the sentinel goes to an extension. -/
def encLow (s : Fin 8) (w n : Nat) : Encoded :=
  if n = 0x800 then ⟨s, w + 0x800, .ext 0x800⟩ else ⟨s, w + n, .bare⟩

/-- VQNT and VDQ (R150): row 0 in the field when it is not the sentinel, else an extension with the row in [31:12]. -/
def encRow (s : Fin 8) (w n : Nat) (v : BitVec 20) : Encoded :=
  if v = 0#20 ∧ n ≠ 0x800 then ⟨s, w + n, .bare⟩ else ⟨s, w + 0x800, .ext (v.toNat * 4096 + n)⟩

/-- A MEM syllable (R58). -/
def encMem (s : Fin 8) (w : Nat) (o : BitVec 32) : Encoded :=
  if -128 < o.toInt ∧ o.toInt < 128 then ⟨s, w + o.toNat % 256 * 16, .bare⟩ else ⟨s, w + 0x80 * 16, .ext o.toNat⟩

/-- A LND syllable (R59), always with an extension. -/
def encLnd (s : Fin 8) (w : Nat) (o : BitVec 24) (t : BitVec 16) : Encoded :=
  ⟨s, w + o.toNat % 256 * 16, .ext (o.toNat / 256 * 65536 + t.toNat)⟩

/-- A BR or CALL syllable (R58). -/
def encBr (w : Nat) (o : BitVec 35) : Encoded :=
  if -262144 ≤ o.toInt ∧ o.toInt < 262144 then ⟨0, w + o.toNat % 524288, .bare⟩
  else ⟨0, w + o.toNat % 524288, .lend (o.toNat / 524288)⟩

/-- A JMP syllable (R58). -/
def encJmp (w : Nat) (o : BitVec 35) : Encoded :=
  if o.toNat < 524288 then ⟨0, w + o.toNat, .bare⟩ else ⟨0, w + o.toNat % 524288, .lend (o.toNat / 524288)⟩

/-- A K syllable with a 22-bit immediate (R58). -/
def encK (w : Nat) (n : BitVec 22) : Encoded :=
  if n.toNat < 64 then ⟨7, w + n.toNat, .bare⟩ else ⟨7, w + n.toNat % 64, .lend (n.toNat / 64)⟩

/-- The syllable of a slot operation, from the encoding of its entry; `none` for NOP and for events. -/
def encodeSyllable : Instr → Option Encoded
  | .nop _ => none
  | .add d a b p n w => some (⟨0, 0x0 + d.val * 262144 + a.val * 4096 + b.val * 64 + p.val * 4 + bit n * 2 + bit w, .bare⟩)
  | .sub d a b p n w => some (⟨0, 0x1000000 + d.val * 262144 + a.val * 4096 + b.val * 64 + p.val * 4 + bit n * 2 + bit w, .bare⟩)
  | .mul d a b p n w => some (⟨0, 0x2000000 + d.val * 262144 + a.val * 4096 + b.val * 64 + p.val * 4 + bit n * 2 + bit w, .bare⟩)
  | .mulhS d a b p n w => some (⟨0, 0x3000000 + d.val * 262144 + a.val * 4096 + b.val * 64 + p.val * 4 + bit n * 2 + bit w, .bare⟩)
  | .mulhU d a b p n w => some (⟨0, 0x4000000 + d.val * 262144 + a.val * 4096 + b.val * 64 + p.val * 4 + bit n * 2 + bit w, .bare⟩)
  | .divS d a b p n w => some (⟨0, 0x5000000 + d.val * 262144 + a.val * 4096 + b.val * 64 + p.val * 4 + bit n * 2 + bit w, .bare⟩)
  | .divU d a b p n w => some (⟨0, 0x6000000 + d.val * 262144 + a.val * 4096 + b.val * 64 + p.val * 4 + bit n * 2 + bit w, .bare⟩)
  | .remS d a b p n w => some (⟨0, 0x7000000 + d.val * 262144 + a.val * 4096 + b.val * 64 + p.val * 4 + bit n * 2 + bit w, .bare⟩)
  | .remU d a b p n w => some (⟨0, 0x8000000 + d.val * 262144 + a.val * 4096 + b.val * 64 + p.val * 4 + bit n * 2 + bit w, .bare⟩)
  | .and d a b p n w => some (⟨0, 0x9000000 + d.val * 262144 + a.val * 4096 + b.val * 64 + p.val * 4 + bit n * 2 + bit w, .bare⟩)
  | .or d a b p n w => some (⟨0, 0xa000000 + d.val * 262144 + a.val * 4096 + b.val * 64 + p.val * 4 + bit n * 2 + bit w, .bare⟩)
  | .xor d a b p n w => some (⟨0, 0xb000000 + d.val * 262144 + a.val * 4096 + b.val * 64 + p.val * 4 + bit n * 2 + bit w, .bare⟩)
  | .andn d a b p n w => some (⟨0, 0xc000000 + d.val * 262144 + a.val * 4096 + b.val * 64 + p.val * 4 + bit n * 2 + bit w, .bare⟩)
  | .shl d a b p n w => some (⟨0, 0xd000000 + d.val * 262144 + a.val * 4096 + b.val * 64 + p.val * 4 + bit n * 2 + bit w, .bare⟩)
  | .shr d a b p n w => some (⟨0, 0xe000000 + d.val * 262144 + a.val * 4096 + b.val * 64 + p.val * 4 + bit n * 2 + bit w, .bare⟩)
  | .sra d a b p n w => some (⟨0, 0xf000000 + d.val * 262144 + a.val * 4096 + b.val * 64 + p.val * 4 + bit n * 2 + bit w, .bare⟩)
  | .rotl d a b p n w => some (⟨0, 0x10000000 + d.val * 262144 + a.val * 4096 + b.val * 64 + p.val * 4 + bit n * 2 + bit w, .bare⟩)
  | .clz d a p n w => some (⟨0, 0x11000000 + d.val * 262144 + a.val * 4096 + p.val * 4 + bit n * 2 + bit w, .bare⟩)
  | .ctz d a p n w => some (⟨0, 0x12000000 + d.val * 262144 + a.val * 4096 + p.val * 4 + bit n * 2 + bit w, .bare⟩)
  | .popc d a p n w => some (⟨0, 0x13000000 + d.val * 262144 + a.val * 4096 + p.val * 4 + bit n * 2 + bit w, .bare⟩)
  | .minS d a b p n w => some (⟨0, 0x14000000 + d.val * 262144 + a.val * 4096 + b.val * 64 + p.val * 4 + bit n * 2 + bit w, .bare⟩)
  | .minU d a b p n w => some (⟨0, 0x15000000 + d.val * 262144 + a.val * 4096 + b.val * 64 + p.val * 4 + bit n * 2 + bit w, .bare⟩)
  | .maxS d a b p n w => some (⟨0, 0x16000000 + d.val * 262144 + a.val * 4096 + b.val * 64 + p.val * 4 + bit n * 2 + bit w, .bare⟩)
  | .maxU d a b p n w => some (⟨0, 0x17000000 + d.val * 262144 + a.val * 4096 + b.val * 64 + p.val * 4 + bit n * 2 + bit w, .bare⟩)
  | .sext d a i => some (⟨0, 0x18000000 + d.val * 262144 + a.val * 4096 + i.val, .bare⟩)
  | .zext d a i => some (⟨0, 0x19000000 + d.val * 262144 + a.val * 4096 + i.val, .bare⟩)
  | .bfxS d a l m => some (encLow 0 (0x1a000000 + d.val * 262144 + a.val * 4096) (l.val + m.val * 64))
  | .bfxU d a l m => some (encLow 0 (0x1b000000 + d.val * 262144 + a.val * 4096) (l.val + m.val * 64))
  | .bfi d a l m => some (encLow 0 (0x1c000000 + d.val * 262144 + a.val * 4096) (l.val + m.val * 64))
  | .sel d a b c => some (⟨0, 0x1d000000 + d.val * 262144 + a.val * 4096 + b.val * 64 + c.val, .bare⟩)
  | .pand d a b p n => some (⟨0, 0x1e000000 + d.val * 262144 + a.val * 4096 + b.val * 64 + p.val * 4 + bit n * 2, .bare⟩)
  | .por d a b p n => some (⟨0, 0x1f000000 + d.val * 262144 + a.val * 4096 + b.val * 64 + p.val * 4 + bit n * 2, .bare⟩)
  | .pxor d a b p n => some (⟨0, 0x20000000 + d.val * 262144 + a.val * 4096 + b.val * 64 + p.val * 4 + bit n * 2, .bare⟩)
  | .pnot d a p n => some (⟨0, 0x21000000 + d.val * 262144 + a.val * 4096 + p.val * 4 + bit n * 2, .bare⟩)
  | .addi d a i => some (encRI 0 (0x22000000 + d.val * 262144 + a.val * 4096) i)
  | .andi d a i => some (encRI 0 (0x23000000 + d.val * 262144 + a.val * 4096) i)
  | .ori d a i => some (encRI 0 (0x24000000 + d.val * 262144 + a.val * 4096) i)
  | .xori d a i => some (encRI 0 (0x25000000 + d.val * 262144 + a.val * 4096) i)
  | .shli d a i => some (⟨0, 0x26000000 + d.val * 262144 + a.val * 4096 + i.val, .bare⟩)
  | .shri d a i => some (⟨0, 0x27000000 + d.val * 262144 + a.val * 4096 + i.val, .bare⟩)
  | .srai d a i => some (⟨0, 0x28000000 + d.val * 262144 + a.val * 4096 + i.val, .bare⟩)
  | .lui d a i => some (encRI 0 (0x29000000 + d.val * 262144 + a.val * 4096) i)
  | .movi d i => some (encRI 0 (0x2a000000 + d.val * 262144) i)
  | .cmpEq d a b p n w => some (⟨0, 0x30000000 + d.val * 262144 + a.val * 4096 + b.val * 64 + p.val * 4 + bit n * 2 + bit w, .bare⟩)
  | .cmpNe d a b p n w => some (⟨0, 0x31000000 + d.val * 262144 + a.val * 4096 + b.val * 64 + p.val * 4 + bit n * 2 + bit w, .bare⟩)
  | .cmpLt d a b p n w => some (⟨0, 0x32000000 + d.val * 262144 + a.val * 4096 + b.val * 64 + p.val * 4 + bit n * 2 + bit w, .bare⟩)
  | .cmpGe d a b p n w => some (⟨0, 0x33000000 + d.val * 262144 + a.val * 4096 + b.val * 64 + p.val * 4 + bit n * 2 + bit w, .bare⟩)
  | .cmpLtu d a b p n w => some (⟨0, 0x34000000 + d.val * 262144 + a.val * 4096 + b.val * 64 + p.val * 4 + bit n * 2 + bit w, .bare⟩)
  | .cmpGeu d a b p n w => some (⟨0, 0x35000000 + d.val * 262144 + a.val * 4096 + b.val * 64 + p.val * 4 + bit n * 2 + bit w, .bare⟩)
  | .cmpTst d a b p n w => some (⟨0, 0x36000000 + d.val * 262144 + a.val * 4096 + b.val * 64 + p.val * 4 + bit n * 2 + bit w, .bare⟩)
  | .cmpTstn d a b p n w => some (⟨0, 0x37000000 + d.val * 262144 + a.val * 4096 + b.val * 64 + p.val * 4 + bit n * 2 + bit w, .bare⟩)
  | .fadd d a b p n => some (⟨0, 0x40000000 + d.val * 262144 + a.val * 4096 + b.val * 64 + p.val * 4 + bit n * 2, .bare⟩)
  | .fmul d a b p n => some (⟨0, 0x41000000 + d.val * 262144 + a.val * 4096 + b.val * 64 + p.val * 4 + bit n * 2, .bare⟩)
  | .ffma d a b c => some (⟨0, 0x42000000 + d.val * 262144 + a.val * 4096 + b.val * 64 + c.val, .bare⟩)
  | .fcvt d a l t s => some (encLow 0 (0x43000000 + d.val * 262144 + a.val * 4096) (bit l * 256 + t.val * 16 + s.val))
  | .fcmpEq d a b p n => some (⟨0, 0x44000000 + d.val * 262144 + a.val * 4096 + b.val * 64 + p.val * 4 + bit n * 2, .bare⟩)
  | .fcmpLt d a b p n => some (⟨0, 0x45000000 + d.val * 262144 + a.val * 4096 + b.val * 64 + p.val * 4 + bit n * 2, .bare⟩)
  | .fcmpLe d a b p n => some (⟨0, 0x46000000 + d.val * 262144 + a.val * 4096 + b.val * 64 + p.val * 4 + bit n * 2, .bare⟩)
  | .fcmpUn d a b p n => some (⟨0, 0x47000000 + d.val * 262144 + a.val * 4096 + b.val * 64 + p.val * 4 + bit n * 2, .bare⟩)
  | .fminmaxMin d a b p n => some (⟨0, 0x48000000 + d.val * 262144 + a.val * 4096 + b.val * 64 + p.val * 4 + bit n * 2, .bare⟩)
  | .fminmaxMax d a b p n => some (⟨0, 0x49000000 + d.val * 262144 + a.val * 4096 + b.val * 64 + p.val * 4 + bit n * 2, .bare⟩)
  | .ldB d a o c => some (encMem 0 (0x60000000 + d.val * 262144 + a.val * 4096 + c.val) o)
  | .ldH d a o c => some (encMem 0 (0x61000000 + d.val * 262144 + a.val * 4096 + c.val) o)
  | .ldW d a o c => some (encMem 0 (0x62000000 + d.val * 262144 + a.val * 4096 + c.val) o)
  | .ldD d a o c => some (encMem 0 (0x63000000 + d.val * 262144 + a.val * 4096 + c.val) o)
  | .ldBz d a o c => some (encMem 0 (0x64000000 + d.val * 262144 + a.val * 4096 + c.val) o)
  | .ldHz d a o c => some (encMem 0 (0x65000000 + d.val * 262144 + a.val * 4096 + c.val) o)
  | .ldWz d a o c => some (encMem 0 (0x66000000 + d.val * 262144 + a.val * 4096 + c.val) o)
  | .stB d a o c => some (encMem 0 (0x67000000 + d.val * 262144 + a.val * 4096 + c.val) o)
  | .stH d a o c => some (encMem 0 (0x68000000 + d.val * 262144 + a.val * 4096 + c.val) o)
  | .stW d a o c => some (encMem 0 (0x69000000 + d.val * 262144 + a.val * 4096 + c.val) o)
  | .stD d a o c => some (encMem 0 (0x6a000000 + d.val * 262144 + a.val * 4096 + c.val) o)
  | .ldlW d a o t c => some (encLnd 0 (0x6b000000 + d.val * 262144 + a.val * 4096 + c.val) o t)
  | .ldlWz d a o t c => some (encLnd 0 (0x6c000000 + d.val * 262144 + a.val * 4096 + c.val) o t)
  | .ldlD d a o t c => some (encLnd 0 (0x6d000000 + d.val * 262144 + a.val * 4096 + c.val) o t)
  | .l1inv a b p n => some (⟨0, 0x6e000000 + a.val * 4096 + b.val * 64 + p.val * 4 + bit n * 2, .bare⟩)
  | .l1wb a b p n => some (⟨0, 0x6f000000 + a.val * 4096 + b.val * 64 + p.val * 4 + bit n * 2, .bare⟩)
  | .amoAdd z c a b => some (⟨0, 0x70000000 + bit z * 4194304 + c.val * 262144 + a.val * 4096 + b.val * 64, .bare⟩)
  | .amoAnd z c a b => some (⟨0, 0x71000000 + bit z * 4194304 + c.val * 262144 + a.val * 4096 + b.val * 64, .bare⟩)
  | .amoOr z c a b => some (⟨0, 0x72000000 + bit z * 4194304 + c.val * 262144 + a.val * 4096 + b.val * 64, .bare⟩)
  | .amoXor z c a b => some (⟨0, 0x73000000 + bit z * 4194304 + c.val * 262144 + a.val * 4096 + b.val * 64, .bare⟩)
  | .amoMin z c a b => some (⟨0, 0x74000000 + bit z * 4194304 + c.val * 262144 + a.val * 4096 + b.val * 64, .bare⟩)
  | .amoMax z c a b => some (⟨0, 0x75000000 + bit z * 4194304 + c.val * 262144 + a.val * 4096 + b.val * 64, .bare⟩)
  | .amoSwap z c a b => some (⟨0, 0x76000000 + bit z * 4194304 + c.val * 262144 + a.val * 4096 + b.val * 64, .bare⟩)
  | .amoCas z c a b x => some (⟨0, 0x77000000 + bit z * 4194304 + c.val * 262144 + a.val * 4096 + b.val * 64 + x.val, .bare⟩)
  | .redAdd z c a b => some (⟨0, 0x78000000 + bit z * 4194304 + c.val * 262144 + a.val * 4096 + b.val * 64, .bare⟩)
  | .redAnd z c a b => some (⟨0, 0x79000000 + bit z * 4194304 + c.val * 262144 + a.val * 4096 + b.val * 64, .bare⟩)
  | .redOr z c a b => some (⟨0, 0x7a000000 + bit z * 4194304 + c.val * 262144 + a.val * 4096 + b.val * 64, .bare⟩)
  | .redMin z c a b => some (⟨0, 0x7b000000 + bit z * 4194304 + c.val * 262144 + a.val * 4096 + b.val * 64, .bare⟩)
  | .redMax z c a b => some (⟨0, 0x7c000000 + bit z * 4194304 + c.val * 262144 + a.val * 4096 + b.val * 64, .bare⟩)
  | .amopop d p n => some (⟨0, 0x7d000000 + d.val * 262144 + p.val * 4 + bit n * 2, .bare⟩)
  | .spart d a i => some (⟨0, 0x7e000000 + d.val * 262144 + a.val * 4096 + i.val, .bare⟩)
  | .br p n o => some (encBr (0x80000000 + p.val * 1048576 + bit n * 524288) o)
  | .jmp p n o => some (encJmp (0x81000000 + p.val * 1048576 + bit n * 524288) o)
  | .jmpr a p n => some (⟨0, 0x82000000 + a.val * 4096 + p.val * 4 + bit n * 2, .bare⟩)
  | .call p n o => some (encBr (0x83000000 + p.val * 1048576 + bit n * 524288) o)
  | .ret a p n => some (⟨0, 0x84000000 + a.val * 4096 + p.val * 4 + bit n * 2, .bare⟩)
  | .loop a i => some (encRI 0 (0x85000000 + a.val * 4096) i)
  | .trap i => some (encRI 0 (0x86000000) (i.setWidth 32))
  | .eret p n => some (⟨0, 0x87000000 + p.val * 4 + bit n * 2, .bare⟩)
  | .halt p n => some (⟨0, 0x88000000 + p.val * 4 + bit n * 2, .bare⟩)
  | .yield p n => some (⟨0, 0x89000000 + p.val * 4 + bit n * 2, .bare⟩)
  | .csrr d i => some (encRI 0 (0xa0000000 + d.val * 262144) (i.setWidth 32))
  | .csrw d a i => some (encRI 0 (0xa1000000 + d.val * 262144 + a.val * 4096) (i.setWidth 32))
  | .csrs d a i => some (encRI 0 (0xa2000000 + d.val * 262144 + a.val * 4096) (i.setWidth 32))
  | .csrc d a i => some (encRI 0 (0xa3000000 + d.val * 262144 + a.val * 4096) (i.setWidth 32))
  | .rlandRedo p n => some (⟨0, 0xa4000000 + p.val * 4 + bit n * 2, .bare⟩)
  | .rlandSet a p n => some (⟨0, 0xa4000040 + a.val * 4096 + p.val * 4 + bit n * 2, .bare⟩)
  | .vadd d a b p n w => some (⟨1, 0x0 + d.val * 262144 + a.val * 4096 + b.val * 64 + p.val * 4 + bit n * 2 + bit w, .bare⟩)
  | .vsub d a b p n w => some (⟨1, 0x1000000 + d.val * 262144 + a.val * 4096 + b.val * 64 + p.val * 4 + bit n * 2 + bit w, .bare⟩)
  | .vmul d a b p n w => some (⟨1, 0x2000000 + d.val * 262144 + a.val * 4096 + b.val * 64 + p.val * 4 + bit n * 2 + bit w, .bare⟩)
  | .vfma d a b p n => some (⟨1, 0x3000000 + d.val * 262144 + a.val * 4096 + b.val * 64 + p.val * 4 + bit n * 2, .bare⟩)
  | .vfms d a b p n => some (⟨1, 0x4000000 + d.val * 262144 + a.val * 4096 + b.val * 64 + p.val * 4 + bit n * 2, .bare⟩)
  | .vmin d a b p n w => some (⟨1, 0x5000000 + d.val * 262144 + a.val * 4096 + b.val * 64 + p.val * 4 + bit n * 2 + bit w, .bare⟩)
  | .vmax d a b p n w => some (⟨1, 0x6000000 + d.val * 262144 + a.val * 4096 + b.val * 64 + p.val * 4 + bit n * 2 + bit w, .bare⟩)
  | .vabs d a p n w => some (⟨1, 0x7000000 + d.val * 262144 + a.val * 4096 + p.val * 4 + bit n * 2 + bit w, .bare⟩)
  | .vneg d a p n w => some (⟨1, 0x8000000 + d.val * 262144 + a.val * 4096 + p.val * 4 + bit n * 2 + bit w, .bare⟩)
  | .vsel d a b p n => some (⟨1, 0x9000000 + d.val * 262144 + a.val * 4096 + b.val * 64 + p.val * 4 + bit n * 2, .bare⟩)
  | .vand d a b p n => some (⟨1, 0xa000000 + d.val * 262144 + a.val * 4096 + b.val * 64 + p.val * 4 + bit n * 2, .bare⟩)
  | .vor d a b p n => some (⟨1, 0xb000000 + d.val * 262144 + a.val * 4096 + b.val * 64 + p.val * 4 + bit n * 2, .bare⟩)
  | .vxor d a b p n => some (⟨1, 0xc000000 + d.val * 262144 + a.val * 4096 + b.val * 64 + p.val * 4 + bit n * 2, .bare⟩)
  | .vshl d a b p n => some (⟨1, 0xd000000 + d.val * 262144 + a.val * 4096 + b.val * 64 + p.val * 4 + bit n * 2, .bare⟩)
  | .vshr d a b p n => some (⟨1, 0xe000000 + d.val * 262144 + a.val * 4096 + b.val * 64 + p.val * 4 + bit n * 2, .bare⟩)
  | .vsra d a b p n => some (⟨1, 0xf000000 + d.val * 262144 + a.val * 4096 + b.val * 64 + p.val * 4 + bit n * 2, .bare⟩)
  | .vexp2 d a p n => some (⟨1, 0x10000000 + d.val * 262144 + a.val * 4096 + p.val * 4 + bit n * 2, .bare⟩)
  | .vlog2 d a p n => some (⟨1, 0x11000000 + d.val * 262144 + a.val * 4096 + p.val * 4 + bit n * 2, .bare⟩)
  | .vrcp d a p n => some (⟨1, 0x12000000 + d.val * 262144 + a.val * 4096 + p.val * 4 + bit n * 2, .bare⟩)
  | .vrsq d a p n => some (⟨1, 0x13000000 + d.val * 262144 + a.val * 4096 + p.val * 4 + bit n * 2, .bare⟩)
  | .vcmpEq d a b p n w => some (⟨1, 0x18000000 + d.val * 262144 + a.val * 4096 + b.val * 64 + p.val * 4 + bit n * 2 + bit w, .bare⟩)
  | .vcmpNe d a b p n w => some (⟨1, 0x19000000 + d.val * 262144 + a.val * 4096 + b.val * 64 + p.val * 4 + bit n * 2 + bit w, .bare⟩)
  | .vcmpLt d a b p n w => some (⟨1, 0x1a000000 + d.val * 262144 + a.val * 4096 + b.val * 64 + p.val * 4 + bit n * 2 + bit w, .bare⟩)
  | .vcmpLe d a b p n w => some (⟨1, 0x1b000000 + d.val * 262144 + a.val * 4096 + b.val * 64 + p.val * 4 + bit n * 2 + bit w, .bare⟩)
  | .vcmpGt d a b p n w => some (⟨1, 0x1c000000 + d.val * 262144 + a.val * 4096 + b.val * 64 + p.val * 4 + bit n * 2 + bit w, .bare⟩)
  | .vcmpGe d a b p n w => some (⟨1, 0x1d000000 + d.val * 262144 + a.val * 4096 + b.val * 64 + p.val * 4 + bit n * 2 + bit w, .bare⟩)
  | .vcmpUn d a b p n => some (⟨1, 0x1e000000 + d.val * 262144 + a.val * 4096 + b.val * 64 + p.val * 4 + bit n * 2, .bare⟩)
  | .vcmpLtu d a b p n => some (⟨1, 0x1e000001 + d.val * 262144 + a.val * 4096 + b.val * 64 + p.val * 4 + bit n * 2, .bare⟩)
  | .vcmpOrd d a b p n => some (⟨1, 0x1f000000 + d.val * 262144 + a.val * 4096 + b.val * 64 + p.val * 4 + bit n * 2, .bare⟩)
  | .vcmpGeu d a b p n => some (⟨1, 0x1f000001 + d.val * 262144 + a.val * 4096 + b.val * 64 + p.val * 4 + bit n * 2, .bare⟩)
  | .vcvt d a k t s => some (encLow 1 (0x40000000 + d.val * 262144 + a.val * 4096) (k.val * 256 + t.val * 16 + s.val))
  | .vqnt d a f k s r v => some (encRow 1 (0x41000000 + d.val * 262144 + a.val * 4096) (f.val * 1024 + k.val * 128 + s.val * 8 + r.val) v)
  | .vdq d a f k s r v => some (encRow 1 (0x42000000 + d.val * 262144 + a.val * 4096) (f.val * 1024 + k.val * 128 + s.val * 8 + r.val) v)
  | .vpermb d a b p n => some (⟨1, 0x50000000 + d.val * 262144 + a.val * 4096 + b.val * 64 + p.val * 4 + bit n * 2, .bare⟩)
  | .vpermw d a b p n => some (⟨1, 0x51000000 + d.val * 262144 + a.val * 4096 + b.val * 64 + p.val * 4 + bit n * 2, .bare⟩)
  | .vbcast d a p n => some (⟨1, 0x52000000 + d.val * 262144 + a.val * 4096 + p.val * 4 + bit n * 2, .bare⟩)
  | .vextr d a i => some (⟨1, 0x53000000 + d.val * 262144 + a.val * 4096 + i.val, .bare⟩)
  | .viota d p n => some (⟨1, 0x54000000 + d.val * 262144 + p.val * 4 + bit n * 2, .bare⟩)
  | .vredadd d a p n w => some (⟨1, 0x60000000 + d.val * 262144 + a.val * 4096 + p.val * 4 + bit n * 2 + bit w, .bare⟩)
  | .vredmax d a p n w => some (⟨1, 0x61000000 + d.val * 262144 + a.val * 4096 + p.val * 4 + bit n * 2 + bit w, .bare⟩)
  | .vredmin d a p n w => some (⟨1, 0x62000000 + d.val * 262144 + a.val * 4096 + p.val * 4 + bit n * 2 + bit w, .bare⟩)
  | .vtrip d a b => some (⟨1, 0x68000000 + d.val * 262144 + a.val * 4096 + b.val * 64, .bare⟩)
  | .vld d a o c => some (encMem 1 (0x70000000 + d.val * 262144 + a.val * 4096 + c.val) o)
  | .vst d a o c => some (encMem 1 (0x71000000 + d.val * 262144 + a.val * 4096 + c.val) o)
  | .vlds d a b p n => some (⟨1, 0x72000000 + d.val * 262144 + a.val * 4096 + b.val * 64 + p.val * 4 + bit n * 2, .bare⟩)
  | .vgath d a b p n => some (⟨1, 0x73000000 + d.val * 262144 + a.val * 4096 + b.val * 64 + p.val * 4 + bit n * 2, .bare⟩)
  | .vscat d a b p n => some (⟨1, 0x74000000 + d.val * 262144 + a.val * 4096 + b.val * 64 + p.val * 4 + bit n * 2, .bare⟩)
  | .vldl d a o t c => some (encLnd 1 (0x75000000 + d.val * 262144 + a.val * 4096 + c.val) o t)
  | .vstg d a o c => some (encMem 1 (0x76000000 + d.val * 262144 + a.val * 4096 + c.val) o)
  | .vlda d a h r e => some (encLow 1 (0x77000000 + d.val * 262144 + a.val * 4096) (bit h * 1024 + r.val * 8 + e.val))
  | .vsta d a x h r e => some (encLow 1 (0x78000000 + d.val * 262144 + a.val * 4096) (bit x * 2048 + bit h * 1024 + r.val * 8 + e.val))
  | .mand d a b p n => some (⟨1, 0x90000000 + d.val * 262144 + a.val * 4096 + b.val * 64 + p.val * 4 + bit n * 2, .bare⟩)
  | .mor d a b p n => some (⟨1, 0x91000000 + d.val * 262144 + a.val * 4096 + b.val * 64 + p.val * 4 + bit n * 2, .bare⟩)
  | .mnot d a p n => some (⟨1, 0x92000000 + d.val * 262144 + a.val * 4096 + p.val * 4 + bit n * 2, .bare⟩)
  | .mpopc d a p n => some (⟨1, 0x93000000 + d.val * 262144 + a.val * 4096 + p.val * 4 + bit n * 2, .bare⟩)
  | .mma e a b o f g x y => some (⟨3, 0x0 + e.val * 2097152 + a.val * 262144 + b.val * 32768 + bit o * 256 + f.val * 32 + g.val * 4 + bit x * 2 + bit y, .bare⟩)
  | .mtile e a b s o f g x y => some (⟨3, 0x1000000 + e.val * 2097152 + a.val * 262144 + b.val * 32768 + s.val * 512 + bit o * 256 + f.val * 32 + g.val * 4 + bit x * 2 + bit y, .bare⟩)
  | .mzero e m => some (⟨3, 0x2000000 + e.val * 2097152 + m.toNat * 128, .bare⟩)
  | .mdrain e a d z => some (⟨3, 0x3000000 + e.val * 2097152 + a.val * 512 + d.val * 8 + bit z * 4, .bare⟩)
  | .mring o s => some (⟨3, 0x4000000 + o.val * 262144 + s.val * 512, .bare⟩)
  | .acalloc e m a => some (⟨3, 0x8000000 + e.val * 2097152 + m.val * 8192 + a.toNat * 32, .bare⟩)
  | .acfree e => some (⟨3, 0x9000000 + e.val * 2097152, .bare⟩)
  | .acown e b k => some (⟨3, 0xa000000 + e.val * 2097152 + b.toNat * 128 + k.val * 32, .bare⟩)
  | .cpset a s w => some (⟨4, 0x0 + a.val * 2097152 + s.val * 64 + w.val, .bare⟩)
  | .cpy a g i r o c x => some (⟨4, 0x1000000 + a.val * 2097152 + g.val * 262144 + i.toNat * 4096 + bit r * 2048 + o.val * 256 + c.val * 16 + x.val, .bare⟩)
  | .cpym a g i r o c x => some (⟨4, 0x2000000 + a.val * 2097152 + g.val * 262144 + i.toNat * 4096 + bit r * 2048 + o.val * 256 + c.val * 16 + x.val, .bare⟩)
  | .cpyr a g i r o c x => some (⟨4, 0x3000000 + a.val * 2097152 + g.val * 262144 + i.toNat * 4096 + bit r * 2048 + o.val * 256 + c.val * 16 + x.val, .bare⟩)
  | .cpyx a g i r o c x => some (⟨4, 0x4000000 + a.val * 2097152 + g.val * 262144 + i.toNat * 4096 + bit r * 2048 + o.val * 256 + c.val * 16 + x.val, .bare⟩)
  | .cpf a g i r o c x => some (⟨4, 0x5000000 + a.val * 2097152 + g.val * 262144 + i.toNat * 4096 + bit r * 2048 + o.val * 256 + c.val * 16 + x.val, .bare⟩)
  | .cpwb a g i r o c x => some (⟨4, 0x6000000 + a.val * 2097152 + g.val * 262144 + i.toNat * 4096 + bit r * 2048 + o.val * 256 + c.val * 16 + x.val, .bare⟩)
  | .rinit g c => some (⟨4, 0x7000000 + g.val * 262144 + c.toNat, .bare⟩)
  | .xexp d s n x => some (⟨6, 0x0 + d.val * 262144 + s.val * 4096 + n.val * 64 + x.val, .bare⟩)
  | .xtrn d s n x => some (⟨6, 0x1000000 + d.val * 262144 + s.val * 4096 + n.val * 64 + x.val, .bare⟩)
  | .xcvt d s n b a => some (⟨6, 0x2000000 + d.val * 262144 + s.val * 4096 + n.val * 64 + b.val * 8 + a.val, .bare⟩)
  | .xzvc d s n l => some (⟨6, 0x3000000 + d.val * 262144 + s.val * 4096 + n.val * 64 + l.val, .bare⟩)
  | .xfill d s n x => some (⟨6, 0x4000000 + d.val * 262144 + s.val * 4096 + n.val * 64 + x.val, .bare⟩)
  | .fmtw a => some (⟨7, 0x0 + a.val * 4096, .bare⟩)
  | .sclld a n => some (⟨7, 0x1000000 + a.val * 4096 + n.val, .bare⟩)
  | .dfrm a f r => some (⟨7, 0x2000000 + a.val * 4096 + f.val * 8 + r.val, .bare⟩)
  | .dfrmAdd a f r => some (⟨7, 0x2000020 + a.val * 4096 + f.val * 8 + r.val, .bare⟩)
  | .fence m s => some (⟨7, 0x10000000 + m.toNat * 256 + s.val * 16, .bare⟩)
  | .fencex s f t => some (⟨7, 0x11000000 + s.val * 262144 + f.toNat * 64 + t.toNat, .bare⟩)
  | .dsyncWord => some (⟨7, 0x12000000, .bare⟩)
  | .dsyncPhrase => some (⟨7, 0x13000000, .bare⟩)
  | .dsyncClause => some (⟨7, 0x14000000, .bare⟩)
  | .dsyncSentence => some (⟨7, 0x15000000, .bare⟩)
  | .dsyncParagraph => some (⟨7, 0x16000000, .bare⟩)
  | .fladd c v w => some (⟨7, 0x18000000 + c.val * 4096 + v.val * 64 + w.val, .bare⟩)
  | .flset v m t w => some (⟨7, 0x19000000 + v.val * 262144 + m.val * 4096 + t.val * 64 + w.val, .bare⟩)
  | .flwait d v c w => some (⟨7, 0x1a000000 + d.val * 262144 + v.val * 4096 + c.val * 64 + w.val, .bare⟩)
  | .await g n => some (encK (0x1b000000 + g.val * 64) n)
  | .release g n => some (encK (0x1c000000 + g.val * 64) n)
  | .wnext w p t => some (⟨7, 0x1d000000 + w.val * 262144 + p.val, .lend t.toNat⟩)
  | .wrot d k => some (⟨7, 0x1e000000 + d.val * 262144 + k.val, .bare⟩)
  | .lnew p a e g h => some (⟨7, 0x40000000 + p.val * 262144 + a.val * 4096 + bit e * 2048 + g.val * 64 + h.val, .bare⟩)
  | .lbind a e g h => some (⟨7, 0x41000000 + a.val * 4096 + bit e * 2048 + g.val * 64 + h.val, .bare⟩)
  | .lappend o e g h => some (⟨7, 0x42000000 + o.val * 4096 + bit e * 2048 + g.val * 64 + h.val, .bare⟩)
  | .lcarry b e g h => some (⟨7, 0x43000000 + b.val * 4096 + bit e * 2048 + g.val * 64 + h.val, .bare⟩)
  | .lfork x e g h => some (⟨7, 0x44000000 + x.val * 4096 + bit e * 2048 + g.val * 64 + h.val, .bare⟩)
  | .ltrunc t e g h => some (⟨7, 0x45000000 + t.val * 4096 + bit e * 2048 + g.val * 64 + h.val, .bare⟩)
  | .ldrop e g h => some (⟨7, 0x46000000 + bit e * 2048 + g.val * 64 + h.val, .bare⟩)
  | .lread r q e g h => some (⟨7, 0x47000000 + r.val * 262144 + q.val * 4096 + bit e * 2048 + g.val * 64 + h.val, .bare⟩)
  | .lwalk l e g h => some (⟨7, 0x48000000 + l.val * 4096 + bit e * 2048 + g.val * 64 + h.val, .bare⟩)
  | .lkeep m e g h => some (⟨7, 0x49000000 + m.val * 4096 + bit e * 2048 + g.val * 64 + h.val, .bare⟩)
  | .lcnt d h t => some (⟨7, 0x4a000000 + d.val * 262144 + h.val, .lend t.toNat⟩)
  | .mcinit f c e g => some (⟨7, 0x50000000 + f.val * 262144 + c.val * 4096 + bit e * 2048 + g.val * 64, .bare⟩)
  | .mcdep r c e g s => some (⟨7, 0x51000000 + r.val * 262144 + c.val * 4096 + bit e * 2048 + g.val * 64 + s.val, .bare⟩)
  | .mcget r c e g => some (⟨7, 0x52000000 + r.val * 262144 + c.val * 4096 + bit e * 2048 + g.val * 64, .bare⟩)
  | .tspawn a e g => some (⟨7, 0x60000000 + a.val * 4096 + bit e * 2048 + g.val * 64, .bare⟩)
  | .tbegin c d u q => some (⟨7, 0x61000000 + c.val * 262144 + d.val * 4096 + u.val * 64 + bit q, .bare⟩)
  | .tcommit => some (⟨7, 0x62000000, .bare⟩)
  | .tcommitOrd => some (⟨7, 0x63000000, .bare⟩)
  | .tabort w => some (⟨7, 0x64000000 + w.val, .bare⟩)
  | .vcall o k => some (⟨7, 0x65000000 + o.val * 4096 + k.val, .bare⟩)
  | .vinv f n => some (⟨7, 0x66000000 + f.val * 4096 + n.val, .bare⟩)
  | .vret => some (⟨7, 0x67000000, .bare⟩)
  | .gload d a e g n => some (⟨7, 0x68000000 + d.val * 262144 + a.val * 4096 + bit e * 2048 + g.val * 64 + n.val, .bare⟩)
  | .vtab d a e g => some (⟨7, 0x69000000 + d.val * 262144 + a.val * 4096 + bit e * 2048 + g.val * 64, .bare⟩)
  | .tstat d s => some (⟨7, 0x6a000000 + d.val * 262144 + s.val, .bare⟩)
  | .transformBeat _ => none
  | .domainBarrierRelease _ _ _ => none
  | .flagWriteArrives _ _ => none
  | .wnextServe _ _ => none
  | .thermalHoldTimeout _ => none
  | .holdRequest _ => none
  | .abortDelivery _ => none
  | .resultLands _ => none
  | .landingDataArrives _ _ => none
  | .quantExpiry _ => none
  | .contextPromotion _ => none
  | .deferredRefusal _ _ => none
  | .amoPerform _ _ => none
  | .copyComplete _ _ => none
  | .drenIncrement _ => none
  | .decoderWatchdog _ _ => none
  | .mmaStepRetire _ => none
  | .drainComplete _ _ => none
  | .ladderOpComplete _ _ => none
  | .thermalSample => none
  | .sliceExpiry _ => none
  | .coreRestore _ => none
  | .grantFloorMet _ => none
  | .jobAdmit _ => none
  | .shadowSave _ => none
  | .budgetPeriod => none
  | .patrolScrubVisit _ => none
  | .busTest _ _ _ => none
  | .rollback _ => none
  | .rollbackPassTimeout _ => none
  | .hostRead _ _ _ _ => none
  | .hostWrite _ _ _ _ _ => none
  | .rdata _ _ _ => none
  | .ack _ _ _ => none
  | .start _ _ _ _ => none
  | .tlbinv _ _ _ _ _ => none
  | .mread _ _ _ => none
  | .mwrite _ _ _ _ => none
  | .attest _ _ _ => none
  | .reservedHostType _ _ _ => none
  | .hostAnswerTimeout _ _ => none
  | .remoteWrite _ _ _ _ _ _ => none
  | .writeAcknowledgement _ _ _ _ _ _ => none
  | .flag _ _ _ _ _ _ _ => none
  | .barrierArrival _ _ _ _ _ => none
  | .barrierRelease _ _ _ _ _ => none
  | .svethAckTimeout _ => none
  | .svethCrcMismatch _ => none
  | .ucieModuleRetrainFail _ => none
  | .ucieRetrainingSucceeds _ => none
  | .powerOn _ _ _ _ _ => none
  | .engineFault _ _ => none
  | .haltedEngineResult _ => none

/-- The header of a bundle that holds one syllable (R53), with its CAIRN bit. -/
def encodeHeader (e : Encoded) (cairn : Bool) : Nat :=
  2 ^ (31 - e.slot.val) + bit cairn * 2 ^ 21 +
    match e.imm with
    | .bare => 0
    | .lend l => 2 ^ 20 + e.slot.val * 2 ^ 17 + l
    | .ext _ => 2 ^ 22

/-- The words of an instruction in a bundle of its own: header, syllable, extension (R52). -/
def encode (i : Instr) : Option (List Nat) :=
  match i with
  | .nop c => some [bit c * 2 ^ 21]
  | i => (encodeSyllable i).map fun e =>
    encodeHeader e false :: e.word :: match e.imm with
      | .ext x => [x]
      | .bare => []
      | .lend _ => []

/-! ### The rows of the opcode table -/

/-- A bundle around one syllable `w` of a slot: the header that the syllable needs, and an extension of 0 where it consumes
one. The table gives a landing distance no bits, so the header lends the least that is legal (R59, R269, R300). -/
def wrapSyllable (n : Fin 8) (w : Nat) : List Nat :=
  let f := format (slotKind n.val) (w / 16777216)
  if f = .lnd then [encodeHeader ⟨n, w, .lend 1⟩ false, w]
  else if n = 7 ∧ (w / 16777216 = 0x1D ∨ w / 16777216 = 0x4A) then [encodeHeader ⟨n, w, .lend 32⟩ false, w]
  else if f.consumes w then [encodeHeader ⟨n, w, .ext 0⟩ false, w, 0]
  else [encodeHeader ⟨n, w, .bare⟩ false, w]

/-- The bundles a table word may stand for, in the order in which they are tried: the word as a whole header (NOP), then as
the syllable of each slot. The maps share opcode values (R78), and a table word does not name its slot. -/
def tableBundles (w : Nat) : List (List Nat) :=
  [w] :: ([7, 3, 4, 6, 1, 0] : List (Fin 8)).map fun n => wrapSyllable n w

/-- The first of the candidates that decodes to a bundle of one operation. -/
def firstDecoded : List (List Nat) → Option (List Nat × Instr)
  | [] => none
  | ws :: r =>
    match decodeBundle ws with
    | .ok ⟨_, _, [(_, i)]⟩ => some (ws, i)
    | .ok _ => firstDecoded r
    | .error _ => firstDecoded r

/-- The instruction that the decoder reads from a table word of 32 bits; no row has another width. -/
def decodeTableWord (nbits w : Nat) : Option Instr :=
  if nbits = 32 ∧ w < 2 ^ 32 then (firstDecoded (tableBundles w)).map (·.2) else none

end Sys2Proof
end

