-- ==== Sys2Proof/Machine/State.lean ====
section
/-! DEFINITION. The state of the device: every register, memory, queue and status the spec names, as plain data, and
its value right after reset. The docstring of each field cites the rule that gives it. -/

namespace Sys2Proof.Machine

/-! ### Per-context registers -/

/-- A completion ring `g` (R194), with the hidden record of its failing command (R387). -/
structure Ring where
  fill : BitVec 32
  cons : BitVec 32
  rsv : BitVec 32
  cap : BitVec 12
  fcode : BitVec 16
  faddr : Word
  fbun : BitVec 20
  fslot : BitVec 3
  deriving DecidableEq, Repr

/-- A dither frame `d` (R67). -/
structure Frame where
  seed : BitVec 32
  rowo : BitVec 32
  colo : BitVec 32
  tr : Bool
  cfmt : BitVec 4
  deriving DecidableEq, Repr

/-- A pattern register `a`: 24 words (R186). -/
structure Pattern where
  words : Vector Word 24
  deriving DecidableEq, Repr

/-- A ladder handle `h` (R260): bound bit, descriptor address, GEOM. `bind` is the issue number of the LBIND whose GEOM
is still to come (R262), 0 for none. -/
structure Handle where
  bound : Bool
  desc : Word
  geom : BitVec 9
  bind : Nat
  deriving DecidableEq, Repr

/-- An open loop (R63, R132): first syllable of the body, first syllable after it, passes left. -/
structure Loop where
  first : Word
  stop : Word
  left : BitVec 32
  deriving DecidableEq, Repr

/-- A taken transfer whose delay bundles have not all issued (R61), with the bundle it came from (R371). -/
structure Transfer where
  target : Word
  left : Nat
  origin : Word
  deriving DecidableEq, Repr

/-- A task that WNEXT has delivered to the context (R305, R326). -/
structure Delivered where
  desc : Word
  seq : Word
  dom : BitVec 8
  begun : Bool
  deriving DecidableEq, Repr

/-- The task state of a context (R309), with what the task unit records beside it: the running verb (R316), the tasks
delivered (R326), the entries reserved by issued ladder verbs (R422), and where a retraction stands (R320). -/
structure Task where
  cont : BitVec 32
  ubase : Word
  usize : BitVec 16
  utop : BitVec 16
  icnt : Bool
  req : Bool
  apend : Bool
  retr : Bool
  seq : Word
  desc : Word
  dom : BitVec 8
  why : BitVec 8
  kind : BitVec 6
  obj : Word
  args : List Word
  reserved : Nat
  routine : Bool
  delivered : List Delivered
  deriving DecidableEq, Repr

/-- The registers and CSRs of a context, its clock and its control state: what a shadow copy holds (R396). -/
structure Arch where
  /-- `s0`–`s63` (R65); `s0` reads 0. -/
  s : Vector Word 64
  /-- `p0`–`p15` (R65); `p0` reads 1. -/
  p : Vector Bool 16
  /-- `v0`–`v63` (R65). -/
  v : Vector VReg 64
  /-- `m0`–`m15` (R65); `m0` is all ones. -/
  m : Vector Word 16
  /-- the physical work registers (R65, R300). -/
  w : Vector Word 8
  /-- the window base B (R300). -/
  wbase : Fin 8
  h : Vector Handle 16
  g : Vector Ring 8
  a : Vector Pattern 8
  d : Vector Frame 8
  /-- `FMT` (R66). -/
  fmt : Word
  scl : Vector (BitVec 32) 16
  /-- the schedule clock (R24, R25). -/
  sched : Word
  /-- syllable index of the next bundle (R61). -/
  pc : Word
  xfer : Option Transfer
  loops : List Loop
  prio : BitVec 2
  /-- `STATUS.HM` (R70). -/
  hm : Bool
  /-- `STATUS.TASK` (R70). -/
  task : Bool
  /-- `STATUS.VERB` (R70). -/
  verb : Bool
  /-- `STATUS.SLRAISE` (R70, R43). -/
  slraise : Bool
  tvec : Word
  tcause : Word
  tbun : Word
  tslot : Word
  tval0 : Word
  tval1 : Word
  tval2 : Word
  snapbase : Word
  dmemb : Word
  astat : Word
  fstat : Word
  tsk : Task
  deriving DecidableEq, Repr

/-! ### Results in flight -/

/-- A matrix step captured at issue (R221, R222, R226, R227): bank, formats, frames, scales, shape and both tiles. -/
structure StepCmd where
  bank : Fin 8
  ovr : Bool
  fa : BitVec 4
  fb : BitVec 4
  da : Frame
  db : Frame
  sa : Bool
  sb : Bool
  rows : Nat
  cols : Nat
  kv : Nat
  rb : Nat
  cb : Nat
  scl : Vector (BitVec 32) 16
  tileA : List Host.Cell
  tileB : List Host.Cell
  offA : Nat
  offB : Nat
  deriving DecidableEq, Repr

/-- What happens when a result lands (R26): the destination and the value. A vector or mask result names the lanes it
writes (R57). -/
inductive Landing where
  /-- nothing is written: only the flags of the entry, or the end of a wait -/
  | nothing
  | sreg (d : Fin 64) (x : Word)
  | preg (d : Fin 16) (x : Bool)
  | vreg (d : Fin 64) (x : VReg) (lanes : Word)
  | mreg (d : Fin 16) (x lanes : Word)
  /-- WNEXT (R49); the task delivered with it: sequence number and domain -/
  | wreg (d : Fin 8) (x : Word) (task : Option (Word × BitVec 8))
  /-- CPSET (R191) -/
  | pattern (a : Fin 8) (k : Fin 24) (x : Word)
  /-- DFRM and DFRM.ADD (R295); the field in the encoding of FLD -/
  | frame (r : Fin 8) (fld : Fin 4) (x : BitVec 32) (add : Bool)
  /-- RINIT (R200) -/
  | ringInit (g : Fin 8) (cap : BitVec 12)
  /-- RELEASE (R197) -/
  | ringCons (g : Fin 8) (n : BitVec 32)
  /-- the CSR side of CSRW, CSRS, CSRC (R137): the new value of RW fields, the bits that clear W1C fields -/
  | csr (i : BitVec 12) (x clear : Word) (rw : Bool)
  /-- FMTW, SCLLD (R91, R294) -/
  | fmt (x : Word)
  | scale (n : Fin 16) (x : BitVec 32)
  /-- handle bindings (R261, R262, R265, R266) -/
  | handle (h : Fin 16) (x : Handle)
  /-- WROT's base (R300) -/
  | wbase (k : Fin 8)
  /-- VSTA (R164) -/
  | rowStore (bank : Fin 8) (row : Fin 128) (half add : Bool) (x : VReg)
  /-- MZERO (R228) -/
  | zeroBands (bank : Fin 8) (bands : BitVec 8)
  /-- MMA and MTILE (R223) -/
  | matrix (c : StepCmd)
  /-- FENCE (`cross` 0) and FENCEX (R284, R285): paths left and right, classes, scope -/
  | fence (cross : Bool) (src : BitVec 6) (classes : BitVec 16) (scope : Fin 8)
  /-- the landing of the last beat of an X operation, for R29 (R211) -/
  | beats
  deriving DecidableEq, Repr

/-- A load by address, as a landing load or a replay needs it (R125, R160, R372). `size` is in bytes. -/
structure LoadReq where
  addr : Word
  size : Nat
  signed : Bool
  deriving DecidableEq, Repr

/-- A global atomic (R127, R128); `op` is the opcode value 0x70–0x7C. -/
structure AmoReq where
  op : BitVec 8
  addr : Word
  wide : Bool
  x : Word
  cmp : Word
  deriving DecidableEq, Repr

/-- A copy command as captured at issue (R192, R201). -/
structure CopyCmd where
  op : BitVec 8
  pat : Pattern
  opt : Bool
  oring : Option (Fin 8)
  tiles : Nat
  deriving DecidableEq, Repr

/-- A drain as captured at issue (R229, R230): the bank word and entries as they stood, FMT, SCL and the frame. -/
structure DrainCmd where
  bank : Fin 8
  word : Word
  cells : List Host.Cell
  desc : Word
  dst : Word
  z : Bool
  fmt : Word
  scl : Vector (BitVec 32) 16
  fr : Frame
  /-- rows with a code word in error (R393) -/
  bad : List Nat
  deriving DecidableEq, Repr

/-- A ladder or merge-cell operation as captured at issue (R257, R260): opcode, handles, operand registers, the frames and
scales of an append, and the task it belongs to (R270; 0 for none). -/
structure LadderCmd where
  op : BitVec 8
  hd : Handle
  hd2 : Handle
  hn : Fin 16
  x : Word
  y : Word
  idx : Nat
  /-- the ladder's count, when a carry was pending in it at issue (R249) -/
  pend : Option Nat
  kfr : Frame
  vfr : Frame
  scl : Vector (BitVec 32) 16
  inTask : Bool
  taskSeq : Word
  deriving DecidableEq, Repr

/-- The access or command that a piece of outstanding work stands for. -/
inductive WorkKind where
  /-- landing load (R125, R160) -/
  | load (r : LoadReq)
  /-- AMO, RED (R128); `pop`: AMO, which returns its old value -/
  | amo (r : AmoReq) (ret : Bool)
  /-- VSTG (R161) -/
  | vstg (addr : Word) (x : VReg)
  /-- L1INV (`inv`), L1WB (R126) -/
  | l1op (start len : Word) (inv : Bool)
  /-- SPART (R130) -/
  | spart (slice ways : Nat)
  /-- FLADD (`add`), FLSET (R288, R298): cores, word, value; `rem` a remote device -/
  | flagw (cores : Word) (stack core : Nat) (word : Fin 64) (x : BitVec 32) (add : Bool) (remote : Option (BitVec 13))
  /-- CPY … CPWB (R201) -/
  | copy (c : CopyCmd)
  /-- MDRAIN (R229) -/
  | drain (c : DrainCmd)
  /-- K-slot ladder and merge-cell operations, LCNT's read among them (R257, R269) -/
  | ladder (c : LadderCmd)
  /-- TSPAWN (R324) -/
  | spawn (desc : Word)
  /-- GLOAD (R331): domain word, address, rows -/
  | gload (dom addr : Word) (n : Nat)
  /-- VTAB (R331) -/
  | vtab (dom addr : Word)
  /-- WNEXT's request (R49): pool -/
  | wnext (pool : Fin 16)
  /-- a slot load replayed by RLAND under SPDATA (R380): offsets of the words, by lane -/
  | spload (offs : List (Option Nat)) (size : Nat) (signed : Bool)
  /-- an accumulator row replayed by RLAND under SPDATA (R380) -/
  | rowload (bank : Fin 8) (row : Fin 128) (half : Bool)
  deriving DecidableEq, Repr

/-- Outstanding work of a core: an access or command that has issued and has not completed (R278, R192, R258). -/
structure Work where
  /-- issue number: the order of issue (R196) -/
  seq : Nat
  ctx : Fin 1024
  job : BitVec 32
  /-- syllable index of the issuing bundle and its slot (R372, R387) -/
  bun : Word
  slot : Fin 8
  /-- opcode of the issuing operation (R372) -/
  opc : BitVec 8
  dreg : Fin 64
  dist : BitVec 16
  path : Fin 6
  cls : Fin 16
  ring : Option (Fin 8)
  inc : Nat
  kind : WorkKind
  /-- byte intervals [lo, hi) of the addresses it touches, as computed (R208, R281) -/
  foot : List (Nat × Nat)
  /-- its accesses have performed (R278) -/
  performed : Bool
  /-- it has completed; its increment may still be held (R196) -/
  done : Bool
  /-- its ring failure or refusal: code and address (R385, R401) -/
  fail : Option (BitVec 16 × Word)
  /-- walk level, slice, core or status for SUB (R371) -/
  failSub : BitVec 16
  /-- issued by a trap handler (R378, R379) -/
  handler : Bool
  /-- a host answer with nonzero status, or none (R401) -/
  hostStatus : Option (BitVec 16)
  /-- cycle in which the work distributor first held it (R23), or in which its host messages left (R358, R401) -/
  heldSince : Option Nat
  /-- host messages of it sent: 0 none, 1 its reads, 2 its writes (R358); of a `WNEXT`: 0 not judged yet, 1 held, 2 in the queue
  (R23) -/
  hostStage : Fin 3
  /-- acknowledgements outstanding of a remote copy (R362) or of `DREN` increments -/
  acks : Nat
  /-- tags of its messages to the host that are not answered (R358) -/
  tags : List (BitVec 16)
  /-- reads of host memory that have been answered for it: address and length (R358) -/
  seen : List (Nat × Nat)
  deriving DecidableEq, Repr

/-- What RLAND can supply or replay (R380): the access and the destination it lands in. -/
structure Replay where
  kind : WorkKind
  dest : Landing
  cls : Fin 16
  seq : Nat
  deriving DecidableEq, Repr

/-- A fault as it would enter the handler (R370, R371). -/
structure FaultRec where
  code : BitVec 16
  sub : BitVec 16
  slot : Option (Fin 8)
  v0 : Word
  v1 : Word
  v2 : Word
  replay : Option Replay
  deriving DecidableEq, Repr

/-- A result in flight (R26–R30). -/
structure Flight where
  /-- landing schedule cycle -/
  due : Nat
  seq : Nat
  /-- counts toward R29 (R345) -/
  counts : Bool
  act : Landing
  /-- FSTAT bits set at landing (R90) -/
  flags : BitVec 6
  /-- ASTAT bits set at landing (R163) -/
  aflags : Word
  /-- the value has arrived (R28, R30) -/
  ready : Bool
  /-- the work it waits for, when not ready -/
  src : Nat
  fault : Option FaultRec
  /-- issued by a trap handler (R378) -/
  handler : Bool
  deriving DecidableEq, Repr

/-- A deferred fault that has reached the context (R379). -/
structure Deferred where
  seq : Nat
  handler : Bool
  what : FaultRec
  deriving DecidableEq, Repr

/-- A place of the AMO return queue (R128, R129). -/
structure AmoPlace where
  seq : Nat
  wide : Bool
  value : Option Word
  fault : Option FaultRec
  deriving DecidableEq, Repr

/-- The operations of the X slot (R209). -/
inductive XKind where
  | exp | trn | cvt | zvc | fill
  deriving DecidableEq, Repr

/-- An X operation with beats to come (R210, R211), with all it read at issue (R91, R100). -/
structure XOp where
  kind : XKind
  seq : Nat
  slot : Fin 8
  bun : Word
  t : Nat
  beats : Nat
  dst : Nat
  src : Nat
  counts : Word
  fill : Word
  width : Fin 4
  fmt : Word
  scl : Vector (BitVec 32) 16
  fsrc : Frame
  fdst : Frame
  lreg : Fin 64
  /-- chunks read so far -/
  nread : Nat
  /-- chunks landed so far -/
  nland : Nat
  /-- source and destination bytes used so far by compressed sectors -/
  srcUsed : Nat
  dstUsed : Nat
  /-- outputs computed and not yet landed: their bytes and flags, oldest first -/
  pend : List (List Byte × BitVec 6)
  /-- the first chunk whose source holds a word with an uncorrectable error, with its scratchpad offset: it does not land (R393) -/
  bad : Option (Nat × Nat)
  /-- issued by a trap handler (R378) -/
  handler : Bool
  deriving DecidableEq, Repr

/-- A condition a context waits on under R31. -/
inductive Wait where
  /-- earlier accesses of the context to the local bytes whose keys are [lo, lo + n) (R281) -/
  | earlier (lo n : Nat)
  /-- AWAIT (R197) -/
  | ringFill (g : Fin 8) (n : BitVec 32)
  /-- ring room (R195) -/
  | ringRoom (g : Fin 8) (inc : Nat)
  /-- copy queue room (R192) -/
  | copyRoom (engine : Fin 2)
  /-- ladder queue room (R258) -/
  | ladderRoom
  /-- drain unit room (R231) -/
  | drainRoom
  /-- operand ring room of the issuing core (R202) -/
  | tileRoom (o : Fin 8) (n : Nat)
  /-- the array and tiles (R222) -/
  | array (a b : Fin 8)
  /-- RINIT's wait for the ring's commands (R200) -/
  | ringEnd (g : Fin 8)
  /-- FLWAIT (R298): word, condition, value -/
  | flag (w : Fin 64) (cc : Fin 4) (x : BitVec 32)
  /-- DSYNC: level (R291) -/
  | barrier (level : Fin 5)
  /-- TCOMMIT: every access released (R326) -/
  | released
  /-- TCOMMIT.ORD: no older task (R321) -/
  | oldest
  /-- a hold that is not granted (R310–R312): kind, object, opcode of the operation that asks -/
  | hold (kind : BitVec 6) (obj : Word) (opc : BitVec 8)
  /-- retraction: the built-in inverse under way, or the task's ladder operations (R320, R354) -/
  | ladderIdle
  deriving DecidableEq, Repr

/-- Whether a context of a core has been started (R31, R36, R37). -/
inductive Run where
  | unstarted | started | halted
  deriving DecidableEq, Repr

/-- What a shadow copy holds beside the registers (R396): the transfer set aside at trap entry, with the record of the entry. -/
structure Shadow where
  arch : Arch
  pending : Option Transfer
  entryBun : Word
  hidden : Option Replay
  deriving DecidableEq, Repr

/-- One context. -/
structure Ctx where
  arch : Arch
  run : Run
  flight : List Flight
  amoq : List AmoPlace
  xops : List XOp
  deferred : List Deferred
  /-- what the context waits on; empty when it does not wait (R31) -/
  waits : List Wait
  /-- the DSYNC under way: level, and whether the context has arrived (R46, R291) -/
  sync : Option (Fin 5 × Bool)
  /-- cycles ready and not selected (R32) -/
  waitCount : Nat
  /-- the transfer a trap set aside (R370, R376) -/
  pending : Option Transfer
  /-- TBUN as trap entry wrote it, to tell whether the handler has written it (R376) -/
  entryBun : Word
  /-- what RLAND may supply or replay (R372, R380) -/
  hidden : Option Replay
  /-- last X operation's t and N (R211) -/
  lastX : Nat × Nat
  shadow : Shadow
  /-- an uncorrectable error lies in the shadow copy (R398) -/
  shadowBad : Bool
  /-- R397 -/
  repeatFlag : Bool
  /-- bundle and cycle of the HALT (R135) -/
  haltCycle : Nat
  /-- the hold request under way has been granted (R310, R328) -/
  granted : Bool
  /-- syllable index of the bundle that issued last (R371 TARGET) -/
  lastBun : Word
  /-- the satisfying flag value that a waiting FLWAIT has read (R298) -/
  flagSeen : Option (BitVec 32)
  /-- the fault of a hold request of the bundle next to issue (R310, R312) -/
  holdFault : Option FaultRec
  /-- a slice has answered the hold request under way with a wait (R311, R312) -/
  asked : Bool
  /-- the fault that the bundle next to issue has been found to have, with the bundle (R375) -/
  standing : Option (Word × FaultRec)
  deriving DecidableEq, Repr

/-! ### Cores -/

/-- An operand ring `o` (R220). -/
structure ORing where
  slm : BitVec 6
  tsz : BitVec 8
  baseu : BitVec 11
  clm : BitVec 7
  head : BitVec 32
  tail : BitVec 32
  deriving DecidableEq, Repr

/-- The state word of an accumulator bank `e` (R224). -/
structure Bank where
  own : BitVec 16
  anc : BitVec 8
  mode : BitVec 2
  al : Bool
  deriving DecidableEq, Repr

/-- A write held in a bank's arbitrated-port buffer (R172, R193): scratchpad offset, bytes, the work and path it is of, and
the requester of the port: copy engines 0 and 1, drain unit, transform unit, ladder unit, mesh port, massif port. One of no byte is
the turn that a read takes. -/
structure BufWrite where
  off : Nat
  bytes : List Byte
  seq : Nat
  ctx : Fin 1024
  path : Fin 6
  cls : Fin 16
  req : Fin 7
  deriving DecidableEq, Repr

/-- A line of an L1 (R177): set, way, line address PA div 1024, sector valid and dirty bits, the 8-byte code words with an
uncorrectable error, by number in the line (R392), data, last use. -/
structure L1Line where
  set : Nat
  way : Nat
  line : Nat
  valid : BitVec 4
  dirty : BitVec 4
  bad : List Nat
  data : Vector VReg 4
  used : Nat
  deriving DecidableEq, Repr

/-- A translation held in a TLB (R171): job, page number at its level, level, page base, write permission. -/
structure TlbEntry where
  job : BitVec 32
  page : Nat
  level : Fin 3
  base : Nat
  w : Bool
  deriving DecidableEq, Repr

/-- A rollback in progress (R398): pass, clocks at detection, and each pass's counts and signatures by context. -/
structure Rolling where
  pass : Nat
  since : Nat
  goal : List (Fin 4 × Nat)
  counts : List (Fin 4 × Nat × BitVec 64)
  first : List (Fin 4 × Nat × BitVec 64)
  deriving DecidableEq, Repr

/-- One core: what its four contexts share. -/
structure Core where
  /-- the job that runs on the core (R39) -/
  job : Option (BitVec 32)
  quant : BitVec 16
  evsel : Vector Word 16
  evcnt : Vector Word 16
  /-- counters written in this cycle, whose events of the cycle are not counted (R366) -/
  evHold : BitVec 16
  o : Vector ORing 8
  e : Vector Bank 8
  /-- the context that issued last (R32) -/
  last : Option (Fin 4)
  /-- bundles since the holder was selected (R32) -/
  streak : Nat
  /-- contexts that YIELD has moved to last place, latest last (R136) -/
  yielded : List (Fin 4)
  /-- the context that holds the issue width (R32) -/
  holder : Option (Fin 4)
  /-- the step in the array: cycle of retirement, tiles claimed of each ring (R221) -/
  array : Option (Nat × List (Fin 8 × Nat))
  buf : List BufWrite
  /-- the requester that each bank's arbitrated port served last, and the ports that have served a granule in this cycle (R172) -/
  served : Vector (Fin 7) 32
  portBusy : BitVec 32
  l1 : List L1Line
  /-- accesses of L1, by which its lines are ordered (R177) -/
  l1clock : Nat
  tlb : List TlbEntry
  work : List Work
  /-- syllables of the core's code section (R342) -/
  codeLen : Nat
  retired : Bool
  rolling : Option Rolling
  /-- grant floor after a restore (R43): one more than the credits still owed; 0 when no floor is in force -/
  floor : Nat
  /-- cycle in which the job's turn began (R39) -/
  turnStart : Nat
  /-- first cycle after a save or restore in which the core may issue (R43) -/
  busyUntil : Nat
  /-- units that the shadow save has written to the save area, with their bytes as written (R42) -/
  shadowed : List (Nat × List Host.Cell)
  /-- spare lanes left on the two vertical buses (R406) -/
  spares : Nat × Nat
  deriving DecidableEq, Repr

/-- A core saved for a job (R40): its contexts and its own state, as other agents have changed them since (R41). All of it lies in the
save area (R437), which a restore reads back; `kept` holds, by place in the image, the bytes that the save wrote of what stands here as
well. -/
structure SavedCore where
  job : BitVec 32
  core : Fin 256
  ctxs : List Ctx
  o : Vector ORing 8
  e : Vector Bank 8
  last : Option (Fin 4)
  work : List Work
  codeLen : Nat
  kept : List Host.Cell
  /-- cycle since which the job waits for the core (R39) -/
  since : Nat
  deriving DecidableEq, Repr

/-! ### Massif slices -/

/-- A line of a slice in cache mode (R179, R181). -/
structure SliceLine where
  set : Nat
  way : Nat
  line : Nat
  rank : Nat
  valid : BitVec 4
  dirty : BitVec 4
  used : Nat
  deriving DecidableEq, Repr

/-- A hold entry (R310, R313). -/
structure Hold where
  job : BitVec 32
  dom : BitVec 8
  seq : Word
  ctx : Fin 1024
  obj : Word
  kinds : BitVec 64
  deriving DecidableEq, Repr

/-- One massif slice. -/
structure Slice where
  /-- R180 -/
  ways : Nat
  /-- the job that holds the window (R167) -/
  holder : Option (BitVec 32)
  lines : List SliceLine
  clock : Nat
  holds : List Hold
  sevsel : Vector Word 8
  sevcnt : Vector Word 8
  sevHold : BitVec 8
  /-- next sector of the patrol scrubber (R395) -/
  patrol : Nat
  /-- slice accesses of class 0 and hold requests of class 3 spent in the period (R367) -/
  spent0 : Nat
  spent3 : Nat
  deriving DecidableEq, Repr

/-! ### Jobs -/

/-- A record of a start vector (R35). -/
structure StartRec where
  ctx : Fin 1024
  entry : BitVec 32
  memb : BitVec 5
  prio : BitVec 2
  args : Vector Word 8
  deriving DecidableEq, Repr

/-- A work pool of one clause (R47–R50). -/
structure Pool where
  kind : BitVec 2
  order : BitVec 3
  x : Nat
  y : Nat
  z : Nat
  next : Nat
  isOpen : Bool
  gcore : BitVec 8
  gflag : BitVec 8
  gval : BitVec 32
  deriving DecidableEq, Repr

/-- A task in a pool's queue (R305). -/
structure TaskItem where
  seq : Word
  desc : Word
  clause : Fin 4
  gate : Option (Nat × Nat × BitVec 32)
  met : Bool
  running : Option (Fin 1024)
  deriving DecidableEq, Repr

/-- A task domain (R301, R302). -/
structure Domain where
  word : BitVec 8
  ctr : Word
  grammar : Vector Word 64
  loaded : Nat
  verbs : Vector Word 64
  /-- uncommitted tasks (R303), queued and running -/
  tasks : List TaskItem
  deriving DecidableEq, Repr

/-- The fields of a job end record (R374). -/
structure EndRec where
  state : BitVec 8
  ctx : Nat
  sched : Word
  tcause : Word
  tbun : Word
  tslot : Word
  v0 : Word
  v1 : Word
  v2 : Word
  deriving DecidableEq, Repr

/-- How far a job has come: accepted, running, or ending with the record it will write (R36, R37, R373). -/
inductive JobPhase where
  | waiting | running
  | ending (r : EndRec)
  /-- the record is written (0); the notify word is read (1) or written (2): tag of the message, cycle it left in (R359, R373) -/
  | telling (stage : Fin 3) (tag : BitVec 16) (since : Nat)
  deriving DecidableEq, Repr

/-- A job that has been accepted and is not complete (R35, R359). -/
structure Job where
  id : BitVec 32
  phase : JobPhase
  jpri : BitVec 3
  slice : BitVec 32
  sppages : BitVec 8
  pooltab : Word
  snapbase : Word
  root : Word
  image : Word
  notify : Word
  /-- module and tag of the START, answered when it takes effect (R359) -/
  answer : Option (Fin 8 × BitVec 16)
  recs : List StartRec
  pools : Vector Pool 64
  domains : List Domain
  /-- paragraph barriers at which this device has arrived, and that have released (R363) -/
  parArrived : Nat
  parReleased : Nat
  deriving DecidableEq, Repr

/-! ### Host, links, management -/

/-- A message the device has sent to the host (R357): type, tag, address, length or status, data. -/
structure HostMsg where
  type : BitVec 4
  tag : BitVec 16
  addr : Word
  len : BitVec 32
  data : List Byte
  deriving DecidableEq, Repr

/-- On whose behalf the device writes to host memory outside any work: a core whose L1 is written back, a job whose data or record it
is, another device's remote write, which came on a port under a `SEQ` and is acknowledged with the last answer (R291, R358, R362). -/
inductive Owner where
  | core (c : Fin 256)
  | job (j : BitVec 32)
  | remote (p : Fin 16) (n : BitVec 24) (dev : BitVec 13) (a : Word) (j : BitVec 32)
  deriving DecidableEq, Repr

/-- A `WRITE` of the device, outside any work, that the host has not answered: its tag and the cycle it left in (R358, R401). -/
structure Post where
  tag : BitVec 16
  since : Nat
  owner : Owner
  deriving DecidableEq, Repr

/-- What the device does outside any work that may have to read host memory first (R358): write part of a sector (R435), take a
`START` (R359), restore a core (R40), write a flag word of a saved core (R41) for another device, or for a deposit that completed a
merge cell; and of the task unit, for a context: write the abort into a descriptor, a step of a retraction (R320), a commit (R321). -/
inductive AskKind where
  | put (owner : Owner) (pa : Nat) (bs : List Byte)
  | start (m : Fin 8) (t : BitVec 16) (x : List Byte)
  | restore (j : BitVec 32) (c : Fin 256)
  | flag (j : BitVec 32) (c : Fin 256) (word : Nat) (x : BitVec 32) (add : Bool) (dev : BitVec 13) (a : Word)
  | cell (j : BitVec 32) (c : Fin 256) (word : Nat) (src : Fin 256) (seq : Nat)
  | abort (k : Fin 1024) (desc : Word) (why trsn : Nat)
  | retract (k : Fin 1024)
  | commit (k : Fin 1024) (opc : Nat)
  deriving DecidableEq, Repr

/-- Such an action while its reads are not answered: the tags of its messages, the reads answered so far, the cycle the last message
left in, and the host's answer if it was an error (R358, R401). -/
structure Ask where
  what : AskKind
  tags : List (BitVec 16)
  seen : List (Nat × Nat)
  since : Nat
  status : BitVec 16
  deriving DecidableEq, Repr

/-- A Sveth flit (R361). -/
structure Flit where
  ddev : BitVec 13
  sdev : BitVec 13
  kind : BitVec 4
  plen : BitVec 10
  seq : BitVec 24
  addr : Word
  payload : List Byte
  job : BitVec 32
  /-- cycle in which it left last, and how often it has been sent again (R409) -/
  sent : Nat
  resent : Nat
  deriving DecidableEq, Repr

/-- A Sveth port (R361, R409). -/
structure Port where
  up : Bool
  tx : BitVec 24
  rx : BitVec 24
  unacked : List Flit
  deriving DecidableEq, Repr

/-- An increment on its way to a ring of another context (R199). -/
structure Dren where
  src : Fin 1024
  dst : Fin 1024
  job : BitVec 32
  ring : Fin 8
  inc : Nat
  /-- the issuer's work, whose ring fails with DESTRING (R386) -/
  seq : Nat
  deriving DecidableEq, Repr

/-- A `TLBINV` whose `ACK` is held: its tag, and the accesses in flight that it waits for, by core and issue number (R360). -/
structure Inval where
  tag : BitVec 16
  works : List (Fin 256 × Nat)
  deriving DecidableEq, Repr

/-- Arrivals counted by the master device for one paragraph barrier (R363). -/
structure ParCount where
  job : BitVec 32
  k : BitVec 32
  devs : List (BitVec 13)
  deriving DecidableEq, Repr

/-- The flag add that a completed merge cell owes: job, core and word, and the deposit that completed it, by core and issue number
(R271, R288, R258). -/
structure CellAdd where
  job : BitVec 32
  core : Fin 256
  word : Nat
  src : Fin 256
  seq : Nat
  deriving DecidableEq, Repr

/-! ### Issue -/

/-- The register a slot writes, for R62 and the SUB of WRITERS (R371): file and number. -/
structure WReg where
  file : BitVec 8
  reg : BitVec 8
  deriving DecidableEq, Repr

/-- What a slot operation asks for at issue (R375): its faults, its writes and results, the banks it reads and writes, and
what it must wait for. -/
structure Probe where
  slot : Fin 8
  faults : List FaultRec
  writes : List WReg
  results : Nat
  rbanks : BitVec 32
  wbanks : BitVec 32
  waits : List Wait
  /-- source chunks of an X operation that later beats read, and scratchpad bytes that a slot stores: offset, length (R211) -/
  unread : List (Nat × Nat)
  stores : List (Nat × Nat)
  deriving DecidableEq, Repr

/-- How `exec` runs a slot operation: alone (a bundle of one slot), or as one slot of a bundle, whose checks are made before
any slot takes effect (R375). -/
inductive Phase where
  | whole | check | effect
  deriving DecidableEq, Repr

/-- What came of the bundle that is issuing. -/
inductive Flow where
  /-- it issues, and control goes on -/
  | issued
  /-- it does not issue: the context waits (R31) -/
  | waiting
  /-- it does not issue, or control has been passed elsewhere (R370, R133, R373) -/
  | diverted
  /-- it issues, and a transfer with no delay bundle sets the next bundle (R133, R134, R328, R330) -/
  | jumped (target : Word)
  deriving DecidableEq, Repr

/-- An item of the agenda: an event, and the cycle before whose first turn it may happen. -/
structure Due where
  cycle : Nat
  event : Instr
  deriving DecidableEq, Repr

/-- The reasons for which a step could stop with a fault. There is none: R2 gives every use of the machine either an effect
or a report, and every report of it is a next state (a handler entered, a ring failed, a job ended, an answer sent). -/
inductive Fault where
  /-- raised by no step of this model; kept so that the type says what a fault would name. Safe. -/
  | unspecified (what : String)
  deriving DecidableEq, Repr

/-- The reasons for which a step can be refused. -/
inductive Refusal where
  /-- raised by an arm of `exec` for an instruction that has no meaning yet, with its mnemonic. Safe: nothing runs. -/
  | notModelled (mnemonic : String)
  deriving DecidableEq, Repr

/-- The whole device. -/
structure State where
  /-- cycles since reset (R3) -/
  cycle : Nat
  /-- the core whose turn it is in this cycle: MODEL -/
  turn : Fin 256
  /-- events that happen before later issues: MODEL -/
  agenda : List Due
  /-- whether pending work completes by itself at the end of a cycle, or only by the agenda: MODEL -/
  auto : Bool
  /-- the context an operation issues for, and its slot: MODEL -/
  cur : Fin 1024
  slot : Fin 8
  phase : Phase
  probes : List Probe
  flow : Flow
  /-- issue number of the next operation: MODEL -/
  seq : Nat
  /-- every byte of memory, global by physical address and local by its address of R165 -/
  mem : List Host.Cell
  /-- stored code words with an uncorrectable error (R393), by the key of their first byte -/
  bad : List Nat
  ctxs : Vector Ctx 1024
  cores : Vector Core 256
  slices : Vector Slice 256
  /-- second-level TLBs (R171) -/
  tlb2 : Vector (List TlbEntry) 4
  jobs : List Job
  saved : List SavedCore
  /-- jobs that have ended, each with the paragraph barriers at which this device has arrived (R363) -/
  ended : List (BitVec 32 × Nat)
  /-- `TLBINV`s not answered yet (R360) -/
  invals : List Inval
  dren : List Dren
  par : List ParCount
  /-- the sample of R21: temperature codes, thresholds in force with it, number -/
  temps : Vector (BitVec 16) 256
  threshNow : Vector (BitVec 16) 4
  sample : BitVec 16
  /-- a sample has been taken since reset (R22, R365) -/
  sampled : Bool
  /-- management registers (R365) -/
  devid : BitVec 13
  psize : BitVec 14
  thresh : Vector (BitVec 16) 4
  budget : Vector (BitVec 16) 5
  route : List (Nat × BitVec 4)
  /-- units spent by classes 1 and 2 on each core in the period (R367) -/
  spent1 : Vector Nat 256
  spent2 : Vector Nat 256
  /-- granules that the two copy engines of each core have moved in the period, and in periods past of the command that each is at
  (class 4) -/
  spent4 : Vector (Nat × Nat) 256
  moved4 : Vector (Nat × Nat) 256
  ports : Vector Port 16
  /-- UCIe modules in use (R408) -/
  modules : BitVec 8
  outbox : List HostMsg
  /-- messages that the access being performed needs to send to the host (R358): MODEL -/
  want : List HostMsg
  /-- tag of the next message to the host -/
  txTag : BitVec 16
  /-- writes to host memory outside any work that are not answered (R358) -/
  posts : List Post
  /-- actions outside any work that wait for reads of host memory (R358) -/
  asks : List Ask
  /-- keys of the flag words that have been written in this cycle, and merge-cell adds to come (R288) -/
  flagged : List Nat
  cellAdds : List CellAdd
  /-- units of the image of a core, by number, that have been written since its shadow save wrote them (R42) -/
  dirty : List (Fin 256 × Nat)
  /-- code words of slices and HBM with a correctable error (R392, R395), by the address of their first byte -/
  soft : List Nat
  /-- bring-up has come past step 5 (R368), the firmware verified, some HBM stack failed (R410) -/
  ready : Bool
  fwOk : Bool
  hbmFail : Bool
  /-- digest of the running firmware, of the latest START's image, and its job (R364) -/
  fwDigest : BitVec 512
  lastDigest : BitVec 512
  lastJob : BitVec 32
  /-- arguments of the free values of Config: MODEL -/
  free : Nat
  deriving DecidableEq, Repr

/-! ### Reset -/

/-- A ring as R194 resets it. -/
def Ring.reset : Ring := ⟨0, 0, 0, 0, 0, 0, 0, 0⟩

/-- A frame as R67 resets it. -/
def Frame.reset : Frame := ⟨0, 0, 0, false, 0⟩

/-- A pattern as R186 resets it. -/
def Pattern.reset : Pattern := ⟨Vector.replicate 24 0⟩

/-- An unbound handle (R260). -/
def Handle.reset : Handle := ⟨false, 0, 0, 0⟩

/-- The task state of R309 at reset. -/
def Task.reset : Task := ⟨0, 0, 0, 0, false, false, false, false, 0, 0, 0, 0, 0, 0, [], 0, false, []⟩

/-- The registers of a context after reset: CSRs and frames as R66–R76 state; `s`, `p`, `v`, `m`, `w`, `SCL` zero but for
the fixed `p0` and `m0` (DESIGN CHOICE: no reset value is given; R37 sets them at a start). -/
def Arch.reset : Arch :=
  { s := Vector.replicate 64 0, p := (Vector.replicate 16 false).set 0 true, v := Vector.replicate 64 0,
    m := (Vector.replicate 16 0).set 0 (BitVec.allOnes 64), w := Vector.replicate 8 0, wbase := 0,
    h := Vector.replicate 16 Handle.reset, g := Vector.replicate 8 Ring.reset, a := Vector.replicate 8 Pattern.reset,
    d := Vector.replicate 8 Frame.reset, fmt := 0, scl := Vector.replicate 16 0, sched := 0, pc := 0, xfer := none,
    loops := [], prio := 0, hm := false, task := false, verb := false, slraise := false, tvec := 0, tcause := 0,
    tbun := 0, tslot := 0, tval0 := 0, tval1 := 0, tval2 := 0, snapbase := 0, dmemb := 0, astat := 0, fstat := 0,
    tsk := Task.reset }

/-- A context after reset: not started (R36), nothing in flight. -/
def Ctx.reset : Ctx :=
  { arch := Arch.reset, run := .unstarted, flight := [], amoq := [], xops := [], deferred := [], waits := [], sync := none,
    waitCount := 0, pending := none, entryBun := 0, hidden := none, lastX := (0, 0), shadow := ⟨Arch.reset, none, 0, none⟩,
    shadowBad := false, repeatFlag := false, haltCycle := 0, granted := false, lastBun := 0,
    flagSeen := none, holdFault := none, asked := false, standing := none }

/-- An operand ring after reset (R220). -/
def ORing.reset : ORing := ⟨0, 0, 0, 0, 0, 0⟩

/-- A bank state word after reset (R224): unallocated. -/
def Bank.reset : Bank := ⟨0, 0, 0, false⟩

/-- A core after reset. -/
def Core.reset : Core :=
  { job := none, quant := 0, evsel := Vector.replicate 16 0, evcnt := Vector.replicate 16 0, evHold := 0,
    o := Vector.replicate 8 ORing.reset, e := Vector.replicate 8 Bank.reset, last := none, streak := 0, yielded := [],
    holder := none, array := none, buf := [], served := Vector.replicate 32 0, portBusy := 0, l1 := [], l1clock := 0, tlb := [],
    work := [], codeLen := 0, retired := false,
    rolling := none, floor := 0, turnStart := 0, busyUntil := 0, shadowed := [], spares := (4, 4) }

/-- A slice after reset (R180, R368): WAYS 0, no line. -/
def Slice.reset : Slice :=
  { ways := 0, holder := none, lines := [], clock := 0, holds := [], sevsel := Vector.replicate 8 0,
    sevcnt := Vector.replicate 8 0, sevHold := 0, patrol := 0, spent0 := 0, spent3 := 0 }

/-- A port before training (R368): up, nothing sent. -/
def Port.reset : Port := ⟨true, 0, 0, []⟩

/-- The machine right after reset: every register at the value the spec states, or the one the assumption log names;
bring-up is still to come (R368), so no START is accepted yet. -/
def State.reset : State :=
  { cycle := 0, turn := 0, agenda := [], auto := true, cur := 0, slot := 0, phase := .whole, probes := [],
    flow := .issued, seq := 0, mem := [], bad := [], ctxs := Vector.replicate 1024 Ctx.reset,
    cores := Vector.replicate 256 Core.reset, slices := Vector.replicate 256 Slice.reset,
    tlb2 := Vector.replicate 4 [], jobs := [], saved := [], ended := [], invals := [], dren := [], par := [], temps := Vector.replicate 256 0,
    threshNow := Vector.replicate 4 0x0154, sample := 0, sampled := false, devid := 0, psize := 1, thresh := Vector.replicate 4 0x0154,
    budget := #v[16, 64, 128, 2048, 0], route := [], want := [], txTag := 0, posts := [], asks := [], flagged := [], cellAdds := [], dirty := [], soft := [],
    spent1 := Vector.replicate 256 0, spent2 := Vector.replicate 256 0, spent4 := Vector.replicate 256 (0, 0), moved4 := Vector.replicate 256 (0, 0),
    ports := Vector.replicate 16 Port.reset, modules := 0xFF, outbox := [], ready := false, fwOk := false,
    hbmFail := false, fwDigest := 0, lastDigest := 0, lastJob := 0, free := 0 }

end Sys2Proof.Machine
end

