-- ==== Sys2Proof/Machine/Ops.lean ====
section
/-! DEFINITION. The named operations over memory and registers, taking an exception and returning from one, and how a slot
operation issues: its checks in the order of R375, its waits (R31), its effect. Everything above uses these. -/

namespace Sys2Proof.Machine

/-! ### Bytes -/

/-- The `n` low bytes of `x`, least significant first (R4). -/
def leBytes : Nat → Nat → List Byte
  | 0, _ => []
  | n + 1, x => BitVec.ofNat 8 x :: leBytes n (x / 256)

/-- The number that bytes, least significant first, make. -/
def leVal : List Byte → Nat
  | [] => 0
  | b :: r => b.toNat + 256 * leVal r

/-- The sum of the `n` values `f 0 …`, each shifted by `w` bits: how lanes make a register (R65). -/
def packNat (w : Nat) (f : Nat → Nat) : Nat → Nat
  | 0 => 0
  | n + 1 => packNat w f n + f n * 2 ^ (w * n)

/-- Element `i` of width `w` of a vector register (R65, R82). -/
def elem (x : VReg) (w i : Nat) : BitVec w := x.extractLsb' (w * i) w

/-- The vector register whose 32-bit lanes are `f 0 … f 63`. -/
def ofLanes (f : Nat → BitVec 32) : VReg := BitVec.ofNat 2048 (packNat 32 (fun i => (f i).toNat) 64)

/-- The vector register with element `i` of width `w` given by `f`, for the `n` = 2048 / w elements. -/
def ofElems (w n : Nat) (f : Nat → BitVec w) : VReg := BitVec.ofNat 2048 (packNat w (fun i => (f i).toNat) n)

/-- A vector register's 256 bytes, byte 0 first. -/
def vBytes (x : VReg) : List Byte := leBytes 256 x.toNat

/-- The lanes of `x` named by a mask over those of `old` (R57, R141). -/
def mergeLanes (old x : VReg) (lanes : Word) : VReg :=
  ofLanes fun i => if lanes.getLsbD i then elem x 32 i else elem old 32 i

/-! ### Memory -/

/-- What a byte that nothing has written reads as: 0 (R368 zeroes the on-die memories; elsewhere DESIGN CHOICE). -/
def unlisted (_ : Nat) : Byte := 0

/-- The byte at a key. -/
def memGet : List Host.Cell → Nat → Byte
  | [], a => unlisted a
  | (k, v) :: r, a => if k = a then v else memGet r a

/-- The cells that bytes from `a` on make, those equal to what an unlisted address reads as left out. -/
def cellsFrom : Nat → List Byte → List Host.Cell
  | _, [] => []
  | a, b :: r => if b = unlisted a then cellsFrom (a + 1) r else (a, b) :: cellsFrom (a + 1) r

/-- Writes bytes from key `a` on; the canonical form is kept. -/
def memWrite (m : List Host.Cell) (a : Nat) (bs : List Byte) : List Host.Cell :=
  m.filter (fun c => decide (c.1 < a)) ++ cellsFrom a bs ++ m.filter (fun c => decide (a + bs.length ≤ c.1))

/-- The cells of [a, a + n). -/
def memWindow (m : List Host.Cell) (a n : Nat) : List Host.Cell :=
  m.filter fun c => decide (a ≤ c.1) && decide (c.1 < a + n)

/-- Reads `n` bytes from key `a` on. -/
def memRead (m : List Host.Cell) (a n : Nat) : List Byte :=
  (List.range n).map fun i => memGet (memWindow m a n) (a + i)

/-- Sets [a, a + n) to 0. -/
def memClear (m : List Host.Cell) (a n : Nat) : List Host.Cell :=
  m.filter fun c => decide (c.1 < a) || decide (a + n ≤ c.1)

/-- Moves the bytes of [a, a + n) to [b, b + n), leaving zeros; the two do not overlap where this is used. -/
def memMove (m : List Host.Cell) (a b n : Nat) : List Host.Cell :=
  (memWindow m a n).foldl (fun r c => memWrite r (c.1 - a + b) [c.2]) (memClear (memClear m a n) b n)

/-- The canonical form: keys strictly rising, no entry equal to what an unlisted address reads as. -/
def memWf : List Host.Cell → Bool
  | [] => true
  | (k, v) :: r => v != unlisted k && r.all (fun c => decide (k < c.1)) && memWf r

/-- A little-endian number of `n` bytes in memory. -/
def memVal (m : List Host.Cell) (a n : Nat) : Nat := leVal (memRead m a n)

/-! ### Addresses -/

/-- The key of a byte of a local space: its address of R165. -/
def localKey (space unit off : Nat) : Nat := 0xF000000000000000 + space * 2 ^ 56 + unit * 2 ^ 48 + off

/-- The fields of a local address (R165), when the address is one. -/
def localAddr (a : Word) : Option (Nat × Nat × Nat) :=
  if a.toNat / 2 ^ 60 = 0xF then some (a.toNat / 2 ^ 56 % 16, a.toNat / 2 ^ 48 % 256, a.toNat % 2 ^ 48) else none

/-- A global virtual address (R165). -/
def isGlobal (a : Word) : Bool := a.toNat < 2 ^ 48

/-- The size of a local space's unit (R166); `ways` is the slice's WAYS. -/
def spaceSize (space ways : Nat) : Nat :=
  match space with
  | 0 => 0x60000
  | 1 => 0x80000
  | 2 => ways * 0x100000
  | 3 => 0x100
  | 4 => 0x80000
  | _ => 0

/-- The scratchpad's size (R166). -/
def spadSize : Nat := 0x60000

/-- The home slice of a physical address (R168). -/
def homeOf (pa : Nat) : Fin 256 :=
  let h := (pa / 2 ^ 12 % 8) ^^^ (pa / 2 ^ 24 % 8) ^^^ (pa / 2 ^ 36 % 8)
  let die := if pa / 2 ^ 47 % 2 = 0 then h / 2 else pa / 2 ^ 12 % 4
  let loc := (pa / 2 ^ 10 % 64) ^^^ (pa / 2 ^ 16 % 64) ^^^ (pa / 2 ^ 22 % 64) ^^^ (pa / 2 ^ 28 % 64) ^^^ (pa / 2 ^ 34 % 32)
  Fin.ofNat 256 (die % 4 * 64 + loc % 64)

/-! ### Contexts and cores -/

/-- The core of a context (R14). -/
def coreOf (k : Fin 1024) : Fin 256 := Fin.ofNat 256 (k.val / 4)

/-- The number of a context within its core (R14). -/
def subOf (k : Fin 1024) : Fin 4 := Fin.ofNat 4 (k.val % 4)

/-- Context `i` of core `c` (R14). -/
def ctxId (c : Fin 256) (i : Fin 4) : Fin 1024 := Fin.ofNat 1024 (c.val * 4 + i.val)

/-- The stack of a core (R14). -/
def stackOf (c : Fin 256) : Fin 4 := Fin.ofNat 4 (c.val / 64)

def ctxAt (s : State) (k : Fin 1024) : Ctx := s.ctxs[k]

def setCtx (s : State) (k : Fin 1024) (c : Ctx) : State := { s with ctxs := s.ctxs.set k c }

def modCtx (s : State) (k : Fin 1024) (f : Ctx → Ctx) : State := setCtx s k (f (ctxAt s k))

/-- Changes the registers of a context. -/
def modArch (s : State) (k : Fin 1024) (f : Arch → Arch) : State := modCtx s k fun c => { c with arch := f c.arch }

/-- Changes the task state of a context. -/
def modTask (s : State) (k : Fin 1024) (f : Task → Task) : State := modArch s k fun a => { a with tsk := f a.tsk }

def coreAt (s : State) (c : Fin 256) : Core := s.cores[c]

def setCore (s : State) (c : Fin 256) (x : Core) : State := { s with cores := s.cores.set c x }

def modCore (s : State) (c : Fin 256) (f : Core → Core) : State := setCore s c (f (coreAt s c))

def sliceAt (s : State) (u : Fin 256) : Slice := s.slices[u]

def modSlice (s : State) (u : Fin 256) (f : Slice → Slice) : State := { s with slices := s.slices.set u (f (sliceAt s u)) }

/-- The issuing context. -/
def curCtx (s : State) : Ctx := ctxAt s s.cur

/-- The registers of the issuing context. -/
def curArch (s : State) : Arch := (ctxAt s s.cur).arch

/-- The core of the issuing context. -/
def curCore (s : State) : Core := coreAt s (coreOf s.cur)

/-- The job that holds the core of context `k`; 0 when none does. -/
def jobOf (s : State) (k : Fin 1024) : BitVec 32 := ((coreAt s (coreOf k)).job).getD 0

def findJob (s : State) (j : BitVec 32) : Option Job := s.jobs.find? fun x => x.id = j

def modJob (s : State) (j : BitVec 32) (f : Job → Job) : State :=
  { s with jobs := s.jobs.map fun x => if x.id = j then f x else x }

/-- The cores a job names (R36). -/
def Job.names (j : Job) (c : Fin 256) : Bool := j.recs.any fun r => coreOf r.ctx = c

/-- Whether the job named by `j` holds core `c` (R167): it names it and has not ended. -/
def holdsCore (s : State) (j : BitVec 32) (c : Fin 256) : Bool :=
  match findJob s j with
  | some x => x.names c && x.phase != .waiting
  | none => false

/-- Whether core `c` runs job `j`: its local state is then the live one, and otherwise the saved image (R41, R167). -/
def liveAt (s : State) (j : BitVec 32) (c : Fin 256) : Bool := decide ((coreAt s c).job = some j)

/-- A core as it is saved for a job (R40). -/
def findSaved (s : State) (j : BitVec 32) (c : Fin 256) : Option SavedCore := s.saved.find? fun x => x.job = j ∧ x.core = c

/-- A context of a job, running or saved (R41). -/
def ringTarget (s : State) (j : BitVec 32) (k : Fin 1024) : Option Ctx :=
  if liveAt s j (coreOf k) then some (ctxAt s k)
  else (findSaved s j (coreOf k)).bind fun x => x.ctxs[(subOf k).val]?

/-- Changes that context. -/
def modTarget (s : State) (j : BitVec 32) (k : Fin 1024) (f : Ctx → Ctx) : State :=
  if liveAt s j (coreOf k) then modCtx s k f
  else { s with saved := s.saved.map fun x =>
    if x.job = j ∧ x.core = coreOf k then
      { x with ctxs := (x.ctxs.zipIdx).map fun q => if q.2 = (subOf k).val then f q.1 else q.1 } else x }

/-! ### Registers -/

/-- `s`n; `s0` reads 0 (R65). -/
def rS (a : Arch) (i : Fin 64) : Word := if i = 0 then 0 else a.s[i]

/-- `p`n; `p0` reads 1 (R65). -/
def rP (a : Arch) (i : Fin 16) : Bool := if i = 0 then true else a.p[i]

/-- `m`n; `m0` is all ones (R65). -/
def rM (a : Arch) (i : Fin 16) : Word := if i = 0 then BitVec.allOnes 64 else a.m[i]

/-- `v`n. -/
def rV (a : Arch) (i : Fin 64) : VReg := a.v[i]

/-- Writes an `s` register; a write to `s0` is discarded (R56). -/
def wS (a : Arch) (i : Fin 64) (x : Word) : Arch := if i = 0 then a else { a with s := a.s.set i x }

/-- Writes a `p` register; a write to `p0` is discarded (R56). -/
def wP (a : Arch) (i : Fin 16) (x : Bool) : Arch := if i = 0 then a else { a with p := a.p.set i x }

/-- Writes bits of an `m` register; a write to `m0` is discarded (R56). -/
def wM (a : Arch) (i : Fin 16) (x lanes : Word) : Arch :=
  if i = 0 then a else { a with m := a.m.set i ((x &&& lanes) ||| (a.m[i] &&& ~~~lanes)) }

/-- Writes lanes of a `v` register. -/
def wV (a : Arch) (i : Fin 64) (x : VReg) (lanes : Word) : Arch :=
  { a with v := a.v.set i (if lanes = BitVec.allOnes 64 then x else mergeLanes a.v[i] x lanes) }

/-- Whether an S-slot RR or BR operation takes effect (R57). -/
def guarded (a : Arch) (p : Fin 16) (n : Bool) : Bool := rP a p != n

/-- The lane mask of a V-slot RR operation (R57). -/
def laneMask (a : Arch) (p : Fin 16) (n : Bool) : Word := if n then ~~~(rM a p) else rM a p

/-- Fields of FMT (R66). -/
def fmtA (f : Word) : BitVec 4 := f.extractLsb' 0 4
def fmtB (f : Word) : BitVec 4 := f.extractLsb' 4 4
def fmtO (f : Word) : BitVec 4 := f.extractLsb' 8 4
def fmtR (f : Word) : BitVec 2 := f.extractLsb' 12 2
def fmtSat (f : Word) : Bool := f.getLsbD 14
def fmtDith (f : Word) : Bool := f.getLsbD 15

/-- The LDEPTH of STATUS (R70, R132). -/
def ldepth (a : Arch) : Nat := a.loops.length

/-- `STATUS` (R70). -/
def statusWord (a : Arch) : Word :=
  BitVec.ofNat 64 (bit a.verb * 64 + bit a.task * 32 + ldepth a % 8 * 4 + bit a.slraise * 2 + bit a.hm)

/-! ### Event counters -/

/-- Adds `n` events of source `src` to the counters of a core that select it (R76, R366). -/
def bumpCore (c : Core) (src n : Nat) : Core :=
  { c with evcnt := Vector.ofFn fun i : Fin 16 =>
      if (c.evsel[i]).getLsbD 16 && (c.evsel[i]).toNat % 2 ^ 16 == src && !c.evHold.getLsbD i.val then
        c.evcnt[i] + BitVec.ofNat 64 n else c.evcnt[i] }

/-- Counts events of a core (R366). -/
def countEvent (s : State) (c : Fin 256) (src n : Nat) : State := modCore s c fun x => bumpCore x src n

/-- Counts events of a slice (R366). -/
def countSlice (s : State) (u : Fin 256) (src n : Nat) : State :=
  modSlice s u fun x =>
    { x with sevcnt := Vector.ofFn fun i : Fin 8 =>
        if (x.sevsel[i]).getLsbD 16 && (x.sevsel[i]).toNat % 2 ^ 16 == src && !x.sevHold.getLsbD i.val then
          x.sevcnt[i] + BitVec.ofNat 64 n else x.sevcnt[i] }

/-! ### Faults and exceptions -/

/-- A fault without a replay. -/
def mkFault (code sub : Nat) (slot : Option (Fin 8)) (v0 v1 v2 : Word) : FaultRec :=
  ⟨BitVec.ofNat 16 code, BitVec.ofNat 16 sub, slot, v0, v1, v2, none⟩

/-- TCAUSE of a fault (R72). -/
def causeWord (f : FaultRec) : Word := BitVec.ofNat 64 (f.sub.toNat * 2 ^ 16 + f.code.toNat)

/-- TSLOT of a fault (R72, R370). -/
def slotWord (f : FaultRec) : Word :=
  match f.slot with
  | some n => BitVec.ofNat 64 (16 + n.val)
  | none => 0

/-- A job ends by a fault (R373), one that is completing among them: its contexts stop here; the crest die finishes its issued commands, writes the record and
notifies once they are done. -/
def jobEnd (s : State) (j : BitVec 32) (r : EndRec) : State :=
  { modJob s j (fun x => match x.phase with
      | .running => { x with phase := .ending r }
      | .waiting => x
      | .ending q => if q.state = 0 then { x with phase := .ending r } else x
      | .telling _ _ _ => x) with flow := .diverted }

/-- A context enters its handler: what it has issued so far, a handler's earlier run among it, has not been issued by this one (R378,
R379). -/
def enterRun (k : Fin 1024) (s : State) : State :=
  let s := modCtx s k fun c => { c with
    flight := c.flight.map fun f => { f with handler := false }
    xops := c.xops.map fun x => { x with handler := false }
    deferred := c.deferred.map fun d => { d with handler := false } }
  modCore s (coreOf k) fun c => { c with work := c.work.map fun w => if w.ctx = k then { w with handler := false } else w }

/-- Taking an exception (R370), for every kind of fault: with traps disabled or in handler mode the job ends; otherwise the
cause, bundle, slot and values are saved, the pending transfer is set aside, handler mode is entered, and the handler's first
bundle is next. -/
def trapEnter (k : Fin 1024) (f : FaultRec) (bun : Word) (s : State) : State :=
  let c := ctxAt s k
  let a := c.arch
  if !a.tvec.getLsbD 32 || a.hm then
    jobEnd s (jobOf s k) ⟨if a.hm then 2 else 1, k.val, a.sched, causeWord f, bun, slotWord f, f.v0, f.v1, f.v2⟩
  else
    let s := modCtx (enterRun k s) k fun c => { c with
      arch := { a with tcause := causeWord f, tbun := bun, tslot := slotWord f, tval0 := f.v0, tval1 := f.v1, tval2 := f.v2,
                       hm := true, xfer := none, pc := a.tvec &&& 0xFFFFFFFF },
      pending := a.xfer, entryBun := bun, hidden := f.replay, waits := [], holdFault := none, granted := false,
      asked := false, flagSeen := none, standing := none }
    countEvent { s with flow := .diverted } (coreOf k) 0x000D 1

/-- Entering the handler by TRAP (R133), after every other slot of its bundle: the bundle that would issue next is saved (that of
a transfer another slot has made, if any), results and loops go on. -/
def trapByInstr (k : Fin 1024) (imm : BitVec 16) (after : Word) (s : State) : State :=
  let next := match s.flow with
    | .jumped t => t
    | _ => after
  let s := modCtx (enterRun k s) k fun c => { c with
    arch := { c.arch with tcause := BitVec.ofNat 64 (imm.toNat * 2 ^ 16 + 1), tbun := next, tslot := 16,
                          tval0 := 0, tval1 := 0, tval2 := 0, hm := true },
    pending := none, entryBun := next, hidden := none }
  countEvent { s with flow := .jumped ((ctxAt s k).arch.tvec &&& 0xFFFFFFFF) } (coreOf k) 0x000D 1

/-- The landing cycle of a result that `RLAND` supplies or replays: no cycle of the handler, but the first bundle after
`ERET` (R139). -/
def afterReturn : Nat := 2 ^ 65

/-- Returning from an exception (R134, R139, R376): handler mode ends; the next bundle is the one at TBUN, a TBUN the handler
has not written gets its pending transfer back, and what `RLAND` recorded is due at that bundle. -/
def trapReturn (k : Fin 1024) (s : State) : State :=
  let c := ctxAt s k
  let keep := c.arch.tbun == c.entryBun
  { setCtx s k { c with arch := { c.arch with hm := false, xfer := if keep then c.pending else none },
                        flight := c.flight.map fun f => if f.due = afterReturn then { f with due := c.arch.sched.toNat + 1 } else f,
                        pending := none, hidden := none } with flow := .jumped c.arch.tbun }

/-! ### Results in flight -/

/-- Results in flight of a context (R29, R345); X operations count until their last beat lands (R211). -/
def inFlight (c : Ctx) : Nat := (c.flight.filter (·.counts)).length + c.xops.length

/-- Adds a result of the issuing context, due `lat` schedule cycles on (R26). -/
def pushFlight (s : State) (f : Flight) : State := modCtx s s.cur fun c => { c with flight := c.flight ++ [f] }

/-- The schedule cycle of the issuing bundle. -/
def now (s : State) : Nat := (curArch s).sched.toNat

/-- A result with its value known at issue (R26, R77). -/
def land (lat : Nat) (act : Landing) (flags : BitVec 6) (s : State) : State :=
  pushFlight s ⟨now s + lat, s.seq, true, act, flags, 0, true, 0, none, (curArch s).hm⟩

/-- A write with a fixed landing cycle that does not count toward R29 (R345). -/
def landFree (lat : Nat) (act : Landing) (s : State) : State :=
  pushFlight s ⟨now s + lat, s.seq, false, act, 0, 0, true, 0, none, (curArch s).hm⟩

/-- A result whose value is still to come from the work numbered `src` (R28, R30). -/
def landLate (lat : Nat) (act : Landing) (src : Nat) (s : State) : State :=
  pushFlight s ⟨now s + lat, s.seq, true, act, 0, 0, false, src, none, (curArch s).hm⟩

/-! ### Scratchpad accesses of the slots -/

/-- The key of a scratchpad offset of a core that runs. -/
def spadKey (c : Fin 256) (off : Nat) : Nat := localKey 0 c.val off

/-- The bank of a scratchpad offset (R64). -/
def bankOf (off : Nat) : Nat := off / 64 % 32

/-- The banks that `n` bytes from `off` touch (R64). -/
def bankMask (off n : Nat) : BitVec 32 :=
  if n = 0 then 0
  else (List.range ((off + n - 1) / 64 - off / 64 + 1)).foldl (fun b i => b ||| (1#32 <<< ((off / 64 + i) % 32))) 0

/-- The tiles of a core that issued steps have claimed and not yet popped (R221), as scratchpad intervals. -/
def claimedTiles (c : Core) : List (Nat × Nat) :=
  match c.array with
  | none => []
  | some (_, cl) => cl.map fun q =>
    let o := c.o[q.1]
    let size := o.tsz.toNat * 256
    let lo := o.baseu.toNat * 256 + q.2 % (o.slm.toNat + 1) * size
    (lo, lo + size)

/-- Whether [lo, lo + n) meets one of a list of intervals. -/
def meets (l : List (Nat × Nat)) (lo n : Nat) : Bool := l.any fun q => decide (q.1 < lo + n) && decide (lo < q.2)

/-- The bytes of the code word at a key (R392): 32 in massif windows and global memory, 4 in flag files, 8 elsewhere. -/
def codeWord (w : Nat) : Nat :=
  let a := w % 2 ^ 64
  if a < 2 ^ 48 then 32 else if a / 2 ^ 56 % 16 = 2 then 32 else if a / 2 ^ 56 % 16 = 3 then 4 else 8

/-- Whether some byte of [a, a + n) lies in a code word with an uncorrectable error (R392, R393). -/
def badAt (s : State) (a n : Nat) : Bool := s.bad.any fun w => decide (w < a + n) && decide (a < w + codeWord w)

/-- The bad words of which [a, a + n) covers a part only (R393). -/
def badParts (s : State) (a n : Nat) : List Nat :=
  s.bad.filter fun w => decide (w < a + n) && decide (a < w + codeWord w) && !(decide (a ≤ w) && decide (w + codeWord w ≤ a + n))

/-- Whether [a, a + n) writes part of a bad word. -/
def badPart (s : State) (a n : Nat) : Bool := !(badParts s a n).isEmpty

/-- The numbers of the units of a core's image (R42): register group `g` of context `i`, page of the scratchpad, quarter of a bank. -/
def groupUnit (i g : Nat) : Nat := i * 11 + g
def pageUnit (p : Nat) : Nat := 64 + p
def quarterUnit (q : Nat) : Nat := 256 + q

/-- Those of some units of a core that its shadow save has written. -/
def shadowedOf (s : State) (c : Fin 256) (us : List Nat) : List (Fin 256 × Nat) :=
  (us.filter fun u => (coreAt s c).shadowed.any fun q => q.1 = u).map fun u => (c, u)

/-- The units that a write of [a, a + n) makes dirty again (R42). -/
def writtenUnits (s : State) (a n : Nat) : List (Fin 256 × Nat) :=
  match localAddr (BitVec.ofNat 64 a) with
  | none => []
  | some (sp, c, off) =>
    let span (size : Nat) : List Nat := (List.range ((off + n + size - 1) / size - off / size)).map fun i => off / size + i
    shadowedOf s (Fin.ofNat 256 c)
      (if sp = 0 then (span 4096).map pageUnit else if sp = 1 then (span 0x4000).map quarterUnit else if sp = 3 then [513] else [])

/-- Notes units as dirty. -/
def addDirty (l us : List (Fin 256 × Nat)) : List (Fin 256 × Nat) := us.filter (fun u => !l.contains u) ++ l

/-- Writes memory: code words that are written whole are replaced with their check bits; a bad word written in part stays as it
is (R393). -/
def putBytes (s : State) (a : Nat) (bs : List Byte) : State :=
  let part := badParts s a bs.length
  let new := if part.isEmpty then bs
    else bs.zipIdx.map fun q =>
      if part.any fun w => decide (w ≤ a + q.2) && decide (a + q.2 < w + codeWord w) then memGet s.mem (a + q.2) else q.1
  { s with mem := memWrite s.mem a new,
           bad := s.bad.filter fun w => !(decide (a ≤ w) && decide (w + codeWord w ≤ a + bs.length)),
           soft := s.soft.filter fun w => !(decide (w < a + bs.length) && decide (a < w + codeWord w)),
           dirty := addDirty s.dirty (writtenUnits s a bs.length) }

/-- The bytes of a running core's scratchpad as its arbitrated port reads them: the bank together with its write buffer (R193,
R279). -/
def arbRead (s : State) (c : Fin 256) (off n : Nat) : List Byte :=
  (coreAt s c).buf.foldl (fun r w =>
    (List.range n).map fun i =>
      if w.off ≤ off + i ∧ off + i < w.off + w.bytes.length then w.bytes.getD (off + i - w.off) 0 else r.getD i 0)
    (memRead s.mem (spadKey c off) n)

/-- A write through a core's arbitrated port: it enters the bank buffers granule by granule (R172, R193). `req` is the requester
of the port. -/
def arbWrite (s : State) (w : Work) (req : Fin 7) (c : Fin 256) (off : Nat) (bs : List Byte) : State :=
  let pieces := (List.range ((off + bs.length + 63) / 64 - off / 64)).map fun i =>
    let lo := max off ((off / 64 + i) * 64)
    let hi := min (off + bs.length) ((off / 64 + i + 1) * 64)
    (⟨lo, (bs.drop (lo - off)).take (hi - lo), w.seq, w.ctx, w.path, w.cls, req⟩ : BufWrite)
  modCore s c fun x => { x with buf := x.buf ++ pieces.filter fun p => p.bytes ≠ [] }

/-- A read of a core's arbitrated port takes a turn of each bank that it touches (R172), once in the cycle that the port serves it;
what it reads is the bank with its buffer, so its bytes do not wait. -/
def arbTurn (s : State) (w : BufWrite) (c : Fin 256) (n : Nat) : State :=
  let turns := (List.range ((w.off + n + 63) / 64 - w.off / 64)).map fun i => { w with off := max w.off ((w.off / 64 + i) * 64), bytes := [] }
  modCore s c fun x => { x with buf := x.buf ++ turns }

/-- Serves every buffered write of a core into its banks (R172), in order. -/
def serveAll (s : State) (c : Fin 256) : State :=
  let b := (coreAt s c).buf.filter fun w => w.bytes ≠ []
  let s := b.foldl (fun s w => putBytes s (spadKey c w.off) w.bytes) s
  modCore s c fun x => { x with buf := [] }

/-- Whether two buffered writes share a byte. -/
def bufMeet (x y : BufWrite) : Bool :=
  x.bytes != [] && y.bytes != [] && decide (x.off < y.off + y.bytes.length) && decide (y.off < x.off + x.bytes.length)

/-- The buffered writes of a bank that its port may serve: the first of each requester (R172), with none before it, of any
requester, that writes one of its bytes. -/
def bankHeads (q : List BufWrite) : List BufWrite :=
  (q.zipIdx.filter fun x => !((q.take x.2).any fun y => y.req == x.1.req || bufMeet y x.1)).map (·.1)

/-- The write that a bank's port serves: of the requester that follows, in order, the one served last (R172). -/
def nextGranule (last : Fin 7) (heads : List BufWrite) : Option BufWrite :=
  (List.range 7).findSome? fun i => heads.find? fun w => w.req.val == (last.val + 1 + i) % 7

/-- One bank's arbitrated port serves a granule, if it has served none in the cycle: it is written, and leaves the buffer. -/
def serveBank (s : State) (c : Fin 256) (b : Fin 32) : State :=
  let x := coreAt s c
  if x.portBusy.getLsbD b.val then s
  else
  match nextGranule x.served[b] (bankHeads (x.buf.filter fun w => bankOf w.off = b.val)) with
  | none => s
  | some w =>
    modCore (putBytes s (spadKey c w.off) w.bytes) c fun x =>
      { x with buf := x.buf.erase w, served := x.served.set b w.req }

/-- One cycle of the arbiters of a core (R172): each bank's port serves one granule. -/
def serveBanks (s : State) (c : Fin 256) : State :=
  modCore ((List.finRange 32).foldl (fun s b => serveBank s c b) s) c fun x => { x with portBusy := 0 }

/-- The transform unit takes the ports of the granules that a beat touches, at its schedule cycle (R211). -/
def takePorts (s : State) (c : Fin 256) (off n : Nat) : State :=
  let m := bankMask off n
  modCore s c fun x => { x with
    portBusy := x.portBusy ||| m, served := Vector.ofFn fun b : Fin 32 => if m.getLsbD b.val then 3 else x.served[b] }

/-! ### Home slices (R179–R182) -/

/-- A physical address in host memory (R168). -/
def isHost (pa : Nat) : Bool := decide (2 ^ 47 ≤ pa)

/-- The tag of no message but the reports of bring-up (R368; the spec names none). -/
def reportTag : BitVec 16 := 0xFFFF

/-- The messages of a read or write of host memory (R358): a `READ`, or `WRITE`s of at most 192 bytes. -/
def readMsg (pa n : Nat) : HostMsg := ⟨0, 0, BitVec.ofNat 64 pa, BitVec.ofNat 32 n, []⟩
def writeMsgs (pa : Nat) (bs : List Byte) : List HostMsg :=
  (List.range ((bs.length + 191) / 192)).map fun i =>
    let d := (bs.drop (192 * i)).take 192
    ⟨1, 0, BitVec.ofNat 64 (pa + 192 * i), BitVec.ofNat 32 d.length, d⟩

/-- Adds messages to the host (R357). -/
def sendHost (s : State) (ms : List HostMsg) : State := { s with outbox := s.outbox ++ ms }

/-- The tag after a tag. -/
def nextTag (t : BitVec 16) : BitVec 16 := if t = 0xFFFE then 0 else t + 1

/-- Sends device messages, each under a tag of its own; the tags. -/
def postMsgs (ms : List HostMsg) (s : State) : List (BitVec 16) × State :=
  ms.foldl (fun q m => (q.1 ++ [q.2.txTag], { sendHost q.2 [{ m with tag := q.2.txTag }] with txTag := nextTag q.2.txTag })) ([], s)

/-- Messages that the access under way has to send. -/
def wantMsgs (s : State) (ms : List HostMsg) : State := if ms.isEmpty then s else { s with want := s.want ++ ms }

/-- Sends what accesses outside any work have asked of the host, which they do not wait for. -/
def flushWant (s : State) : State := if s.want.isEmpty then s else (postMsgs s.want { s with want := [] }).2

/-- The way a new line of a set takes: the lowest invalid cache way, else the lowest rank, least recently used (R181,
R435). `ways` of the window do not cache. -/
def victimWay (u : Slice) (set : Nat) : Option Nat :=
  let lines := u.lines.filter fun l => l.set = set
  let free := (List.range 16).find? fun w => decide (u.ways ≤ w) && !lines.any fun l => l.way = w
  match free with
  | some w => some w
  | none =>
    (lines.filter fun l => u.ways ≤ l.way).foldl (fun (b : Option SliceLine) l =>
      match b with
      | none => some l
      | some x => if l.rank < x.rank ∨ (l.rank = x.rank ∧ l.used < x.used) then some l else some x) none |>.map (·.way)

/-- The line of a home slice that caches an address. -/
def sliceLine (s : State) (pa : Nat) : Option SliceLine := (sliceAt s (homeOf pa)).lines.find? fun l => l.line = pa / 1024

/-- Whether the home slice holds the sector of an address valid. -/
def sliceHas (s : State) (pa : Nat) : Bool := (sliceLine s pa).any fun l => l.valid.getLsbD (pa / 256 % 4)

/-- Whether the home slice of an address caches at all (R179). -/
def sliceCaches (s : State) (pa : Nat) : Bool := decide ((sliceAt s (homeOf pa)).ways < 16)

/-- The `WRITE`s by which the dirty sectors of a line of host memory return to the host. -/
def lineWrites (s : State) (l : SliceLine) : List HostMsg :=
  if isHost (l.line * 1024) then
    (List.range 4).flatMap fun i =>
      if l.dirty.getLsbD i then writeMsgs (l.line * 1024 + 256 * i) (memRead s.mem (l.line * 1024 + 256 * i) 256) else []
  else []

/-- One access of a home slice to a sector: its place in the cache is found or made (R179, R181, R435), and the slice's
events counted (R366). `write`: the sector becomes dirty. `rank`: the keep rank a ladder access sets. A victim's dirty sectors of
host memory are written back. -/
def sliceTouch (s : State) (pa : Nat) (write : Bool) (rank : Option Nat) : State :=
  let u := homeOf pa
  let s := countSlice s u 0x0100 1
  let s := if sliceHas s pa then s else countSlice s u 0x0101 1
  let x := sliceAt s u
  let set := pa / 2 ^ 16 % 1024
  let sec : BitVec 4 := 1#4 <<< (pa / 256 % 4)
  let dirt : BitVec 4 := if write then sec else 0
  if x.lines.any (fun l => l.line = pa / 1024) then
    modSlice s u fun x => { x with clock := x.clock + 1, lines := x.lines.map fun l =>
      if l.line = pa / 1024 then
        { l with valid := l.valid ||| sec, dirty := l.dirty ||| dirt, used := x.clock + 1, rank := rank.getD l.rank } else l }
  else
    match victimWay x set with
    | none => s
    | some w =>
      let s := match x.lines.find? fun l => l.set = set ∧ l.way = w with
        | some l =>
          let s := if l.dirty ≠ 0 then countSlice s u 0x0102 1 else s
          let s := if l.rank ≠ 0 then countSlice s u 0x0107 1 else s
          (postMsgs (lineWrites s l) s).2
        | none => s
      modSlice s u fun x => { x with clock := x.clock + 1, lines :=
        ⟨set, w, pa / 1024, rank.getD 0, sec, dirt, x.clock + 1⟩ :: x.lines.filter fun l => !(l.set = set && l.way = w) }

/-- An access corrects the code words of its bytes that have a correctable error, and counts them (R392, R395). -/
def correctWords (s : State) (u : Fin 256) (a n : Nat) : State :=
  let hit (w : Nat) : Bool := decide (w < a + n) && decide (a < w + codeWord w)
  let k := (s.soft.filter hit).length
  if k = 0 then s else countSlice { s with soft := s.soft.filter fun w => !hit w } u 0x0106 k

/-- Reads bytes of one sector at their home slice; a sector of host memory that the slice does not hold is read from the host
first (R179, R358). -/
def homeRead (s : State) (pa n : Nat) (rank : Option Nat) : List Byte × State :=
  let ms := if !isHost pa || sliceHas s pa then []
    else if sliceCaches s pa then [readMsg (pa / 256 * 256) 256] else [readMsg pa n]
  (memRead s.mem pa n, correctWords (sliceTouch (wantMsgs s ms) pa false rank) (homeOf pa) pa n)

/-- Writes bytes of one sector at their home slice; part of a sector of host memory that it does not hold fills that sector first
(R435), and a slice that caches nothing passes the write to the host (R179). -/
def homeWrite (s : State) (pa : Nat) (bs : List Byte) (rank : Option Nat) : State :=
  let ms := if !isHost pa then []
    else if !sliceCaches s pa then writeMsgs pa bs
    else if sliceHas s pa || decide (bs.length = 256) then []
    else [readMsg (pa / 256 * 256) 256]
  sliceTouch (putBytes (correctWords (wantMsgs s ms) (homeOf pa) pa bs.length) pa bs) pa true rank

/-- The bytes of an atomic at its home slice: from a valid sector, else, in host memory, from the host. -/
def atomicRead (s : State) (pa n : Nat) : List Byte × State :=
  if isHost pa then
    (memRead s.mem pa n, if sliceHas s pa then sliceTouch s pa false none else wantMsgs s [readMsg pa n])
  else homeRead s pa n none

/-- The write of an atomic: to host memory it is passed on to the host (R359), so that the host reads it. -/
def atomicWrite (s : State) (pa : Nat) (bs : List Byte) : State :=
  if isHost pa then wantMsgs (putBytes s pa bs) (writeMsgs pa bs) else homeWrite s pa bs none

/-! ### Translation (R169–R171) -/

/-- A refusal of an access: its code and SUB (R371, R401). -/
structure Refused where
  code : BitVec 16
  sub : BitVec 16
  deriving DecidableEq, Repr

/-- A leaf of the table tree. -/
structure Leaf where
  level : Fin 3
  base : Nat
  w : Bool
  deriving DecidableEq, Repr

/-- The page size of a leaf level, as a power of two (R169). -/
def pageBits (l : Nat) : Nat := if l = 2 then 30 else if l = 1 then 21 else 16

/-- The index of a virtual address at a level (R169). -/
def levelIndex (va l : Nat) : Nat := if l = 0 then va / 2 ^ 16 % 32 else va / 2 ^ (12 + 9 * l) % 512

/-- What the entry `e` of level `l` says (R169, R170): a leaf, the next table, or nothing valid. -/
inductive Entry where
  | leaf (base : Nat) (w : Bool)
  | table (t : Nat)
  | bad
  deriving DecidableEq, Repr

/-- Reads an entry's fields, with the checks of R170. -/
def entryOf (l e : Nat) : Entry :=
  let addr := e / 2 ^ 12 % 2 ^ 36 * 2 ^ 12
  let tlo := e / 2 ^ 8 % 16
  let leaf : Bool := e / 2 % 2 == 1
  if e % 2 = 0 ∨ e / 2 ^ 48 ≠ 0 ∨ e / 2 ^ 4 % 16 ≠ 0 ∨ e / 4 % 2 = 1 then .bad
  else if tlo ≠ 0 ∧ (leaf = true ∨ l ≠ 1) then .bad
  else if leaf then
    if 3 ≤ l ∨ addr % 2 ^ pageBits l ≠ 0 ∨ (addr < 2 ^ 47 ∧ 2 ^ 39 ≤ addr) then .bad else .leaf addr (e / 8 % 2 == 1)
  else if l = 0 ∨ 2 ^ 39 ≤ addr then .bad
  else .table (addr + tlo * 2 ^ 8)

/-- Walks the tables from the one at `t` of level `l` down (R169, R170); every table read is served by the home slice of its
line (R171). -/
def walk (va : Nat) : (l : Nat) → (t : Nat) → State → Except Refused Leaf × State
  | l, t, s =>
    let a := t + 8 * levelIndex va l
    if badAt s a 8 then (.error ⟨0x0019, 0⟩, (homeRead s a 8 none).2)
    else
      let q := homeRead s a 8 none
      match entryOf l (leVal q.1) with
      | .bad => (.error ⟨0x0018, BitVec.ofNat 16 l⟩, q.2)
      | .leaf base w => (.ok ⟨Fin.ofNat 3 l, base, w⟩, q.2)
      | .table t' =>
        match l with
        | 0 => (.error ⟨0x0018, BitVec.ofNat 16 l⟩, q.2)
        | l' + 1 => walk va l' t' q.2

/-- The entry of a TLB that maps a virtual address for a job. -/
def tlbFind (l : List TlbEntry) (j : BitVec 32) (va : Nat) : Option TlbEntry :=
  l.find? fun e => e.job = j ∧ e.page = va / 2 ^ pageBits e.level.val

/-- Adds an entry in the place of one for the same page, dropping the oldest beyond the capacity (DESIGN CHOICE: the spec names no
replacement). -/
def tlbAdd (cap : Nat) (l : List TlbEntry) (e : TlbEntry) : List TlbEntry :=
  (e :: l.filter fun x => !(x.job = e.job && x.page = e.page && x.level = e.level)).take cap

/-- The entry that translates an access of core `c` for job `j` (R169–R171): of the core's TLB, of the die's, then of a walk. A write
needs W: an entry without it does not serve a write, whose refusal no TLB holds (R401). -/
def xlateEntry (s : State) (c : Fin 256) (j : BitVec 32) (va : Nat) (write : Bool) : Except Refused TlbEntry × State :=
  let find (l : List TlbEntry) : Option TlbEntry := (tlbFind l j va).filter fun e => !write || e.w
  match find (coreAt s c).tlb with
  | some e => (.ok e, s)
  | none =>
    let s := countEvent s c 0x0007 1
    match find (s.tlb2[stackOf c]) with
    | some e => (.ok e, modCore s c fun x => { x with tlb := tlbAdd 512 x.tlb e })
    | none =>
      match findJob s j with
      | none => (.error ⟨0x0018, 3⟩, s)
      | some job =>
        match walk va 3 job.root.toNat s with
        | (.error r, s) => (.error r, s)
        | (.ok f, s) =>
          let e : TlbEntry := ⟨j, va / 2 ^ pageBits f.level.val, f.level, f.base, f.w⟩
          if write && !f.w then (.error ⟨0x0018, BitVec.ofNat 16 (16 + f.level.val)⟩, s)
          else
            let s := modCore s c fun x => { x with tlb := tlbAdd 512 x.tlb e }
            (.ok e, { s with tlb2 := s.tlb2.set (stackOf c) (tlbAdd 8192 (s.tlb2[stackOf c]) e) })

/-- Translates an access of core `c` for job `j` (R169–R171). -/
def xlate (s : State) (c : Fin 256) (j : BitVec 32) (va : Nat) (write : Bool) : Except Refused Nat × State :=
  match xlateEntry s c j va write with
  | (.ok e, s) => (.ok (e.base + va % 2 ^ pageBits e.level.val), s)
  | (.error r, s) => (.error r, s)

/-! ### The saved image of a core (R437) -/

/-- The cores that records name, in increasing order (R36). -/
def namedCores (recs : List StartRec) : List (Fin 256) := (List.finRange 256).filter fun c => recs.any fun r => coreOf r.ctx = c

/-- The virtual address of byte `off` of the image of a core of a job (R437). -/
def imageVa (j : Job) (c : Fin 256) (off : Nat) : Nat :=
  j.snapbase.toNat + 64 + ((namedCores j.recs).filter fun d => d.val < c.val).length * 0x180000 + off

/-- Where a byte of a local space lies in an image, in the device's own order: the flag file, pages of the scratchpad that are
saved, accumulator memory. Instruction stores are not saved (R40). -/
def imageOffset (pages space off : Nat) : Option Nat :=
  match space with
  | 0 => if off < pages * 4096 then some (0x300C0 + off) else none
  | 1 => some (0x900C0 + off)
  | 3 => some (0xC0 + off)
  | _ => none

/-- The physical address of a byte of a saved core's local space in its job's save area. -/
def imagePa (s : State) (j : BitVec 32) (c : Fin 256) (space off : Nat) (write : Bool) : Option Nat × State :=
  match findJob s j with
  | none => (none, s)
  | some x =>
    match if x.names c then imageOffset x.sppages.toNat space off else none with
    | none => (none, s)
    | some o =>
      let va := imageVa x c o
      match walk va 3 x.root.toNat s with
      | (.ok f, s) => (if write && !f.w then none else some (f.base + va % 2 ^ pageBits f.level.val), s)
      | (.error _, s) => (none, s)

/-- Bytes of a saved core's local space; those that the image does not hold, an instruction store's among them, read as 0. DESIGN
CHOICE (see the log): R40 keeps no instruction store in the image, and no rule names what an access to it reads there. -/
def imageRead (s : State) (j : BitVec 32) (c : Fin 256) (space off n : Nat) : List Byte × State :=
  match imagePa s j c space off false with
  | (some pa, s) => homeRead s pa n none
  | (none, s) => (List.replicate n 0, s)

/-- The key under which the mark of a code word of a core's local space stands while a job has the core saved. -/
def asideKey (j : BitVec 32) (space : Nat) (c : Fin 256) (off : Nat) : Nat := localKey space c.val off + (j.toNat + 1) * 2 ^ 64

/-- Writes bytes of a saved core's local space in its image; those that the image does not hold are dropped. Code words that it writes
whole are in error no more (R393). -/
def imageWrite (s : State) (j : BitVec 32) (c : Fin 256) (space off : Nat) (bs : List Byte) : State :=
  let a := asideKey j space c off
  match imagePa s j c space off true with
  | (some pa, s) =>
    homeWrite { s with bad := s.bad.filter fun w => !(decide (a ≤ w) && decide (w + codeWord w ≤ a + bs.length)) } pa bs none
  | (none, s) => s

/-- The flag word of a core as a job sees it (R166 space 3, R41). -/
def flagOf (s : State) (j : BitVec 32) (c : Fin 256) (w : Nat) : BitVec 32 :=
  BitVec.ofNat 32 (if liveAt s j c then memVal s.mem (localKey 3 c.val (4 * w)) 4 else leVal (imageRead s j c 3 (4 * w) 4).1)

/-! ### L1 (R177, R178) -/

/-- The lowest started context of a job on a core, running or saved there; 0 when no core is concerned (R394). -/
def lowestStarted (s : State) (j : BitVec 32) (c : Option (Fin 256)) : Nat :=
  match c with
  | none => 0
  | some c =>
    match (List.finRange 4).find? fun i => (ringTarget s j (ctxId c i)).any fun x => decide (x.run ≠ .unstarted) with
    | some i => (ctxId c i).val
    | none => 0

/-- A job ends by an event of the machine (R394): `STATE`, `CODE` and `SUB`, the rest 0. -/
def machineEnd (s : State) (j : BitVec 32) (st code sub : Nat) (c : Option (Fin 256)) : State :=
  jobEnd s j ⟨BitVec.ofNat 8 st, lowestStarted s j c, 0, BitVec.ofNat 64 (sub * 2 ^ 16 + code), 0, 0, 0, 0, 0⟩

/-- Stored data of a core is lost: its job ends (R392, R394). -/
def lostData (s : State) (c : Fin 256) (sub : Nat) : State := machineEnd s (((coreAt s c).job).getD 0) 3 0x90 sub (some c)

/-- The set of a physical address in L1. -/
def l1Set (pa : Nat) : Nat := pa / 1024 % 128

/-- The 8-byte code words of sector `i` of an L1 line with an uncorrectable error (R392). -/
def L1Line.badIn (l : L1Line) (i : Nat) : List Nat := l.bad.filter fun w => w / 32 = i

/-- Whether one of the words of [pa, pa + n) of an L1 line has an uncorrectable error. -/
def L1Line.badAt (l : L1Line) (pa n : Nat) : Bool := l.bad.any fun w => decide (pa % 1024 / 8 ≤ w) && decide (w ≤ (pa % 1024 + n - 1) / 8)

/-- Writes the dirty sectors of an L1 line of core `c` back to their home, whole (R177); one with an uncorrectable error is lost
(R393). `put` writes a sector. -/
def l1WriteBack (put : State → Nat → List Byte → State) (c : Fin 256) (s : State) (l : L1Line) : State :=
  (List.finRange 4).foldl (fun s i =>
    if !l.dirty.getLsbD i.val then s
    else if l.badIn i.val ≠ [] then lostData s c 1
    else put s (l.line * 1024 + i.val * 256) (vBytes l.data[i])) s

/-- A sector written back by the work under way. -/
def putSector (s : State) (pa : Nat) (bs : List Byte) : State := homeWrite s pa bs none

/-- The L1 line of an address, when present. -/
def l1Find (c : Core) (pa : Nat) : Option L1Line := c.l1.find? fun l => l.line = pa / 1024

/-- A line of L1 with nothing in it, used now. -/
def l1Empty (c : Core) (pa way : Nat) : L1Line := ⟨l1Set pa, way, pa / 1024, 0, 0, [], Vector.replicate 4 0, c.l1clock + 1⟩

/-- The least recently used line of some lines (R177). -/
def l1Oldest (ls : List L1Line) : Option L1Line :=
  ls.foldl (fun (b : Option L1Line) l =>
    match b with
    | none => some l
    | some y => if l.used < y.used then some l else some y) none

/-- Makes the line of an address present in L1, evicting the least recently used way of a full set (R177). -/
def l1Alloc (s : State) (c : Fin 256) (pa : Nat) : State :=
  let x := coreAt s c
  match l1Find x pa with
  | some _ => s
  | none =>
    let ls := x.l1.filter fun l => l.set = l1Set pa
    match (List.range 12).find? fun w => !ls.any fun l => l.way = w with
    | some w => modCore s c fun x => { x with l1 := l1Empty x pa w :: x.l1, l1clock := x.l1clock + 1 }
    | none =>
      match l1Oldest ls with
      | none => s
      | some l =>
        modCore (l1WriteBack putSector c s l) c fun x =>
          { x with l1 := l1Empty x pa l.way :: x.l1.filter (fun y => y.line ≠ l.line), l1clock := x.l1clock + 1 }

/-- Marks the L1 line of an address as used now. -/
def l1Use (s : State) (c : Fin 256) (pa : Nat) : State :=
  modCore s c fun y => { y with l1clock := y.l1clock + 1, l1 := y.l1.map fun z =>
    if z.line = pa / 1024 then { z with used := y.l1clock + 1 } else z }

/-- Changes one sector of the L1 line of an address. -/
def l1SetSector (s : State) (c : Fin 256) (pa : Nat) (x : VReg) (dirty : Bool) : State :=
  let i : Fin 4 := Fin.ofNat 4 (pa / 256)
  let m : BitVec 4 := 1#4 <<< i.val
  l1Use (modCore s c fun y => { y with l1 := y.l1.map fun l =>
    if l.line = pa / 1024 then
      { l with valid := l.valid ||| m, dirty := if dirty then l.dirty ||| m else l.dirty &&& ~~~m, bad := l.bad.filter fun w => w / 32 ≠ i.val,
               data := l.data.set i x } else l }) c pa

/-- A sector of L1 that holds [pa, pa + n): its data, and whether an uncorrectable error lies in one of the words read. A clean sector
where one does is no sector: it is fetched again (R393). -/
def l1Sector (c : Core) (pa n : Nat) : Option (VReg × Bool) :=
  let i : Fin 4 := Fin.ofNat 4 (pa / 256)
  (l1Find c pa).bind fun l =>
    if l.valid.getLsbD i.val && (l.dirty.getLsbD i.val || !l.badAt pa n) then some (l.data[i], l.badAt pa n) else none

/-- Reads a sector through L1: a valid sector as it stands, else a fill from the home slice (R177, R178); `none` for an
uncorrectable error, in L1 or in the [pa, pa + n) that the access needs from the home (R393). -/
def l1Read (s : State) (c : Fin 256) (pa n : Nat) : Option VReg × State :=
  match l1Sector (coreAt s c) pa n with
  | some (x, b) => (if b then none else some x, l1Use s c pa)
  | none =>
    let s := countEvent s c 0x0006 1
    if badAt s pa n then (none, (homeRead s pa n none).2)
    else
      let sec := pa / 256 * 256
      let q := homeRead (l1Alloc s c pa) sec 256 none
      let x := BitVec.ofNat 2048 (leVal q.1)
      (some x, if badAt s sec 256 then q.2 else l1SetSector q.2 c pa x false)

/-- The sectors of an L1 line that a test selects. -/
def l1Mask (hit : Nat → Bool) (l : L1Line) : BitVec 4 :=
  (List.range 4).foldl (fun b i => if hit (l.line * 1024 + i * 256) then b ||| (1#4 <<< i) else b) 0

/-- Writes back, and with `inv` invalidates, the sectors of a core's L1 that a test selects (R126). -/
def l1Sweep (put : State → Nat → List Byte → State) (s : State) (c : Fin 256) (inv : Bool) (hit : Nat → Bool) : State :=
  let s := (coreAt s c).l1.foldl (fun s l => l1WriteBack put c s { l with dirty := l.dirty &&& l1Mask hit l }) s
  modCore s c fun y => { y with l1 := (y.l1.map fun l =>
    let m := l1Mask hit l
    { l with dirty := l.dirty &&& ~~~m, valid := if inv then l.valid &&& ~~~m else l.valid }).filter fun l => l.valid ≠ 0 }

/-! ### Outstanding work -/

/-- The piece of work with an issue number. -/
def findWork (s : State) (c : Fin 256) (q : Nat) : Option Work := (coreAt s c).work.find? fun w => w.seq = q

def modWork (s : State) (c : Fin 256) (q : Nat) (f : Work → Work) : State :=
  modCore s c fun x => { x with work := x.work.map fun w => if w.seq = q then f w else w }

def dropWork (s : State) (c : Fin 256) (q : Nat) : State :=
  modCore s c fun x => { x with work := x.work.filter fun w => w.seq ≠ q }

def pushWork (s : State) (w : Work) : State := modCore s (coreOf w.ctx) fun x => { x with work := x.work ++ [w] }

/-- The work of the issuing slot, with nothing performed. -/
def newWork (s : State) (opc : Nat) (path : Fin 6) (cls : Fin 16) (ring : Option (Fin 8)) (inc : Nat) (kind : WorkKind)
    (foot : List (Nat × Nat)) (dreg : Fin 64) (dist : BitVec 16) : Work :=
  { seq := s.seq, ctx := s.cur, job := jobOf s s.cur, bun := (curArch s).pc, slot := s.slot, opc := BitVec.ofNat 8 opc,
    dreg, dist, path, cls, ring, inc, kind, foot, performed := false, done := false, fail := none, failSub := 0,
    handler := (curArch s).hm, hostStatus := none, heldSince := none, hostStage := 0, acks := 0, tags := [],
    seen := [] }

/-- Whether two lists of intervals meet. -/
def footsMeet (a b : List (Nat × Nat)) : Bool := a.any fun x => b.any fun y => decide (x.1 < y.2) && decide (y.1 < x.2)

/-- Whether a piece of work is an access to memory; the request of `WNEXT` is none (R49, R276). -/
def isAccess (w : Work) : Bool :=
  match w.kind with
  | .wnext _ => false
  | _ => true

/-- `L1INV` and `L1WB`, which every later LOAD-path access of the context comes after (R126). -/
def isRangeOp (w : Work) : Bool :=
  match w.kind with
  | .l1op _ _ _ => true
  | _ => false

/-- Landing loads, atomics and `VSTG`, which come after every earlier access of their class on any path (R125, R128, R160,
R161). -/
def afterClass (w : Work) : Bool :=
  match w.kind with
  | .load _ => true
  | .amo _ _ => true
  | .vstg _ _ => true
  | _ => false

/-- The device that a remote access goes to (R362). -/
def workDevice (w : Work) : Option (BitVec 13) :=
  match w.kind with
  | .flagw _ _ _ _ _ _ d => d
  | .copy c =>
    let aux := c.pat.words[22]
    if c.op = 1 ∧ aux.getLsbD 13 = true then some (aux.setWidth 13) else none
  | _ => none

/-- The bytes of global memory that the intervals of a piece of work reach, as physical addresses: page by page (R169), a page that
does not translate left out; an interval of many pages may reach any byte. -/
def physFoot (s : State) (w : Work) : List (Nat × Nat) :=
  w.foot.flatMap fun q =>
    let hi := min q.2 (2 ^ 48)
    if hi ≤ q.1 then []
    else
      let n := (hi + 65535) / 65536 - q.1 / 65536
      if 64 < n then [(0, 2 ^ 48)]
      else
        (List.range n).filterMap fun i =>
          let lo := max q.1 ((q.1 / 65536 + i) * 65536)
          let top := min hi ((q.1 / 65536 + i + 1) * 65536)
          match (xlate s (coreOf w.ctx) w.job lo false).1 with
          | .ok pa => some (pa, pa + (top - lo))
          | .error _ => none

/-- Whether two pieces of work may touch a common byte: by one address, or by two that lead to it. -/
def sharesByte (s : State) (x w : Work) : Bool := footsMeet x.foot w.foot || footsMeet (physFoot s x) (physFoot s w)

/-- Whether `w` must perform after the earlier access `x` of its context (R280, R281, R208, R125, R126, R362): of the same path
and class, of the same class where that suffices or for one remote device, a range operation of its path, or to a common byte. -/
def comesAfter (s : State) (x w : Work) : Bool :=
  (decide (x.cls = w.cls) && (decide (x.path = w.path) || afterClass w || ((workDevice w).isSome && workDevice x == workDevice w))) ||
    (decide (x.path = w.path) && isRangeOp x) || sharesByte s x w

/-- The bytes of accumulator memory that a result in flight is to write: its whole bank (R164, R223, R228). -/
def bankFoot (c : Fin 256) (act : Landing) : List (Nat × Nat) :=
  let bank (e : Fin 8) : List (Nat × Nat) := [(localKey 1 c.val (e.val * 0x10000), localKey 1 c.val (e.val * 0x10000) + 0x10000)]
  match act with
  | .rowStore e _ _ _ _ => bank e
  | .zeroBands e _ => bank e
  | .matrix m => bank m.bank
  | _ => []

/-- Whether a result in flight is a write of a bank (R276: the MAT path). -/
def isBankWrite (f : Flight) : Bool := !(bankFoot 0 f.act).isEmpty

/-- The scratchpad interval in which an X operation's chunks land, at most (R209). -/
def xSpan (c : Fin 256) (x : XOp) : Nat × Nat :=
  let n := match x.kind with
    | .zvc => 4 + 288 * x.beats
    | .trn => 512 * (x.counts.toNat / 2 ^ 36 % 2 ^ 20) + 256
    | _ => 256 * x.beats
  (spadKey c x.dst, spadKey c x.dst + n)

/-- Whether a piece of work is a copy command. -/
def isCopy (w : Work) : Bool :=
  match w.kind with
  | .copy _ => true
  | _ => false

/-- Whether every access a fence covers has performed, and no covered write lies in a bank's buffer (R284, R285). The wait
takes in every scope, which R284 allows. Bank writes are accesses of the MAT path, of no class (R275, R276); beats still to land hold
no fence (R285). -/
def fenceMet (s : State) (k : Fin 1024) (q : Nat) (cross : Bool) (src : BitVec 6) (classes : BitVec 16) : Bool :=
  let covered (path : Fin 6) (cls : Fin 16) : Bool := if cross then src.getLsbD path.val else classes.getLsbD cls.val
  !((coreAt s (coreOf k)).work.any fun w =>
      decide (w.ctx = k) && decide (w.seq < q) && !w.performed && isAccess w && covered w.path w.cls) &&
    !(cross && src.getLsbD 2 && (ctxAt s k).flight.any fun f => decide (f.seq < q) && isBankWrite f) &&
    !(s.cores.toList.any fun c => c.buf.any fun b => b.bytes != [] && decide (b.ctx = k) && decide (b.seq < q) && covered b.path b.cls)

/-- Whether a result has what it needs to land: a fence, that its accesses have performed; any other, its value. -/
def flightReady (s : State) (k : Fin 1024) (f : Flight) : Bool :=
  match f.act with
  | .fence cross src classes _ => fenceMet s k f.seq cross src classes
  | _ => f.ready

/-- A context is frozen when a landing due at its schedule clock has no data (R30). -/
def frozen (s : State) (k : Fin 1024) : Bool :=
  let c := ctxAt s k
  c.flight.any fun f => decide (f.due ≤ c.arch.sched.toNat) && !flightReady s k f

/-- Whether what a landing that has no data waits for is a piece of work. -/
def landsAfter (w : Work) (f : Flight) : Bool :=
  f.src == w.seq || match f.act with
    | .fence cross src classes _ => decide (w.seq < f.seq) && (if cross then src.getLsbD w.path.val else classes.getLsbD w.cls.val)
    | _ => false

/-- Whether what a condition of R31 waits for is a piece of work. -/
def waitsFor (w : Work) : Wait → Bool
  | .earlier lo n => footsMeet w.foot [(lo, lo + n)]
  | .ringFill g _ => w.ring == some g
  | .ringRoom g _ => w.ring == some g
  | .ringEnd g => w.ring == some g
  | .copyRoom e => isCopy w && w.slot.val == 4 + e.val
  | .ladderRoom => w.path == 4
  | .ladderIdle => w.path == 4
  | .drainRoom => w.path == 2
  | .barrier _ => true
  | .released => true
  | _ => false

/-- Whether a context's schedule clock stands still for a piece of its own work: a landing that is due, or a condition it waits on,
waits for it, or for an access that comes after it; or its core waits for its commands before a rollback (R398). -/
def stalledFor (s : State) (w : Work) : Bool :=
  let c := ctxAt s w.ctx
  (coreAt s (coreOf w.ctx)).rolling.any (fun r => r.pass = 0) ||
  let due := c.flight.filter fun f => decide (f.due ≤ c.arch.sched.toNat) && !flightReady s w.ctx f
  let needs (x : Work) : Bool := due.any (landsAfter x) || c.waits.any (waitsFor x)
  needs w || (coreAt s (coreOf w.ctx)).work.any fun x => decide (x.ctx = w.ctx) && decide (w.seq < x.seq) && comesAfter s w x && needs x

/-- Results in flight that `w` comes after (R208, R281): earlier bank writes to bytes it touches, and earlier beats to them. -/
def blockedByLanding (s : State) (w : Work) : Bool :=
  let c := ctxAt s w.ctx
  c.flight.any (fun f => decide (f.seq < w.seq) && footsMeet (bankFoot (coreOf w.ctx) f.act) w.foot) ||
    c.xops.any fun x => decide (x.seq < w.seq) && footsMeet [xSpan (coreOf w.ctx) x] w.foot

/-- Accesses of the same context that must perform before `w`, and have not. -/
def blockedBy (s : State) (w : Work) : Bool :=
  ((coreAt s (coreOf w.ctx)).work.any fun x =>
    decide (x.ctx = w.ctx) && decide (x.seq < w.seq) && !x.performed && isAccess x && comesAfter s x w) || blockedByLanding s w

/-- Whether a context's earlier accesses have all performed, its scratchpad writes are served, and its increments have arrived at
other cores' rings (R289, R291, R46). `q` bounds the issue numbers considered. Transform beats and L1 data are excepted. -/
def performedAll (s : State) (k : Fin 1024) (q : Nat) : Bool :=
  !((coreAt s (coreOf k)).work.any fun x => decide (x.ctx = k) && decide (x.seq < q) && !x.performed && isAccess x) &&
    !(s.cores.toList.any fun c => c.buf.any fun b => b.bytes != [] && decide (b.ctx = k) && decide (b.seq < q)) &&
    !(s.dren.any fun d => decide (d.src = k) && decide (d.seq < q))

/-- A release (R289, R314): every earlier access of a context has performed, bank writes in flight among them. -/
def released (s : State) (k : Fin 1024) (q : Nat) : Bool :=
  performedAll s k q && !((ctxAt s k).flight.any fun f => decide (f.seq < q) && isBankWrite f)

/-- Whether a context's earlier accesses to the local bytes of keys [lo, lo + n) have all performed, and its buffered writes to them
are served, so that a slot access comes after them (R281, R283). -/
def earlierDone (s : State) (k : Fin 1024) (lo n : Nat) : Bool :=
  let c := coreOf k
  !((coreAt s c).work.any fun w => decide (w.ctx = k) && !w.performed && isAccess w && footsMeet w.foot [(lo, lo + n)]) &&
    !((coreAt s c).buf.any fun b =>
      b.bytes != [] && decide (b.ctx = k) && decide (spadKey c b.off < lo + n) && decide (lo < spadKey c b.off + b.bytes.length))

/-! ### Issue -/

/-- Room in a ring (R195): RSV − CONS + INC ≤ CAP; an INC of 0 always passes. -/
def ringRoom (r : Ring) (inc : Nat) : Bool := inc == 0 || decide ((r.rsv - r.cons).toNat + inc ≤ r.cap.toNat)

/-- Tiles of an operand ring that no step has claimed (R222). -/
def freeTiles (o : ORing) : Nat := ((o.tail - o.head).toNat) - o.clm.toNat

/-- The flag word of a running core (R166 space 3). -/
def flagWord (s : State) (c : Fin 256) (w : Nat) : BitVec 32 := BitVec.ofNat 32 (memVal s.mem (localKey 3 c.val (4 * w)) 4)

/-- FLWAIT's condition (R298). -/
def flagMeets (cc : Fin 4) (f x : BitVec 32) : Bool :=
  if cc.val = 0 then decide (x.toNat ≤ f.toNat) else if cc.val = 1 then f == x else f != x

/-- Uncommitted tasks of a domain older than a sequence number. -/
def olderTask (s : State) (j : BitVec 32) (dom : BitVec 8) (q : Word) : Bool :=
  match findJob s j with
  | none => false
  | some x => x.domains.any fun d => d.word = dom && d.tasks.any fun t => decide (t.seq.toNat < q.toNat)

/-- The task the context is in: the boosted one, or the plain one delivered last (R326). -/
def currentTask (a : Arch) : Option Delivered :=
  if a.task then some ⟨a.tsk.desc, a.tsk.seq, a.tsk.dom, true⟩ else a.tsk.delivered.getLast?

/-- Whether a ring that a condition of R31 names has failed: the bundle is then checked again (R432). -/
def ringFailed (s : State) (k : Fin 1024) : Wait → Bool
  | .ringFill g _ => ((ctxAt s k).arch.g[g]).fcode != 0
  | .ringRoom g _ => ((ctxAt s k).arch.g[g]).fcode != 0
  | _ => false

/-- Whether one condition of R31 is met. `rings` and `tiles` hold what earlier slots of the bundle take (R192). A failed
ring ends a wait, so that the bundle is checked again (R432). -/
def waitMet (s : State) (k : Fin 1024) (rings tiles : List (Fin 8 × Nat)) : Wait → Bool
  | .earlier lo n => earlierDone s k lo n
  | .ringFill g n =>
    let r := (ctxAt s k).arch.g[g]
    r.fcode != 0 || decide (n.toNat ≤ (r.fill - r.cons).toNat)
  | .ringRoom g inc =>
    let r := (ctxAt s k).arch.g[g]
    r.fcode != 0 || ringRoom r (((rings.filter (·.1 = g)).map (·.2)).sum + inc) || inc == 0
  | .copyRoom e =>
    decide (((coreAt s (coreOf k)).work.filter fun w =>
      (match w.kind with | .copy _ => true | _ => false) && w.slot.val == 4 + e.val && !w.done).length < 16)
  | .ladderRoom =>
    decide (((coreAt s (coreOf k)).work.filter fun w =>
      (match w.kind with | .ladder _ => true | _ => false) && !w.done).length < 8)
  | .drainRoom =>
    decide (((coreAt s (coreOf k)).work.filter fun w =>
      (match w.kind with | .drain _ => true | _ => false) && !w.done).length < 4)
  | .tileRoom o n =>
    let x := (coreAt s (coreOf k)).o[o]
    decide ((x.tail - x.head).toNat + ((tiles.filter (·.1 = o)).map (·.2)).sum + n ≤ x.slm.toNat + 1)
  | .array a b =>
    let c := coreAt s (coreOf k)
    c.array.isNone && (if a = b then decide (2 ≤ freeTiles c.o[a]) else decide (1 ≤ freeTiles c.o[a]) && decide (1 ≤ freeTiles c.o[b]))
  | .ringEnd g =>
    let failed := ((ctxAt s k).arch.g[g]).fcode != 0
    !(coreAt s (coreOf k)).work.any fun w => decide (w.ctx = k) && decide (w.ring = some g) && !(failed && w.done)
  | .flag w cc x =>
    (ctxAt s k).flagSeen.isSome || badAt s (localKey 3 (coreOf k).val (4 * w.val)) 4 || flagMeets cc (flagWord s (coreOf k) w.val) x
  | .barrier _ => (ctxAt s k).sync.isNone
  | .released => released s k s.seq
  | .oldest =>
    match currentTask (ctxAt s k).arch with
    | some t => !olderTask s (jobOf s k) t.dom t.seq
    | none => true
  | .hold _ _ _ => (ctxAt s k).granted || (ctxAt s k).holdFault.isSome
  | .ladderIdle =>
    !(coreAt s (coreOf k)).work.any fun w => decide (w.ctx = k) && (match w.kind with | .ladder _ => true | _ => false)

/-- Whether every condition of a bundle is met, its slots in order (R192). -/
def waitsMet (s : State) (k : Fin 1024) (rings tiles : List (Fin 8 × Nat)) : List Wait → Bool
  | [] => true
  | w :: r =>
    waitMet s k rings tiles w &&
      match w with
      | .ringRoom g n => waitsMet s k ((g, n) :: rings) tiles r
      | .tileRoom o n => waitsMet s k rings ((o, n) :: tiles) r
      | _ => waitsMet s k rings tiles r

/-- The codes of R375 step 5, in order, the launch of TRAP with traps disabled (R133) and refused holds (R310) last. -/
def codeOrder : List Nat :=
  [0x06, 0x0B, 0x0C, 0x12, 0x0D, 0x08, 0x09, 0x0E, 0x0F, 0x10, 0x11, 0x40, 0x41, 0x42, 0x43, 0x44, 0x45, 0x46, 0x48, 0x49,
   0x4A, 0x4B, 0x4C, 0x01, 0x18, 0x19, 0x1A, 0x1B, 0x1C]

/-- The first fault of a code, in slot order. -/
def firstOf (ps : List Probe) (code : Nat) : Option FaultRec :=
  (ps.flatMap (·.faults)).find? fun f => f.code.toNat = code

/-- XORDER 2 between slots of one bundle: a slot stores into a source chunk that an X operation of the bundle reads later (R211,
R383). -/
def storeUnread (ps : List Probe) : Option FaultRec :=
  ps.findSome? fun p => (ps.flatMap (·.unread)).findSome? fun q =>
    if p.stores.any fun st => meets [(q.1, q.1 + q.2)] st.1 st.2 then
      some (mkFault 0x10 2 (some p.slot) (BitVec.ofNat 64 q.1) 0 0) else none

/-- The first fault of a code that the order of R375 names, in slot order. -/
def codeFault (ps : List Probe) (code : Nat) : Option FaultRec :=
  (firstOf ps code).or (if code = 0x10 then storeUnread ps else none)

/-- The first register that two slots write (R62), in slot order; a slot may write one register once. -/
def firstTwice (seen : List WReg) : List WReg → Option WReg
  | [] => none
  | w :: r => if seen.contains w then some w else firstTwice (w :: seen) r

/-- Banks that two slots read, or two slots write (R64). -/
def twice (l : List (BitVec 32)) : BitVec 32 :=
  (l.foldl (fun (q : BitVec 32 × BitVec 32) b => (q.1 ||| b, q.2 ||| (q.1 &&& b))) (0, 0)).2

/-- The number of the lowest set bit. -/
def lowest (b : BitVec 32) : Nat := ((List.range 32).find? fun i => b.getLsbD i).getD 32

/-- The fault of a bundle whose encodings are legal, by the order of R375 from DELAY on. -/
def bundleFault (s : State) (ps : List Probe) : Option FaultRec :=
  let n := inFlight (curCtx s)
  match firstOf ps 0x03 with
  | some f => some f
  | none =>
    match firstTwice [] (ps.flatMap (·.writes)) with
    | some w => some (mkFault 0x04 (w.file.toNat * 256 + w.reg.toNat) none 0 0 0)
    | none =>
      if 32 < n + (ps.map (·.results)).sum then some (mkFault 0x07 n none 0 0 0)
      else
        match codeOrder.findSome? (codeFault ps) with
        | some f => some f
        | none =>
          let b := twice (ps.map (·.rbanks)) ||| twice (ps.map (·.wbanks))
          if b ≠ 0 then some (mkFault 0x05 (lowest b) none 0 0 0) else none

/-- What a bundle waits for, its slots in order. -/
def bundleWaits (ps : List Probe) : List Wait := ps.flatMap (·.waits)

/-- The context does not issue and waits (R31). -/
def goWaiting (ws : List Wait) (s : State) : State :=
  { modCtx s s.cur (fun c => { c with waits := ws }) with flow := .waiting }

/-- Issues a bundle given what its slots ask for: the first fault is taken before any effect (R375), an unmet condition makes
the context wait (R31), else the effect happens. -/
def issue (ps : List Probe) (effect : State → State) (s : State) : State :=
  match bundleFault s ps with
  | some f => trapEnter s.cur f (curArch s).pc s
  | none =>
    if waitsMet s s.cur [] [] (bundleWaits ps) then effect { modCtx s s.cur (fun c => { c with waits := [] }) with flow := .issued }
    else goWaiting (bundleWaits ps) s

/-- How every slot operation runs: alone, or in a bundle as a check first and an effect later. What it asks for and what it does do not
depend on which. -/
def runSlot (probe : State → Probe) (effect : State → State) (s : State) : Host.Outcome State Fault Refusal :=
  match s.phase with
  | .whole => .next (issue [probe s] effect s)
  | .check => .next { s with probes := s.probes ++ [probe { s with phase := .whole }] }
  | .effect => .next { effect { s with phase := .whole } with phase := .effect }

/-- A slot operation that asks for nothing. -/
def noProbe (s : State) : Probe := ⟨s.slot, [], [], 0, 0, 0, [], [], []⟩

/-- Writes to `s`, `p`, `v` and `m` registers as R62 and R371 count them; `s0`, `p0` and `m0` do not count. -/
def wrS (d : Fin 64) : List WReg := if d = 0 then [] else [⟨0, BitVec.ofNat 8 d.val⟩]
def wrP (d : Fin 16) : List WReg := if d = 0 then [] else [⟨1, BitVec.ofNat 8 d.val⟩]
def wrV (d : Fin 64) : List WReg := [⟨2, BitVec.ofNat 8 d.val⟩]
def wrM (d : Fin 16) : List WReg := if d = 0 then [] else [⟨3, BitVec.ofNat 8 d.val⟩]

/-- Sets a context's repeat flag (R397). -/
def setRepeat (s : State) : State := modCtx s s.cur fun c => { c with repeatFlag := true }

/-- Where the issuing slot's fault is reported. -/
def slotFault (s : State) (code sub : Nat) (v0 v1 v2 : Word) : FaultRec := mkFault code sub (some s.slot) v0 v1 v2

/-- SUB for the codes that carry the slot (R371). -/
def slotSub (s : State) (code : Nat) (v0 v1 : Word) : FaultRec := slotFault s code s.slot.val v0 v1 0

end Sys2Proof.Machine
end

