-- ==== Sys2Proof/Machine/Operands.lean ====
section
/-! DEFINITION. The operand forms of the slot syllables: 32-bit and 64-bit integer operands, immediates, memory addresses
and their limits, branch targets, and the probes that the plain forms share. -/

namespace Sys2Proof.Machine

/-! ### Integer operands -/

/-- An S-slot RR operation on n-bit values (R57, R116): on all 64 bits, or on bits [31:0] with the result sign-extended. -/
def wide2 (w : Bool) (f : (n : Nat) → BitVec n → BitVec n → BitVec n) (x y : Word) : Word :=
  if w then (f 32 (x.setWidth 32) (y.setWidth 32)).signExtend 64 else f 64 x y

/-- The same for a condition (R119). -/
def cond2 (w : Bool) (f : (n : Nat) → BitVec n → BitVec n → Bool) (x y : Word) : Bool :=
  if w then f 32 (x.setWidth 32) (y.setWidth 32) else f 64 x y

/-- The immediate of RI, sign-extended to 64 bits (R118). -/
def imm64 (i : BitVec 32) : Word := i.signExtend 64

/-! ### Memory operands -/

/-- The address of a MEM syllable: s[BASE] plus the offset in units of the access size, modulo 2^64 (R58). -/
def memAddr (s : State) (base : Fin 64) (o : BitVec 32) (size : Nat) : Word :=
  rS (curArch s) base + BitVec.ofInt 64 (o.toInt * size)

/-- The address of a LND syllable (R59). -/
def lndAddr (s : State) (base : Fin 64) (o : BitVec 24) (size : Nat) : Word :=
  rS (curArch s) base + BitVec.ofInt 64 (o.toInt * size)

/-- Whether `n` bytes at an address lie in the scratchpad and are aligned to `al` (R123, R158). -/
def spadOk (addr : Word) (n al : Nat) : Bool := decide (addr.toNat + n ≤ spadSize) && addr.toNat % al == 0

/-- Whether an address of a landing load or VSTG names a memory it may reach (R125, R160, R161): a global address, or a local
one of space 0 or 2 inside its unit (R166; a window is checked at its slice, up to 16 MiB here). -/
def landAddrOk (addr : Word) (n : Nat) : Bool :=
  addr.toNat % n == 0 &&
    (isGlobal addr ||
      match localAddr addr with
      | some (0, _, off) => decide (off + n ≤ spadSize)
      | some (2, _, off) => decide (off + n ≤ 0x1000000)
      | _ => false)

/-- The bytes an access touches, as an interval of addresses. -/
def footOf (addr : Word) (n : Nat) : List (Nat × Nat) := [(addr.toNat, addr.toNat + n)]

/-! ### Probes of the plain forms -/

/-- An operation whose destination registers are `ws`, with `n` results (R62, R345). -/
def regProbe (ws : List WReg) (n : Nat) (s : State) : Probe := ⟨s.slot, [], ws, n, 0, 0, [], [], []⟩

/-- The same for a predicated operation, which lands nothing when it is predicated off (R375, R345). -/
def predProbe (p : Fin 16) (n : Bool) (ws : List WReg) (k : Nat) (s : State) : Probe :=
  regProbe ws (if guarded (curArch s) p n then k else 0) s

/-- Runs an effect only when the predicate holds (R57). -/
def predEffect (p : Fin 16) (n : Bool) (f : State → State) (s : State) : State :=
  if guarded (curArch s) p n then f s else s

/-! ### Shared forms -/

/-- A register result computed from the registers at issue: S-slot RI and RRR forms, landing after `lat` (R60, R77). -/
def sForm (d : Fin 64) (lat : Nat) (f : Arch → Word) (s : State) : Host.Outcome State Fault Refusal :=
  runSlot (regProbe (wrS d) 1) (fun s => land lat (.sreg d (f (curArch s))) 0 s) s

/-- The predicated form (R116). -/
def sFormP (d : Fin 64) (p : Fin 16) (n : Bool) (lat : Nat) (f : Arch → Word) (s : State) :
    Host.Outcome State Fault Refusal :=
  runSlot (predProbe p n (wrS d) 1) (predEffect p n fun s => land lat (.sreg d (f (curArch s))) 0 s) s

/-- A predicate result under a predicate (R119). -/
def pFormP (d p : Fin 16) (n : Bool) (lat : Nat) (f : Arch → Bool) (s : State) : Host.Outcome State Fault Refusal :=
  runSlot (predProbe p n (wrP d) 1) (predEffect p n fun s => land lat (.preg d (f (curArch s))) 0 s) s

/-- An `s` result with its flags, unconditional (R115). -/
def fForm (d : Fin 64) (lat : Nat) (f : Arch → Word × BitVec 6) (s : State) : Host.Outcome State Fault Refusal :=
  runSlot (regProbe (wrS d) 1) (fun s => let r := f (curArch s); land lat (.sreg d r.1) r.2 s) s

/-- An `s` result with its flags, predicated. -/
def fFormP (d : Fin 64) (p : Fin 16) (n : Bool) (lat : Nat) (f : Arch → Word × BitVec 6) (s : State) :
    Host.Outcome State Fault Refusal :=
  runSlot (predProbe p n (wrS d) 1) (predEffect p n fun s => let r := f (curArch s); land lat (.sreg d r.1) r.2 s) s

/-- A `p` result with its flags, predicated (R122). -/
def fpFormP (d p : Fin 16) (n : Bool) (lat : Nat) (f : Arch → Bool × BitVec 6) (s : State) :
    Host.Outcome State Fault Refusal :=
  runSlot (predProbe p n (wrP d) 1) (predEffect p n fun s => let r := f (curArch s); land lat (.preg d r.1) r.2 s) s

/-- A `v` result written into some lanes (R141). -/
def vForm (d : Fin 64) (lat : Nat) (f : Arch → VReg × BitVec 6) (lanes : Arch → Word) (s : State) :
    Host.Outcome State Fault Refusal :=
  runSlot (regProbe (wrV d) 1)
    (fun s => let r := f (curArch s); land lat (.vreg d r.1 (lanes (curArch s))) r.2 s) s

/-- An `m` result written into some bits (R146, R147). -/
def mForm (d : Fin 16) (lat : Nat) (f : Arch → Word × BitVec 6) (lanes : Arch → Word) (s : State) :
    Host.Outcome State Fault Refusal :=
  runSlot (regProbe (wrM d) 1)
    (fun s => let r := f (curArch s); land lat (.mreg d r.1 (lanes (curArch s))) r.2 s) s

end Sys2Proof.Machine
end

