-- ==== Sys2Proof/Machine/Flags.lean ====
section
/-! DEFINITION. The floating-point flags of FSTAT (R75), when each is raised, and the sticky accumulator flags of ASTAT
(R74). -/

namespace Sys2Proof.Machine

/-- `NV`, `DZ`, `OF`, `UF`, `NX`, `SATF` at their places in FSTAT (R75). -/
def fNV : BitVec 6 := 1
def fDZ : BitVec 6 := 2
def fOF : BitVec 6 := 4
def fUF : BitVec 6 := 8
def fNX : BitVec 6 := 16
def fSATF : BitVec 6 := 32

/-- A flag when a condition holds. -/
def flagIf (c : Bool) (f : BitVec 6) : BitVec 6 := if c then f else 0

/-- The flags of a rounding that overflows its target (R87): `OF` and `NX`, and `SATF` when ±max is delivered by
saturation. -/
def overflowFlags (saturates : Bool) : BitVec 6 := fOF ||| fNX ||| flagIf saturates fSATF

/-- The flags of a rounding that does not overflow (R87, R90): `NX` when inexact, `UF` when tiny and inexact. -/
def roundFlags (inexact tiny : Bool) : BitVec 6 := flagIf inexact fNX ||| flagIf (inexact && tiny) fUF

/-- The flags of a conversion into an integer range (R88, R90). -/
def intFlags (inexact clamped : Bool) : BitVec 6 := flagIf (inexact || clamped) fNX ||| flagIf clamped fSATF

/-- The union of flags. -/
def allFlags (l : List (BitVec 6)) : BitVec 6 := l.foldl (· ||| ·) 0

/-- Sets FSTAT bits of a context; they are sticky (R75, R90). -/
def raiseFlags (f : BitVec 6) (a : Arch) : Arch := { a with fstat := a.fstat ||| f.setWidth 64 }

/-- `UNALLOC`, and `ARANGE` with bit `n` of `ABANK`, of ASTAT (R74, R95). -/
def aUnalloc : Word := 1
def aRange (bank : Nat) : Word := BitVec.ofNat 64 (2 + 2 ^ (24 + bank))

/-- Sets ASTAT bits of a context; they are sticky (R74). -/
def raiseAstat (f : Word) (a : Arch) : Arch := { a with astat := a.astat ||| f }

end Sys2Proof.Machine
end

