-- ==== Sys2Proof/Machine/Fp.lean ====
section
/-! DEFINITION. Floating-point numbers: the formats of R79, exact values, the one rounding of R86 and R87, conversions
(R88), and the functions of R120 to R122 and R145, on exact values rounded once. -/

namespace Sys2Proof.Machine

/-! ### Formats and values -/

/-- A float format of R79; `ieee` has infinities and NaNs at the top exponent, `oneNan` has only S.1111.111 as NaN,
`plain` has neither. -/
inductive FpKind where
  | ieee | oneNan | plain
  deriving DecidableEq, Repr

structure FpFormat where
  ebits : Nat
  fbits : Nat
  bias : Nat
  kind : FpKind
  deriving DecidableEq, Repr

def fp32 : FpFormat := ⟨8, 23, 127, .ieee⟩
def fp16 : FpFormat := ⟨5, 10, 15, .ieee⟩
def bf16 : FpFormat := ⟨8, 7, 127, .ieee⟩
def e4m3 : FpFormat := ⟨4, 3, 7, .oneNan⟩
def e5m2 : FpFormat := ⟨5, 2, 15, .ieee⟩
def e2m1 : FpFormat := ⟨2, 1, 1, .plain⟩

/-- The float format of a code 0 to 5 (R66, R79). -/
def fpOf (code : Nat) : FpFormat :=
  if code = 0 then fp32 else if code = 1 then fp16 else if code = 2 then bf16 else if code = 3 then e4m3
  else if code = 4 then e5m2 else e2m1

/-- The width in bits of a format (R79, R81, R83: the element of a DXB block). -/
def codeWidth (code : Nat) : Nat :=
  if code = 0 then 32 else if code ≤ 2 then 16 else if code ≤ 4 then 8 else if code ≤ 6 then 4 else if code = 7 then 8
  else if code = 8 then 32 else if code = 9 then 4 else 8

/-- An exact value: a NaN, an infinity, or ±m × 2^e; m = 0 is a signed zero. -/
inductive Num where
  | nan
  | inf (neg : Bool)
  | fin (neg : Bool) (m : Nat) (e : Int)
  deriving DecidableEq, Repr

/-- The value of an encoding (R79). -/
def decodeFp (f : FpFormat) (x : Nat) : Num :=
  let neg := x / 2 ^ (f.ebits + f.fbits) % 2 == 1
  let ex := x / 2 ^ f.fbits % 2 ^ f.ebits
  let fr := x % 2 ^ f.fbits
  if f.kind = .ieee ∧ ex = 2 ^ f.ebits - 1 then (if fr = 0 then .inf neg else .nan)
  else if f.kind = .oneNan ∧ ex = 2 ^ f.ebits - 1 ∧ fr = 2 ^ f.fbits - 1 then .nan
  else if ex = 0 then .fin neg fr (1 - (f.bias : Int) - f.fbits)
  else .fin neg (2 ^ f.fbits + fr) ((ex : Int) - f.bias - f.fbits)

/-- The largest finite magnitude's bits, and the bits of infinity (R79). -/
def FpFormat.maxBits (f : FpFormat) : Nat :=
  match f.kind with
  | .ieee => (2 ^ f.ebits - 1) * 2 ^ f.fbits - 1
  | .oneNan => 2 ^ (f.ebits + f.fbits) - 2
  | .plain => 2 ^ (f.ebits + f.fbits) - 1

/-- The bit of the sign. -/
def FpFormat.signBit (f : FpFormat) : Nat := 2 ^ (f.ebits + f.fbits)

/-- The canonical NaN (R80); +0 for a format without one (R88). -/
def FpFormat.nanBits (f : FpFormat) : Nat :=
  match f.kind with
  | .ieee => (2 ^ f.ebits - 1) * 2 ^ f.fbits + 2 ^ (f.fbits - 1)
  | .oneNan => 2 ^ (f.ebits + f.fbits) - 1
  | .plain => 0

/-- A delivered result: its bits and its flags. -/
structure Res where
  bits : Nat
  flags : BitVec 6
  deriving DecidableEq, Repr

/-! ### Rounding (R86, R87) -/

/-- The rounding modes of `RMODE` (R66). -/
inductive RMode where
  | rne | rtz | rdn | rup
  deriving DecidableEq, Repr

def rmodeOf (f : Word) : RMode :=
  if fmtR f = 0 then .rne else if fmtR f = 1 then .rtz else if fmtR f = 2 then .rdn else .rup

/-- Rounds the magnitude m × 2^e to a multiple of 2^q: the multiple, and whether it is inexact. -/
def roundAt (r : RMode) (neg : Bool) (m : Nat) (e q : Int) : Nat × Bool :=
  if q ≤ e then (m * 2 ^ (e - q).toNat, false)
  else
    let d := (q - e).toNat
    let k := m / 2 ^ d
    let rest := m % 2 ^ d
    let up := match r with
      | .rne => decide (2 ^ d < 2 * rest) || (decide (2 * rest = 2 ^ d) && k % 2 == 1)
      | .rtz => false
      | .rdn => neg && rest != 0
      | .rup => !neg && rest != 0
    (if up then k + 1 else k, rest != 0)

/-- A result that overflows, or an infinite input, delivered in a format (R87, R88). -/
def overflowBits (f : FpFormat) (r : RMode) (sat neg isInf : Bool) : Res :=
  let s := if neg then f.signBit else 0
  match f.kind with
  | .plain => ⟨s + f.maxBits, if isInf then fSATF else overflowFlags true⟩
  | .oneNan =>
    if sat then ⟨s + f.maxBits, if isInf then fSATF else overflowFlags true⟩
    else ⟨s + f.nanBits, if isInf then fOF else overflowFlags false⟩
  | .ieee =>
    if sat then ⟨s + f.maxBits, if isInf then fSATF else overflowFlags true⟩
    else if isInf then ⟨s + f.maxBits + 1, 0⟩
    else
      let toMax := match r with
        | .rne => false
        | .rtz => true
        | .rdn => !neg
        | .rup => neg
      ⟨s + f.maxBits + (if toMax then 0 else 1), overflowFlags false⟩

/-- Rounds ±m × 2^e once into a format. -/
def roundFp (f : FpFormat) (r : RMode) (sat neg : Bool) (m : Nat) (e : Int) : Res :=
  let s := if neg then f.signBit else 0
  if m = 0 then ⟨s, 0⟩
  else
    let lead : Int := (Nat.log2 m : Int) + e
    let qmin : Int := 1 - (f.bias : Int) - f.fbits
    let qu : Int := lead - f.fbits
    let q := max qu qmin
    let k := roundAt r neg m e q
    let mag := (q - qmin).toNat * 2 ^ f.fbits + k.1
    if f.maxBits < mag then overflowBits f r sat neg false
    else
      let emin : Int := 1 - (f.bias : Int)
      let tiny := decide (lead < emin) &&
        !(decide (lead + 1 = emin) && (roundAt r neg m e qu).1 == 2 ^ (f.fbits + 1))
      ⟨s + mag, roundFlags k.2 tiny⟩

/-- Delivers an exact value in a format: a NaN becomes the canonical one, or +0 with `NV` where there is none (R80, R88). -/
def roundNum (f : FpFormat) (r : RMode) (sat : Bool) : Num → Res
  | .nan => ⟨f.nanBits, flagIf (f.kind = .plain) fNV⟩
  | .inf neg => overflowBits f r sat neg true
  | .fin neg m e => roundFp f r sat neg m e

/-- Rounds an exact value to FP32. -/
def toFp32 (r : RMode) (x : Num) : Res := roundNum fp32 r false x

/-- The FP32 value of 32 bits. -/
def num32 (x : BitVec 32) : Num := decodeFp fp32 x.toNat

/-- Rounds an exact value to an integer. -/
def roundInt (r : RMode) (neg : Bool) (m : Nat) (e : Int) : Int × Bool :=
  let k := roundAt r neg m e 0
  (if neg then -(k.1 : Int) else k.1, k.2)

/-- A conversion into the integers lo to hi (R88): NaN gives 0. -/
def toInteger (r : RMode) (lo hi : Int) : Num → Int × BitVec 6
  | .nan => (0, fNV)
  | .inf neg => (if neg then lo else hi, fSATF)
  | .fin neg m e =>
    let k := roundInt r neg m e
    let c := max lo (min hi k.1)
    (c, intFlags k.2 (c != k.1))

/-- The exact value of an integer; 0 is +0 (R88). -/
def intNum (i : Int) : Num := .fin (decide (i < 0)) i.natAbs 0

/-! ### Exact arithmetic -/

/-- The negation of a value. -/
def Num.flip : Num → Num
  | .nan => .nan
  | .inf n => .inf !n
  | .fin n m e => .fin (!n) m e

/-- The signed mantissa of a finite value at exponent `q`, at most its own. -/
def numAt (n : Bool) (m : Nat) (e q : Int) : Int :=
  let k : Int := (m * 2 ^ (e - q).toNat : Nat)
  if n then -k else k

/-- The exact sum, and whether it is invalid (R120). -/
def addNum (r : RMode) : Num → Num → Num × Bool
  | .nan, _ => (.nan, false)
  | _, .nan => (.nan, false)
  | .inf a, .inf b => if a = b then (.inf a, false) else (.nan, true)
  | .inf a, .fin _ _ _ => (.inf a, false)
  | .fin _ _ _, .inf b => (.inf b, false)
  | .fin an am ae, .fin bn bm be =>
    if am = 0 ∧ bm = 0 then (.fin (if an = bn then an else decide (r = .rdn)) 0 0, false)
    else
      let q := min ae be
      let x := numAt an am ae q + numAt bn bm be q
      if x = 0 then (.fin (decide (r = .rdn)) 0 0, false) else (.fin (decide (x < 0)) x.natAbs q, false)

/-- The exact product, and whether it is invalid (R120). -/
def mulNum : Num → Num → Num × Bool
  | .nan, _ => (.nan, false)
  | _, .nan => (.nan, false)
  | .inf a, .inf b => (.inf (a != b), false)
  | .inf a, .fin b m _ => if m = 0 then (.nan, true) else (.inf (a != b), false)
  | .fin b m _, .inf a => if m = 0 then (.nan, true) else (.inf (a != b), false)
  | .fin an am ae, .fin bn bm be => (.fin (an != bn) (am * bm) (ae + be), false)

/-- One rounding to FP32, with `NV` where the operation is invalid. -/
def deliver (r : RMode) (x : Num × Bool) : Res :=
  let y := toFp32 r x.1
  ⟨y.bits, y.flags ||| flagIf x.2 fNV⟩

/-- FP32 a + b (R120). -/
def fpAdd (r : RMode) (a b : Num) : Res := deliver r (addNum r a b)

/-- FP32 a × b (R120). -/
def fpMul (r : RMode) (a b : Num) : Res := deliver r (mulNum a b)

/-- FP32 a × b + c, one rounding; 0 × ∞ is invalid even beside a NaN c (R120). -/
def fpFma (r : RMode) (a b c : Num) : Res :=
  let p := mulNum a b
  let s := addNum r p.1 c
  deliver r (s.1, p.2 || s.2)

/-- Whether a value is a NaN. -/
def Num.isNan : Num → Bool
  | .nan => true
  | .inf _ => false
  | .fin _ _ _ => false

/-- Order of two values that are not NaN; −0 equals +0 (R122). -/
def numLt : Num → Num → Bool
  | .nan, _ => false
  | _, .nan => false
  | .inf a, .inf b => a && !b
  | .inf a, .fin _ _ _ => a
  | .fin _ _ _, .inf b => !b
  | .fin an am ae, .fin bn bm be => let q := min ae be; decide (numAt an am ae q < numAt bn bm be q)

def numEq : Num → Num → Bool
  | .nan, _ => false
  | _, .nan => false
  | .inf a, .inf b => a == b
  | .inf _, .fin _ _ _ => false
  | .fin _ _ _, .inf _ => false
  | .fin an am ae, .fin bn bm be => let q := min ae be; decide (numAt an am ae q = numAt bn bm be q)

/-- A total order on FP32 encodings that are not NaN, −0 below +0 (R122). -/
def orderKey (x : BitVec 32) : Int := if x.getLsbD 31 then -((x.toNat % 2 ^ 31 : Nat) : Int) - 1 else x.toNat

/-- `FMINMAX` (R122): the lesser (`max` false) or greater operand; the other one beside a NaN. -/
def fpMinMax (max : Bool) (a b : BitVec 32) : BitVec 32 :=
  if (num32 a).isNan then (if (num32 b).isNan then 0x7FC00000 else b)
  else if (num32 b).isNan then a
  else if (decide (orderKey a ≤ orderKey b)) != max then a else b

/-! ### Reciprocal, root, exponential, logarithm (R145)

A quotient, root or limit that is not exact is represented by bits of it and one odd bit below them, so that rounding it once
delivers the correctly rounded value. -/

/-- 1 / (m × 2^e), m ≠ 0. -/
def recip (m : Nat) (e : Int) : Nat × Int :=
  let k := Nat.log2 m + 64
  (2 * (2 ^ k / m) + (if 2 ^ k % m = 0 then 0 else 1), -(k : Int) - e - 1)

/-- The integer square root of `n`, from bit `i` − 1 down. -/
def isqrt (n : Nat) : (i r : Nat) → Nat
  | 0, r => r
  | i + 1, r => if (r + 2 ^ i) * (r + 2 ^ i) ≤ n then isqrt n i (r + 2 ^ i) else isqrt n i r

/-- 1 / √(m × 2^e), m ≠ 0. -/
def recipSqrt (m : Nat) (e : Int) : Nat × Int :=
  let m' := if e % 2 = 0 then m else 2 * m
  let e' := if e % 2 = 0 then e else e - 1
  let k := Nat.log2 m' / 2 + 64
  let r := isqrt (2 ^ (2 * k) / m') (k + 1) 0
  (2 * r + (if r * r * m' = 2 ^ (2 * k) then 0 else 1), -(k : Int) - e' / 2 - 1)

/-- ln 2 × 2^256, rounded down. -/
def ln2Fixed : Nat := 80260960185991308862233904206310070533990667611589946606122867505419956976171

/-- The terms of e^y / 2^256-scaled from `term` on. -/
def expSeries (y : Nat) : (n k term : Nat) → Nat
  | 0, _, term => term
  | n + 1, k, term => term + expSeries y n (k + 1) (term * y / 2 ^ 256 / (k + 1))

/-- 2^x for x = ±m × 2^e, m ≠ 0 (exact where x is an integer). Beyond ±1000 a value with the same rounding stands in. -/
def exp2Num (neg : Bool) (m : Nat) (e : Int) : Nat × Int :=
  let lead : Int := (Nat.log2 m : Int) + e
  if 10 ≤ lead then (3, if neg then -1000 else 1000)
  else
    let fx : Int := (if e < 0 then (m * 2 ^ 300 / 2 ^ (-e).toNat : Nat) else (m * 2 ^ 300 * 2 ^ e.toNat : Nat))
    let x : Int := if neg then -fx else fx
    let n := x / 2 ^ 300
    let f := (x % 2 ^ 300).toNat
    if f = 0 then (1, n)
    else
      let y := f * ln2Fixed / 2 ^ 300
      (2 * expSeries y 70 0 (2 ^ 256) + 1, n - 257)

/-- The bits of log₂ y after the point, y = `y` / 2^400 in [1, 2). -/
def log2Bits : (n y acc : Nat) → Nat
  | 0, _, acc => acc
  | n + 1, y, acc =>
    let z := y * y / 2 ^ 400
    if 2 ^ 401 ≤ z then log2Bits n (z / 2) (2 * acc + 1) else log2Bits n z (2 * acc)

/-- log₂ (m × 2^e), m ≠ 0, as a signed value. -/
def log2Num (m : Nat) (e : Int) : Num :=
  let l := Nat.log2 m
  let n : Int := (l : Int) + e
  if m = 2 ^ l then intNum n
  else
    let v : Int := 2 * (n * 2 ^ 160 + log2Bits 160 (m * 2 ^ (400 - l)) 0) + 1
    .fin (decide (v < 0)) v.natAbs (-161)

/-- `VEXP2` (R145). -/
def fpExp2 (r : RMode) : Num → Res
  | .nan => ⟨fp32.nanBits, 0⟩
  | .inf true => ⟨0, 0⟩
  | .inf false => ⟨0x7F800000, 0⟩
  | .fin neg m e => if m = 0 then ⟨0x3F800000, 0⟩ else let x := exp2Num neg m e; roundFp fp32 r false false x.1 x.2

/-- `VLOG2` (R145). -/
def fpLog2 (r : RMode) : Num → Res
  | .nan => ⟨fp32.nanBits, 0⟩
  | .inf true => ⟨fp32.nanBits, fNV⟩
  | .inf false => ⟨0x7F800000, 0⟩
  | .fin neg m e =>
    if m = 0 then ⟨0xFF800000, fDZ⟩ else if neg then ⟨fp32.nanBits, fNV⟩ else toFp32 r (log2Num m e)

/-- `VRCP` (R145). -/
def fpRcp (r : RMode) : Num → Res
  | .nan => ⟨fp32.nanBits, 0⟩
  | .inf neg => ⟨if neg then 0x80000000 else 0, 0⟩
  | .fin neg m e =>
    if m = 0 then ⟨if neg then 0xFF800000 else 0x7F800000, fDZ⟩
    else let x := recip m e; roundFp fp32 r false neg x.1 x.2

/-- `VRSQ` (R145). -/
def fpRsq (r : RMode) : Num → Res
  | .nan => ⟨fp32.nanBits, 0⟩
  | .inf true => ⟨fp32.nanBits, fNV⟩
  | .inf false => ⟨0, 0⟩
  | .fin neg m e =>
    if m = 0 then ⟨if neg then 0xFF800000 else 0x7F800000, fDZ⟩ else if neg then ⟨fp32.nanBits, fNV⟩
    else let x := recipSqrt m e; roundFp fp32 r false false x.1 x.2

/-! ### Conversions (R88, R121, R148) -/

/-- The exact value of a source of a conversion: a float format, or INT32 or INT64 (code 8). -/
def convSource (code : Nat) (long : Bool) (x : Nat) : Num :=
  if code = 8 then (if long then intNum (BitVec.ofNat 64 x).toInt else intNum (BitVec.ofNat 32 x).toInt)
  else decodeFp (fpOf code) x

/-- A conversion: the target's bits and the flags. A format converted to itself keeps every value that is not a NaN. -/
def convert (src dst : Nat) (long : Bool) (r : RMode) (sat : Bool) (x : Nat) : Res :=
  let v := convSource src long x
  if src = dst ∧ !v.isNan then ⟨x % 2 ^ (if long then 64 else codeWidth src), 0⟩
  else if dst = 8 then
    let b := if long then 2 ^ 63 else 2 ^ 31
    let k := toInteger r (-(b : Int)) (b - 1) v
    ⟨(BitVec.ofInt (if long then 64 else 32) k.1).toNat, k.2⟩
  else roundNum (fpOf dst) r (sat && dst != 0) v

end Sys2Proof.Machine
end

