-- ==== Sys2Proof/Machine/Codes.lean ====
section
/-! DEFINITION. Dithered codes: frame coordinates, the offset function, quantising and decoding of INT and DXB codes
(R83 to R85, R98 to R106), and the checks of frames and scales that quantisers and consumers share (R89, R105, R420). -/

namespace Sys2Proof.Machine

/-! ### Frames and offsets -/

/-- The fields of `d`n: the frame as an operation reads it at issue (R100). -/
def rD (a : Arch) (i : Fin 8) : Frame := a.d[i]

/-- Frame coordinates of a view position (R98): row and column. -/
def frameCoord (f : Frame) (i j : Int) : BitVec 32 × BitVec 32 :=
  if f.tr then (f.rowo + BitVec.ofInt 32 j, f.colo + BitVec.ofInt 32 i)
  else (f.rowo + BitVec.ofInt 32 i, f.colo + BitVec.ofInt 32 j)

/-- 32 times the offset of R101. -/
def ditherOffset (seed row col : BitVec 32) : Int :=
  let g := col >>> 4
  let x := seed ^^^ (row * 0x9E3779B1) ^^^ (g * 0x85EBCA77)
  let x := x ^^^ (x >>> 15)
  let x := x * 0x2C1B3C6D
  let x := x ^^^ (x >>> 12)
  let a := 2 * (x.toNat % 8) + 1
  let b := x.toNat / 8 % 16
  let k := (a * (col.toNat % 16) + b) % 16
  2 * (k : Int) - 15

/-- 32 times the offset of a view position under a frame. -/
def offsetAt (f : Frame) (i j : Int) : Int :=
  let q := frameCoord f i j
  ditherOffset f.seed q.1 q.2

/-- The code formats: 6 INT4, 7 INT8, 9 DXB4, 10 DXB8 (R67). -/
def isCodeFormat (c : Nat) : Bool := c == 6 || c == 7 || c == 9 || c == 10

/-- Whether a consumer reads an operand of format `c` as dithered under a frame (R105). -/
def readsDithered (f : Frame) (c : Nat) : Bool := f.cfmt.toNat == c && isCodeFormat c

/-- The offset a consumer subtracts (R106), times 32. -/
def consumerOffset (f : Frame) (c : Nat) (i j : Int) : Int := if readsDithered f c then offsetAt f i j else 0

/-- The frame names another code format than the operand's (R105, R420). -/
def frameClash (f : Frame) (c : Nat) : Bool := isCodeFormat f.cfmt.toNat && f.cfmt.toNat != c

/-- The FRAME fault of a consumer or a dithering producer (R420). -/
def frameFault (s : State) (r : Fin 8) (f : Frame) (c : Nat) : List FaultRec :=
  if frameClash f c then [slotFault s 0x45 r.val (f.cfmt.setWidth 64) (BitVec.ofNat 64 c) 0] else []

/-- A scale entry that a quantiser accepts: positive, normal and finite (R89). -/
def scaleOk (x : BitVec 32) : Bool := decide (0x00800000 ≤ x.toNat) && decide (x.toNat < 0x7F800000)

/-- The SCALE fault of a quantiser (R89, R420). -/
def scaleFault (s : State) (i : Fin 16) : List FaultRec :=
  let x := (curArch s).scl[i]
  if scaleOk x then [] else [slotFault s 0x46 i.val (x.setWidth 64) 0 0]

/-! ### Codes as numbers -/

/-- The largest magnitude of a DXB element (R83). -/
def dxbMax (c : Nat) : Nat := if c = 9 then 3 else 63

/-- The signed code of an element (R106): two's complement for INT, sign and magnitude for DXB. -/
def signedCode (c x : Nat) : Int :=
  if c = 6 then (BitVec.ofNat 4 x).toInt
  else if c = 7 then (BitVec.ofNat 8 x).toInt
  else
    let m : Int := ((x % (dxbMax c + 1) : Nat) : Int)
    if x / (dxbMax c + 1) % 2 = 1 then -m else m

/-- The selector of a DXB element (R83). -/
def dxbSel (c x : Nat) : Bool := x / (2 * (dxbMax c + 1)) % 2 == 1

/-- The exact value (s − d/32) of a code and its offset. -/
def codeNum (s d : Int) : Num := let v := 32 * s - d; .fin (decide (v < 0)) v.natAbs (-5)

/-- The exact value of an INT element with grid unit `u` (R106); `d` is 32 times its offset. DESIGN CHOICE (see the log): a zero takes
the sign of the product, so that it is −0 where `u` is negative. -/
def intElem (c x : Nat) (d : Int) (u : Num) : Num × Bool := mulNum (codeNum (signedCode c x) d) u

/-- A zero is +0. -/
def plainZero : Num → Num
  | .fin neg m e => if m = 0 then .fin false 0 0 else .fin neg m e
  | x => x

/-- The exact value of a DXB element under its block header (R84, R106): one of value 0 is +0, whatever its signs. -/
def dxbElem (c hdr x : Nat) (d : Int) (scl : Nat → BitVec 32) : Num × Bool :=
  let eh := hdr / 16 % 256
  if eh = 255 then (.nan, false)
  else
    let e : Int := if dxbSel c x then eh else (eh : Int) - 1 - ((hdr % 16 : Nat) : Int)
    let y := mulNum (mulNum (codeNum (signedCode c x) d) (.fin false 1 (e - 127))).1 (num32 (scl (hdr / 4096 % 16)))
    (plainZero y.1, y.2)

/-- The scale table as a function of an index. -/
def sclAt (t : Vector (BitVec 32) 16) (i : Nat) : BitVec 32 := t[Fin.ofNat 16 i]

/-! ### Quantising -/

/-- `a` / `b` rounded to the nearest integer, ties to even, b > 0; and whether it is inexact. -/
def divEven (a : Int) (b : Nat) : Int × Bool :=
  let k := a / b
  let r := (a % b).toNat
  (if b < 2 * r ∨ (2 * r = b ∧ k % 2 ≠ 0) then k + 1 else k, r != 0)

/-- x / u + d/32 as a fraction: numerator and denominator, for a finite x and u = mu × 2^eu (R104). -/
def gridFraction (neg : Bool) (m : Nat) (e : Int) (mu : Nat) (eu : Int) (d : Int) : Int × Nat :=
  let q := min e eu
  let u := mu * 2 ^ (eu - q).toNat
  (32 * numAt neg m e q + d * u, 32 * u)

/-- Quantises one value to INT4 or INT8 (R88, R104); u is positive and finite. -/
def quantInt (c : Nat) (mu : Nat) (eu : Int) (x : Num) (d : Int) : Int × BitVec 6 :=
  let lo : Int := if c = 6 then -8 else -128
  let hi : Int := if c = 6 then 7 else 127
  match x with
  | .nan => (0, fNV)
  | .inf neg => (if neg then lo else hi, fSATF)
  | .fin neg m e =>
    let f := gridFraction neg m e mu eu d
    let k := divEven f.1 f.2
    let y := max lo (min hi k.1)
    (y, intFlags k.2 (y != k.1))

/-- The least E with |x| / c ≤ M × 2^(E − 127) for |x| = m × 2^e, m ≠ 0, c = mc × 2^ec (R85). -/
def leastExp (big m : Nat) (e : Int) (mc : Nat) (ec : Int) : Int :=
  let p := big * mc
  let k : Int := (Nat.log2 m : Int) - Nat.log2 p + e - ec
  let sh := e - ec - k
  let fits := if 0 ≤ sh then decide (m * 2 ^ sh.toNat ≤ p) else decide (m ≤ p * 2 ^ (-sh).toNat)
  (if fits then k else k + 1) + 127

/-- An exponent above every finite one, for an infinite input of R85. -/
def infExp : Int := 100000

/-- The exponent e_i of R85; none for a zero (whose exponent is 0). -/
def quantExp (big mc : Nat) (ec : Int) : Num → Option Int
  | .nan => none
  | .inf _ => some infExp
  | .fin _ m e => if m = 0 then none else some (leastExp big m e mc ec)

/-- The 16th of the nonzero exponents in falling order (R85); 0 when it is that of a zero. -/
def rank16 (es : List (Option Int)) : Int :=
  let l := es.filterMap id
  match l.find? fun x => decide ((l.filter fun y => decide (x < y)).length ≤ 15) &&
      decide (16 ≤ (l.filter fun y => decide (x ≤ y)).length) with
  | some x => x
  | none => 0

/-- A DXB block: header, elements, flags. -/
structure Block where
  hdr : Nat
  codes : List Nat
  flags : BitVec 6
  deriving DecidableEq, Repr

/-- The NaN block of R85. -/
def nanBlock (si : Nat) (flags : BitVec 6) : Block := ⟨si * 4096 + 255 * 16, List.replicate 32 0, flags⟩

/-- One element of a DXB block (R85): its code and whether it differs from the exact value. -/
def quantDxbElem (c : Nat) (mc : Nat) (ec eh el : Int) (x : Num × Option Int) (d : Int) : Nat × Bool :=
  let big := dxbMax c
  let code (sel : Bool) (q : Int) : Nat :=
    (if sel then 2 * (big + 1) else 0) + (if q < 0 then big + 1 else 0) + q.natAbs
  match x.1 with
  | .nan => (0, false)
  | .inf neg => (code true (if neg then -(big : Int) else big), false)
  | .fin neg m e =>
    let sel := match x.2 with
      | some k => decide (el < k)
      | none => false
    if (match x.2 with | some k => decide (254 < k) | none => false) then
      (code true (if neg then -(big : Int) else big), false)
    else
      let f := gridFraction neg m e mc (ec + ((if sel then eh else el) - 127)) d
      let k := divEven f.1 f.2
      let q := max (-(big : Int)) (min big k.1)
      (code sel q, k.2 || q != k.1)

/-- The DXB quantiser of R85: `xs` the 32 inputs, `ds` 32 times their offsets, c = SCL[SI]. DESIGN CHOICE (see the log): where two rows
of the table of special inputs apply, a NaN beside an infinity or an exponent too large, the row of the NaN alone does: `NV`, no `OF`. -/
def quantDxb (c si : Nat) (scale : BitVec 32) (sat : Bool) (xs : List Num) (ds : List Int) : Block :=
  match num32 scale with
  | .nan => nanBlock si fNV
  | .inf _ => nanBlock si fNV
  | .fin _ mc ec =>
    let es := xs.map (quantExp (dxbMax c) mc ec)
    let top := (es.filterMap id).foldl max 16
    if xs.any (·.isNan) then nanBlock si fNV
    else if 254 < top ∧ !sat then nanBlock si fOF
    else
      let eh := min 254 top
      let el := max (eh - 16) (min (eh - 1) (rank16 es))
      let r := ((xs.zip es).zip ds).map fun q => quantDxbElem c mc ec eh el q.1 q.2
      let past := (xs.zip es).any fun q =>
        match q with
        | (.fin _ _ _, some k) => decide (254 < k)
        | _ => false
      ⟨si * 4096 + eh.toNat * 16 + (eh - 1 - el).toNat, r.map (·.1),
       flagIf (r.any (·.2)) fNX ||| flagIf (decide (254 < top)) fSATF ||| flagIf past (fOF ||| fNX)⟩

/-- The bytes of a block (R83): its header, then its elements packed (R82). -/
def blockBytes (c : Nat) (b : Block) : List Byte :=
  leBytes 2 b.hdr ++ leBytes (if c = 9 then 16 else 32) (packNat (codeWidth c) (fun i => b.codes.getD i 0) 32)

/-- Bytes of a DXB block (R83). -/
def blockSize (c : Nat) : Nat := if c = 9 then 18 else 34

/-! ### Sector compression (R184) -/

/-- A sector of 256 bytes compressed: presence mask, present bytes, zeros up to a multiple of 16. -/
def compressSector (bs : List Byte) : List Byte :=
  let l := bs.take 256 ++ List.replicate (256 - bs.length) 0
  let mask := leBytes 32 (packNat 1 (fun i => if l.getD i 0 = 0 then 0 else 1) 256)
  let present := l.filter (· ≠ 0)
  mask ++ present ++ List.replicate ((16 - present.length % 16) % 16) 0

/-- The length of a compressed sector with a presence mask. -/
def sectorLength (mask : Nat) : Nat :=
  32 + 16 * ((((List.range 256).filter fun i => mask / 2 ^ i % 2 = 1).length + 15) / 16)

/-- The 256 bytes that a mask and the bytes after it decode to. -/
def expandSector (mask : Nat) : (n i : Nat) → List Byte → List Byte
  | 0, _, _ => []
  | n + 1, i, bs =>
    if mask / 2 ^ i % 2 = 1 then bs.headD 0 :: expandSector mask n (i + 1) bs.tail
    else 0 :: expandSector mask n (i + 1) bs

end Sys2Proof.Machine
end

