-- ==== Sys2Proof/Machine/Store.lean ====
section
/-! DEFINITION. The fields of a BX image (R342, R343) and the instruction store that is filled from it (R36, R392, R436); actions
outside any work that wait for host memory (R358). -/

namespace Sys2Proof.Machine

/-! ### Accesses by sector -/

/-- The pieces of [addr, addr + n) by 256-byte sectors. -/
def pieces (addr : Word) (n : Nat) : List (Word × Nat) :=
  if n = 0 then []
  else
    let a := addr.toNat
    (List.range ((a + n - 1) / 256 - a / 256 + 1)).map fun i =>
      let lo := max a ((a / 256 + i) * 256)
      let hi := min (a + n) ((a / 256 + i + 1) * 256)
      (BitVec.ofNat 64 lo, hi - lo)

/-- An access of a home slice that reads bytes of a sector. -/
def touchSector (s : State) (pa n : Nat) : State := (homeRead s pa n none).2

/-- The accesses of home slices that read [pa, pa + n) of device memory. -/
def touchRange (s : State) (pa n : Nat) : State := (pieces (BitVec.ofNat 64 pa) n).foldl (fun s p => touchSector s p.1.toNat p.2) s

/-! ### Actions outside any work (R358) -/

/-- The host's answer to an action, when it is an error. -/
def Ask.error (a : Ask) : Option (BitVec 16) := if a.status = 0 then none else some a.status

/-- Carries out an action that no work stands for: the reads of host memory that it needs are sent first, and it is carried out when
they have been answered, with the host's error if it refuses one. What it writes there is sent in an owner's name. -/
def runAsk (s : State) (a : Ask) (o : Owner) (act : Option (BitVec 16) → State → State) : State :=
  let r := act a.error { s with want := [] }
  let reads := (r.want.filter fun m => m.type = 0 && !a.seen.contains (m.addr.toNat, m.len.toNat)).eraseDups
  if reads ≠ [] ∧ a.status = 0 then
    let q := postMsgs reads s
    { q.2 with asks := q.2.asks ++ [{ a with tags := q.1, since := s.cycle }] }
  else
    let q := postMsgs (r.want.filter fun m => m.type = 1) { r with want := [] }
    { q.2 with want := s.want, posts := q.2.posts ++ q.1.map fun t => ⟨t, s.cycle, o⟩ }

/-- An action that has asked nothing yet. -/
def newAsk (what : AskKind) : Ask := ⟨what, [], [], 0, 0⟩

/-- Writes bytes of one sector in an owner's name; where the sector has to be read from the host first, the write performs when that
has been answered (R435). -/
def homePost (o : Owner) (s : State) (pa : Nat) (bs : List Byte) : State :=
  runAsk s (newAsk (.put o pa bs)) o fun _ s => homeWrite s pa bs none

/-- The context for which an action of the task unit is done. -/
def Ask.ctx (a : Ask) : Option (Fin 1024) :=
  match a.what with
  | .abort k _ _ _ => some k
  | .retract k => some k
  | .commit k _ => some k
  | _ => none

/-- Whether the task unit waits for host memory for a context: the context goes on with its task only then. -/
def asking (s : State) (k : Fin 1024) : Bool := s.asks.any fun a => a.ctx = some k

/-- The owner for which an action outside any work writes part of a sector. -/
def Ask.owner (a : Ask) : Option Owner :=
  match a.what with
  | .put o _ _ => some o
  | _ => none

/-- Whether an owner waits for no answer of the host. -/
def settledFor (s : State) (o : Owner) : Bool := !(s.posts.any fun p => p.owner = o) && !(s.asks.any fun a => a.owner = some o)

/-- A sector written back outside any work. -/
def postSector (c : Fin 256) (s : State) (pa : Nat) (bs : List Byte) : State := homePost (.core c) s pa bs

/-! ### The image (R342) -/

/-- A field of the image at `img`. -/
def imgVal (s : State) (img off n : Nat) : Nat := memVal s.mem (img + off) n

def imgNcode (s : State) (img : Nat) : Nat := imgVal s img 8 4
def imgNdata (s : State) (img : Nat) : Nat := imgVal s img 12 4
def imgFlags (s : State) (img : Nat) : Nat := imgVal s img 16 4
def imgDigoff (s : State) (img : Nat) : Nat := imgVal s img 24 8
def imgCmap (s : State) (img : Nat) (c : Fin 256) : Nat := imgVal s img (32 + c.val) 1

/-- A code section: file offset and length in syllables. -/
def imgCode (s : State) (img i : Nat) : Nat × Nat := (imgVal s img (288 + 16 * i) 8, imgVal s img (288 + 16 * i + 8) 4)

/-- A data segment: global address, file offset, length. -/
def imgData (s : State) (img i : Nat) : Nat × Nat × Nat :=
  let o := 288 + 16 * imgNcode s img + 32 * i
  (imgVal s img o 8, imgVal s img (o + 8) 8, imgVal s img (o + 16) 8)

/-- The digest an image carries. -/
def imgDigest (s : State) (img : Nat) : BitVec 512 := BitVec.ofNat 512 (imgVal s img (imgDigoff s img) 64)

/-- The code section of a core, when it has one. -/
def coreSection (s : State) (img : Nat) (c : Fin 256) : Option (Nat × Nat) :=
  let i := imgCmap s img c
  if i = 0xFF then none else some (imgCode s img i)

/-- The words of a core's instruction store, by key, whose bytes lie in a code word of the image with an uncorrectable error. -/
def badCode (s : State) (c : Fin 256) (pa n : Nat) : List Nat :=
  (List.range ((4 * n + 7) / 8)).filterMap fun i => if badAt s (pa + 8 * i) 8 then some (localKey 4 c.val (8 * i)) else none

/-- Fills a core's instruction store from the image as it stands in device memory, at the home slices (R36, R168, R436). What cannot be
read there is met when it is fetched (R392). -/
def fillCode (s : State) (c : Fin 256) (img : Nat) : State :=
  match coreSection s img c with
  | none => s
  | some (off, n) =>
    let n := min n (0x80000 / 4)
    let key := localKey 4 c.val 0
    let s := touchRange s (img + off) (4 * n)
    let lost := badCode s c (img + off) n
    let s := putBytes { s with mem := memClear s.mem key 0x80000, bad := s.bad.filter fun w => !(decide (key ≤ w) && decide (w < key + 0x80000)) }
      key (memRead s.mem (img + off) (4 * n))
    modCore { s with bad := lost ++ s.bad } c fun x => { x with codeLen := n }

/-- A word of a core's instruction store in which a fetch has met an uncorrectable error is fetched again from the image in device
memory; where that fails, the core's job ends (R392, R394). -/
def refetchWord (s : State) (c : Fin 256) (w : Nat) : State :=
  match ((coreAt s c).job.bind (findJob s)).bind fun j => (coreSection s j.image.toNat c).map fun q => j.image.toNat + q.1 with
  | none => lostData s c 3
  | some pa =>
    let a := pa + (w - localKey 4 c.val 0)
    let s := touchRange s a 8
    if badAt s a 8 then lostData s c 3 else putBytes s w (memRead s.mem a 8)

/-- The words in error among the `n` syllables of a core from `i` on are fetched again. -/
def refetch (s : State) (c : Fin 256) (i n : Nat) : State :=
  let lo := localKey 4 c.val (4 * i)
  (s.bad.filter fun w => decide (w < lo + 4 * n) && decide (lo < w + 8)).foldl (fun s w => refetchWord s c w) s

end Sys2Proof.Machine
end

