-- ==== Sys2Proof/Machine/Access.lean ====
section
/-! DEFINITION. Where an access goes and how it performs: local spaces and their refusals (R165 to R167, R401), global
reads and writes by engines, landing loads through L1, atomics, VSTG, flag writes, L1 range operations and SPART (R125 to
R130, R160, R161, R278, R288). Everything is done whole, at the moment the access performs. -/

namespace Sys2Proof.Machine

/-! ### Places -/

/-- Where an address leads: a physical address, an offset of a unit of a local space, or one of the saved image of a core
(R41). -/
inductive Place where
  | glob (pa : Nat)
  | unit (space : Nat) (u : Fin 256) (off : Nat)
  | image (space : Nat) (u : Fin 256) (off : Nat)
  deriving DecidableEq, Repr

/-- What an access is made for: the core and context it comes from, its job, the host's answer if it is an error, and the requester of
its own core's arbitrated ports that makes it (R172). -/
structure Via where
  core : Fin 256
  ctx : Fin 1024
  job : BitVec 32
  host : Option (BitVec 16)
  req : Fin 7
  deriving DecidableEq, Repr

/-- The requester of its own core's arbitrated ports that a piece of work is (R172): a copy engine, the drain unit, the mesh port for
loads by address and `VSTG`, else the ladder unit. -/
def ownRequester (w : Work) : Fin 7 :=
  match w.kind with
  | .copy _ => if w.slot = 4 then 0 else 1
  | .drain _ => 2
  | .load _ => 5
  | .vstg _ _ => 5
  | _ => 4

/-- The issuer of a piece of work. -/
def viaOf (w : Work) : Via := ⟨coreOf w.ctx, w.ctx, w.job, w.hostStatus, ownRequester w⟩

/-- The requester of the ports of core `u`: the mesh port for other cores' traffic (R172). -/
def Via.requester (v : Via) (u : Fin 256) : Fin 7 := if v.core ≠ u then 5 else v.req

/-- The place of `n` bytes of one sector (R165 to R167, R169, R401): a refused translation, an absent window, a core that is
retired or not held, a host error. -/
def locate (s : State) (v : Via) (addr : Word) (n : Nat) (write : Bool) : Except Refused Place × State :=
  if isGlobal addr then
    match xlate s v.core v.job addr.toNat write with
    | (.error r, s) => (.error r, s)
    | (.ok pa, s) =>
      match v.host with
      | some st => if 2 ^ 47 ≤ pa ∧ st ≠ 0 then (.error ⟨0x1C, st⟩, s) else (.ok (.glob pa), s)
      | none => (.ok (.glob pa), s)
  else
    match localAddr addr with
    | none => (.error ⟨0x1B, 0⟩, s)
    | some (sp, u, off) =>
      let c : Fin 256 := Fin.ofNat 256 u
      if sp = 2 then
        let x := sliceAt s c
        if x.holder = some v.job ∧ off + n ≤ x.ways * 0x100000 then (.ok (.unit 2 c off), s)
        else (.error ⟨0x1A, BitVec.ofNat 16 u⟩, s)
      else if (coreAt s c).retired || !holdsCore s v.job c then (.error ⟨0x1B, BitVec.ofNat 16 u⟩, s)
      else (.ok (if liveAt s v.job c then .unit sp c off else .image sp c off), s)

/-- The key of a place that is stored as such; an image lies where its job's tables put it. -/
def placeKey : Place → Option Nat
  | .glob pa => some pa
  | .unit sp u off => some (localKey sp u.val off)
  | .image _ _ _ => none

/-- Whether a test of stored bytes holds of `n` bytes of the image of a core that a job has saved: of the words in error that were set
aside with it, or of those of the save area (R393). -/
def imageTest (test : State → Nat → Nat → Bool) (s : State) (j : BitVec 32) (sp : Nat) (u : Fin 256) (off n : Nat) : Bool :=
  test s (asideKey j sp u off) n || (imagePa s j u sp off false).1.any fun pa => test s pa n

/-- Whether `n` bytes at a place of a job lie in part of a code word with an uncorrectable error. -/
def placeBad (s : State) (j : BitVec 32) (p : Place) (n : Nat) : Bool :=
  match p with
  | .image sp u off => imageTest badPart s j sp u off n
  | p => (placeKey p).any fun k => badPart s k n

/-- Whether a space-1 offset lies in an unallocated bank (R176). -/
def bankFree (s : State) (j : BitVec 32) (u : Fin 256) (off : Nat) : Bool :=
  let e : Fin 8 := Fin.ofNat 8 (off / 0x10000)
  if liveAt s j u then !((coreAt s u).e[e]).al
  else (findSaved s j u).all fun x => !(x.e[e]).al

/-- `ASTAT` of a context after a read of an unallocated bank. -/
def markUnalloc (bits : Word) (c : Ctx) : Ctx := { c with arch := raiseAstat bits c.arch }

/-- Reads `n` bytes of one sector at a place as an engine does: the home slice, the arbitrated port, or the unit; an
uncorrectable word refuses the read (R393), one of a flag file ends its core's job as well, and one of an instruction store is fetched
again from the image (R392). An unallocated bank reads zeros and marks the issuer's ASTAT (R176). -/
def readPlace (s : State) (v : Via) (p : Place) (n : Nat) (rank : Option Nat) : Except Refused (List Byte) × State :=
  match p with
  | .glob pa =>
    let q := homeRead s pa n rank
    (if badAt s pa n then .error ⟨0x19, 0⟩ else .ok q.1, q.2)
  | .unit sp u off =>
    let key := localKey sp u.val off
    if sp = 1 ∧ bankFree s v.job u off then (.ok (List.replicate n 0), modTarget s v.job v.ctx (markUnalloc aUnalloc))
    else if sp = 4 then
      let s := refetch s u (off / 4) ((off % 4 + n + 3) / 4)
      (.ok (memRead s.mem key n), s)
    else if badAt s key n then (.error ⟨0x19, 0⟩, if sp = 3 then machineEnd s v.job 3 0x90 2 (some u) else s)
    else if sp = 0 then (.ok (arbRead s u off n), arbTurn s ⟨off, [], 0, v.ctx, 0, 0, v.requester u⟩ u n)
    else (.ok (memRead s.mem key n), if sp = 2 then correctWords s u key n else s)
  | .image sp u off =>
    if sp = 1 ∧ bankFree s v.job u off then (.ok (List.replicate n 0), modTarget s v.job v.ctx (markUnalloc aUnalloc))
    else
      let q := imageRead s v.job u sp off n
      if imageTest badAt s v.job sp u off n then (.error ⟨0x19, 0⟩, if sp = 3 then machineEnd q.2 v.job 3 0x90 2 (some u) else q.2)
      else (.ok q.1, q.2)

/-- Writes bytes of one sector at a place as an engine does. -/
def writePlace (s : State) (w : Work) (p : Place) (bs : List Byte) (rank : Option Nat) : State :=
  match p with
  | .glob pa => homeWrite s pa bs rank
  | .unit sp u off =>
    let key := localKey sp u.val off
    if sp = 0 then arbWrite s w ((viaOf w).requester u) u off bs
    else putBytes (if sp = 2 then correctWords s u key bs.length else s) key bs
  | .image sp u off => imageWrite s w.job u sp off bs

/-- Reads bytes by address, sector by sector. -/
def readPieces (s : State) (v : Via) (rank : Option Nat) : List (Word × Nat) → Except Refused (List Byte) × State
  | [] => (.ok [], s)
  | (a, n) :: r =>
    match locate s v a n false with
    | (.error e, s) => (.error e, s)
    | (.ok p, s) =>
      match readPlace s v p n rank with
      | (.error e, s) => (.error e, s)
      | (.ok bs, s) =>
        match readPieces s v rank r with
        | (.error e, s) => (.error e, s)
        | (.ok cs, s) => (.ok (bs ++ cs), s)

/-- Reads `n` bytes at an address as an engine does (R279). -/
def readAt (s : State) (v : Via) (addr : Word) (n : Nat) (rank : Option Nat := none) : Except Refused (List Byte) × State :=
  readPieces s v rank (pieces addr n)

/-- The places of the pieces, or the first refusal. -/
def locateAll (s : State) (v : Via) (write : Bool) : List (Word × Nat) → Except Refused (List (Place × Nat)) × State
  | [] => (.ok [], s)
  | (a, n) :: r =>
    match locate s v a n write with
    | (.error e, s) => (.error e, s)
    | (.ok p, s) =>
      match locateAll s v write r with
      | (.error e, s) => (.error e, s)
      | (.ok ps, s) => (.ok ((p, n) :: ps), s)

/-- Writes bytes into places in turn. -/
def writePlaces (s : State) (w : Work) (rank : Option Nat) : List (Place × Nat) → List Byte → State
  | [], _ => s
  | (p, n) :: r, bs => writePlaces (writePlace s w p (bs.take n) rank) w rank r (bs.drop n)

/-- Writes bytes at an address as an engine does: all of them, or none when a piece is refused (R385), or would change part of a
code word with an uncorrectable error (R403). -/
def writeAt (s : State) (w : Work) (addr : Word) (bs : List Byte) (rank : Option Nat := none) :
    Except Refused Unit × State :=
  match locateAll s (viaOf w) true (pieces addr bs.length) with
  | (.error e, s) => (.error e, s)
  | (.ok ps, s) =>
    if ps.any fun q => placeBad s w.job q.1 q.2 then (.error ⟨0x19, 0⟩, s) else (.ok (), writePlaces s w rank ps bs)

/-! ### Faults of work (R371, R372, R403) -/

/-- `TVAL2` of a fault of an access (R372). -/
def accessWord (w : Work) : Word :=
  BitVec.ofNat 64 (w.bun.toNat % 2 ^ 20 * 2 ^ 44 + w.cls.val * 2 ^ 40 + w.opc.toNat * 2 ^ 32 + w.dreg.val * 2 ^ 26 +
    w.dist.toNat)

/-- Whether `RLAND` can supply or replay an access: the rows of R380. -/
def replayable : WorkKind → Bool
  | .load _ => true
  | .amo _ _ => true
  | .vstg _ _ => true
  | .spload _ _ _ => true
  | .rowload _ _ _ => true
  | .ladder c => c.op == 0x4A
  | _ => false

/-- The fault record of a refused access. -/
def workFault (w : Work) (r : Refused) (addr x : Word) (dest : Landing) : FaultRec :=
  ⟨r.code, r.sub, some w.slot, addr, x, accessWord w, if replayable w.kind then some ⟨w.kind, dest, w.cls, w.seq⟩ else none⟩

/-- The engine failure code of a refusal (R401, R403). -/
def engineCode (r : Refused) : BitVec 16 :=
  if r.code = 0x18 then 0x0103 else if r.code = 0x19 then 0x0102 else if r.code = 0x1A then 0x0104
  else if r.code = 0x1B then 0x0101 else if r.code = 0x1C then 0x0105 else r.code

/-- Gives the flights that wait for work `q` their value; several groups of one destination are replaced together. -/
def arrive (s : State) (k : Fin 1024) (q : Nat) (f : Landing → Landing) : State :=
  modCtx s k fun c => { c with flight := c.flight.map fun x =>
    if !x.ready && x.src == q then { x with ready := true, act := f x.act } else x }

/-- Marks the flights that wait for work `q` with a fault (R377). -/
def arriveFault (s : State) (k : Fin 1024) (q : Nat) (f : Landing → FaultRec) : State :=
  modCtx s k fun c => { c with flight := c.flight.map fun x =>
    if !x.ready && x.src == q then { x with ready := true, fault := some (f x.act) } else x }

/-- Records a deferred fault for a context; a halted one discards it (R135, R379). -/
def defer (s : State) (k : Fin 1024) (q : Nat) (handler : Bool) (f : FaultRec) : State :=
  modCtx s k fun c => if c.run = .halted then c else { c with deferred := c.deferred ++ [⟨q, handler, f⟩] }

/-! ### Landing loads -/

/-- A value with the sign or zero extension of a load (R123, R125). -/
def extendTo (size : Nat) (signed : Bool) (x : Nat) : Word :=
  if signed then (BitVec.ofNat 64 x <<< (64 - 8 * size)).sshiftRight (64 - 8 * size) else BitVec.ofNat 64 x

/-- The landing of a loaded value in its destination. -/
def loadLanding (size : Nat) (signed : Bool) (bs : List Byte) : Landing → Landing
  | .sreg d _ => .sreg d (extendTo size signed (leVal bs))
  | .vreg d _ lanes => .vreg d (BitVec.ofNat 2048 (leVal bs)) lanes
  | a => a

/-- Reads a landing load's bytes: global ones through L1, others at the unit (R125, R160). -/
def loadBytes (s : State) (v : Via) (r : LoadReq) : Except Refused (List Byte) × State :=
  match locate s v r.addr r.size false with
  | (.error e, s) => (.error e, s)
  | (.ok (.glob pa), s) =>
    match l1Read s v.core pa r.size with
    | (some x, s) => (.ok (((vBytes x).drop (pa % 256)).take r.size), s)
    | (none, s) => (.error ⟨0x19, 0⟩, s)
  | (.ok p, s) => readPlace s v p r.size none

/-- A landing load performs: its data arrives, or its answer is a fault. -/
def performLoad (s : State) (w : Work) (r : LoadReq) : State :=
  match loadBytes s (viaOf w) r with
  | (.ok bs, s) => arrive s w.ctx w.seq (loadLanding r.size r.signed bs)
  | (.error e, s) => arriveFault s w.ctx w.seq (workFault w e r.addr 0)

/-! ### Atomics (R127 to R129) -/

/-- The operation of an `AMO` or `RED` on n-bit values, by opcode. -/
def amoOp (op : BitVec 8) (n : Nat) (old b c : BitVec n) : BitVec n :=
  if op = 0x70 ∨ op = 0x78 then old + b
  else if op = 0x71 ∨ op = 0x79 then old &&& b
  else if op = 0x72 ∨ op = 0x7A then old ||| b
  else if op = 0x73 then old ^^^ b
  else if op = 0x74 ∨ op = 0x7B then (if old.sle b then old else b)
  else if op = 0x75 ∨ op = 0x7C then (if old.sle b then b else old)
  else if op = 0x76 then b
  else if old = c then b else old

/-- The value an old word is returned as (R129). -/
def amoReturn (wide : Bool) (old : Nat) : Word :=
  if wide then BitVec.ofNat 64 old else (BitVec.ofNat 32 old).signExtend 64

/-- Gives a return-queue place its value, in the queue or in the AMOPOP that has taken it. -/
def amoArrive (s : State) (k : Fin 1024) (q : Nat) (x : Word) : State :=
  let s := modCtx s k fun c => { c with amoq := c.amoq.map fun p => if p.seq = q then { p with value := some x } else p }
  arrive s k q fun
    | .sreg d _ => .sreg d x
    | a => a

/-- Whether an AMOPOP has taken the place of an `AMO`. -/
def amoTaken (s : State) (k : Fin 1024) (q : Nat) : Bool := (ctxAt s k).flight.any fun f => !f.ready && f.src == q

/-- A refused atomic (R379): a deferred fault, or a landing fault of the AMOPOP that has taken its place. -/
def refuseAmo (s : State) (w : Work) (r : AmoReq) (e : Refused) : State :=
  if amoTaken s w.ctx w.seq then
    arriveFault s w.ctx w.seq fun a =>
      let d : Fin 64 := match a with
        | .sreg d _ => d
        | _ => 0
      workFault { w with dreg := d, dist := 3 } e r.addr r.x a
  else
    let s := modCtx s w.ctx fun c => { c with amoq := c.amoq.map fun p => if p.seq = w.seq then { p with value := some 0 } else p }
    defer s w.ctx w.seq w.handler (workFault w e r.addr r.x .nothing)

/-- The sector of an address in a core's L1 is written back when dirty, and is then invalid (R128). -/
def dropL1 (put : State → Nat → List Byte → State) (s : State) (c : Fin 256) (pa : Nat) : State :=
  if (l1Find (coreAt s c) pa).isSome then l1Sweep put s c true fun x => x == pa / 256 * 256 else s

/-- What an `AMO` or `RED` makes of the old value. -/
def amoNew (r : AmoReq) (old : Nat) : Nat :=
  if r.wide then (amoOp r.op 64 (BitVec.ofNat 64 old) r.x r.cmp).toNat
  else (amoOp r.op 32 (BitVec.ofNat 32 old) (r.x.setWidth 32) (r.cmp.setWidth 32)).toNat

/-- An `AMO` or `RED` performs at its home slice, after what the context has stored of the sector (R128): a `VSTG` issued before it
may have entered L1 only after its issue, so the sector is dropped here once more (DEDUCED, log entry 98). -/
def performAmo (s : State) (w : Work) (r : AmoReq) (ret : Bool) : State :=
  let n := if r.wide then 8 else 4
  match locate s (viaOf w) r.addr n true with
  | (.error e, s) => refuseAmo s w r e
  | (.ok (.unit _ _ _), s) => refuseAmo s w r ⟨0x1B, 0⟩
  | (.ok (.image _ _ _), s) => refuseAmo s w r ⟨0x1B, 0⟩
  | (.ok (.glob pa), s) =>
    let s := dropL1 putSector s (coreOf w.ctx) pa
    let q := atomicRead s pa n
    if badAt s pa n then refuseAmo q.2 w r ⟨0x19, 0⟩
    else
      let old := leVal q.1
      let s := atomicWrite q.2 pa (leBytes n (amoNew r old))
      if ret then amoArrive s w.ctx w.seq (amoReturn r.wide old) else s

/-! ### VSTG (R161) -/

/-- A `VSTG` performs: a global one enters the issuing core's L1, valid and dirty; a local one its unit. -/
def performVstg (s : State) (w : Work) (addr : Word) (x : VReg) : State :=
  let refuse (s : State) (e : Refused) : State := defer s w.ctx w.seq w.handler (workFault w e addr 0 .nothing)
  match locate s (viaOf w) addr 256 true with
  | (.error e, s) => refuse s e
  | (.ok (.glob pa), s) => l1SetSector (l1Alloc s (coreOf w.ctx) pa) (coreOf w.ctx) pa x true
  | (.ok (.unit sp u off), s) =>
    if sp = 0 ∧ meets (claimedTiles (coreAt s u)) off 256 then
      defer s w.ctx w.seq w.handler (mkFault 0x11 2 (some w.slot) addr 0 0)
    else writePlace s w (.unit sp u off) (vBytes x) none
  | (.ok (.image sp u off), s) => writePlace s w (.image sp u off) (vBytes x) none

/-! ### Flags (R288 to R290, R298, R50) -/

/-- The flag word that gates pool `i` of a job (R50). DESIGN CHOICE (see the log): a `GFLAG` above 63 is taken modulo 64; a core that
the job does not name has no image, and its flag words read 0, so that a pool gated on one opens only for `GVAL` 0. -/
def Pool.gate (p : Pool) (i : Fin 64) : Fin 256 × Nat :=
  (Fin.ofNat 256 (i.val / 16 * 64 + p.gcore.toNat % 64), p.gflag.toNat % 64)

/-- Whether the flag word of a core, as a job sees it, has an uncorrectable error (R392). -/
def flagBad (s : State) (j : BitVec 32) (c : Fin 256) (word : Nat) : Bool :=
  if liveAt s j c then badAt s (localKey 3 c.val (4 * word)) 4 else imageTest badAt s j 3 c (4 * word) 4

/-- A flag word is read: the pools of a job that it gates open, and the tasks whose gate it is are eligible, where it has reached their
thresholds (R50, R305). A word with an uncorrectable error ends the job (R392). -/
def openGates (s : State) (j : BitVec 32) (c : Fin 256) (word : Nat) : State :=
  let x := (flagOf s j c word).toNat
  let here (g : Fin 256 × Nat) : Bool := g == (c, word)
  let pool (p : Pool) (i : Fin 64) : Bool := !p.isOpen && here (p.gate i)
  let task (t : TaskItem) : Bool := !t.met && t.gate.any fun g => here (Fin.ofNat 256 g.1, g.2.1)
  let mark (t : TaskItem) : TaskItem := if task t && t.gate.any (fun g => decide (g.2.2.toNat ≤ x)) then { t with met := true } else t
  let waits := (findJob s j).any fun y =>
    (List.finRange 64).any (fun i => pool y.pools[i] i) || y.domains.any fun d => d.tasks.any task
  if !waits then s
  else if flagBad s j c word then machineEnd s j 3 0x90 2 (some c)
  else
    modJob s j fun y => { y with
      pools := Vector.ofFn fun i : Fin 64 =>
        let p := y.pools[i]
        if pool p i && decide (p.gval.toNat ≤ x) then { p with isOpen := true } else p,
      domains := y.domains.map fun d => { d with tasks := d.tasks.map mark } }

/-- A flag word as a job sees it, as a key: words of a saved core are told apart by job. -/
def flagKey (s : State) (j : BitVec 32) (c : Fin 256) (word : Nat) : Nat :=
  localKey 3 c.val (4 * word) + if liveAt s j c then 0 else (j.toNat + 1) * 2 ^ 64

/-- One write of a flag word (R288): waiting contexts of the core take a satisfying value (R298), and gates open. An add to a word
with an uncorrectable error ends the job (R392); one to a saved core's word reads it in its image first (R41). -/
def writeFlag (s : State) (j : BitVec 32) (c : Fin 256) (word : Nat) (x : BitVec 32) (add : Bool) : State :=
  let key := localKey 3 c.val (4 * word)
  if add && flagBad s j c word then machineEnd s j 3 0x90 2 (some c)
  else
  let old := flagOf s j c word
  let s := if add && !liveAt s j c then (imageRead s j c 3 (4 * word) 4).2 else s
  let new := if add then old + x else x
  let s := { s with flagged := flagKey s j c word :: s.flagged }
  let s := if liveAt s j c then putBytes s key (leBytes 4 new.toNat) else imageWrite s j c 3 (4 * word) (leBytes 4 new.toNat)
  let s := (List.finRange 4).foldl (fun s i =>
    modTarget s j (ctxId c i) fun k =>
      if k.flagSeen.isNone && k.waits.any (fun
          | .flag w cc v => w.val == word && flagMeets cc new v
          | _ => false) then { k with flagSeen := some new } else k) s
  openGates s j c word

/-- The cores a flag write names. -/
def flagTargets (cores : Word) (stack core : Nat) (add : Bool) : List (Fin 256) :=
  if add then [Fin.ofNat 256 core]
  else ((List.range 64).filter fun i => cores.getLsbD i).map fun i => Fin.ofNat 256 (stack * 64 + i)

/-- A flag write performs at its targets; one aimed at a retired core, or a core the job no longer holds, is discarded
(R167, R400). -/
def performFlag (s : State) (w : Work) (cores : Word) (stack core : Nat) (word : Fin 64) (x : BitVec 32) (add : Bool) : State :=
  (flagTargets cores stack core add).foldl (fun s c =>
    if (coreAt s c).retired || !holdsCore s w.job c then s else writeFlag s w.job c word.val x add) s

/-- Whether no word that a flag write names has been written in this cycle (R288). -/
def flagsFree (s : State) (w : Work) : Bool :=
  match w.kind with
  | .flagw cores stack core word _ add none =>
    (flagTargets cores stack core add).all fun c => !s.flagged.contains (flagKey s w.job c word.val)
  | _ => true

/-! ### L1 range operations (R126) -/

/-- The pages of [va, hi) through which a core of a job sees the range, each translated as an access is (R171): virtual base, size,
physical base. One that does not translate is passed over, as far as the table entry that says so reaches (R126). -/
def rangePages (c : Fin 256) (j : BitVec 32) (hi : Nat) : (fuel va : Nat) → State → List (Nat × Nat × Nat) × State
  | 0, _, s => ([], s)
  | n + 1, va, s =>
    if hi ≤ va then ([], s)
    else
      match xlateEntry s c j va false with
      | (.ok e, s) =>
        let size := 2 ^ pageBits e.level.val
        let q := rangePages c j hi n ((e.page + 1) * size) s
        ((e.page * size, size, e.base) :: q.1, q.2)
      | (.error r, s) =>
        let l := if r.code = 0x18 then r.sub.toNat % 4 else 0
        let span := 2 ^ (if l = 0 then 16 else 12 + 9 * l)
        rangePages c j hi n ((va / span + 1) * span) s

/-- `L1INV` and `L1WB` perform over the sectors that overlap the range (R126). -/
def performL1 (s : State) (w : Work) (start len : Word) (inv : Bool) : State :=
  if len = 0 then arrive s w.ctx w.seq id
  else
    let lo := start.toNat
    let hi := lo + len.toNat
    let ps := rangePages (coreOf w.ctx) w.job (min hi (2 ^ 48)) (len.toNat / 65536 + 2) lo s
    let hit (pa : Nat) : Bool := ps.1.any fun p =>
      decide (p.2.2 ≤ pa) && decide (pa < p.2.2 + p.2.1) &&
        decide (p.1 + (pa - p.2.2) < hi) && decide (lo < p.1 + (pa - p.2.2) + 256)
    arrive (l1Sweep putSector ps.2 (coreOf w.ctx) inv hit) w.ctx w.seq id

/-! ### Massif partitioning (R130, R167, R180) -/

/-- Sets the ways of a slice's window for a job: ways gained lose their lines, dirty ones written back, and are zeroed, ways lost
are discarded and zeroed (R130). -/
def setWays (s : State) (u : Fin 256) (n : Nat) (j : BitVec 32) : State :=
  let x := sliceAt s u
  let old := x.ways
  let lost := x.lines.filter fun l => l.way < n
  let s := countSlice s u 0x0102 (lost.filter fun l => decide (l.dirty ≠ 0)).length
  let s := wantMsgs s (lost.flatMap (lineWrites s))
  let lo := localKey 2 u.val (min old n * 0x100000)
  let size := (max old n - min old n) * 0x100000
  let s := { s with mem := memClear s.mem lo size, bad := s.bad.filter fun w => !(decide (lo ≤ w) && decide (w < lo + size)),
                    soft := s.soft.filter fun w => !(decide (lo ≤ w) && decide (w < lo + size)) }
  modSlice s u fun x => { x with ways := n, lines := x.lines.filter (fun l => decide (n ≤ l.way)),
                                 holder := if n = 0 then none else if old = 0 then some j else x.holder }

/-- `SPART` performs at its slice (R130); on a window of another job it performs nothing and is refused (R167). -/
def performSpart (s : State) (w : Work) (u : Fin 256) (ways : Nat) : State :=
  let x := sliceAt s u
  if x.holder.isSome ∧ x.holder ≠ some w.job then
    let s := arrive s w.ctx w.seq fun _ => .nothing
    defer s w.ctx w.seq w.handler (workFault w ⟨0x1A, BitVec.ofNat 16 u.val⟩ (BitVec.ofNat 64 u.val) 0 .nothing)
  else
    arrive (setWays s u ways w.job) w.ctx w.seq fun
      | .sreg d _ => .sreg d (BitVec.ofNat 64 x.ways)
      | a => a

end Sys2Proof.Machine
end

