-- ==== Sys2Proof/Machine/Matrix.lean ====
section
/-! DEFINITION. Accumulator banks, array steps, drains and operand rings: VLDA, VSTA and the M slot (R92 to R96, R162 to
R164, R174 to R176, R217 to R233), with what happens when a step or a bank write lands. -/

namespace Sys2Proof.Machine

/-! ### Banks (R174, R224) -/

/-- A bank of the issuing core. -/
def bankAt (s : State) (c : Fin 256) (e : Fin 8) : Bank := (coreAt s c).e[e]

/-- The bank state word of R224. -/
def bankWord (b : Bank) : Word :=
  BitVec.ofNat 64 (b.own.toNat * 2 ^ 11 + b.anc.toNat * 8 + b.mode.toNat * 2 + bit b.al)

/-- The space-1 offset of column `col` of a row (R174). -/
def entryOff (b : Bank) (e : Fin 8) (row col : Nat) : Nat :=
  e.val * 0x10000 + row * 512 + col * (if b.mode = 2 then 8 else 4)

/-- Width of a bank in columns, bytes of an entry. -/
def bankWidth (b : Bank) : Nat := if b.al ∧ b.mode = 2 then 64 else 128
def entrySize (b : Bank) : Nat := if b.mode = 2 then 8 else 4

/-- The owner of a band: a context of the core (R175, R224). -/
def bandOwner (b : Bank) (band : Nat) : Nat := b.own.toNat / 4 ^ band % 4

/-- The bands of a mask that a context does not own. -/
def notOwned (b : Bank) (mask : Nat) (k : Fin 4) : Nat :=
  packNat 1 (fun i => if mask / 2 ^ i % 2 = 1 ∧ bandOwner b i ≠ k.val then 1 else 0) 8

/-- The bands that `m` rows from `rb` meet. -/
def rowBands (rb m : Nat) : Nat := packNat 1 (fun i => if rb < 16 * i + 16 ∧ 16 * i < rb + m then 1 else 0) 8

/-- The anchor A (R95). -/
def anchorOf (b : Bank) : Int := b.anc.toInt

/-- x / 2^(A − 48) rounded half to even; none for a NaN or an infinity (R95). -/
def gridOf (a : Int) : Num → Option Int
  | .nan => none
  | .inf _ => none
  | .fin neg m e => some (roundInt .rne neg m (e - (a - 48))).1

/-- Whether rounding x to the grid of anchor A is inexact. -/
def gridInexact (a : Int) : Num → Bool
  | .fin neg m e => (roundInt .rne neg m (e - (a - 48))).2
  | _ => false

/-- The exact value of an anchored entry, and whether it may have wrapped (R95). -/
def anchoredNum (a : Int) (x : Nat) : Num × Bool :=
  let e := (BitVec.ofNat 64 x).toInt
  (.fin (decide (e < 0)) e.natAbs (a - 48), !(decide (-(2 ^ 55) ≤ e) && decide (e < 2 ^ 55)))

/-- One entry written or added by a step (R223): `fl`: the sum comes from the float path, already an FP32 value. None leaves
the entry. -/
def stepEntry (b : Bank) (ovr fl : Bool) (old : Nat) (x : Num) : Option Nat × BitVec 6 :=
  if b.mode = 0 then
    let y := (toFp32 .rne x).bits
    (some (if ovr then y else (fpAdd .rne (num32 (BitVec.ofNat 32 old)) (num32 (BitVec.ofNat 32 y))).bits), 0)
  else if b.mode = 1 then
    match x with
    | .fin neg m _ =>
      let k : Int := if neg then -(m : Int) else m
      (some (BitVec.ofInt 32 ((if ovr then 0 else (old : Int)) + k)).toNat, 0)
    | .nan => (none, 0)
    | .inf _ => (none, 0)
  else
    let y := if fl then num32 (BitVec.ofNat 32 (toFp32 .rne x).bits) else x
    match gridOf (anchorOf b) y with
    | some g => (some (BitVec.ofInt 64 ((if ovr then 0 else (BitVec.ofNat 64 old).toInt) + g)).toNat, 0)
    | none => (none, fNV)

/-- One lane of `VSTA` or word of `CPYR` written or added (R164, R205). -/
def laneEntry (b : Bank) (add : Bool) (old : Nat) (x : BitVec 32) : Option Nat × BitVec 6 :=
  if b.mode = 0 then
    if add then let y := fpAdd .rne (num32 (BitVec.ofNat 32 old)) (num32 x); (some y.bits, y.flags) else (some x.toNat, 0)
  else if b.mode = 1 then (some (if add then (old + x.toNat) % 2 ^ 32 else x.toNat), 0)
  else
    match gridOf (anchorOf b) (num32 x) with
    | some g => (some (BitVec.ofInt 64 ((if add then (BitVec.ofNat 64 old).toInt else 0) + g)).toNat, 0)
    | none => (none, fNV)

/-- Writes `n` entries of a row from column `col` on, each from its old value; a word that is in error is left (R393). -/
def writeRow (s : State) (c : Fin 256) (b : Bank) (e : Fin 8) (row col n : Nat)
    (f : Nat → Nat → Option Nat × BitVec 6) : State × BitVec 6 :=
  let z := entrySize b
  let key := localKey 1 c.val (entryOff b e row col)
  let old := memRead s.mem key (n * z)
  let r := (List.range n).map fun i =>
    let o := leVal ((old.drop (i * z)).take z)
    let q := f i o
    (leBytes z (q.1.getD o), q.2)
  (putBytes s key (r.flatMap (·.1)), allFlags (r.map (·.2)))

/-! ### VLDA (R162, R163) -/

/-- The row that VLDA and VSTA name: (s[a] + ROW) mod 128 (R162). -/
def rowOf (r : Arch) (a : Fin 64) (row : Fin 128) : Nat := ((rS r a).toNat + row.val) % 128

/-- The 64 lanes of a bank row, and the ASTAT and FSTAT bits the read sets (R163). DEDUCED (see the log): the rounding of an anchored
entry sets `NX` and the other bits of a rounding, as R90 has of every V-slot operation. -/
def rowValue (s : State) (c : Fin 256) (e : Fin 8) (row : Nat) (half : Bool) : VReg × Word × BitVec 6 :=
  let b := bankAt s c e
  if !b.al then (0, aUnalloc, 0)
  else if b.mode = 2 then
    let bs := memRead s.mem (localKey 1 c.val (entryOff b e row 0)) 512
    let q := fun i => anchoredNum (anchorOf b) (leVal ((bs.drop (8 * i)).take 8))
    (ofLanes fun i => BitVec.ofNat 32 (toFp32 .rne (q i).1).bits,
     if (List.range 64).any fun i => (q i).2 then aRange e.val else 0,
     allFlags ((List.range 64).map fun i => (toFp32 .rne (q i).1).flags))
  else
    (BitVec.ofNat 2048 (leVal (memRead s.mem (localKey 1 c.val (entryOff b e row (64 * bit half))) 256)), 0, 0)

/-- ACSTATE 5: `HALF` 1 on an anchored bank (R419). -/
def halfFault (s : State) (e : Fin 8) (half : Bool) : List FaultRec :=
  let b := bankAt s (coreOf s.cur) e
  if b.al ∧ b.mode = 2 ∧ half then [slotFault s 0x44 (5 * 256 + e.val) (bankWord b) 0 0] else []

/-- A landing with a fault already known at issue (R377, R393). -/
def landFault (lat : Nat) (act : Landing) (f : FaultRec) (s : State) : State :=
  pushFlight s ⟨now s + lat, s.seq, true, act, 0, 0, true, 0, some f, (curArch s).hm⟩

/-- The `SPDATA` fault of a slot access of the issuing bundle (R393, R394). -/
def spData (s : State) (opc : Nat) (cls : Fin 16) (dreg : Fin 64) (lat sub off : Nat) (kind : WorkKind) (dest : Landing) :
    FaultRec :=
  workFault (newWork s opc 0 cls none 0 kind [] dreg (BitVec.ofNat 16 lat)) ⟨0x80, BitVec.ofNat 16 sub⟩ (BitVec.ofNat 64 off)
    0 dest

/-- A read of a bank at issue, and a write that issues, come after the context's earlier copies into it (R281). -/
def bankWaits (s : State) (e : Fin 8) : List Wait := [.earlier (localKey 1 (coreOf s.cur).val (e.val * 0x10000)) 0x10000]

/-- `VLDA`: reads its row at issue and lands it at t + 6 (R163). -/
def execVlda (d a : Fin 64) (h : Bool) (r : Fin 128) (e : Fin 8) (s : State) : Host.Outcome State Fault Refusal :=
  runSlot (fun s => { regProbe (wrV d) 1 s with faults := halfFault s e h, waits := bankWaits s e })
    (fun s =>
      let c := coreOf s.cur
      let b := bankAt s c e
      let row := rowOf (curArch s) a r
      let off := entryOff b e row (if b.mode = 2 then 0 else 64 * bit h)
      let n := if b.mode = 2 then 512 else 256
      let all := BitVec.allOnes 64
      if b.al && badAt s (localKey 1 c.val off) n then
        landFault 6 (.vreg d 0 all)
          (spData s 0x77 0 d 6 1 off (.rowload e (Fin.ofNat 128 row) h) (.vreg d 0 all)) s
      else
        let q := rowValue s c e row h
        pushFlight s ⟨now s + 6, s.seq, true, .vreg d q.1 all, q.2.2, q.2.1, true, 0, none, (curArch s).hm⟩) s

/-! ### VSTA (R164) -/

/-- BANKMODE 3 of an unallocated bank, BANDOWN of float bands the issuer does not own (R164, R419). -/
def bankWriteFaults (s : State) (e : Fin 8) (bands : Nat) : List FaultRec :=
  let b := bankAt s (coreOf s.cur) e
  if !b.al then [slotFault s 0x42 (3 * 256 + e.val) (bankWord b) 0 0]
  else if b.mode = 0 then
    let m := notOwned b bands (subOf s.cur)
    if m ≠ 0 then [slotFault s 0x43 e.val (BitVec.ofNat 64 m) 0 0] else []
  else []

/-- `VSTA`: its row lands in the bank at t + 1 (R164), with the record of the fault that a word in error would make (R394). -/
def execVsta (d a : Fin 64) (x h : Bool) (r : Fin 128) (e : Fin 8) (s : State) : Host.Outcome State Fault Refusal :=
  runSlot (fun s => { regProbe [] 1 s with
      faults := bankWriteFaults s e (2 ^ (rowOf (curArch s) a r / 16)) ++ halfFault s e h, waits := bankWaits s e })
    (fun s =>
      let row : Fin 128 := Fin.ofNat 128 (rowOf (curArch s) a r)
      let act : Landing := .rowStore e row h x (rV (curArch s) d)
      landFault 1 act { spData s 0x78 0 0 0 1 0 (.rowload e row h) .nothing with replay := none } s) s

/-- The first column of the entries that a `VSTA` writes. -/
def rowColumn (b : Bank) (half : Bool) : Nat := if b.mode = 2 then 0 else 64 * bit half

/-- Whether lane `i` of an adding `VSTA` finds its entry in a word in error, which then stays as it is (R393). -/
def laneBad (s : State) (c : Fin 256) (b : Bank) (e : Fin 8) (row : Nat) (half add : Bool) (i : Nat) : Bool :=
  add && badAt s (localKey 1 c.val (entryOff b e row (rowColumn b half + i))) (entrySize b)

/-- The space-1 offset of the first entry in error of a `VSTA` that lands (R393, R394). -/
def rowStoreBad (s : State) (k : Fin 1024) (e : Fin 8) (row : Fin 128) (half add : Bool) : Option Nat :=
  let c := coreOf k
  let b := bankAt s c e
  if !b.al then none
  else ((List.range 64).find? (laneBad s c b e row.val half add)).map fun i => entryOff b e row.val (rowColumn b half + i)

/-- A lane of `VSTA`, with the `NX` of its rounding to the grid of an anchored bank: DEDUCED (see the log) from R90, of every V-slot
operation. -/
def rowLane (b : Bank) (add : Bool) (old : Nat) (x : BitVec 32) : Option Nat × BitVec 6 :=
  let q := laneEntry b add old x
  (q.1, q.2 ||| flagIf (b.mode == 2 && gridInexact (anchorOf b) (num32 x)) fNX)

/-- A row of `VSTA` lands: lanes whose code words are in error are left (R393). Flags as `FADD`. -/
def landRowStore (s : State) (k : Fin 1024) (e : Fin 8) (row : Fin 128) (half add : Bool) (x : VReg) : State :=
  let c := coreOf k
  let b := bankAt s c e
  if !b.al then s
  else
    let q := writeRow s c b e row.val (rowColumn b half) 64 fun i old =>
      if laneBad s c b e row.val half add i then (none, 0) else rowLane b add old (elem x 32 i)
    modArch q.1 k (raiseFlags q.2)

/-! ### MZERO (R228) -/

/-- Zeroes the bands of a mask. -/
def landZeroBands (s : State) (k : Fin 1024) (e : Fin 8) (bands : BitVec 8) : State :=
  (List.finRange 8).foldl (fun s i =>
    if bands.getLsbD i.val then
      putBytes s (localKey 1 (coreOf k).val (e.val * 0x10000 + i.val * 0x2000)) (List.replicate 0x2000 0) else s) s

def execMzero (e : Fin 8) (m : BitVec 8) (s : State) : Host.Outcome State Fault Refusal :=
  runSlot (fun s => { regProbe [] 1 s with faults := bankWriteFaults s e m.toNat, waits := bankWaits s e })
    (fun s => land 1 (.zeroBands e m) 0 s) s

/-! ### Steps (R217 to R227) -/

/-- The width class of a format (R92): the step depth K, 0 for a format of no class. -/
def stepDepth (c : Nat) : Nat :=
  if c = 1 ∨ c = 2 then 32 else if c = 3 ∨ c = 4 ∨ c = 7 ∨ c = 10 then 64 else if c = 5 ∨ c = 6 ∨ c = 9 then 128 else 0

/-- The latency of a step (R222). -/
def stepLatency (k : Nat) : Nat := if k = 32 then 63 else if k = 64 then 47 else 39

/-- Bytes of a line, and of a tile with or without its scale appendix (R218). -/
def lineBytes (c : Nat) : Nat := if c = 10 then 68 else if c = 9 then 72 else 64
def tileBytes (c : Nat) (scaled : Bool) : Nat := if scaled then 8448 else 128 * lineBytes c

/-- Formats that may carry a scale appendix (R219). -/
def hasAppendix (c : Nat) : Bool := c == 3 || c == 4 || c == 5

/-- The integer path of R92. -/
def intPath (a b : Nat) : Bool := (a == 6 || a == 7) && (b == 6 || b == 7)

/-- Bits [pos, pos + w) of a tile held as cells from key 0 on. -/
def tileBits (t : List Host.Cell) (pos w : Nat) : Nat :=
  memVal t (pos / 8) ((pos % 8 + w + 7) / 8) / 2 ^ (pos % 8) % 2 ^ w

/-- The exact value of element `k` of line `l` of a tile (R106, R218, R219), with 32 times its offset `d`. -/
def tileElem (t : List Host.Cell) (c : Nat) (scaled : Bool) (scl : Nat → BitVec 32) (l k : Nat) (d : Int) : Num × Bool :=
  let w := codeWidth c
  if c = 9 ∨ c = 10 then
    let blk := l * lineBytes c + k / 32 * blockSize c
    dxbElem c (tileBits t (8 * blk) 16) (tileBits t (8 * blk + 16 + w * (k % 32)) w) d scl
  else
    let x := tileBits t (8 * (l * lineBytes c) + w * k) w
    if c = 6 ∨ c = 7 then (codeNum (signedCode c x) d, false)
    else if scaled then mulNum (decodeFp (fpOf c) x) (num32 (scl (tileBits t (8 * 8192 + 4 * (4 * l + k / 32)) 4)))
    else (decodeFp (fpOf c) x, false)

/-- One magnitude truncated below the grid 2^g (R93), in units of the grid. -/
def truncTo (neg : Bool) (m : Nat) (e g : Int) : Int :=
  let k : Int := ((if g ≤ e then m * 2 ^ (e - g).toNat else m / 2 ^ (g - e).toNat : Nat) : Int)
  if neg then -k else k

/-- The group sum of the float path (R93), before it is rounded to FP32. -/
def floatSum (ps : List (Num × Bool)) : Num :=
  if ps.any fun p => p.1.isNan || p.2 then .nan
  else if ps.any fun p => p.1 = .inf true then (if ps.any fun p => p.1 = .inf false then .nan else .inf true)
  else if ps.any fun p => p.1 = .inf false then .inf false
  else
    let tops : List Int := ps.filterMap fun p =>
      match p.1 with
      | .fin _ m e => if m = 0 then none else some ((Nat.log2 m : Int) + e)
      | .nan => none
      | .inf _ => none
    let zero : Num := .fin (ps.all fun p => match p.1 with | .fin n m _ => n && m == 0 | .nan => false | .inf _ => false) 0 0
    match tops with
    | [] => zero
    | x :: r =>
      let g := r.foldl max x - 48
      let t : Int := (ps.map fun p => match p.1 with | .fin n m e => truncTo n m e g | .nan => 0 | .inf _ => 0).sum
      if t = 0 then zero else .fin (decide (t < 0)) t.natAbs g

/-- The group sum of the integer path (R94), exact: products of values with 5 fractional bits each. -/
def intSum (ps : List (Num × Bool)) : Num :=
  let t : Int := (ps.map fun p => match p.1 with | .fin n m e => truncTo n m e (-10) | .nan => 0 | .inf _ => 0).sum
  let neg := decide (t < 0)
  if t % 1024 = 0 then .fin neg (t.natAbs / 1024) 0 else .fin neg t.natAbs (-10)

/-- The sum of element (i, j) of a step over its KV products (R227). -/
def stepSum (c : StepCmd) (i j : Nat) : Num :=
  let fa := c.fa.toNat
  let fb := c.fb.toNat
  let ps := (List.range c.kv).map fun k =>
    let x := tileElem c.tileA fa c.sa (sclAt c.scl) i k (consumerOffset c.da fa (i : Int) (k : Int))
    let y := tileElem c.tileB fb c.sb (sclAt c.scl) j k (consumerOffset c.db fb (k : Int) (j : Int))
    let p := mulNum x.1 y.1
    (p.1, x.2 || y.2 || p.2)
  if intPath fa fb then intSum ps else floatSum ps

/-- The lowest accumulator offset of a step's rows that holds a word in error and is to be added to (R393). -/
def stepBad (s : State) (k : Fin 1024) (c : StepCmd) : Option Nat :=
  let b := bankAt s (coreOf k) c.bank
  if c.ovr then none
  else ((List.range c.rows).map fun i => entryOff b c.bank (c.rb + i) c.cb).find? fun off =>
    badAt s (localKey 1 (coreOf k).val off) (c.cols * entrySize b)

/-- A step lands (R223): every entry of its rectangle, row by row; the flags of anchored sums go to the issuer. -/
def landMatrix (s : State) (k : Fin 1024) (c : StepCmd) : State :=
  let b := bankAt s (coreOf k) c.bank
  if !b.al then s
  else
    let n := min c.cols (bankWidth b - c.cb)
    let fl := !intPath c.fa.toNat c.fb.toNat
    let q := (List.range c.rows).foldl (fun (q : State × BitVec 6) i =>
      let r := writeRow q.1 (coreOf k) b c.bank (c.rb + i) c.cb n fun j old => stepEntry b c.ovr fl old (stepSum c i j)
      (r.1, q.2 ||| r.2)) (s, 0)
    modArch q.1 k (raiseFlags q.2)

/-- The shape of a step (R226): M, N, KV, ROWB, COLB. -/
structure Shape where
  m : Nat
  n : Nat
  kv : Nat
  rb : Nat
  cb : Nat
  deriving DecidableEq, Repr

/-- The shape in an `s` register. -/
def shapeOf (x : Word) : Shape :=
  let v := x.toNat
  ⟨v % 128 + 1, v / 2 ^ 8 % 128 + 1, v / 2 ^ 16 % 128 + 1, v / 2 ^ 24 % 128, v / 2 ^ 32 % 128⟩

/-- Whether a shape word is legal for a step of depth K into a bank (R226). -/
def shapeLegal (x : Word) (k : Nat) (b : Bank) : Bool :=
  let h := shapeOf x
  decide (h.kv ≤ k) && decide (h.rb + h.m ≤ 128) && decide (h.cb + h.n ≤ bankWidth b) &&
    (x &&& 0xFFFFFF8080808080 == 0)

/-- The faults of a step (R383, R419, R420) in the frame of one operand: its ring, its scale bit, its format. -/
def tileFaults (s : State) (o : Fin 8) (c : Nat) (scaled : Bool) : List FaultRec :=
  let r := (curCore s).o[o]
  if (scaled && !hasAppendix c) || r.tsz = 0 || decide (256 * r.tsz.toNat < tileBytes c scaled) then
    [slotSub s 0x0D 0 0] else []

/-- The scratchpad offset of tile number `n` of an operand ring (R173). -/
def tileOffset (o : ORing) (n : Nat) : Nat := 256 * (o.baseu.toNat + n % (o.slm.toNat + 1) * o.tsz.toNat)

/-- The numbers of the tiles that a step claims of its two rings (R221). -/
def claimTiles (o : Vector ORing 8) (a b : Fin 8) : Nat × Nat :=
  let next (i : Fin 8) : Nat := o[i].head.toNat + o[i].clm.toNat
  (next a % 2 ^ 32, (next b + if a = b then 1 else 0) % 2 ^ 32)

/-- A step reads its tiles after the context's earlier copies into them, and its write of the bank comes after those into the bank
(R281). -/
def stepWaits (s : State) (e a b : Fin 8) (na nb : Nat) : List Wait :=
  let o := (curCore s).o
  let t := claimTiles o a b
  let tile (i : Fin 8) (n size : Nat) : Wait := .earlier (spadKey (coreOf s.cur) (tileOffset o[i] n)) size
  [.array a b, tile a t.1 na, tile b t.2 nb] ++ bankWaits s e

/-- What a step asks for at issue. -/
def stepProbe (e a b : Fin 8) (shape : Option Word) (f g : Fin 8) (x y : Bool) (s : State) : Probe :=
  let r := curArch s
  let fa := (fmtA r.fmt).toNat
  let fb := (fmtB r.fmt).toNat
  let k := stepDepth fa
  let bank := bankAt s (coreOf s.cur) e
  let h := match shape with
    | some w => shapeOf w
    | none => ⟨128, 128, k, 0, 0⟩
  let dith := readsDithered (rD r f) fa || readsDithered (rD r g) fb
  let faults :=
    if k = 0 ∨ stepDepth fb ≠ k then [slotSub s 0x12 r.fmt 0]
    else
      tileFaults s a fa x ++ tileFaults s b fb y ++
      (match shape with
       | some w => if shapeLegal w k bank then [] else [slotSub s 0x0D w 0]
       | none => []) ++
      (if bank.al ∧ bank.mode = 1 ∧ !intPath fa fb then [slotFault s 0x42 (256 + e.val) (bankWord bank) 0 0]
       else if bank.al ∧ bank.mode = 1 ∧ dith then [slotFault s 0x42 (512 + e.val) (bankWord bank) 0 0]
       else bankWriteFaults s e (rowBands h.rb h.m)) ++
      frameFault s f (rD r f) fa ++ frameFault s g (rD r g) fb
  { regProbe [] 1 s with faults, waits := stepWaits s e a b (tileBytes fa x) (tileBytes fb y) }

/-- The bytes of a claimed tile as they stand at the end of the cycle (R221), as cells from key 0 on. -/
def captureTile (s : State) (c : Fin 256) (off n : Nat) : List Host.Cell :=
  let raw := (memWindow s.mem (spadKey c off) n).map fun q => (q.1 - spadKey c off, q.2)
  (coreAt s c).buf.foldl (fun t w =>
    let lo := max off w.off
    let hi := min (off + n) (w.off + w.bytes.length)
    if lo < hi then memWrite t (lo - off) ((w.bytes.drop (lo - w.off)).take (hi - lo)) else t) raw

/-- The offset of the first word in error among the bytes that a step reads of `n` lines of a tile, its scale appendix among them
(R218, R219, R393). -/
def tileBad (s : State) (c : Fin 256) (off fmt : Nat) (scaled : Bool) (n : Nat) : Option Nat :=
  ([(off, n * lineBytes fmt)] ++ (if scaled then [(off + 8192, 16 * n)] else [])).findSome? fun q =>
    if badAt s (spadKey c q.1) q.2 then
      (List.range q.2).findSome? fun i => if badAt s (spadKey c (q.1 + i)) 1 then some (q.1 + i) else none
    else none

/-- A step issues (R221, R222, R227): it claims its tiles, reads them, and lands at t + L. -/
def stepEffect (e a b : Fin 8) (shape : Option Word) (ovr : Bool) (f g : Fin 8) (x y : Bool) (s : State) : State :=
  let r := curArch s
  let c := coreOf s.cur
  let fa := (fmtA r.fmt).toNat
  let fb := (fmtB r.fmt).toNat
  let k := stepDepth fa
  let h := match shape with
    | some w => shapeOf w
    | none => ⟨128, 128, k, 0, 0⟩
  let core := coreAt s c
  let (na, nb) := claimTiles core.o a b
  let offA := tileOffset core.o[a] na
  let offB := tileOffset core.o[b] nb
  let cmd : StepCmd := { bank := e, ovr, fa := fmtA r.fmt, fb := fmtB r.fmt, da := rD r f, db := rD r g, sa := x, sb := y,
                         rows := h.m, cols := h.n, kv := h.kv, rb := h.rb, cb := h.cb, scl := r.scl,
                         tileA := captureTile s c offA (tileBytes fa x), tileB := captureTile s c offB (tileBytes fb y),
                         offA, offB }
  let badOff := (tileBad s c offA fa x h.m).or (tileBad s c offB fb y h.n)
  let claim (o : Vector ORing 8) (i : Fin 8) : Vector ORing 8 := o.set i { o[i] with clm := o[i].clm + 1 }
  let s := modCore s c fun q => { q with o := claim (claim q.o a) b, array := some (s.cycle + 32, [(a, na), (b, nb)]) }
  let s := countEvent (setRepeat s) c 0x0009 1
  let w := newWork s (bit shape.isSome) 2 0 none 0 (.rowload e 0 false) [] 0 (BitVec.ofNat 16 (stepLatency k))
  let bad (sub : BitVec 16) (off : Nat) : FaultRec := ⟨0x81, sub, some s.slot, BitVec.ofNat 64 off, 0, accessWord w, none⟩
  match badOff with
  | some off => landFault (stepLatency k) .nothing (bad 1 off) s
  | none =>
    pushFlight s ⟨now s + stepLatency k, s.seq, true, .matrix cmd, 0, 0, true, 0, some (bad 2 0), (curArch s).hm⟩

def execMma (e a b : Fin 8) (o : Bool) (f g : Fin 8) (x y : Bool) (s : State) : Host.Outcome State Fault Refusal :=
  runSlot (stepProbe e a b none f g x y) (stepEffect e a b none o f g x y) s

def execMtile (e a b : Fin 8) (h : Fin 64) (o : Bool) (f g : Fin 8) (x y : Bool) (s : State) :
    Host.Outcome State Fault Refusal :=
  runSlot (fun s => stepProbe e a b (some (rS (curArch s) h)) f g x y s)
    (fun s => stepEffect e a b (some (rS (curArch s) h)) o f g x y s) s

/-- A step retires 32 cycles after its issue: its tiles are popped (R221). -/
def retireStep (s : State) (c : Fin 256) : State :=
  modCore s c fun q =>
    match q.array with
    | none => q
    | some (_, cl) =>
      { q with array := none, o := cl.foldl (fun (o : Vector ORing 8) t =>
          o.set t.1 { o[t.1] with head := o[t.1].head + 1, clm := o[t.1].clm - 1 }) q.o }

/-! ### MRING (R232) -/

/-- Outstanding work of the whole device, that of saved cores among it. -/
def allWork (s : State) : List Work := s.cores.toList.flatMap (·.work) ++ s.saved.flatMap (·.work)

/-- Whether a copy with `ORING` has core `c` among its destination cores (R202, R204). -/
def copiesTo (k : CopyCmd) (c : Fin 256) : Bool :=
  match localAddr (k.pat.words[1]) with
  | some (0, u, _) =>
    if k.op = 2 then decide (u / 64 = c.val / 64) && (k.pat.words[22]).getLsbD (c.val % 64) else decide (u = c.val)
  | _ => false

/-- Whether a copy of the core's job that names an operand ring of the core is in flight (R232). -/
def ringCopied (s : State) (c : Fin 256) (o : Fin 8) : Bool :=
  (allWork s).any fun w => !w.performed && decide (some w.job = (coreAt s c).job) && match w.kind with
    | .copy k => decide (k.oring = some o) && copiesTo k c
    | _ => false

/-- OPERAND cases of `MRING` (R232, R383). -/
def mringBad (s : State) (o : Fin 8) (x : Word) : Bool :=
  let v := x.toNat
  let tsz := v / 2 ^ 16 % 256
  decide (2 ^ 30 ≤ v) || v / 2 ^ 11 % 32 != 0 || tsz == 0 ||
    decide (0x60000 < 256 * (v % 2 ^ 11 + (v / 2 ^ 24 % 64 + 1) * tsz)) ||
    (curCore s).o[o].clm != 0 || ringCopied s (coreOf s.cur) o

def execMring (o : Fin 8) (a : Fin 64) (s : State) : Host.Outcome State Fault Refusal :=
  runSlot (fun s => { regProbe [] 0 s with
      faults := let x := rS (curArch s) a; if mringBad s o x then [slotSub s 0x0D x 0] else [] })
    (fun s =>
      let v := (rS (curArch s) a).toNat
      let ring := ORing.mk (BitVec.ofNat 6 (v / 2 ^ 24)) (BitVec.ofNat 8 (v / 2 ^ 16)) (BitVec.ofNat 11 v) 0 0 0
      modCore (setRepeat s) (coreOf s.cur) fun c => { c with o := c.o.set o ring }) s

/-! ### ACALLOC, ACFREE, ACOWN (R225, R233) -/

/-- The bank and bands a landing will write. -/
def landingBank : Landing → Option (Fin 8 × Nat)
  | .rowStore e row _ _ _ => some (e, 2 ^ (row.val / 16))
  | .zeroBands e m => some (e, m.toNat)
  | .matrix c => some (c.bank, rowBands c.rb c.rows)
  | _ => none

/-- Whether a bank has a write or drain that has not landed or completed (R233, R419). A `CPYR` word is applied as soon as the
write port accepts it, so none is ever accepted and still to land. -/
def bankBusy (s : State) (c : Fin 256) (e : Fin 8) : Bool :=
  ((List.finRange 4).any fun i => (ctxAt s (ctxId c i)).flight.any fun f => (landingBank f.act).any fun q => q.1 == e) ||
  ((coreAt s c).work.any fun w => !w.done && match w.kind with
    | .drain d => d.bank == e
    | _ => false)

/-- An ACSTATE fault (R419). -/
def acState (s : State) (case : Nat) (e : Fin 8) : FaultRec :=
  slotFault s 0x44 (case * 256 + e.val) (bankWord (bankAt s (coreOf s.cur) e)) 0 0

/-- Changes a bank of the issuing core, its entries zeroed. -/
def setBank (s : State) (e : Fin 8) (b : Bank) : State :=
  let c := coreOf s.cur
  modCore (putBytes s (localKey 1 c.val (e.val * 0x10000)) (List.replicate 0x10000 0)) c fun q => { q with e := q.e.set e b }

def execAcalloc (e : Fin 8) (m : Fin 4) (a : BitVec 8) (s : State) : Host.Outcome State Fault Refusal :=
  runSlot (fun s => { regProbe [] 0 s with
      faults := if (bankAt s (coreOf s.cur) e).al then [acState s 1 e] else [] })
    (fun s => setBank (setRepeat s) e
      ⟨BitVec.ofNat 16 ((subOf s.cur).val * 0x5555), a, BitVec.ofNat 2 m.val, true⟩) s

def execAcfree (e : Fin 8) (s : State) : Host.Outcome State Fault Refusal :=
  runSlot (fun s => { regProbe [] 0 s with
      faults := if bankBusy s (coreOf s.cur) e then [acState s 2 e] else [] })
    (fun s => setBank (setRepeat s) e { bankAt s (coreOf s.cur) e with al := false }) s

/-- The faults of `ACOWN`: BANDOWN, ACSTATE 3 and 4 (R419). -/
def acownFaults (s : State) (e : Fin 8) (mask : Nat) : List FaultRec :=
  let b := bankAt s (coreOf s.cur) e
  if !b.al || b.mode ≠ 0 then [acState s 3 e]
  else
    let m := notOwned b mask (subOf s.cur)
    (if m ≠ 0 then [slotFault s 0x43 e.val (BitVec.ofNat 64 m) 0 0] else []) ++
    (if (curCtx s).flight.any fun f => (landingBank f.act).any fun q => q.1 == e && q.2 &&& mask != 0
     then [acState s 4 e] else [])

def execAcown (e : Fin 8) (m : BitVec 8) (k : Fin 4) (s : State) : Host.Outcome State Fault Refusal :=
  runSlot (fun s => { regProbe [] 0 s with faults := acownFaults s e m.toNat })
    (fun s => modCore (setRepeat s) (coreOf s.cur) fun q =>
      { q with e := q.e.set e { q.e[e] with own := BitVec.ofNat 16 (packNat 2 (fun i =>
          if m.getLsbD i then k.val else bandOwner (q.e[e]) i) 8) } }) s

/-! ### MDRAIN (R229 to R231) -/

/-- The fields of a drain descriptor (R229). -/
structure DrainDesc where
  cls : Fin 16
  inc : Nat
  g : Fin 8
  qsi : Fin 16
  fr : Fin 8
  pse : Bool
  psi : Fin 16
  bm : Nat
  deriving DecidableEq, Repr

/-- DESIGN CHOICE (see the log): bits that the table gives as 0 are not looked at; no fault names them. -/
def drainDesc (x : Word) : DrainDesc :=
  let v := x.toNat
  ⟨Fin.ofNat 16 (v / 2 ^ 32), v / 2 ^ 23 % 64, Fin.ofNat 8 (v / 2 ^ 20), Fin.ofNat 16 (v / 2 ^ 16), Fin.ofNat 8 (v / 2 ^ 13),
   x.getLsbD 12, Fin.ofNat 16 (v / 2 ^ 8), v % 256⟩

/-- Bytes of one drained row (R230). -/
def drainRowBytes (w c : Nat) : Nat := if c = 9 ∨ c = 10 then w / 32 * blockSize c else w * codeWidth c / 8

/-- The RINGFAIL fault of a command that names a failed ring (R384, R387). -/
def ringFault (s : State) (g : Fin 8) : List FaultRec :=
  let r := (curArch s).g[g]
  if r.fcode = 0 then []
  else [slotFault s 0x0E r.fcode.toNat r.faddr (BitVec.ofNat 64 (r.fbun.toNat + r.fslot.toNat * 2 ^ 20)) (BitVec.ofNat 64 g.val)]

/-- What a drain asks for at issue (R231, R383, R419, R420). -/
def drainProbe (e : Fin 8) (d : Fin 64) (z : Bool) (s : State) : Probe :=
  let r := curArch s
  let q := drainDesc (rS r d)
  let b := bankAt s (coreOf s.cur) e
  let c := (fmtO r.fmt).toNat
  let own := if b.al ∧ b.mode = 0 then notOwned b q.bm (subOf s.cur) else 0
  let code := isCodeFormat c
  let faults :=
    if 10 < c then [slotSub s 0x12 r.fmt 0]
    else
      ringFault s q.g ++
      (if own ≠ 0 then [slotFault s 0x43 e.val (BitVec.ofNat 64 own) 0 0] else []) ++
      (if z && (c == 9 || c == 10 || 16 * drainRowBytes (bankWidth b) c % 256 != 0) then [acState s 6 e] else []) ++
      (if code && fmtDith r.fmt then frameFault s q.fr (rD r q.fr) c else []) ++
      (if code then scaleFault s q.qsi else [])
  { regProbe [] 0 s with faults, waits := [.ringRoom q.g q.inc, .drainRoom] ++ bankWaits s e }

/-- Raises a ring's `RSV` at the issue of a command (R195). -/
def reserve (k : Fin 1024) (g : Fin 8) (inc : Nat) (s : State) : State :=
  modArch s k fun a => { a with g := a.g.set g { a.g[g] with rsv := a.g[g].rsv + BitVec.ofNat 32 inc } }

/-- A drain issues: its rows are read as they stand (R230). -/
def drainEffect (e : Fin 8) (a d : Fin 64) (z : Bool) (s : State) : State :=
  let r := curArch s
  let c := coreOf s.cur
  let q := drainDesc (rS r d)
  let b := bankAt s c e
  let key := localKey 1 c.val (e.val * 0x10000)
  let bad := if b.al then (List.range 128).filter fun i => badAt s (key + 512 * i) 512 else []
  let cmd : DrainCmd := { bank := e, word := bankWord b, cells := (memWindow s.mem key 0x10000).map (fun x => (x.1 - key, x.2)),
                          desc := rS r d, dst := rS r a, z, fmt := r.fmt, scl := r.scl, fr := rD r q.fr, bad }
  let n := 16 * ((List.range 8).filter fun i => q.bm / 2 ^ i % 2 = 1).length * drainRowBytes (bankWidth b) (fmtO r.fmt).toNat
  let n := if z then n + n / 8 + 4 * 9 + 288 else n
  reserve s.cur q.g q.inc
    (pushWork s (newWork s 3 2 q.cls (some q.g) q.inc (.drain cmd) (footOf (rS r a) n) 0 0))

def execMdrain (e : Fin 8) (a d : Fin 64) (z : Bool) (s : State) : Host.Outcome State Fault Refusal :=
  runSlot (drainProbe e d z) (drainEffect e a d z) s

/-- The bank a drain captured. -/
def drainBank (d : DrainCmd) : Bank :=
  let v := d.word.toNat
  ⟨BitVec.ofNat 16 (v / 2 ^ 11), BitVec.ofNat 8 (v / 8), BitVec.ofNat 2 (v / 2), v % 2 == 1⟩

/-- One drained value before conversion (R230): exact, its stored bits, whether it may have wrapped. -/
def drainValue (d : DrainCmd) (row col : Nat) : Num × Nat × Bool :=
  let b := drainBank d
  if !b.al then (.fin false 0 0, 0, false)
  else if b.mode = 2 then
    let q := anchoredNum (anchorOf b) (memVal d.cells (row * 512 + col * 8) 8)
    (q.1, 0, q.2)
  else
    let x := memVal d.cells (row * 512 + col * 4) 4
    (if b.mode = 0 then num32 (BitVec.ofNat 32 x) else intNum (BitVec.ofNat 32 x).toInt, x, false)

/-- One drained row: its bytes and flags (R230). DEDUCED (see the log): a drain of an anchored bank to a float or integer format rounds
once under `RMODE`, as R230 says of every drain. -/
def drainRow (d : DrainCmd) (row : Nat) : List Byte × BitVec 6 :=
  let b := drainBank d
  let q := drainDesc d.desc
  let w := bankWidth b
  let c := (fmtO d.fmt).toNat
  let v := fun col =>
    let x := (drainValue d row col).1
    if q.pse then mulNum x (num32 (d.scl[q.psi])) else (x, false)
  let dv := fun col : Nat => if fmtDith d.fmt then offsetAt d.fr (row : Int) (col : Int) else 0
  let x32 := fun col => num32 (BitVec.ofNat 32 (toFp32 .rne (v col).1).bits)
  let nv := allFlags ((List.range w).map fun col => flagIf (v col).2 fNV)
  if c = 9 ∨ c = 10 then
    let bs := (List.range (w / 32)).map fun i =>
      quantDxb c q.qsi.val (d.scl[q.qsi]) (fmtSat d.fmt) ((List.range 32).map fun j => x32 (32 * i + j))
        ((List.range 32).map fun j => dv (32 * i + j))
    (bs.flatMap (blockBytes c), nv ||| allFlags (bs.map (·.flags)))
  else
    let out := (List.range w).map fun col =>
      if c = 6 ∨ c = 7 then
        match num32 (d.scl[q.qsi]) with
        | .fin _ mu eu =>
          let k := quantInt c mu eu (x32 col) (dv col)
          ((BitVec.ofInt (codeWidth c) k.1).toNat, k.2)
        | .nan => (0, 0)
        | .inf _ => (0, 0)
      else if c = 0 ∧ b.al ∧ b.mode = 0 ∧ !q.pse then ((drainValue d row col).2.1, 0)
      else if c = 8 then
        let k := toInteger (rmodeOf d.fmt) (-(2 ^ 31)) (2 ^ 31 - 1) (v col).1
        ((BitVec.ofInt 32 k.1).toNat, k.2)
      else
        let k := roundNum (fpOf c) (rmodeOf d.fmt) (fmtSat d.fmt && c != 0) (v col).1
        (k.bits, k.flags)
    (leBytes (w * codeWidth c / 8) (packNat (codeWidth c) (fun i => (out.getD i (0, 0)).1) w),
     nv ||| allFlags (out.map (·.2)))

/-- The rows a drain covers (R230). -/
def drainRows (d : DrainCmd) : List Nat :=
  (List.range 128).filter fun r => (drainDesc d.desc).bm / 2 ^ (r / 16) % 2 = 1

/-- A unit of a drain's writes: its place after the destination, its bytes, the flags of its rows, and the rows it holds. -/
structure DrainUnit where
  off : Nat
  bytes : List Byte
  flags : BitVec 6
  rows : List Nat
  deriving DecidableEq, Repr

/-- Rows one after another from an offset on. -/
def rowUnits (d : DrainCmd) : Nat → List Nat → List DrainUnit
  | _, [] => []
  | off, r :: rs =>
    let q := drainRow d r
    ⟨off, q.1, q.2, [r]⟩ :: rowUnits d (off + q.1.length) rs

/-- The compressed sectors of a band whose chunk begins at `off`, then its header (R184, R185): the header is written when the
chunk's length is known. `n` units of `k` sectors, so that each holds whole rows (R385), the next of them number `i`, at `pos` in the
payload. -/
def sectorUnits (bs : List Byte) (flags : Nat → BitVec 6) (rows : Nat → List Nat) (off k : Nat) :
    (n i pos : Nat) → List DrainUnit
  | 0, i, pos => [⟨off, leBytes 4 (k * i * 2 ^ 24 + pos), 0, []⟩]
  | n + 1, i, pos =>
    let z := (List.range k).flatMap fun h => compressSector ((bs.drop (256 * (k * i + h))).take 256)
    ⟨off + 4 + pos, z, flags i, rows i⟩ :: sectorUnits bs flags rows off k n (i + 1) (pos + z.length)

/-- Bands one after another as chunks, and the closing header. -/
def bandUnits (d : DrainCmd) : Nat → List Nat → List DrainUnit
  | off, [] => [⟨off, leBytes 4 0, 0, []⟩]
  | off, b :: rest =>
    let rows := (List.range 16).map fun i => drainRow d (16 * b + i)
    let bs := rows.flatMap (·.1)
    let size := (rows.headD ([], 0)).1.length
    let k := max 1 (size / 256)
    let held (i : Nat) : List Nat :=
      (List.range 16).filter fun r => decide (size * r < 256 * k * (i + 1)) && decide (256 * k * i < size * (r + 1))
    let units := sectorUnits bs (fun i => allFlags ((held i).map fun r => (rows.getD r ([], 0)).2))
      (fun i => (held i).map (16 * b + ·)) off k (bs.length / (256 * k)) 0 0
    units ++ bandUnits d (off + (units.map (·.bytes.length)).sum) rest

/-- The units a drain writes, in order: rows, or with `.Z` the sectors of one chunk for each band and the closing header (R230). -/
def drainUnits (d : DrainCmd) : List DrainUnit :=
  if d.z then bandUnits d 0 ((List.range 8).filter fun b => (drainDesc d.desc).bm / 2 ^ b % 2 = 1) else rowUnits d 0 (drainRows d)

/-- The ASTAT bits that a drain's reads set (R95, R176). -/
def drainAstat (d : DrainCmd) : Word :=
  let b := drainBank d
  if !b.al then (if (drainRows d).isEmpty then 0 else aUnalloc)
  else if b.mode = 2 ∧ (drainRows d).any fun r => (List.range 64).any fun c => (drainValue d r c).2.2 then aRange d.bank.val
  else 0

/-- Why an engine stopped: its code, the address, and whether it is the home slice's word (R385, R386, R403). -/
structure EngineFail where
  code : BitVec 16
  addr : Word
  deriving DecidableEq, Repr

/-- Whether a local block lies in a space that an engine may write, inside its unit (R166, R190). -/
def engineDst (addr : Word) (n : Nat) : Bool :=
  isGlobal addr && decide (addr.toNat + n ≤ 2 ^ 48) ||
    match localAddr addr with
    | some (0, _, off) => decide (off + n ≤ spadSize)
    | some (2, _, off) => decide (off + n ≤ 0x1000000)
    | _ => false

/-- Whether bytes at an address lie in a tile that a step of the core has claimed (R221). -/
def hitsClaim (s : State) (j : BitVec 32) (addr : Word) (n : Nat) : Bool :=
  match localAddr addr with
  | some (0, u, off) =>
    let c : Fin 256 := Fin.ofNat 256 u
    liveAt s j c && meets (claimedTiles (coreAt s c)) off n
  | _ => false

/-- One engine write of a whole unit, with every check that can stop it before (R385, R386). -/
def engineWrite (s : State) (w : Work) (addr : Word) (bs : List Byte) : Option EngineFail × State :=
  if bs = [] then (none, s)
  else if !engineDst addr bs.length then (some ⟨0x0001, addr⟩, s)
  else if hitsClaim s w.job addr bs.length then (some ⟨0x0004, addr⟩, s)
  else
    match writeAt s w addr bs with
    | (.error e, s) => (some ⟨engineCode e, addr⟩, s)
    | (.ok _, s) => (none, s)

/-- Writes the units of a drain one after another until one fails (R385): its write is refused, or a row of it holds a word in
error (R393, R403). -/
def writeUnits (s : State) (w : Work) (d : DrainCmd) : List DrainUnit → Option EngineFail × State
  | [] => (none, s)
  | u :: r =>
    match u.rows.find? d.bad.contains with
    | some row => (some ⟨0x0102, BitVec.ofNat 64 (localKey 1 (coreOf w.ctx).val (d.bank.val * 0x10000 + row * 512))⟩, s)
    | none =>
      match engineWrite s w (d.dst + BitVec.ofNat 64 u.off) u.bytes with
      | (some e, s) => (some e, s)
      | (none, s) => writeUnits (modArch s w.ctx (raiseFlags u.flags)) w d r

/-- A drain performs: writes, flags and ASTAT (R230, R231, R421). -/
def performDrain (s : State) (w : Work) (d : DrainCmd) : Option EngineFail × State :=
  let q := writeUnits s w d (drainUnits d)
  (q.1, modArch q.2 w.ctx (raiseAstat (drainAstat d)))

end Sys2Proof.Machine
end

