-- ==== Sys2Proof/Machine/Links.lean ====
section
/-! DEFINITION. Sending to other devices (R361, R362, R409), and the failing and settling of completion rings (R194 to R196, R385
to R387). -/

namespace Sys2Proof.Machine

/-! ### Flits -/

/-- The Sveth port toward a device (R365); a register not written names port 0. -/
def routePort (s : State) (dev : BitVec 13) : Fin 16 :=
  match s.route.find? fun q => q.1 = dev.toNat with
  | some q => Fin.ofNat 16 q.2.toNat
  | none => 0

/-- A flit leaves on the port toward its device, under the port's next `SEQ`, and is kept (R361, R409); on a port that is down
its job ends with `LINKDOWN`. -/
def sendOn (s : State) (f : Flit) : State :=
  let p := routePort s f.ddev
  let x := s.ports[p]
  if x.up then
    { s with ports := s.ports.set p { x with tx := x.tx + 1, unacked := x.unacked ++ [{ f with seq := x.tx, sent := s.cycle, resent := 0 }] } }
  else machineEnd s f.job 4 0x93 p.val none

/-- This device sends a flit (R361). -/
def sendFlit (s : State) (dev : BitVec 13) (kind : BitVec 4) (addr : Word) (payload : List Byte) (j : BitVec 32) : State :=
  sendOn s ⟨dev, s.devid, kind, BitVec.ofNat 10 payload.length, 0, addr, payload, j, 0, 0⟩

/-- Sends bytes as remote writes of at most 224 bytes (R361, R362). -/
def sendWrites (s : State) (dev : BitVec 13) (addr : Word) (bs : List Byte) (j : BitVec 32) : State :=
  (List.range ((bs.length + 223) / 224)).foldl (fun s i =>
    sendFlit s dev 0 (addr + BitVec.ofNat 64 (224 * i)) ((bs.drop (224 * i)).take 224) j) s

/-! ### Rings of outstanding work -/

/-- Changes a ring of a context. -/
def modRing (s : State) (k : Fin 1024) (g : Fin 8) (f : Ring → Ring) : State :=
  modArch s k fun a => { a with g := a.g.set g (f a.g[g]) }

/-- A command on a ring fails (R385, R387): the ring takes the first code, with address, bundle and slot. -/
def failRing (s : State) (w : Work) (g : Fin 8) (e : EngineFail) : State :=
  modRing s w.ctx g fun r =>
    if r.fcode = 0 then { r with fcode := e.code, faddr := e.addr, fbun := w.bun.setWidth 20, fslot := BitVec.ofNat 3 w.slot.val }
    else r

/-- The word of R387 that names a command's bundle and slot. -/
def commandWord (w : Work) : Word := BitVec.ofNat 64 (w.bun.toNat % 2 ^ 20 + w.slot.val * 2 ^ 20)

/-- Applies the increments of finished commands at the head of each ring's order, and drops finished work (R196, R385). One
pass over the work in issue order; `open_` holds the rings of a context with an earlier command still to come. -/
def settleList (s : State) (c : Fin 256) (open_ : List (Fin 1024 × Fin 8)) : List Work → State
  | [] => s
  | w :: r =>
    match w.ring with
    | none => if w.done then settleList (dropWork s c w.seq) c open_ r else settleList s c open_ r
    | some g =>
      if !w.done then settleList s c ((w.ctx, g) :: open_) r
      else if ((ctxAt s w.ctx).arch.g[g]).fcode ≠ 0 then settleList (dropWork s c w.seq) c open_ r
      else if open_.contains (w.ctx, g) then settleList s c open_ r
      else
        settleList (dropWork (modRing s w.ctx g fun x => { x with fill := x.fill + BitVec.ofNat 32 w.inc }) c w.seq) c open_ r

/-- Settles the finished work of a core. -/
def settle (s : State) (c : Fin 256) : State := settleList s c [] (coreAt s c).work

/-- A piece of work has performed; it is done unless acknowledgements or increments are still to come (R199, R362). -/
def markPerformed (s : State) (w : Work) : State :=
  modWork s (coreOf w.ctx) w.seq fun x => { x with performed := true, done := x.acks == 0 }

/-- A command ends at a failure: on a ring (R385), or, without one, as the deferred fault ENGFAIL of its context (R412). -/
def failCommand (s : State) (w : Work) (e : EngineFail) : State :=
  let s := match w.ring with
    | some g => failRing s w g e
    | none => defer s w.ctx w.seq w.handler ⟨0x4D, e.code, some w.slot, e.addr, commandWord w, 0, none⟩
  modWork s (coreOf w.ctx) w.seq fun x => { x with performed := true, done := true, fail := some (e.code, e.addr) }

/-- How a command's performing ends: done, or failed. -/
def endCommand (s : State) (w : Work) : Option EngineFail → State
  | none => settle (markPerformed s w) (coreOf w.ctx)
  | some e => settle (failCommand s w e) (coreOf w.ctx)

/-- One acknowledgement or increment that a piece of work waits for has come; with the last it is done. -/
def ackWork (s : State) (c : Fin 256) (q : Nat) : State :=
  settle (modWork s c q fun x => { x with acks := x.acks - 1, done := x.performed && x.acks == 1 }) c

/-- A flag write that no work stands for performs; one aimed at a retired core, or a core the job no longer holds, is discarded (R167,
R400). -/
def plainFlag (j : BitVec 32) (c : Fin 256) (word : Nat) (x : BitVec 32) (add : Bool) (s : State) : State :=
  if (coreAt s c).retired || !holdsCore s j c then s else writeFlag s j c word x add

/-- A completed merge cell is told: the flag add performs, and with it the deposit completes (R258). -/
def cellAct (j : BitVec 32) (c : Fin 256) (word : Nat) (src : Fin 256) (q : Nat) (s : State) : State :=
  ackWork (plainFlag j c word 1 true s) src q

/-- A completed merge cell's flag add performs, when the saved word that it may have to read has come from the host (R41, R358). -/
def runCellAdd (s : State) (a : CellAdd) : State :=
  runAsk s (newAsk (.cell a.job a.core a.word a.src a.seq)) (.core a.src) fun _ => cellAct a.job a.core a.word a.src a.seq

/-- Whether the flag add of a completed merge cell may perform: a release of the sender of the deposit that completed it (R289). -/
def cellReleased (s : State) (a : CellAdd) : Bool := (findWork s a.src a.seq).all fun w => released s w.ctx a.seq

/-- The adds of completed merge cells perform, after the writes of contexts that arrived in the cycle, each released, and to a word
not yet written in it; the others wait (R288, R289). -/
def runCellAdds (s : State) : State :=
  s.cellAdds.foldl (fun s a =>
    if s.flagged.contains (flagKey s a.job a.core a.word) || !cellReleased s a then { s with cellAdds := s.cellAdds ++ [a] }
    else runCellAdd s a)
    { s with cellAdds := [] }

end Sys2Proof.Machine
end

