-- ==== Sys2Proof/Machine/Copy.lean ====
section
/-! DEFINITION. Copy engines and rings: CPSET, RINIT, and the copy commands with their issue checks, their walks, and what
they do when they perform (R186 to R208, R362, R404, R405). -/

namespace Sys2Proof.Machine

/-! ### Patterns (R186 to R189) -/

/-- Word `i` of a pattern. -/
def patWord (p : Pattern) (i : Nat) : Word := p.words.toList.getD i 0

/-- Iterations of a level (R186). -/
def patCount (p : Pattern) (l : Nat) : Nat := (patWord p (2 + l)).toNat % 2 ^ 32 + 1

/-- Fields of the IDX word (R187). -/
def idxOn (p : Pattern) : Bool := (patWord p 21).getLsbD 22
def idxDst (p : Pattern) : Bool := (patWord p 21).getLsbD 23
def idxLevel (p : Pattern) : Nat := (patWord p 21).toNat / 2 ^ 19 % 8
def idxTable (p : Pattern) : Nat := (patWord p 21).toNat % 2 ^ 19

/-- `BLK`. -/
def patBlk (p : Pattern) : Nat := (patWord p 20).toNat

/-- Whether a command reads an index table: `CPYX` ignores the source side, `CPF` and `CPWB` the destination side (R206, R207). -/
def idxUsed (op : Nat) (p : Pattern) : Bool :=
  idxOn p && (if idxDst p then op != 5 && op != 6 else op != 4)

/-- Blocks of a walk, and bytes (R189). -/
def patBlocks (p : Pattern) : Nat := (List.range 6).foldl (fun n l => n * patCount p l) 1
def patTotal (p : Pattern) : Nat := patBlocks p * patBlk p

/-- Digits of `k`, the innermost level first. -/
def digitsOf : List Nat → Nat → List Nat
  | [], _ => []
  | c :: r, k => k % c :: digitsOf r (k / c)

/-- Source and destination of block `k` (R189); `tbl` reads the index table. -/
def blockAt (op : Nat) (p : Pattern) (tbl : Nat → Nat) (k : Nat) : Word × Word :=
  let is := digitsOf ((List.range 6).map (patCount p)) k
  let x := fun (dst : Bool) (l : Nat) =>
    let i := is.getD l 0
    if idxUsed op p ∧ idxLevel p = l ∧ idxDst p = dst then tbl i else i
  ((List.range 6).foldl (fun a l => a + BitVec.ofNat 64 (x false l) * patWord p (8 + l)) (patWord p 0),
   (List.range 6).foldl (fun a l => a + BitVec.ofNat 64 (x true l) * patWord p (14 + l)) (patWord p 1))

/-- The number of the first pattern word outside its limits for a command (R186 to R188, R201, R206, R384). -/
def badWord (op : Nat) (p : Pattern) : Option Nat :=
  let cnt := (List.range 6).find? fun l => 2 ^ 32 ≤ (patWord p (2 + l)).toNat
  match cnt with
  | some l => some (2 + l)
  | none =>
    let b := patBlk p
    if b % 64 ≠ 0 ∨ 4096 < b ∨ (op = 4 ∧ b % 256 ≠ 0) then some 20
    else
      let i := (patWord p 21).toNat
      if 2 ^ 24 ≤ i ∨ 5 < idxLevel p then some 21
      else if idxUsed op p ∧ (idxTable p % 4 ≠ 0 ∨ spadSize < idxTable p + 4 * patCount p (idxLevel p)) then some 21
      else if op = 1 ∧ (patWord p 22).getLsbD 13 ∧ 2 ^ 14 ≤ (patWord p 22).toNat then some 22
      else if (op = 1 ∨ op = 2 ∨ op = 4) ∧ 64 ≤ (patWord p 23).toNat then some 23
      else none

/-- Whether a `CPY` is sent to another device (R362). -/
def patRemote (op : Nat) (p : Pattern) : Bool := op == 1 && (patWord p 22).getLsbD 13

/-- The device it is sent to. -/
def patDevice (p : Pattern) : BitVec 13 := (patWord p 22).setWidth 13

/-- Whether the destination is a scratchpad, where `ORING` and `DREN` are allowed (R201). -/
def toSpad (op : Nat) (p : Pattern) : Bool :=
  op == 2 || (match localAddr (patWord p 1) with
    | some (0, _, _) => op == 1 || op == 4
    | _ => false)

/-- `DREN`, `DCTX`, `DRING` of XCFG (R188). -/
def patDren (p : Pattern) : Bool := (patWord p 23).getLsbD 0
def patDctx (p : Pattern) : Fin 4 := Fin.ofNat 4 ((patWord p 23).toNat / 2)
def patDring (p : Pattern) : Fin 8 := Fin.ofNat 8 ((patWord p 23).toNat / 8)

/-- The destination cores of a command whose destination is a scratchpad, in the order of its passes (R204). -/
def dstCores (op : Nat) (p : Pattern) : List (Fin 256) :=
  let u := (patWord p 1).toNat / 2 ^ 48 % 256
  if op = 2 then
    ((List.range 64).filter fun j => (patWord p 22).getLsbD j).map fun j => Fin.ofNat 256 (u / 64 * 64 + j)
  else [Fin.ofNat 256 u]

/-- The destination base of a pass: `DST` with bits [55:48] replaced (R204). -/
def passAddr (a : Word) (c : Fin 256) : Word := (a &&& 0xFF00FFFFFFFFFFFF) ||| BitVec.ofNat 64 (c.val * 2 ^ 48)

/-! ### Operand rings and banks of a core, running or saved -/

/-- The operand rings of a core as a job sees them. -/
def oringsOf (s : State) (j : BitVec 32) (c : Fin 256) : Option (Vector ORing 8) :=
  if liveAt s j c then some (coreAt s c).o else (findSaved s j c).map (·.o)

/-- Sets an operand ring of a core. -/
def setOring (s : State) (j : BitVec 32) (c : Fin 256) (i : Fin 8) (o : ORing) : State :=
  if liveAt s j c then modCore s c fun x => { x with o := x.o.set i o }
  else { s with saved := s.saved.map fun x => if x.job = j ∧ x.core = c then { x with o := x.o.set i o } else x }

/-- A bank of a core as a job sees it (R225, R41). -/
def jobBank (s : State) (j : BitVec 32) (c : Fin 256) (e : Fin 8) : Bank :=
  if liveAt s j c then bankAt s c e
  else
    match findSaved s j c with
    | some x => x.e[e]
    | none => Bank.reset

/-! ### CPSET and RINIT (R191, R200) -/

def execCpset (a : Fin 8) (r w : Fin 64) (s : State) : Host.Outcome State Fault Refusal :=
  runSlot (regProbe [⟨5, BitVec.ofNat 8 a.val⟩] 1)
    (fun s => land 1 (.pattern a (Fin.ofNat 24 w.val) (rS (curArch s) r)) 0 s) s

def execRinit (g : Fin 8) (c : BitVec 12) (s : State) : Host.Outcome State Fault Refusal :=
  runSlot (fun s => { regProbe [⟨8, BitVec.ofNat 8 g.val⟩] 1 s with waits := [.ringEnd g] })
    (fun s => land 1 (.ringInit g c) 0 s) s

/-! ### Issue of the copy commands (R192, R195, R201, R202, R384) -/

/-- The OPERAND fault of a command's fields and pattern (R384); a ring of another core with `TSZ` 0 passes here (R202). `TVAL0` is
the pattern word that offends: the destination, `AUX` or `XCFG` that forbids an option, `BLK` for a total that is no multiple of
the tile; 0 where no word does. -/
def copyFaults (op : Nat) (a : Fin 8) (r : Bool) (o : Fin 8) (x : Fin 16) (s : State) : List FaultRec :=
  let p := (curArch s).a[a]
  let total := patTotal p
  let opt := if op = 3 ∨ op = 5 ∨ op = 6 then 1 < x.val else x.val ≠ 0
  let odd : Bool := (op == 3 || op == 5 || op == 6) && (r || o != 0)
  match badWord op p with
  | some i => [slotSub s 0x0D (BitVec.ofNat 64 i) 0]
  | none =>
    let tsz (c : Fin 256) : Option Nat := (oringsOf s (jobOf s s.cur) c).map fun v => (v[o]).tsz.toNat
    if opt ∨ odd then [slotSub s 0x0D 0 0]
    else if patDren p ∧ (!toSpad op p ∨ patRemote op p) then [slotSub s 0x0D 23 0]
    else if r ∧ patRemote op p then [slotSub s 0x0D 22 0]
    else if r ∧ !toSpad op p then [slotSub s 0x0D 1 0]
    else if r then
      if (dstCores op p).contains (coreOf s.cur) ∧ tsz (coreOf s.cur) = some 0 then [slotSub s 0x0D 0 0]
      else if (dstCores op p).any fun c => (tsz c).any fun n => n != 0 && total % (256 * n) != 0 then [slotSub s 0x0D 20 0]
      else []
    else []

/-- Tiles a command adds to a ring of the issuing core (R202). -/
def ownTiles (op : Nat) (a : Fin 8) (o : Fin 8) (s : State) : Nat :=
  let p := (curArch s).a[a]
  if (dstCores op p).contains (coreOf s.cur) then patTotal p / (256 * ((curCore s).o[o]).tsz.toNat) else 0

/-- What a copy command asks for at issue. -/
def copyProbe (op : Nat) (a g : Fin 8) (i : BitVec 6) (r : Bool) (o : Fin 8) (x : Fin 16) (s : State) : Probe :=
  { regProbe [] 0 s with
    faults := copyFaults op a r o x s ++ ringFault s g
    waits := [.ringRoom g i.toNat, .copyRoom (Fin.ofNat 2 s.slot.val)] ++
      (if r && (dstCores op (curArch s).a[a]).contains (coreOf s.cur) then [.tileRoom o (ownTiles op a o s)] else []) }

/-- The interval of addresses that a side of a walk may touch: its bounding box, or every address under an index table, whose
entries reach anywhere (R189), or past either end of the address space. -/
def sideSpan (base : Word) (strides : List (Nat × Word)) (whole : Bool) (n : Nat) : Nat × Nat :=
  let lo : Int := strides.foldl (fun a q => a + min 0 ((q.1 : Int) * q.2.toInt)) (base.toNat : Int)
  let hi : Int := strides.foldl (fun a q => a + max 0 ((q.1 : Int) * q.2.toInt)) (base.toNat : Int) + n
  if whole ∨ lo < 0 ∨ 2 ^ 64 < hi then (0, 2 ^ 64) else (lo.toNat, hi.toNat)

/-- Each level of a side of a walk: its last digit and its stride. -/
def walkLevels (p : Pattern) (o : Nat) : List (Nat × Word) := (List.range 6).map fun l => (patCount p l - 1, patWord p (o + l))

/-- The intervals a copy command may write on this device, judged from its pattern alone. -/
def copyDests (op : Nat) (p : Pattern) : List (Nat × Nat) :=
  let n := patBlk p
  let dst := sideSpan (patWord p 1) (walkLevels p 14) (idxUsed op p && idxDst p) (if op = 3 then 2 * n else n)
  if op = 5 ∨ op = 6 ∨ patRemote op p then []
  else if op = 2 ∧ dst.2 < 2 ^ 64 then (dstCores op p).map fun c =>
    let d := (passAddr (patWord p 1) c).toNat - (patWord p 1).toNat
    let e := (patWord p 1).toNat - (passAddr (patWord p 1) c).toNat
    (dst.1 + d - e, dst.2 + d - e)
  else [dst]

/-- The intervals a copy command may touch (R208, R281), judged from its pattern alone. -/
def copyFoot (op : Nat) (p : Pattern) (core : Fin 256) : List (Nat × Nat) :=
  let used := idxUsed op p
  let src := if op = 4 then ((patWord p 0).toNat, (patWord p 0).toNat + patTotal p + patTotal p / 256 * 36 + 4)
    else sideSpan (patWord p 0) (walkLevels p 8) (used && !idxDst p) (patBlk p)
  let table := if used then
    [(localKey 0 core.val (idxTable p), localKey 0 core.val (idxTable p) + 4 * patCount p (idxLevel p))] else []
  src :: table ++ copyDests op p

/-- A copy command issues (R192, R195): the ring is reserved and the command queued with its pattern as it stands. -/
def copyEffect (op : Nat) (a g : Fin 8) (i : BitVec 6) (r : Bool) (o : Fin 8) (c x : Fin 16) (s : State) : State :=
  let p := (curArch s).a[a]
  let cmd : CopyCmd := { op := BitVec.ofNat 8 op, pat := p, opt := x.val % 2 == 1, oring := if r then some o else none,
                         tiles := ownTiles op a o s }
  let t := if op = 3 ∨ r ∨ patDren p ∨ patRemote op p then setRepeat s else s
  reserve s.cur g i.toNat
    (pushWork t (newWork s op 1 c (some g) i.toNat (.copy cmd) (copyFoot op p (coreOf s.cur)) 0 0))

def execCpy (a g : Fin 8) (i : BitVec 6) (r : Bool) (o : Fin 8) (c x : Fin 16) (s : State) :
    Host.Outcome State Fault Refusal :=
  runSlot (copyProbe 1 a g i r o x) (copyEffect 1 a g i r o c x) s

def execCpym (a g : Fin 8) (i : BitVec 6) (r : Bool) (o : Fin 8) (c x : Fin 16) (s : State) :
    Host.Outcome State Fault Refusal :=
  runSlot (copyProbe 2 a g i r o x) (copyEffect 2 a g i r o c x) s

def execCpyr (a g : Fin 8) (i : BitVec 6) (r : Bool) (o : Fin 8) (c x : Fin 16) (s : State) :
    Host.Outcome State Fault Refusal :=
  runSlot (copyProbe 3 a g i r o x) (copyEffect 3 a g i r o c x) s

def execCpyx (a g : Fin 8) (i : BitVec 6) (r : Bool) (o : Fin 8) (c x : Fin 16) (s : State) :
    Host.Outcome State Fault Refusal :=
  runSlot (copyProbe 4 a g i r o x) (copyEffect 4 a g i r o c x) s

def execCpf (a g : Fin 8) (i : BitVec 6) (r : Bool) (o : Fin 8) (c x : Fin 16) (s : State) :
    Host.Outcome State Fault Refusal :=
  runSlot (copyProbe 5 a g i r o x) (copyEffect 5 a g i r o c x) s

def execCpwb (a g : Fin 8) (i : BitVec 6) (r : Bool) (o : Fin 8) (c x : Fin 16) (s : State) :
    Host.Outcome State Fault Refusal :=
  runSlot (copyProbe 6 a g i r o x) (copyEffect 6 a g i r o c x) s

/-! ### Performing a walk -/

/-- What a step of a walk answers: the failure that stops the command, if any. -/
abbrev Walked := Option EngineFail × State

/-- Runs `n` blocks from block `k` on, stopping at the first failure (R385). -/
def runBlocks (f : State → Nat → Walked) : (n k : Nat) → State → Walked
  | 0, _, s => (none, s)
  | n + 1, k, s =>
    match f s k with
    | (some e, s) => (some e, s)
    | (none, s) => runBlocks f n (k + 1) s

/-- Counts the bytes of a block of `n` bytes that has been copied, after `k` such blocks: the event of R366 for every 64 bytes. -/
def countBlock (c : Fin 256) (n k : Nat) (s : State) : State := countEvent s c 0x0008 ((k + 1) * n / 64 - k * n / 64)

/-- A block that moves is counted. -/
def counted (c : Fin 256) (n : Nat) (f : State → Nat → Walked) (s : State) (k : Nat) : Walked :=
  match f s k with
  | (none, s) => (none, countBlock c n k s)
  | r => r

/-- One walk step after another that has not failed. -/
def andThen (r : Walked) (f : State → Walked) : Walked :=
  match r with
  | (some e, s) => (some e, s)
  | (none, s) => f s

/-- Whether a block is a legal source: a global address, or a local one of the first `spaces` spaces, inside its unit (R190,
R386). -/
def sourceOk (spaces : Nat) (addr : Word) (n : Nat) : Bool :=
  (isGlobal addr && decide (addr.toNat + n ≤ 2 ^ 48)) ||
    match localAddr addr with
    | some (sp, _, off) => decide (sp < spaces) && decide (off + n ≤ spaceSize sp 16)
    | none => false

/-- Whether a block lies in a scratchpad. -/
def spadDst (addr : Word) (n : Nat) : Bool :=
  match localAddr addr with
  | some (0, _, off) => decide (off + n ≤ spadSize)
  | _ => false

/-- The memory an address lies in, for the bounding boxes of R190: 0 for global memory, else space and unit. -/
def memoryOf (a : Word) : Nat := a.toNat / 2 ^ 48

/-- Adds [a, a + n) to the bounding boxes, one for each memory. -/
def growBox (l : List (Nat × Nat × Nat)) (a : Word) (n : Nat) : List (Nat × Nat × Nat) :=
  if n = 0 then l
  else if l.any fun q => q.1 = memoryOf a then
    l.map fun q => if q.1 = memoryOf a then (q.1, min q.2.1 a.toNat, max q.2.2 (a.toNat + n)) else q
  else (memoryOf a, a.toNat, a.toNat + n) :: l

/-- The low end of a destination box that meets a source box of the same memory. -/
def boxesMeet (src dst : List (Nat × Nat × Nat)) : Option Nat :=
  dst.findSome? fun d => if src.any fun x => x.1 = d.1 && decide (x.2.1 < d.2.2) && decide (d.2.1 < x.2.2) then some d.2.1 else none

/-- The bounding box of one side of a walk: `f` gives address and bytes of block `k`. -/
def walkBox (n : Nat) (f : Nat → Word × Nat) : List (Nat × Nat × Nat) :=
  (List.range n).foldl (fun l k => growBox l (f k).1 (f k).2) []

/-- OVERLAP (R404). -/
def overlapAt (src dst : List (Nat × Nat × Nat)) : Option EngineFail :=
  (boxesMeet src dst).map fun a => ⟨0x0108, BitVec.ofNat 64 a⟩

/-- One block moves (R189): read whole, then written whole, or nothing (R385). -/
def moveBlock (w : Work) (spaces : Nat) (toSpadOnly : Bool) (src dst : Word) (n : Nat) (s : State) : Walked :=
  if !sourceOk spaces src n then (some ⟨0x0001, src⟩, s)
  else if toSpadOnly && !spadDst dst n then (some ⟨0x0001, dst⟩, s)
  else if !engineDst dst n then (some ⟨0x0001, dst⟩, s)
  else
    match readAt s (viaOf w) src n with
    | (.error e, s) => (some ⟨engineCode e, src⟩, s)
    | (.ok bs, s) => engineWrite s w dst bs

/-! ### What arrives with the bytes: operand rings and DREN (R199, R202) -/

/-- A command's ring advance and increment at one destination core. -/
def deliverCore (w : Work) (cmd : CopyCmd) (c : Fin 256) (s : State) : Walked :=
  let own := decide (c = coreOf w.ctx)
  let ring : Walked :=
    match cmd.oring with
    | none => (none, s)
    | some i =>
      match oringsOf s w.job c with
      | none => (none, s)
      | some v =>
        let o := v[i]
        let t := patTotal cmd.pat / (256 * o.tsz.toNat)
        if o.tsz = 0 then (some ⟨0x0003, patWord cmd.pat 1⟩, s)
        else if !own && decide (o.slm.toNat + 1 < (o.tail - o.head).toNat + t) then (some ⟨0x0003, patWord cmd.pat 1⟩, s)
        else (none, setOring s w.job c i { o with tail := o.tail + BitVec.ofNat 32 t })
  andThen ring fun s =>
    if !patDren cmd.pat || (coreAt s c).retired || !holdsCore s w.job c then (none, s)
    else
      let s := { s with dren := s.dren ++ [⟨w.ctx, ctxId c (patDctx cmd.pat), w.job, patDring cmd.pat, w.inc, w.seq⟩] }
      (none, modWork s (coreOf w.ctx) w.seq fun x => { x with acks := x.acks + 1 })

/-! ### CPYX (R206, R405) -/

/-- Where a stream is read: the next byte, sectors left in the chunk, the end of its payload. -/
structure Stream where
  pos : Word
  left : Nat
  stop : Nat
  box : List (Nat × Nat × Nat)
  deriving DecidableEq, Repr

/-- Reads bytes of a stream. -/
def streamBytes (w : Work) (a : Word) (n : Nat) (s : State) : Except EngineFail (List Byte) × State :=
  if !sourceOk 3 a n || (match localAddr a with | some (1, _, _) => true | _ => false) then (.error ⟨0x0001, a⟩, s)
  else
    match readAt s (viaOf w) a n with
    | (.error e, s) => (.error ⟨engineCode e, a⟩, s)
    | (.ok bs, s) => (.ok bs, s)

/-- Reads a chunk header; one that lies in the destination box is OVERLAP (R404). -/
def streamHeader (w : Work) (dst : List (Nat × Nat × Nat)) (t : Stream) (s : State) : Except EngineFail (Nat × Stream) × State :=
  match streamBytes w t.pos 4 s with
  | (.error e, s) => (.error e, s)
  | (.ok bs, s) =>
    let h := leVal bs
    let box := growBox t.box t.pos 4
    match overlapAt box dst with
    | some e => (.error e, s)
    | none => (.ok (h, { t with pos := t.pos + 4, left := h / 2 ^ 24, stop := t.pos.toNat + 4 + h % 2 ^ 24, box := box }), s)

/-- Decodes the next sector of a stream (R184, R405); `dst` holds the destination boxes. -/
def streamSector (w : Work) (dst : List (Nat × Nat × Nat)) (t : Stream) (s : State) :
    Except EngineFail (List Byte × Stream) × State :=
  let head : Except EngineFail (Nat × Stream) × State := if t.left = 0 then streamHeader w dst t s else (.ok (1, t), s)
  match head with
  | (.error e, s) => (.error e, s)
  | (.ok (h, t), s) =>
    let long : Except EngineFail (List Byte × Stream) × State := (.error ⟨0x0106, t.pos⟩, s)
    if h = 0 then (.error ⟨0x0107, t.pos⟩, s)
    else if t.left = 0 ∨ t.stop < t.pos.toNat + 32 then long
    else
      match streamBytes w t.pos 32 s with
      | (.error e, s) => (.error e, s)
      | (.ok ms, s) =>
        let mask := leVal ms
        let n := sectorLength mask
        if t.stop < t.pos.toNat + n then long
        else
          match streamBytes w (t.pos + 32) (n - 32) s with
          | (.error e, s) => (.error e, s)
          | (.ok bs, s) =>
            let box := growBox t.box t.pos n
            let t' : Stream := ⟨t.pos + BitVec.ofNat 64 n, t.left - 1, t.stop, box⟩
            match overlapAt box dst with
            | some e => (.error e, s)
            | none =>
              if t'.left = 0 ∧ t'.pos.toNat ≠ t.stop then (.error ⟨0x0106, t'.pos⟩, s)
              else (.ok (expandSector mask 256 0 bs, t'), s)

/-- Decodes `n` sectors. -/
def streamSectors (w : Work) (dst : List (Nat × Nat × Nat)) : (n : Nat) → Stream → State →
    Except EngineFail (List Byte × Stream) × State
  | 0, t, s => (.ok ([], t), s)
  | n + 1, t, s =>
    match streamSector w dst t s with
    | (.error e, s) => (.error e, s)
    | (.ok (bs, t), s) =>
      match streamSectors w dst n t s with
      | (.error e, s) => (.error e, s)
      | (.ok (cs, t), s) => (.ok (bs ++ cs, t), s)

/-- Decodes and writes the blocks of a stream one after another, then reads the closing header (R206). `cut` is the block that the
watchdog cuts off, if any (R405). -/
def streamBlocks (w : Work) (dst : Nat → Word) (boxes : List (Nat × Nat × Nat)) (blk : Nat) (cut : Option Nat) :
    (n k : Nat) → Stream → State → Walked
  | 0, _, t, s =>
    if t.left ≠ 0 then (some ⟨0x0107, t.pos⟩, s)
    else
      match streamHeader w boxes t s with
      | (.error e, s) => (some e, s)
      | (.ok (h, _), s) => if h = 0 then (none, s) else (some ⟨0x0107, t.pos⟩, s)
  | n + 1, k, t, s =>
    if cut = some k then (some ⟨0x0106, t.pos⟩, s)
    else if !engineDst (dst k) blk then (some ⟨0x0001, dst k⟩, s)
    else
      match streamSectors w boxes (blk / 256) t s with
      | (.error e, s) => (some e, s)
      | (.ok (bs, t), s) =>
        match engineWrite s w (dst k) bs with
        | (some e, s) => (some e, s)
        | (none, s) => streamBlocks w dst boxes blk cut n (k + 1) t (countBlock (coreOf w.ctx) blk k s)

/-! ### CPYR (R205) -/

/-- One word of a `CPYR` arrives at the accumulator write port. -/
def moveWord (w : Work) (add : Bool) (src dst : Word) (s : State) : Walked :=
  match localAddr dst with
  | some (1, u, off) =>
    let c : Fin 256 := Fin.ofNat 256 u
    let e : Fin 8 := Fin.ofNat 8 (off / 0x10000)
    if !sourceOk 3 src 4 || src.toNat % 4 != 0 then (some ⟨0x0001, src⟩, s)
    else if 0x80000 ≤ off then (some ⟨0x0001, dst⟩, s)
    else if (coreAt s c).retired || !holdsCore s w.job c then (some ⟨0x0101, dst⟩, s)
    else
      let b := jobBank s w.job c e
      let z := entrySize b
      if off % (if b.al then z else 4) ≠ 0 then (some ⟨0x0001, dst⟩, s)
      else if !b.al || (b.mode = 0 && add) then (some ⟨0x0230, dst⟩, s)
      else
        match readAt s (viaOf w) src 4 with
        | (.error e, s) => (some ⟨engineCode e, src⟩, s)
        | (.ok bs, s) =>
          let x : BitVec 32 := BitVec.ofNat 32 (leVal bs)
          let q : State × BitVec 6 :=
            if liveAt s w.job c then
              writeRow s c b e (off % 0x10000 / 512) (off % 512 / z) 1 fun _ old => laneEntry b add old x
            else
              let i := imageRead s w.job c 1 off z
              let r := laneEntry b add (leVal i.1) x
              (imageWrite i.2 w.job c 1 off (leBytes z (r.1.getD (leVal i.1))), r.2)
          if liveAt s w.job c && badPart s (localKey 1 c.val off) z then (some ⟨0x0102, dst⟩, s)
          else (none, modArch q.1 w.ctx (raiseFlags (q.2 &&& fNV)))
  | _ => (some ⟨0x0001, dst⟩, s)

/-- The entry size of the bank a block begins in (R205). -/
def dstEntry (s : State) (j : BitVec 32) (dst : Word) : Nat :=
  match localAddr dst with
  | some (1, u, off) =>
    let b := jobBank s j (Fin.ofNat 256 u) (Fin.ofNat 8 (off / 0x10000))
    if b.al then entrySize b else 4
  | _ => 4

/-- The words of block `k`, in order. -/
def moveWords (w : Work) (add : Bool) (src dst : Word) (z n k : Nat) (s : State) : Walked :=
  runBlocks (fun s i => counted (coreOf w.ctx) 4 (fun s _ =>
    moveWord w add (src + BitVec.ofNat 64 (4 * i)) (dst + BitVec.ofNat 64 (z * i)) s) s (k * n + i)) n 0 s

/-! ### CPF and CPWB (R207) -/

/-- What stops `CPF` or `CPWB` at a sector, with its physical address where it has one; pages that do not translate are passed
over (R401). Only `CPF.L1` decodes what it moves (R392). -/
def visitFail (w : Work) (l1 : Bool) (a : Word) (s : State) : Option EngineFail × Option Nat × State :=
  match locate s (viaOf w) a 1 false with
  | (.error e, s) => (if e.code = 0x18 then none else some ⟨engineCode e, a⟩, none, s)
  | (.ok (.glob pa), s) =>
    let sec := pa / 256 * 256
    (if l1 && (l1Sector (coreAt s (coreOf w.ctx)) sec 256).isNone && badAt s sec 256 then some ⟨0x0102, a⟩ else none, some sec, s)
  | (.ok _, s) => (some ⟨0x0001, a⟩, none, s)

/-- The sectors of a block, or what stops it: none of its accesses then performs (R385). -/
def visitAll (w : Work) (l1 : Bool) : List Word → State → Except EngineFail (List Nat) × State
  | [], s => (.ok [], s)
  | a :: r, s =>
    match visitFail w l1 a s with
    | (some e, _, s) => (.error e, s)
    | (none, pa, s) =>
      match visitAll w l1 r s with
      | (.error e, s) => (.error e, s)
      | (.ok ps, s) => (.ok (pa.toList ++ ps), s)

/-- One sector of a `CPF`. -/
def fillSector (w : Work) (l1 : Bool) (s : State) (sec : Nat) : State :=
  if l1 then (l1Read s (coreOf w.ctx) sec 256).2 else (homeRead s sec 256 none).2

/-- One sector of a `CPWB`: its line is written back from the home slice, to HBM or to the host, and with `inv` dropped. -/
def cleanLine (inv : Bool) (s : State) (sec : Nat) : State :=
  let u := homeOf sec
  match sliceLine s sec with
  | none => s
  | some l =>
    let s := if l.dirty = 0 then s else countSlice (wantMsgs s (lineWrites s l)) u 0x0102 1
    modSlice s u fun x => { x with lines :=
      (x.lines.map fun l => if l.line = sec / 1024 then { l with dirty := 0 } else l).filter fun l => !(inv && l.line == sec / 1024) }

/-- A block of `CPF` or `CPWB`: every sector it overlaps; its addresses are global (R190). -/
def visitSectors (w : Work) (l1 : Bool) (f : State → Nat → State) (a : Word) (n : Nat) (s : State) : Walked :=
  if !isGlobal a || decide (2 ^ 48 < a.toNat + n) then (some ⟨0x0001, a⟩, s)
  else
    let sectors := (List.range ((a.toNat + n - 1) / 256 - a.toNat / 256 + 1)).map fun i => BitVec.ofNat 64 ((a.toNat / 256 + i) * 256)
    match visitAll w l1 sectors s with
    | (.error e, s) => (some e, s)
    | (.ok ps, s) => (none, ps.foldl f s)

/-! ### Performing a copy command -/

/-- Whether a word of the index table is in error (R393). -/
def tableBad (s : State) (c : Fin 256) (p : Pattern) : Bool := badAt s (spadKey c (idxTable p)) (4 * patCount p (idxLevel p))

/-- The remote part of a copy (R362): every block is read here and sent; it completes by acknowledgements. -/
def sendCopy (w : Work) (p : Pattern) (blk : Nat → Word × Word) (s : State) : Walked :=
  let n := patBlk p
  runBlocks (counted (coreOf w.ctx) n fun s k =>
    let src := (blk k).1
    let dst := (blk k).2
    if !sourceOk 5 src n then (some ⟨0x0001, src⟩, s)
    else if !(isGlobal dst && decide (dst.toNat + n ≤ 2 ^ 48)) then (some ⟨0x0001, dst⟩, s)
    else
      match readAt s (viaOf w) src n with
      | (.error e, s) => (some ⟨engineCode e, src⟩, s)
      | (.ok bs, s) =>
        let s := sendWrites s (patDevice p) dst bs w.job
        (none, modWork s (coreOf w.ctx) w.seq fun x => { x with acks := x.acks + (n + 223) / 224 }))
    (patBlocks p) 0 s

/-- A copy command performs: its table is read, its boxes are checked, its blocks move, and what goes with them is delivered
(R189, R190, R202 to R207, R385, R404). `cut` is the block of a `CPYX` that the watchdog cuts off (R405). -/
def performCopy (s : State) (w : Work) (cmd : CopyCmd) (cut : Option Nat := none) : Walked :=
  let p := cmd.pat
  let op := cmd.op.toNat
  let n := patBlk p
  let blocks := if n = 0 then 0 else patBlocks p
  let core := coreOf w.ctx
  let tbl := fun i => leVal (arbRead s core (idxTable p + 4 * i) 4)
  let blk := blockAt op p tbl
  if idxUsed op p && tableBad s core p then (some ⟨0x0102, BitVec.ofNat 64 (localKey 0 core.val (idxTable p))⟩, s)
  else if op = 5 then runBlocks (fun s k => visitSectors w cmd.opt (fillSector w cmd.opt) (blk k).1 n s) blocks 0 s
  else if op = 6 then runBlocks (fun s k => visitSectors w false (cleanLine cmd.opt) (blk k).1 n s) blocks 0 s
  else if patRemote op p then sendCopy w p blk s
  else if op = 4 then
    let boxes := walkBox blocks fun k => ((blk k).2, n)
    andThen (streamBlocks w (fun k => (blk k).2) boxes n cut blocks 0 ⟨patWord p 0, 0, 0, []⟩ s) fun s =>
      if toSpad op p then (dstCores op p).foldl (fun r c => andThen r (deliverCore w cmd c)) (none, s) else (none, s)
  else
    let srcBox := walkBox blocks fun k => ((blk k).1, n)
    if op = 3 then
      match overlapAt srcBox (walkBox blocks fun k => ((blk k).2, n / 4 * dstEntry s w.job (blk k).2)) with
      | some e => (some e, s)
      | none => runBlocks (fun s k => moveWords w cmd.opt (blk k).1 (blk k).2 (dstEntry s w.job (blk k).2) (n / 4) k s) blocks 0 s
    else if op = 2 then
      let dst := fun (c : Fin 256) k => (blk k).2 - patWord p 1 + passAddr (patWord p 1) c
      match (dstCores op p).findSome? fun c => overlapAt srcBox (walkBox blocks fun k => (dst c k, n)) with
      | some e => (some e, s)
      | none =>
        (dstCores op p).foldl (fun r c => andThen r fun s =>
          andThen (runBlocks (counted core n fun s k => moveBlock w 5 true (blk k).1 (dst c k) n s) blocks 0 s) (deliverCore w cmd c)) (none, s)
    else
      match overlapAt srcBox (walkBox blocks fun k => ((blk k).2, n)) with
      | some e => (some e, s)
      | none =>
        andThen (runBlocks (counted core n fun s k => moveBlock w 5 false (blk k).1 (blk k).2 n s) blocks 0 s) fun s =>
          if toSpad op p then (dstCores op p).foldl (fun r c => andThen r (deliverCore w cmd c)) (none, s) else (none, s)

/-! ### DREN (R199, R386, R388) -/

/-- One increment arrives: it is added without a wait, discarded, or fails its issuer's command with `DESTRING`. -/
def applyDren (s : State) (d : Dren) : State :=
  let s := { s with dren := s.dren.erase d }
  let core := coreOf d.src
  let ack (s : State) : State := ackWork s core d.seq
  let fail (s : State) : State :=
    match findWork s core d.seq with
    | some w =>
      endCommand s w (some ⟨0x0002, match w.kind with
        | .copy c => patWord c.pat 1
        | _ => 0⟩)
    | none => s
  if (coreAt s (coreOf d.dst)).retired then ack s
  else
    match ringTarget s d.job d.dst with
    | none => ack s
    | some c =>
      let r := c.arch.g[d.ring]
      if c.run = .unstarted then fail s
      else if r.fcode ≠ 0 then ack s
      else if r.cap.toNat < (r.rsv + BitVec.ofNat 32 d.inc - r.cons).toNat then fail s
      else
        let n : Ring := { r with fill := r.fill + BitVec.ofNat 32 d.inc, rsv := r.rsv + BitVec.ofNat 32 d.inc }
        ack (modTarget s d.job d.dst fun c => { c with arch := { c.arch with g := c.arch.g.set d.ring n } })

/-- Whether an increment may arrive: none of the same issuer to the same ring comes before it in issue order (R199). -/
def drenFirst (s : State) (d : Dren) : Bool :=
  !(s.dren.any fun x => decide (x.src = d.src) && decide (x.dst = d.dst) && decide (x.ring = d.ring) && decide (x.seq < d.seq)) &&
  !((coreAt s (coreOf d.src)).work.any fun w => decide (w.ctx = d.src) && decide (w.seq < d.seq) && !w.performed &&
      match w.kind with
      | .copy c => patDren c.pat && decide (patDring c.pat = d.ring) && decide (patDctx c.pat = subOf d.dst) &&
          (dstCores c.op.toNat c.pat).contains (coreOf d.dst)
      | _ => false)

end Sys2Proof.Machine
end

