-- ==== Sys2Proof/Machine/Transform.lean ====
section
/-! DEFINITION. The transform slot: XEXP, XTRN, XCVT, XZVC, XFILL, their issue checks and their beats (R209 to R216). -/

namespace Sys2Proof.Machine

/-! ### Shapes (R209) -/

/-- The latency L of an operation. -/
def xLatency : XKind → Nat
  | .fill => 1
  | .exp => 3
  | .trn => 4
  | .cvt => 6
  | .zvc => 4

/-- Element width of `XTRN` in bits, and elements of a row. -/
def trnBits (w : Nat) : Nat := 4 * 2 ^ w
def trnRow (w : Nat) : Nat := 2048 / trnBits w

/-- SP, DP of `XTRN`; SI of source and destination, RW of `XCVT`. -/
def trnSP (x : Word) : Nat := x.toNat / 2 ^ 16 % 2 ^ 20
def trnDP (x : Word) : Nat := x.toNat / 2 ^ 36 % 2 ^ 20
def cvtSI (x : Word) : Fin 16 := Fin.ofNat 16 (x.toNat / 2 ^ 16)
def cvtDI (x : Word) : Fin 16 := Fin.ofNat 16 (x.toNat / 2 ^ 20)
def cvtRW (x : Word) : Nat := x.toNat / 2 ^ 24 % 2 ^ 16

/-- Bytes of a chunk of `XCVT` in a format (R215). -/
def cvtChunk (c : Nat) : Nat :=
  if c = 9 ∨ c = 10 then 2 * blockSize c else 64 * codeWidth c / 8

/-- Whether [lo, lo + n) lies in the scratchpad. -/
def inSpad (lo n : Nat) : Bool := decide (lo + n ≤ spadSize)

/-- Bytes of the scratchpad as beats read them. -/
def beatRead (s : State) (c : Fin 256) (off n : Nat) : List Byte := arbRead s c off n

/-- The bytes that `n` compressed sectors from `off` on take, as they stand. -/
def sectorsExtent (s : State) (c : Fin 256) : (n off : Nat) → Nat
  | 0, _ => 0
  | n + 1, off =>
    let z := sectorLength (leVal (beatRead s c off 32))
    z + sectorsExtent s c n (off + z)

/-- The bytes that `n` sectors from `off` on compress to, as they stand. -/
def packedExtent (s : State) (c : Fin 256) (n off : Nat) : Nat :=
  ((List.range n).map fun i => (compressSector (beatRead s c (off + 256 * i) 256)).length).sum

/-- The source chunks that an operation has yet to read (R209), `n` of them from chunk `b` on: offset and length; `used` bytes of
compressed sectors lie before them. `XFILL` has none. -/
def sourceChunks (s : State) (c : Fin 256) (x : XOp) : (n b used : Nat) → List (Nat × Nat)
  | 0, _, _ => []
  | n + 1, b, used =>
    match x.kind with
    | .fill => []
    | .exp =>
      let z := sectorLength (leVal (beatRead s c (x.src + used) 32))
      (x.src + used, z) :: sourceChunks s c x n (b + 1) (used + z)
    | .trn => (x.src + b * trnSP x.counts, 256) :: sourceChunks s c x n (b + 1) used
    | .cvt => (x.src + b * cvtChunk (fmtA x.fmt).toNat, cvtChunk (fmtA x.fmt).toNat) :: sourceChunks s c x n (b + 1) used
    | .zvc => (x.src + 256 * b, 256) :: sourceChunks s c x n (b + 1) used

/-- The chunks of an operation under way that its beats have yet to read. -/
def unreadChunks (s : State) (c : Fin 256) (x : XOp) : List (Nat × Nat) :=
  sourceChunks s c x (x.beats - x.nread) x.nread x.srcUsed

/-- The source chunk of the issuing context's own X operations, not yet read, that [lo, lo + n) meets (R211). -/
def pendingSource (s : State) (lo n : Nat) : Option Nat :=
  (curCtx s).xops.findSome? fun x =>
    ((unreadChunks s (coreOf s.cur) x).find? fun q => decide (q.1 < lo + n) && decide (lo < q.1 + q.2)).map (·.1)

/-- The faults of a slot access to `n` scratchpad bytes: SPADDR (R381, R382), and for a store CLAIM 1 and XORDER 2 (R211, R381,
R383). -/
def spadFaults (s : State) (addr : Word) (n al : Nat) (store : Bool) : List FaultRec :=
  if !spadOk addr n al then [slotSub s 0x08 addr 0]
  else if store then
    (if meets (claimedTiles (curCore s)) addr.toNat n then [slotFault s 0x11 1 addr 0 0] else []) ++
    (match pendingSource s addr.toNat n with
     | some c => [slotFault s 0x10 2 (BitVec.ofNat 64 c) 0 0]
     | none => [])
  else []

/-! ### Issue -/

/-- The OPERAND cases of an X operation (R209, R215, R383): `xf` its `XF` field. The value is `TVAL0` (R371): the register that
offends; 0 for `XF`, which is none. -/
def xBad (kind : XKind) (d src cnt : Word) (xf : Nat) (s : State) : Option Word :=
  let c := coreOf s.cur
  let n := cnt.toNat % 2 ^ 16
  let hi := cnt.toNat / 2 ^ 16
  let f := (curArch s).fmt
  let out (ok : Bool) (v : Word) : Option Word := if n = 0 ∨ ok then none else some v
  match kind with
  | .fill => if xf ≠ 0 then some 0 else if hi ≠ 0 ∨ 1536 < n then some cnt else out (inSpad d.toNat (256 * n)) d
  | .exp =>
    if xf ≠ 0 then some 0
    else if hi ≠ 0 ∨ 1536 < n then some cnt
    else (out (inSpad d.toNat (256 * n)) d).or (out (inSpad src.toNat 32 && inSpad src.toNat (sectorsExtent s c n src.toNat)) src)
  | .trn =>
    let e := trnRow (xf % 4)
    if 4 ≤ xf then some 0
    else if e < n ∨ 2 ^ 56 ≤ cnt.toNat ∨ trnSP cnt % 64 ≠ 0 ∨ trnDP cnt % 64 ≠ 0 then some cnt
    else (out (inSpad d.toNat ((e - 1) * trnDP cnt + (n * trnBits (xf % 4) + 7) / 8)) d).or
      (out (inSpad src.toNat ((n - 1) * trnSP cnt + 256)) src)
  | .cvt =>
    if 1536 < n ∨ 2 ^ 40 ≤ cnt.toNat ∨ cvtRW cnt % 64 ≠ 0 ∨ cvtRW cnt = 0 then some cnt
    else (out (inSpad d.toNat (n * cvtChunk (fmtO f).toNat)) d).or (out (inSpad src.toNat (n * cvtChunk (fmtA f).toNat)) src)
  | .zvc =>
    if hi ≠ 0 ∨ 255 < n then some cnt
    else (out (inSpad src.toNat (256 * n)) src).or (out (inSpad d.toNat (4 + packedExtent s c n src.toNat)) d)

/-- The faults of an X operation, OPERAND and XORDER first (R211, R383), then those of its own kind. -/
def xFaults (kind : XKind) (d a n : Fin 64) (xf : Nat) (s : State) : List FaultRec :=
  let r := curArch s
  let bad := match xBad kind (rS r d) (rS r a) (rS r n) xf s with
    | some v => [slotSub s 0x0D v 0]
    | none => []
  let early := if now s < (curCtx s).lastX.1 + (curCtx s).lastX.2 then
      [slotFault s 0x10 1 (if kind = .fill then rS r d else rS r a) 0 0] else []
  bad ++ early

/-- An X operation of the issuing context, with all it reads of registers at issue (R91, R100). -/
def newXOp (kind : XKind) (d a n : Fin 64) (width : Fin 4) (fs fd : Fin 8) (l : Fin 64) (s : State) : XOp :=
  let r := curArch s
  { kind, seq := s.seq, slot := s.slot, bun := r.pc, t := now s, beats := (rS r n).toNat % 2 ^ 16, dst := (rS r d).toNat,
    src := (rS r a).toNat, counts := rS r n, fill := rS r a, width, fmt := r.fmt, scl := r.scl, fsrc := rD r fs, fdst := rD r fd,
    lreg := l, nread := 0, nland := 0, srcUsed := 0, dstUsed := 0, pend := [], bad := none, handler := r.hm }

/-- What an X operation asks for; a store of its own bundle comes after its first read, and before the others (R210, R211). -/
def xProbe (kind : XKind) (d a n : Fin 64) (xf : Nat) (ws : List WReg) (s : State) : Probe :=
  { regProbe ws 1 s with
    faults := xFaults kind d a n xf s
    unread := (unreadChunks s (coreOf s.cur) (newXOp kind d a n (Fin.ofNat 4 xf) 0 0 0 s)).drop 1 }

/-- XCVT of a float format to itself: a re-encoding under R87 and R88, in which an infinity saturates (R215). -/
def reencode (f : Nat) (r : RMode) (sat : Bool) (x : Nat) : Res :=
  match convSource f false x with
  | .inf neg => if sat && f != 0 then roundNum (fpOf f) r true (.inf neg) else convert f f false r sat x
  | .nan => convert f f false r sat x
  | .fin _ _ _ => convert f f false r sat x

/-- The source chunk of a beat, and its output (R210, R213 to R216). DESIGN CHOICE (see the log): from INT32 to a DXB code
the exact integer is quantised, not one rounded to FP32 first. -/
def computeChunk (s : State) (c : Fin 256) (x : XOp) : XOp :=
  let b := x.nread
  match x.kind with
  | .fill =>
    { x with nread := b + 1, pend := x.pend ++ [((List.replicate 32 (leBytes 8 x.fill.toNat)).flatten, 0)] }
  | .exp =>
    let off := x.src + x.srcUsed
    let mask := leVal (beatRead s c off 32)
    let z := sectorLength mask
    { x with nread := b + 1, srcUsed := x.srcUsed + z,
             pend := x.pend ++ [(expandSector mask 256 0 (beatRead s c (off + 32) (z - 32)), 0)] }
  | .trn => { x with nread := b + 1, pend := x.pend ++ [(beatRead s c (x.src + b * trnSP x.counts) 256, 0)] }
  | .zvc => { x with nread := b + 1, pend := x.pend ++ [(compressSector (beatRead s c (x.src + 256 * b) 256), 0)] }
  | .cvt =>
    let fa := (fmtA x.fmt).toNat
    let fo := (fmtO x.fmt).toNat
    let rw := cvtRW x.counts
    let bits := leVal (beatRead s c (x.src + b * cvtChunk fa) (cvtChunk fa))
    let pos := fun i : Nat => (((64 * b + i) / rw : Nat) : Int)
    let col := fun i : Nat => (((64 * b + i) % rw : Nat) : Int)
    let raw := fun i : Nat =>
      if fa = 9 ∨ fa = 10 then bits / 2 ^ (8 * (blockSize fa * (i / 32)) + 16 + codeWidth fa * (i % 32)) % 2 ^ codeWidth fa
      else bits / 2 ^ (codeWidth fa * i) % 2 ^ codeWidth fa
    let hdr := fun i : Nat => bits / 2 ^ (8 * (blockSize fa * (i / 32))) % 65536
    let val : Nat → Num × Bool := fun i =>
      if fa = 6 ∨ fa = 7 then
        intElem fa (raw i) (consumerOffset x.fsrc fa (pos i) (col i)) (num32 (x.scl[cvtSI x.counts]))
      else if fa = 9 ∨ fa = 10 then dxbElem fa (hdr i) (raw i) (consumerOffset x.fsrc fa (pos i) (col i)) (sclAt x.scl)
      else (convSource fa false (raw i), false)
    let src := isCodeFormat fa
    let dv := fun i : Nat => if fmtDith x.fmt then offsetAt x.fdst (pos i) (col i) else 0
    let nv := allFlags ((List.range 64).map fun i => flagIf (val i).2 fNV)
    let out : List Byte × BitVec 6 :=
      if fo = 9 ∨ fo = 10 then
        let bs := (List.range 2).map fun h =>
          quantDxb fo (cvtDI x.counts).val (x.scl[cvtDI x.counts]) (fmtSat x.fmt) ((List.range 32).map fun i => (val (32 * h + i)).1)
            ((List.range 32).map fun i => dv (32 * h + i))
        (bs.flatMap (blockBytes fo), nv ||| allFlags (bs.map (·.flags)))
      else
        let one := fun i : Nat =>
          if fo = 6 ∨ fo = 7 then
            match num32 (x.scl[cvtDI x.counts]) with
            | .fin _ mu eu =>
              let k := quantInt fo mu eu (val i).1 (dv i)
              ((BitVec.ofInt (codeWidth fo) k.1).toNat, k.2)
            | .nan => (0, 0)
            | .inf _ => (0, 0)
          else if src then
            let y := deliver .rne (val i)
            if fo = 0 then (y.bits, y.flags)
            else
              let z := convert 0 fo false (rmodeOf x.fmt) (fmtSat x.fmt) y.bits
              (z.bits, y.flags ||| z.flags)
          else
            let z := if fa = fo then reencode fa (rmodeOf x.fmt) (fmtSat x.fmt) (raw i)
              else convert fa fo false (rmodeOf x.fmt) (fmtSat x.fmt) (raw i)
            (z.bits, z.flags)
        let l := (List.range 64).map one
        (leBytes (8 * codeWidth fo) (packNat (codeWidth fo) (fun i => (l.getD i (0, 0)).1) 64), nv ||| allFlags (l.map (·.2)))
    { x with nread := b + 1, pend := x.pend ++ [out] }

/-- The offset of the next chunk to read, when a word of it has an uncorrectable error (R393). -/
def chunkBad (s : State) (c : Fin 256) (x : XOp) : Option Nat :=
  ((sourceChunks s c x 1 x.nread x.srcUsed).find? fun q => badAt s (spadKey c q.1) q.2).map (·.1)

/-- A beat reads its source chunk, and its output is computed (R210). -/
def readChunk (s : State) (c : Fin 256) (x : XOp) : XOp :=
  { computeChunk s c x with bad := x.bad.or ((chunkBad s c x).map fun off => (x.nread, off)) }

/-- An X operation issues at t: beat 0 reads at once, before the bundle's slot stores (R210, R211). -/
def xEffect (kind : XKind) (d a n : Fin 64) (width : Fin 4) (fs fd : Fin 8) (l : Fin 64) (s : State) : State :=
  let x := newXOp kind d a n width fs fd l s
  let s := modCtx s s.cur fun k => { k with lastX := (now s, x.beats) }
  if x.beats = 0 then (if kind = .zvc then land (xLatency .zvc) (.sreg l 0) 0 s else s)
  else
    let x := readChunk s (coreOf s.cur) x
    modCtx s s.cur fun k => { k with xops := k.xops ++ [x] }

def execXexp (d a n x : Fin 64) (s : State) : Host.Outcome State Fault Refusal :=
  runSlot (xProbe .exp d a n x.val []) (xEffect .exp d a n 0 0 0 0) s

def execXfill (d a n x : Fin 64) (s : State) : Host.Outcome State Fault Refusal :=
  runSlot (xProbe .fill d a n x.val []) (xEffect .fill d a n 0 0 0 0) s

def execXtrn (d a n x : Fin 64) (s : State) : Host.Outcome State Fault Refusal :=
  runSlot (xProbe .trn d a n x.val []) (xEffect .trn d a n (Fin.ofNat 4 x.val) 0 0 0) s

/-- `XCVT`: FORMAT for a reserved code, FRAME for a source code under a frame of another or a dithered output under one, SCALE
of a quantiser (R383, R420). -/
def execXcvt (d a n : Fin 64) (b f : Fin 8) (s : State) : Host.Outcome State Fault Refusal :=
  runSlot (fun s =>
      let r := curArch s
      let fa := (fmtA r.fmt).toNat
      let fo := (fmtO r.fmt).toNat
      let p := xProbe .cvt d a n 0 [] s
      if 10 < fa ∨ 10 < fo then { p with faults := [slotSub s 0x12 r.fmt 0] }
      else { p with faults := p.faults ++
        (if isCodeFormat fa then frameFault s f (rD r f) fa else []) ++
        (if isCodeFormat fo && fmtDith r.fmt then frameFault s b (rD r b) fo else []) ++
        (if isCodeFormat fo then scaleFault s (cvtDI (rS r n)) else []) })
    (xEffect .cvt d a n 0 f b 0) s

def execXzvc (d a n l : Fin 64) (s : State) : Host.Outcome State Fault Refusal :=
  runSlot (xProbe .zvc d a n 0 (wrS l)) (xEffect .zvc d a n 0 0 0 l) s

/-! ### Beats -/

/-- Where the next chunk to land goes: scratchpad offsets with their bytes (R209); with the last of `XZVC` the header (R216).
`old` reads a byte for a width of 4 bits. -/
def chunkWrites (x : XOp) (out : List Byte) (old : Nat → Byte) : List (Nat × List Byte) :=
  match x.kind with
  | .fill => [(x.dst + 256 * x.nland, out)]
  | .exp => [(x.dst + 256 * x.nland, out)]
  | .cvt => [(x.dst + x.nland * cvtChunk (fmtO x.fmt).toNat, out)]
  | .zvc =>
    (x.dst + 4 + x.dstUsed, out) ::
      if x.nland + 1 = x.beats then [(x.dst, leBytes 4 (x.beats * 2 ^ 24 + x.dstUsed + out.length))] else []
  | .trn =>
    let w := trnBits x.width.val
    let dp := trnDP x.counts
    (List.range (trnRow x.width.val)).map fun r =>
      if w = 4 then
        let off := x.dst + r * dp + x.nland / 2
        let nib := (out.getD (r / 2) 0).toNat / 16 ^ (r % 2) % 16
        let o := (old off).toNat
        (off, [BitVec.ofNat 8 (if x.nland % 2 = 0 then o / 16 * 16 + nib else o % 16 + 16 * nib)])
      else (x.dst + r * dp + x.nland * (w / 8), (out.drop (r * (w / 8))).take (w / 8))

/-- The output of the next chunk to land. -/
def nextOut (x : XOp) : List Byte × BitVec 6 := x.pend.headD ([], 0)

/-- The writes of the next chunk to land, as the scratchpad stands. -/
def nextWrites (s : State) (c : Fin 256) (x : XOp) : List (Nat × List Byte) :=
  chunkWrites x (nextOut x).1 fun off => memGet s.mem (spadKey c off)

/-- Writes the bytes of a chunk that lie in the scratchpad, in order. -/
def putChunk (s : State) (c : Fin 256) (ws : List (Nat × List Byte)) : State :=
  ws.foldl (fun s q => if inSpad q.1 q.2.length then putBytes s (spadKey c q.1) q.2 else s) s

/-- An operation whose next chunk has landed. -/
def landedOne (x : XOp) : XOp :=
  { x with nland := x.nland + 1, pend := x.pend.drop 1, dstUsed := x.dstUsed + (nextOut x).1.length }

/-- The CLAIM 3 fault of a beat whose destination lies in a claimed tile (R383). -/
def beatClaim (s : State) (c : Fin 256) (x : XOp) (ws : List (Nat × List Byte)) : Option FaultRec :=
  (ws.find? fun q => meets (claimedTiles (coreAt s c)) q.1 q.2.length).map fun q =>
    mkFault 0x11 3 (some x.slot) (BitVec.ofNat 64 q.1) 0 0

/-- The `SPDATA` fault of a chunk whose source held a word in error. DESIGN CHOICE (see the log): R393 names no X operation among its
readers; the operation fails as a load of the scratchpad does, at the chunk's landing, with the record of one. -/
def beatBad (x : XOp) : Option FaultRec :=
  let opc := match x.kind with
    | .exp => 0
    | .trn => 1
    | .cvt => 2
    | .zvc => 3
    | .fill => 4
  match x.bad with
  | some (n, off) =>
    if n = x.nland then
      some (mkFault 0x80 0 (some x.slot) (BitVec.ofNat 64 off) 0
        (BitVec.ofNat 64 (x.bun.toNat % 2 ^ 20 * 2 ^ 44 + opc * 2 ^ 32 + xLatency x.kind)))
    else none
  | none => none

/-- The fault with which the next chunk of an operation lands. -/
def beatFault (s : State) (c : Fin 256) (x : XOp) : Option FaultRec := (beatBad x).or (beatClaim s c x (nextWrites s c x))

/-- The next chunk of an operation lands: its bytes, its flags, and at the last beat of `XZVC` the length (R210, R215, R216); into
a claimed tile, or from a word in error, it faults and the rest is cancelled. -/
def landChunk (s : State) (k : Fin 1024) (x : XOp) : State :=
  let c := coreOf k
  let ws := nextWrites s c x
  let put (f : List XOp → List XOp) (s : State) : State := modCtx s k fun y => { y with xops := f y.xops }
  match beatFault s c x with
  | some f =>
    let s := put (fun l => l.filter fun y => y.seq ≠ x.seq) s
    let fl := Flight.mk (x.t + x.nland + xLatency x.kind) x.seq false .nothing 0 0 true 0 (some f) x.handler
    modCtx s k fun y => { y with flight := y.flight ++ [fl] }
  | none =>
    let s := ws.foldl (fun s q => takePorts s c q.1 q.2.length) (putChunk s c ws)
    let s := modArch s k (raiseFlags (nextOut x).2)
    let x' := landedOne x
    if x'.nland < x'.beats then put (fun l => l.map fun y => if y.seq = x.seq then x' else y) s
    else
      let s := put (fun l => l.filter fun y => y.seq ≠ x.seq) s
      if x.kind = .zvc then modArch s k fun a => wS a x.lreg (BitVec.ofNat 64 (4 + x'.dstUsed)) else s

/-- The schedule cycle at which an operation's next chunk lands, if it has been read (R210). -/
def landsAt (x : XOp) : Option Nat := if x.nland < x.nread then some (x.t + x.nland + xLatency x.kind) else none

/-- The schedule cycle of its next read. -/
def readsAt (x : XOp) : Option Nat := if x.nread < x.beats then some (x.t + x.nread) else none

/-- Whether an operation's next chunk lands by schedule cycle `t`, and whether its next read is due by then. -/
def landDue (t : Nat) (x : XOp) : Bool := (landsAt x).any fun u => decide (u ≤ t)
def readDue (t : Nat) (x : XOp) : Bool := (readsAt x).any fun u => decide (u ≤ t)

/-- The chunk writes of a context due by schedule cycle `t`, in issue order (R210). -/
def beatLands (k : Fin 1024) (t : Nat) (s : State) : State :=
  (ctxAt s k).xops.foldl (fun s x => if landDue t x then landChunk s k x else s) s

/-- The chunk reads due by schedule cycle `t`. -/
def beatReads (k : Fin 1024) (t : Nat) (s : State) : State :=
  modCtx s k fun y => { y with xops := y.xops.map fun x => if readDue t x then readChunk s (coreOf k) x else x }

/-- The schedule cycle that a context's beats and bank writes have reached: its clock, which for a halted context runs on with
the machine's cycles from the cycle of its `HALT` (R135). -/
def beatClock (s : State) (k : Fin 1024) : Nat :=
  let c := ctxAt s k
  if c.run = .halted then c.arch.sched.toNat - 1 + (s.cycle - c.haltCycle) else c.arch.sched.toNat

/-- The schedule cycles by `t` in which beats of an operation land or read, from its next on. -/
def beatCycles (t : Nat) (x : XOp) : List Nat :=
  let reads := (List.range (x.beats - x.nread)).map fun i => x.t + x.nread + i
  let lands := (List.range (x.beats - x.nland)).map fun i => x.t + x.nland + i + xLatency x.kind
  (reads ++ lands).filter fun u => decide (u ≤ t)

/-- Inserts a number into a rising list, once. -/
def insertOnce (n : Nat) : List Nat → List Nat
  | [] => [n]
  | a :: r => if n < a then n :: a :: r else if n = a then a :: r else a :: insertOnce n r

/-- A list of numbers, rising, each once. -/
def rising (l : List Nat) : List Nat := l.foldl (fun r n => insertOnce n r) []

/-- TRANSFORM_BEAT (R210): the context's beats that are due, cycle by cycle: writes first, then reads. -/
def execTransformBeat (k : Fin 1024) (s : State) : Host.Outcome State Fault Refusal :=
  let t := beatClock s k
  .next ((rising ((ctxAt s k).xops.flatMap (beatCycles t))).foldl (fun s u => beatReads k u (beatLands k u s)) s)

/-- One schedule cycle of the operations of a context that is being saved: `now`, what they read once their writes of the cycle
are in the scratchpad; the outputs are kept (R211). Each is given with its form as it would run on. -/
def carryCycle (c : Fin 256) (u : Nat) (q : State × List (XOp × XOp)) : State × List (XOp × XOp) :=
  let landed := q.2.foldl (fun (r : State × List (XOp × XOp)) x =>
    if landDue u x.2 then (putChunk r.1 c (nextWrites r.1 c x.2), r.2 ++ [(x.1, landedOne x.2)]) else (r.1, r.2 ++ [x])) (q.1, [])
  (landed.1, landed.2.map fun x =>
    if readDue u x.2 then
      let y := readChunk landed.1 c x.2
      ({ y with nland := x.1.nland, dstUsed := x.1.dstUsed, pend := x.1.pend ++ y.pend.drop x.2.pend.length }, y)
    else x)

/-- The X operations of a context whose core is saved: the reads still to come are carried out as R210 gives them, and the writes
held (R211, R40). -/
def carryOut (s : State) (c : Fin 256) (xs : List XOp) : List XOp :=
  let cycles := rising (xs.flatMap (beatCycles (2 ^ 64)))
  (cycles.foldl (fun q u => carryCycle c u q) (s, xs.map fun x => (x, x))).2.map (·.1)

end Sys2Proof.Machine
end

