-- ==== Sys2Proof/Machine/ScalarInt.lean ====
section
/-! DEFINITION. Scalar integer, immediate, bit-field, compare, select and predicate operations (R114 to R119). -/

namespace Sys2Proof.Machine

/-! ### The operations on n-bit values (R116, R117) -/

/-- Bits [2n−1 : n] of the signed product. -/
def mulHighS (n : Nat) (x y : BitVec n) : BitVec n := BitVec.ofInt n (x.toInt * y.toInt / 2 ^ n)

/-- Bits [2n−1 : n] of the unsigned product. -/
def mulHighU (n : Nat) (x y : BitVec n) : BitVec n := BitVec.ofNat n (x.toNat * y.toNat / 2 ^ n)

/-- The quotient rounded toward zero; all ones when y = 0 (R117). -/
def divSigned (n : Nat) (x y : BitVec n) : BitVec n :=
  if y = 0 then BitVec.allOnes n else BitVec.ofInt n (x.toInt.tdiv y.toInt)

def divUnsigned (n : Nat) (x y : BitVec n) : BitVec n :=
  if y = 0 then BitVec.allOnes n else BitVec.ofNat n (x.toNat / y.toNat)

/-- x − y × quotient; x when y = 0 (R117). -/
def remSigned (n : Nat) (x y : BitVec n) : BitVec n :=
  if y = 0 then x else BitVec.ofInt n (x.toInt.tmod y.toInt)

def remUnsigned (n : Nat) (x y : BitVec n) : BitVec n :=
  if y = 0 then x else BitVec.ofNat n (x.toNat % y.toNat)

/-- Leading zeros; n when x = 0. -/
def leadZeros (n : Nat) (x : BitVec n) : BitVec n :=
  BitVec.ofNat n (if x = 0 then n else n - 1 - Nat.log2 x.toNat)

/-- Trailing zeros; n when x = 0. -/
def trailZeros (n : Nat) (x : BitVec n) : BitVec n :=
  BitVec.ofNat n (((List.range n).find? fun i => x.getLsbD i).getD n)

/-- The number of 1 bits. -/
def popCount (n : Nat) (x : BitVec n) : BitVec n :=
  BitVec.ofNat n ((List.range n).filter fun i => x.getLsbD i).length

/-! ### RR operations (R116): `d`, `a`, `b`, predicate `p`, inverted `n`, 32-bit form `w` -/

/-- A two-source integer operation of latency `lat`. -/
def rrOp (lat : Nat) (f : (n : Nat) → BitVec n → BitVec n → BitVec n) (d a b : Fin 64) (p : Fin 16) (n w : Bool)
    (s : State) : Host.Outcome State Fault Refusal :=
  sFormP d p n lat (fun r => wide2 w f (rS r a) (rS r b)) s

def execAdd (d a b : Fin 64) (p : Fin 16) (n w : Bool) (s : State) : Host.Outcome State Fault Refusal :=
  rrOp 1 (fun _ x y => x + y) d a b p n w s

def execSub (d a b : Fin 64) (p : Fin 16) (n w : Bool) (s : State) : Host.Outcome State Fault Refusal :=
  rrOp 1 (fun _ x y => x - y) d a b p n w s

def execMul (d a b : Fin 64) (p : Fin 16) (n w : Bool) (s : State) : Host.Outcome State Fault Refusal :=
  rrOp 3 (fun _ x y => x * y) d a b p n w s

def execMulhS (d a b : Fin 64) (p : Fin 16) (n w : Bool) (s : State) : Host.Outcome State Fault Refusal :=
  rrOp 3 mulHighS d a b p n w s

def execMulhU (d a b : Fin 64) (p : Fin 16) (n w : Bool) (s : State) : Host.Outcome State Fault Refusal :=
  rrOp 3 mulHighU d a b p n w s

def execDivS (d a b : Fin 64) (p : Fin 16) (n w : Bool) (s : State) : Host.Outcome State Fault Refusal :=
  rrOp 12 divSigned d a b p n w s

def execDivU (d a b : Fin 64) (p : Fin 16) (n w : Bool) (s : State) : Host.Outcome State Fault Refusal :=
  rrOp 12 divUnsigned d a b p n w s

def execRemS (d a b : Fin 64) (p : Fin 16) (n w : Bool) (s : State) : Host.Outcome State Fault Refusal :=
  rrOp 12 remSigned d a b p n w s

def execRemU (d a b : Fin 64) (p : Fin 16) (n w : Bool) (s : State) : Host.Outcome State Fault Refusal :=
  rrOp 12 remUnsigned d a b p n w s

def execAnd (d a b : Fin 64) (p : Fin 16) (n w : Bool) (s : State) : Host.Outcome State Fault Refusal :=
  rrOp 1 (fun _ x y => x &&& y) d a b p n w s

def execOr (d a b : Fin 64) (p : Fin 16) (n w : Bool) (s : State) : Host.Outcome State Fault Refusal :=
  rrOp 1 (fun _ x y => x ||| y) d a b p n w s

def execXor (d a b : Fin 64) (p : Fin 16) (n w : Bool) (s : State) : Host.Outcome State Fault Refusal :=
  rrOp 1 (fun _ x y => x ^^^ y) d a b p n w s

def execAndn (d a b : Fin 64) (p : Fin 16) (n w : Bool) (s : State) : Host.Outcome State Fault Refusal :=
  rrOp 1 (fun _ x y => x &&& ~~~y) d a b p n w s

def execShl (d a b : Fin 64) (p : Fin 16) (n w : Bool) (s : State) : Host.Outcome State Fault Refusal :=
  rrOp 1 (fun n x y => x <<< (y.toNat % n)) d a b p n w s

def execShr (d a b : Fin 64) (p : Fin 16) (n w : Bool) (s : State) : Host.Outcome State Fault Refusal :=
  rrOp 1 (fun n x y => x >>> (y.toNat % n)) d a b p n w s

def execSra (d a b : Fin 64) (p : Fin 16) (n w : Bool) (s : State) : Host.Outcome State Fault Refusal :=
  rrOp 1 (fun n x y => x.sshiftRight (y.toNat % n)) d a b p n w s

def execRotl (d a b : Fin 64) (p : Fin 16) (n w : Bool) (s : State) : Host.Outcome State Fault Refusal :=
  rrOp 1 (fun n x y => x.rotateLeft (y.toNat % n)) d a b p n w s

def execClz (d a : Fin 64) (p : Fin 16) (n w : Bool) (s : State) : Host.Outcome State Fault Refusal :=
  rrOp 1 (fun n x _ => leadZeros n x) d a 0 p n w s

def execCtz (d a : Fin 64) (p : Fin 16) (n w : Bool) (s : State) : Host.Outcome State Fault Refusal :=
  rrOp 1 (fun n x _ => trailZeros n x) d a 0 p n w s

def execPopc (d a : Fin 64) (p : Fin 16) (n w : Bool) (s : State) : Host.Outcome State Fault Refusal :=
  rrOp 1 (fun n x _ => popCount n x) d a 0 p n w s

def execMinS (d a b : Fin 64) (p : Fin 16) (n w : Bool) (s : State) : Host.Outcome State Fault Refusal :=
  rrOp 1 (fun _ x y => if x.sle y then x else y) d a b p n w s

def execMinU (d a b : Fin 64) (p : Fin 16) (n w : Bool) (s : State) : Host.Outcome State Fault Refusal :=
  rrOp 1 (fun _ x y => if x.ule y then x else y) d a b p n w s

def execMaxS (d a b : Fin 64) (p : Fin 16) (n w : Bool) (s : State) : Host.Outcome State Fault Refusal :=
  rrOp 1 (fun _ x y => if x.sle y then y else x) d a b p n w s

def execMaxU (d a b : Fin 64) (p : Fin 16) (n w : Bool) (s : State) : Host.Outcome State Fault Refusal :=
  rrOp 1 (fun _ x y => if x.ule y then y else x) d a b p n w s

/-! ### Immediate and bit-field operations (R118) -/

/-- s[a][bit:0], sign-extended. -/
def signFrom (x : Word) (bit : Nat) : Word := (x <<< (63 - bit)).sshiftRight (63 - bit)

/-- s[a][bit:0], zero-extended. -/
def zeroFrom (x : Word) (bit : Nat) : Word := (x <<< (63 - bit)) >>> (63 - bit)

/-- The mask of `m` + 1 bits from bit `l` on. -/
def bitField (l m : Nat) : Word := (BitVec.allOnes 64 >>> (63 - m)) <<< l

def execSext (d a i : Fin 64) (s : State) : Host.Outcome State Fault Refusal :=
  sForm d 1 (fun r => signFrom (rS r a) i.val) s

def execZext (d a i : Fin 64) (s : State) : Host.Outcome State Fault Refusal :=
  sForm d 1 (fun r => zeroFrom (rS r a) i.val) s

def execBfxS (d a l m : Fin 64) (s : State) : Host.Outcome State Fault Refusal :=
  sForm d 1 (fun r => signFrom (rS r a >>> l.val) m.val) s

def execBfxU (d a l m : Fin 64) (s : State) : Host.Outcome State Fault Refusal :=
  sForm d 1 (fun r => zeroFrom (rS r a >>> l.val) m.val) s

def execBfi (d a l m : Fin 64) (s : State) : Host.Outcome State Fault Refusal :=
  sForm d 1 (fun r =>
    (rS r d &&& ~~~(bitField l.val m.val)) ||| ((rS r a <<< l.val) &&& bitField l.val m.val)) s

def execAddi (d a : Fin 64) (i : BitVec 32) (s : State) : Host.Outcome State Fault Refusal :=
  sForm d 1 (fun r => rS r a + imm64 i) s

def execAndi (d a : Fin 64) (i : BitVec 32) (s : State) : Host.Outcome State Fault Refusal :=
  sForm d 1 (fun r => rS r a &&& imm64 i) s

def execOri (d a : Fin 64) (i : BitVec 32) (s : State) : Host.Outcome State Fault Refusal :=
  sForm d 1 (fun r => rS r a ||| imm64 i) s

def execXori (d a : Fin 64) (i : BitVec 32) (s : State) : Host.Outcome State Fault Refusal :=
  sForm d 1 (fun r => rS r a ^^^ imm64 i) s

def execShli (d a i : Fin 64) (s : State) : Host.Outcome State Fault Refusal :=
  sForm d 1 (fun r => rS r a <<< i.val) s

def execShri (d a i : Fin 64) (s : State) : Host.Outcome State Fault Refusal :=
  sForm d 1 (fun r => rS r a >>> i.val) s

def execSrai (d a i : Fin 64) (s : State) : Host.Outcome State Fault Refusal :=
  sForm d 1 (fun r => (rS r a).sshiftRight i.val) s

def execLui (d a : Fin 64) (i : BitVec 32) (s : State) : Host.Outcome State Fault Refusal :=
  sForm d 1 (fun r => (imm64 i <<< 32) ||| (rS r a &&& 0xFFFFFFFF)) s

def execMovi (d : Fin 64) (i : BitVec 32) (s : State) : Host.Outcome State Fault Refusal :=
  sForm d 1 (fun _ => imm64 i) s

/-! ### Compares, select, predicate logic (R119) -/

/-- `CMP.cc`. -/
def cmpOp (f : (n : Nat) → BitVec n → BitVec n → Bool) (d : Fin 16) (a b : Fin 64) (p : Fin 16) (n w : Bool) (s : State) :
    Host.Outcome State Fault Refusal :=
  pFormP d p n 1 (fun r => cond2 w f (rS r a) (rS r b)) s

def execCmpEq (d : Fin 16) (a b : Fin 64) (p : Fin 16) (n w : Bool) (s : State) : Host.Outcome State Fault Refusal :=
  cmpOp (fun _ x y => x == y) d a b p n w s

def execCmpNe (d : Fin 16) (a b : Fin 64) (p : Fin 16) (n w : Bool) (s : State) : Host.Outcome State Fault Refusal :=
  cmpOp (fun _ x y => x != y) d a b p n w s

def execCmpLt (d : Fin 16) (a b : Fin 64) (p : Fin 16) (n w : Bool) (s : State) : Host.Outcome State Fault Refusal :=
  cmpOp (fun _ x y => x.slt y) d a b p n w s

def execCmpGe (d : Fin 16) (a b : Fin 64) (p : Fin 16) (n w : Bool) (s : State) : Host.Outcome State Fault Refusal :=
  cmpOp (fun _ x y => y.sle x) d a b p n w s

def execCmpLtu (d : Fin 16) (a b : Fin 64) (p : Fin 16) (n w : Bool) (s : State) : Host.Outcome State Fault Refusal :=
  cmpOp (fun _ x y => x.ult y) d a b p n w s

def execCmpGeu (d : Fin 16) (a b : Fin 64) (p : Fin 16) (n w : Bool) (s : State) : Host.Outcome State Fault Refusal :=
  cmpOp (fun _ x y => y.ule x) d a b p n w s

def execCmpTst (d : Fin 16) (a b : Fin 64) (p : Fin 16) (n w : Bool) (s : State) : Host.Outcome State Fault Refusal :=
  cmpOp (fun _ x y => x &&& y != 0) d a b p n w s

def execCmpTstn (d : Fin 16) (a b : Fin 64) (p : Fin 16) (n w : Bool) (s : State) : Host.Outcome State Fault Refusal :=
  cmpOp (fun _ x y => x &&& y == 0) d a b p n w s

def execSel (d a b : Fin 64) (c : Fin 16) (s : State) : Host.Outcome State Fault Refusal :=
  sForm d 1 (fun r => if rP r c then rS r a else rS r b) s

def execPand (d a b p : Fin 16) (n : Bool) (s : State) : Host.Outcome State Fault Refusal :=
  pFormP d p n 1 (fun r => rP r a && rP r b) s

def execPor (d a b p : Fin 16) (n : Bool) (s : State) : Host.Outcome State Fault Refusal :=
  pFormP d p n 1 (fun r => rP r a || rP r b) s

def execPxor (d a b p : Fin 16) (n : Bool) (s : State) : Host.Outcome State Fault Refusal :=
  pFormP d p n 1 (fun r => rP r a != rP r b) s

def execPnot (d a p : Fin 16) (n : Bool) (s : State) : Host.Outcome State Fault Refusal :=
  pFormP d p n 1 (fun r => !rP r a) s

end Sys2Proof.Machine
end

