-- ==== Sys2Proof/Machine/VectorArith.lean ====
section
/-! DEFINITION. Vector arithmetic, logic, functions, compares, masks, conversions, dithered codes, permutes, reductions and
the softmax triple (R141 to R156). -/

namespace Sys2Proof.Machine

/-! ### Lane-wise forms (R141, R142) -/

/-- Lanes computed by `f` with their flags, over the active lanes only. -/
def mapLanes (lanes : Word) (f : Nat → BitVec 32 × BitVec 6) : VReg × BitVec 6 :=
  (ofLanes fun i => if lanes.getLsbD i then (f i).1 else 0,
   allFlags ((List.range 64).map fun i => if lanes.getLsbD i then (f i).2 else 0))

/-- A lane-wise operation on x = v[a], y = v[b], z = v[d]. -/
def laneOp (lat : Nat) (f : Arch → BitVec 32 → BitVec 32 → BitVec 32 → BitVec 32 × BitVec 6) (d a b : Fin 64) (p : Fin 16)
    (n : Bool) (s : State) : Host.Outcome State Fault Refusal :=
  vForm d lat (fun r => mapLanes (laneMask r p n) fun i =>
    f r (elem (rV r a) 32 i) (elem (rV r b) 32 i) (elem (rV r d) 32 i)) (fun r => laneMask r p n) s

/-- An FP32 result in a lane. -/
def lane32 (r : Res) : BitVec 32 × BitVec 6 := (BitVec.ofNat 32 r.bits, r.flags)

/-- FP32 lanes or INT32 lanes by `W` (R57). -/
def lanesBy (w : Bool) (f : RMode → Num → Num → Res) (g : BitVec 32 → BitVec 32 → BitVec 32) (r : Arch)
    (x y : BitVec 32) : BitVec 32 × BitVec 6 :=
  if w then (g x y, 0) else lane32 (f (rmodeOf r.fmt) (num32 x) (num32 y))

/-- `VABS` and `VNEG` of an FP32 lane: a NaN becomes canonical (R143). -/
def signLane (f : BitVec 32 → BitVec 32) (x : BitVec 32) : BitVec 32 := if (num32 x).isNan then 0x7FC00000 else f x

def execVadd (d a b : Fin 64) (p : Fin 16) (n w : Bool) (s : State) : Host.Outcome State Fault Refusal :=
  laneOp 4 (fun r x y _ => lanesBy w fpAdd (· + ·) r x y) d a b p n s

def execVsub (d a b : Fin 64) (p : Fin 16) (n w : Bool) (s : State) : Host.Outcome State Fault Refusal :=
  laneOp 4 (fun r x y _ => lanesBy w (fun m u v => fpAdd m u v.flip) (· - ·) r x y) d a b p n s

def execVmul (d a b : Fin 64) (p : Fin 16) (n w : Bool) (s : State) : Host.Outcome State Fault Refusal :=
  laneOp 4 (fun r x y _ => lanesBy w fpMul (· * ·) r x y) d a b p n s

def execVfma (d a b : Fin 64) (p : Fin 16) (n : Bool) (s : State) : Host.Outcome State Fault Refusal :=
  laneOp 4 (fun r x y z => lane32 (fpFma (rmodeOf r.fmt) (num32 x) (num32 y) (num32 z))) d a b p n s

def execVfms (d a b : Fin 64) (p : Fin 16) (n : Bool) (s : State) : Host.Outcome State Fault Refusal :=
  laneOp 4 (fun r x y z => lane32 (fpFma (rmodeOf r.fmt) (num32 x).flip (num32 y) (num32 z))) d a b p n s

def execVmin (d a b : Fin 64) (p : Fin 16) (n w : Bool) (s : State) : Host.Outcome State Fault Refusal :=
  laneOp 2 (fun _ x y _ => (if w then (if x.sle y then x else y) else fpMinMax false x y, 0)) d a b p n s

def execVmax (d a b : Fin 64) (p : Fin 16) (n w : Bool) (s : State) : Host.Outcome State Fault Refusal :=
  laneOp 2 (fun _ x y _ => (if w then (if x.sle y then y else x) else fpMinMax true x y, 0)) d a b p n s

def execVabs (d a : Fin 64) (p : Fin 16) (n w : Bool) (s : State) : Host.Outcome State Fault Refusal :=
  laneOp 2 (fun _ x _ _ =>
    (if w then (if x.getLsbD 31 then -x else x) else signLane (fun x => x &&& 0x7FFFFFFF) x, 0)) d a a p n s

def execVneg (d a : Fin 64) (p : Fin 16) (n w : Bool) (s : State) : Host.Outcome State Fault Refusal :=
  laneOp 2 (fun _ x _ _ => (if w then -x else signLane (fun x => x ^^^ 0x80000000) x, 0)) d a a p n s

/-- `VSEL` (R144): the mask is the selector and every lane is written. -/
def execVsel (d a b : Fin 64) (p : Fin 16) (n : Bool) (s : State) : Host.Outcome State Fault Refusal :=
  vForm d 2 (fun r => (mergeLanes (rV r b) (rV r a) (laneMask r p n), 0)) (fun _ => BitVec.allOnes 64) s

def execVand (d a b : Fin 64) (p : Fin 16) (n : Bool) (s : State) : Host.Outcome State Fault Refusal :=
  laneOp 2 (fun _ x y _ => (x &&& y, 0)) d a b p n s

def execVor (d a b : Fin 64) (p : Fin 16) (n : Bool) (s : State) : Host.Outcome State Fault Refusal :=
  laneOp 2 (fun _ x y _ => (x ||| y, 0)) d a b p n s

def execVxor (d a b : Fin 64) (p : Fin 16) (n : Bool) (s : State) : Host.Outcome State Fault Refusal :=
  laneOp 2 (fun _ x y _ => (x ^^^ y, 0)) d a b p n s

def execVshl (d a b : Fin 64) (p : Fin 16) (n : Bool) (s : State) : Host.Outcome State Fault Refusal :=
  laneOp 2 (fun _ x y _ => (x <<< (y.toNat % 32), 0)) d a b p n s

def execVshr (d a b : Fin 64) (p : Fin 16) (n : Bool) (s : State) : Host.Outcome State Fault Refusal :=
  laneOp 2 (fun _ x y _ => (x >>> (y.toNat % 32), 0)) d a b p n s

def execVsra (d a b : Fin 64) (p : Fin 16) (n : Bool) (s : State) : Host.Outcome State Fault Refusal :=
  laneOp 2 (fun _ x y _ => (x.sshiftRight (y.toNat % 32), 0)) d a b p n s

/-! ### Functions (R145) -/

/-- A function of one FP32 lane. -/
def laneFn (f : RMode → Num → Res) (d a : Fin 64) (p : Fin 16) (n : Bool) (s : State) : Host.Outcome State Fault Refusal :=
  laneOp 8 (fun r x _ _ => lane32 (f (rmodeOf r.fmt) (num32 x))) d a a p n s

def execVexp2 (d a : Fin 64) (p : Fin 16) (n : Bool) (s : State) : Host.Outcome State Fault Refusal :=
  laneFn fpExp2 d a p n s

def execVlog2 (d a : Fin 64) (p : Fin 16) (n : Bool) (s : State) : Host.Outcome State Fault Refusal :=
  laneFn fpLog2 d a p n s

def execVrcp (d a : Fin 64) (p : Fin 16) (n : Bool) (s : State) : Host.Outcome State Fault Refusal :=
  laneFn fpRcp d a p n s

def execVrsq (d a : Fin 64) (p : Fin 16) (n : Bool) (s : State) : Host.Outcome State Fault Refusal :=
  laneFn fpRsq d a p n s

/-! ### Compares (R146) -/

/-- A lane-wise condition, with its flags, into the active bits of an `m` register. -/
def vcmpOp (f : BitVec 32 → BitVec 32 → Bool × BitVec 6) (d : Fin 16) (a b : Fin 64) (p : Fin 16) (n : Bool) (s : State) :
    Host.Outcome State Fault Refusal :=
  mForm d 2 (fun r =>
    let g := laneMask r p n
    let q := fun i => f (elem (rV r a) 32 i) (elem (rV r b) 32 i)
    (BitVec.ofNat 64 (packNat 1 (fun i => bit (q i).1) 64),
     allFlags ((List.range 64).map fun i => if g.getLsbD i then (q i).2 else 0)))
    (fun r => laneMask r p n) s

/-- An FP32 condition; `nv`: a NaN operand sets `NV`. -/
def fpCond (f : Num → Num → Bool) (nv : Bool) (x y : BitVec 32) : Bool × BitVec 6 :=
  (f (num32 x) (num32 y), flagIf (nv && ((num32 x).isNan || (num32 y).isNan)) fNV)

/-- FP32 or INT32 lanes by `W`. -/
def condBy (w : Bool) (f : Num → Num → Bool) (nv : Bool) (g : BitVec 32 → BitVec 32 → Bool) (x y : BitVec 32) :
    Bool × BitVec 6 :=
  if w then (g x y, 0) else fpCond f nv x y

def execVcmpEq (d : Fin 16) (a b : Fin 64) (p : Fin 16) (n w : Bool) (s : State) : Host.Outcome State Fault Refusal :=
  vcmpOp (condBy w numEq false (· == ·)) d a b p n s

def execVcmpNe (d : Fin 16) (a b : Fin 64) (p : Fin 16) (n w : Bool) (s : State) : Host.Outcome State Fault Refusal :=
  vcmpOp (condBy w (fun x y => !numEq x y) false (· != ·)) d a b p n s

def execVcmpLt (d : Fin 16) (a b : Fin 64) (p : Fin 16) (n w : Bool) (s : State) : Host.Outcome State Fault Refusal :=
  vcmpOp (condBy w numLt true (fun x y => x.slt y)) d a b p n s

def execVcmpLe (d : Fin 16) (a b : Fin 64) (p : Fin 16) (n w : Bool) (s : State) : Host.Outcome State Fault Refusal :=
  vcmpOp (condBy w (fun x y => numLt x y || numEq x y) true (fun x y => x.sle y)) d a b p n s

def execVcmpGt (d : Fin 16) (a b : Fin 64) (p : Fin 16) (n w : Bool) (s : State) : Host.Outcome State Fault Refusal :=
  vcmpOp (condBy w (fun x y => numLt y x) true (fun x y => y.slt x)) d a b p n s

def execVcmpGe (d : Fin 16) (a b : Fin 64) (p : Fin 16) (n w : Bool) (s : State) : Host.Outcome State Fault Refusal :=
  vcmpOp (condBy w (fun x y => numLt y x || numEq x y) true (fun x y => y.sle x)) d a b p n s

def execVcmpUn (d : Fin 16) (a b : Fin 64) (p : Fin 16) (n : Bool) (s : State) : Host.Outcome State Fault Refusal :=
  vcmpOp (fpCond (fun x y => x.isNan || y.isNan) false) d a b p n s

def execVcmpLtu (d : Fin 16) (a b : Fin 64) (p : Fin 16) (n : Bool) (s : State) : Host.Outcome State Fault Refusal :=
  vcmpOp (fun x y => (x.ult y, 0)) d a b p n s

def execVcmpOrd (d : Fin 16) (a b : Fin 64) (p : Fin 16) (n : Bool) (s : State) : Host.Outcome State Fault Refusal :=
  vcmpOp (fpCond (fun x y => !(x.isNan || y.isNan)) false) d a b p n s

def execVcmpGeu (d : Fin 16) (a b : Fin 64) (p : Fin 16) (n : Bool) (s : State) : Host.Outcome State Fault Refusal :=
  vcmpOp (fun x y => (y.ule x, 0)) d a b p n s

/-! ### Mask operations (R147): the destination is read at issue -/

/-- (f and g) or (m[d] and not g). -/
def maskOp (f : Arch → Word) (d p : Fin 16) (n : Bool) (s : State) : Host.Outcome State Fault Refusal :=
  mForm d 1 (fun r => let g := laneMask r p n; ((f r &&& g) ||| (rM r d &&& ~~~g), 0)) (fun _ => BitVec.allOnes 64) s

def execMand (d a b p : Fin 16) (n : Bool) (s : State) : Host.Outcome State Fault Refusal :=
  maskOp (fun r => rM r a &&& rM r b) d p n s

def execMor (d a b p : Fin 16) (n : Bool) (s : State) : Host.Outcome State Fault Refusal :=
  maskOp (fun r => rM r a ||| rM r b) d p n s

def execMnot (d a p : Fin 16) (n : Bool) (s : State) : Host.Outcome State Fault Refusal :=
  maskOp (fun r => ~~~(rM r a)) d p n s

def execMpopc (d : Fin 64) (a p : Fin 16) (n : Bool) (s : State) : Host.Outcome State Fault Refusal :=
  sForm d 1 (fun r => popCount 64 (rM r a &&& laneMask r p n)) s

/-! ### Conversions (R148, R149) -/

/-- The register `old` with the elements [64 k, 64 k + 64) of width `w` replaced. -/
def replacePart (old : VReg) (w k : Nat) (f : Nat → BitVec w) : VReg :=
  ofElems w (2048 / w) fun j => if 64 * k ≤ j ∧ j < 64 * k + 64 then f (j - 64 * k) else elem old w j

def execVcvt (d a : Fin 64) (k : Fin 8) (t f : Fin 16) (s : State) : Host.Outcome State Fault Refusal :=
  vForm d 4 (fun r =>
    let ws := codeWidth f.val
    let wd := codeWidth t.val
    let y := fun i => convert f.val t.val false (rmodeOf r.fmt) (fmtSat r.fmt)
      (elem (rV r a) ws (if ws = 32 then i else 64 * k.val + i)).toNat
    (if wd = 32 then ofLanes fun i => BitVec.ofNat 32 (y i).bits
     else replacePart (rV r d) wd k.val fun i => BitVec.ofNat wd (y i).bits,
     allFlags ((List.range 64).map fun i => (y i).flags))) (fun _ => BitVec.allOnes 64) s

/-! ### Dithered quantise and dequantise (R150 to R153) -/

/-- The format code of `CF` (R150). -/
def partFormat (f : Fin 4) : Nat := if f.val = 0 then 6 else if f.val = 1 then 7 else if f.val = 2 then 9 else 10

/-- The bytes of a register with those from `at` on replaced. -/
def putVBytes (x : VReg) (pos : Nat) (bs : List Byte) : VReg :=
  let l := vBytes x
  BitVec.ofNat 2048 (leVal (l.take pos ++ bs ++ l.drop (pos + bs.length)))

/-- The two blocks of a part, lanes 0–31 and 32–63 (R151, R152). -/
def quantBlocks (c k si : Nat) (scale : BitVec 32) (sat : Bool) (x : Nat → Num) (dv : Nat → Int) (old : VReg) :
    VReg × BitVec 6 :=
  let half (h : Nat) : Block :=
    quantDxb c si scale sat ((List.range 32).map fun i => x (32 * h + i)) ((List.range 32).map fun i => dv (32 * h + i))
  let z := blockSize c
  (putVBytes (putVBytes old (2 * k * z) (blockBytes c (half 0))) ((2 * k + 1) * z) (blockBytes c (half 1)),
   (half 0).flags ||| (half 1).flags)

/-- The result of `VQNT` (R152). -/
def quantValue (r : Arch) (d a : Fin 64) (c k : Nat) (si : Fin 16) (fr : Frame) (row : Int) : VReg × BitVec 6 :=
  let x := fun i => num32 (elem (rV r a) 32 i)
  let dv := fun i : Nat => if fmtDith r.fmt then offsetAt fr row ((64 * k + i : Nat) : Int) else 0
  if c = 6 ∨ c = 7 then
    match num32 (r.scl[si]) with
    | .fin _ mu eu =>
      let q := fun i => quantInt c mu eu (x i) (dv i)
      (replacePart (rV r d) (codeWidth c) k fun i => BitVec.ofInt (codeWidth c) (q i).1,
       allFlags ((List.range 64).map fun i => (q i).2))
    | .nan => (rV r d, 0)
    | .inf _ => (rV r d, 0)
  else quantBlocks c k si.val (r.scl[si]) (fmtSat r.fmt) x dv (rV r d)

/-- `VQNT`: FRAME and SCALE are its faults (R152, R420). -/
def execVqnt (d a : Fin 64) (f : Fin 4) (k : Fin 8) (si : Fin 16) (fr : Fin 8) (v : BitVec 20) (s : State) :
    Host.Outcome State Fault Refusal :=
  runSlot (fun s => { regProbe (wrV d) 1 s with
      faults := (if fmtDith (curArch s).fmt then frameFault s fr (rD (curArch s) fr) (partFormat f) else []) ++
        scaleFault s si })
    (fun s =>
      let r := curArch s
      let q := quantValue r d a (partFormat f) k.val si (rD r fr) v.toInt
      land 4 (.vreg d q.1 (BitVec.allOnes 64)) q.2 s) s

/-- One lane of `VDQ` (R153): the exact value of its code. -/
def dequantLane (r : Arch) (a : Fin 64) (c k : Nat) (si : Fin 16) (fr : Frame) (row : Int) (i : Nat) : Num × Bool :=
  let j := 64 * k + i
  let dv := consumerOffset fr c row (j : Int)
  if c = 6 ∨ c = 7 then intElem c (elem (rV r a) (codeWidth c) j).toNat dv (num32 (r.scl[si]))
  else
    let base := (rV r a).toNat / 2 ^ (8 * (blockSize c * (j / 32)))
    dxbElem c (base % 65536) (base / 2 ^ (16 + codeWidth c * (j % 32)) % 2 ^ codeWidth c) dv (sclAt r.scl)

/-- `VDQ`: FRAME is its fault (R153, R420). -/
def execVdq (d a : Fin 64) (f : Fin 4) (k : Fin 8) (si : Fin 16) (fr : Fin 8) (v : BitVec 20) (s : State) :
    Host.Outcome State Fault Refusal :=
  runSlot (fun s => { regProbe (wrV d) 1 s with faults := frameFault s fr (rD (curArch s) fr) (partFormat f) })
    (fun s =>
      let r := curArch s
      let q := mapLanes (BitVec.allOnes 64) fun i =>
        lane32 (deliver .rne (dequantLane r a (partFormat f) k.val si (rD r fr) v.toInt i))
      land 4 (.vreg d q.1 (BitVec.allOnes 64)) q.2 s) s

/-! ### Permutes and moves (R154) -/

def execVpermb (d a b : Fin 64) (p : Fin 16) (n : Bool) (s : State) : Host.Outcome State Fault Refusal :=
  vForm d 2 (fun r => (ofElems 8 256 fun i => elem (rV r a) 8 (elem (rV r b) 8 i).toNat, 0)) (fun r => laneMask r p n) s

def execVpermw (d a b : Fin 64) (p : Fin 16) (n : Bool) (s : State) : Host.Outcome State Fault Refusal :=
  vForm d 2 (fun r => (ofLanes fun i => elem (rV r a) 32 ((elem (rV r b) 32 i).toNat % 64), 0)) (fun r => laneMask r p n) s

def execVbcast (d a : Fin 64) (p : Fin 16) (n : Bool) (s : State) : Host.Outcome State Fault Refusal :=
  vForm d 2 (fun r => (ofLanes fun _ => (rS r a).setWidth 32, 0)) (fun r => laneMask r p n) s

def execVextr (d a i : Fin 64) (s : State) : Host.Outcome State Fault Refusal :=
  sForm d 2 (fun r => (elem (rV r a) 32 i.val).setWidth 64) s

def execViota (d : Fin 64) (p : Fin 16) (n : Bool) (s : State) : Host.Outcome State Fault Refusal :=
  vForm d 2 (fun _ => (ofLanes fun i => BitVec.ofNat 32 i, 0)) (fun r => laneMask r p n) s

/-! ### Reductions (R97, R155) -/

/-- One level of the tree. -/
def treeLevel (f : BitVec 32 → BitVec 32 → BitVec 32 × BitVec 6) : List (BitVec 32) → List (BitVec 32) × BitVec 6
  | x :: y :: r => let q := f x y; let t := treeLevel f r; (q.1 :: t.1, q.2 ||| t.2)
  | l => (l, 0)

/-- `n` levels of the tree. -/
def treeReduce (f : BitVec 32 → BitVec 32 → BitVec 32 × BitVec 6) : (n : Nat) → List (BitVec 32) → BitVec 32 × BitVec 6
  | 0, l => (l.headD 0, 0)
  | n + 1, l => let t := treeLevel f l; let q := treeReduce f n t.1; (q.1, t.2 ||| q.2)

/-- A reduction: the lane operation and the identity of masked-off lanes. -/
def reduceOp (f : Arch → BitVec 32 → BitVec 32 → BitVec 32 × BitVec 6) (one : BitVec 32) (d a : Fin 64) (p : Fin 16)
    (n : Bool) (s : State) : Host.Outcome State Fault Refusal :=
  vForm d 6 (fun r =>
    let g := laneMask r p n
    let q := treeReduce (f r) 6 ((List.range 64).map fun i => if g.getLsbD i then elem (rV r a) 32 i else one)
    (ofLanes fun _ => q.1, q.2)) (fun _ => BitVec.allOnes 64) s

def execVredadd (d a : Fin 64) (p : Fin 16) (n w : Bool) (s : State) : Host.Outcome State Fault Refusal :=
  reduceOp (fun r x y => lanesBy w fpAdd (· + ·) r x y) (if w then 0 else 0x80000000) d a p n s

def execVredmax (d a : Fin 64) (p : Fin 16) (n w : Bool) (s : State) : Host.Outcome State Fault Refusal :=
  reduceOp (fun _ x y => (if w then (if x.sle y then y else x) else fpMinMax true x y, 0))
    (if w then 0x80000000 else 0xFF800000) d a p n s

def execVredmin (d a : Fin 64) (p : Fin 16) (n w : Bool) (s : State) : Host.Outcome State Fault Refusal :=
  reduceOp (fun _ x y => (if w then (if x.sle y then x else y) else fpMinMax false x y, 0))
    (if w then 0x7FFFFFFF else 0x7F800000) d a p n s

/-! ### The softmax triple (R156) -/

/-- Exp(x) of R156: 2^Round(x × log₂ e), with the flags of both roundings. -/
def expE (r : RMode) (x : BitVec 32) : Res :=
  let y := fpMul r (num32 x) (num32 0x3FB8AA3B)
  let z := fpExp2 r (num32 (BitVec.ofNat 32 y.bits))
  ⟨z.bits, y.flags ||| z.flags⟩

/-- One weight of the update: Exp(Round(c − nm)), or 1 or 0 where nm = +∞ (R156). -/
def tripWeight (r : RMode) (c nm : BitVec 32) : Res :=
  if nm = 0x7F800000 then ⟨if c = 0x7F800000 then 0x3F800000 else 0, 0⟩
  else
    let y := fpAdd r (num32 c) (num32 nm).flip
    let z := expE r (BitVec.ofNat 32 y.bits)
    ⟨z.bits, y.flags ||| z.flags⟩

/-- One lane of `VTRIP`: the new maximum, sum and accumulator, and the flags (R156). -/
def tripLane (r : RMode) (cm cl co sc u : BitVec 32) : (BitVec 32 × BitVec 32 × BitVec 32) × BitVec 6 :=
  let nan : BitVec 32 := 0x7FC00000
  if [cm, cl, co, sc, u].any (fun x => (num32 x).isNan) then ((nan, nan, nan), fNV)
  else
    let nm := fpMinMax true cm sc
    if nm = 0xFF800000 then ((cm, cl, co), 0)
    else
      let al := tripWeight r cm nm
      let be := tripWeight r sc nm
      let na := num32 (BitVec.ofNat 32 al.bits)
      let nb := num32 (BitVec.ofNat 32 be.bits)
      let l := fpFma r (num32 cl) na nb
      let t := fpMul r (num32 co) na
      let o := fpFma r (num32 u) nb (num32 (BitVec.ofNat 32 t.bits))
      ((nm, BitVec.ofNat 32 l.bits, BitVec.ofNat 32 o.bits), al.flags ||| be.flags ||| l.flags ||| t.flags ||| o.flags)

/-- `VTRIP`: three results that land together, with the flags of every lane (R156). -/
def execVtrip (d a b : Fin 64) (s : State) : Host.Outcome State Fault Refusal :=
  runSlot (regProbe (wrV d ++ wrV (d + 1) ++ wrV (d + 2)) 3)
    (fun s =>
      let r := curArch s
      let q := fun i => tripLane (rmodeOf r.fmt) (elem (rV r d) 32 i) (elem (rV r (d + 1)) 32 i)
        (elem (rV r (d + 2)) 32 i) (elem (rV r a) 32 i) (elem (rV r b) 32 i)
      let all := BitVec.allOnes 64
      let s := land 12 (.vreg d (ofLanes fun i => (q i).1.1) all) (allFlags ((List.range 64).map fun i => (q i).2)) s
      let s := land 12 (.vreg (d + 1) (ofLanes fun i => (q i).1.2.1) all) 0 s
      land 12 (.vreg (d + 2) (ofLanes fun i => (q i).1.2.2) all) 0 s) s

end Sys2Proof.Machine
end

