-- ==== Sys2Proof/Machine/Ladder.lean ====
section
/-! DEFINITION. What the ladder unit does when an operation performs: descriptors, blocks, pools, merges, appends, carries,
forks, truncations, reads and walks (R234 to R256, R414, R415), and the images of built-in verbs (R317, R318). -/

namespace Sys2Proof.Machine

/-! ### The unit's accesses -/

/-- A piece of the ladder unit's work: it changes the state and answers a value or the failure it met. -/
abbrev LM (α : Type) := State → Except EngineFail α × State

def LM.pure {α : Type} (x : α) : LM α := fun s => (.ok x, s)

def LM.bind {α β : Type} (m : LM α) (f : α → LM β) : LM β := fun s =>
  match m s with
  | (.error e, s) => (.error e, s)
  | (.ok x, s) => f x s

/-- Stops with a failure. -/
def LM.fail {α : Type} (code : BitVec 16) (a : Nat) : LM α := fun s => (.error ⟨code, BitVec.ofNat 64 a⟩, s)

/-- The state before a piece that leaves nothing done, with the messages to the host that it found it needs. -/
def undone (s t : State) : State := { s with want := t.want }

/-- Runs a piece whose failure leaves everything as it was. -/
def LM.whole {α : Type} (m : LM α) : LM α := fun s =>
  match m s with
  | (.error e, t) => (.error e, undone s t)
  | r => r

/-- Runs what an operation does once it has all it needs (R415): blocks popped by `prepare` go back when it fails before its first
write. -/
def LM.prepared {α β : Type} (prepare : LM α) (act : α → LM β) : LM β := fun s =>
  match LM.whole prepare s with
  | (.error e, t) => (.error e, t)
  | (.ok x, s1) =>
    match act x s1 with
    | (.error e, t) => (.error e, if t.mem = s1.mem then undone s t else t)
    | r => r

/-- Runs a piece for each element of a list. -/
def LM.each {α : Type} (f : α → LM Unit) : List α → LM Unit
  | [] => LM.pure ()
  | x :: r => (f x).bind fun _ => LM.each f r

/-- Runs a piece for each element and gathers the answers. -/
def LM.collect {α β : Type} (f : α → LM β) : List α → LM (List β)
  | [] => LM.pure []
  | x :: r => (f x).bind fun y => (LM.collect f r).bind fun ys => LM.pure (y :: ys)

/-- Stops with a failure when a condition holds. -/
def LM.stopIf (c : Bool) (code : BitVec 16) (a : Nat) : LM Unit := if c then LM.fail code a else LM.pure ()

/-- Reads global bytes at their home slices (R256). -/
def lread (w : Work) (rank : Option Nat) (a n : Nat) : LM (List Byte) := fun s =>
  if 2 ^ 48 < a + n then (.error ⟨0x0001, BitVec.ofNat 64 a⟩, s)
  else
    match readAt s (viaOf w) (BitVec.ofNat 64 a) n rank with
    | (.error e, s) => (.error ⟨engineCode e, BitVec.ofNat 64 a⟩, s)
    | (.ok bs, s) => (.ok bs, s)

/-- Writes global bytes at their home slices. -/
def lwrite (w : Work) (rank : Option Nat) (a : Nat) (bs : List Byte) : LM Unit := fun s =>
  if 2 ^ 48 < a + bs.length then (.error ⟨0x0001, BitVec.ofNat 64 a⟩, s)
  else
    match writeAt s w (BitVec.ofNat 64 a) bs rank with
    | (.error e, s) => (.error ⟨engineCode e, BitVec.ofNat 64 a⟩, s)
    | (.ok _, s) => (.ok (), s)

/-- Reads a little-endian number of `n` bytes. -/
def lnum (w : Work) (a n : Nat) : LM Nat := (lread w none a n).bind fun bs => .pure (leVal bs)

/-- Reads bytes of the issuing core's scratchpad through the arbitrated port (R256, R259). -/
def lspad (w : Work) (off n : Nat) : LM (List Byte) := fun s =>
  let c := coreOf w.ctx
  if !inSpad off n then (.error ⟨0x0001, BitVec.ofNat 64 off⟩, s)
  else if badAt s (spadKey c off) n then (.error ⟨0x0102, BitVec.ofNat 64 off⟩, s)
  else (.ok (arbRead s c off n), arbTurn s ⟨off, [], 0, w.ctx, 0, 0, 4⟩ c n)

/-- Writes them. -/
def lspadWrite (w : Work) (off : Nat) (bs : List Byte) : LM Unit := fun s =>
  let c := coreOf w.ctx
  if !inSpad off bs.length then (.error ⟨0x0001, BitVec.ofNat 64 off⟩, s)
  else if meets (claimedTiles (coreAt s c)) off bs.length then (.error ⟨0x0004, BitVec.ofNat 64 off⟩, s)
  else if badPart s (spadKey c off) bs.length then (.error ⟨0x0102, BitVec.ofNat 64 off⟩, s)
  else (.ok (), arbWrite s w 4 c off bs)

/-! ### Geometry (R235, R238) -/

def geomDk (g : Nat) : Nat := 2 ^ (g % 16)
def geomDv (g : Nat) : Nat := 2 ^ (g / 16 % 16)

/-- The state's element format as a code of R66, and its bytes. -/
def geomFmt (g : Nat) : Nat := if g / 256 % 2 = 1 then 2 else 0
def geomElem (g : Nat) : Nat := if g / 256 % 2 = 1 then 2 else 4

/-- Bytes of z with its padding, and of a block. -/
def geomZ (g : Nat) : Nat := (geomDk g * geomElem g + 63) / 64 * 64
def geomBlock (g : Nat) : Nat := 64 + geomZ g + geomDk g * geomDv g * geomElem g

/-! ### Descriptors (R235) -/

/-- A descriptor as a ladder operation holds it: its 64 words. -/
abbrev Desc := List Nat

def Desc.word (d : Desc) (i : Nat) : Nat := d.getD i 0
def Desc.put (d : Desc) (i x : Nat) : Desc := d.set i x
def Desc.count (d : Desc) : Nat := d.word 49 % 2 ^ 48
def Desc.slot (d : Desc) (k : Nat) : Nat := d.word k
def Desc.carryAt (d : Desc) : Nat := d.word 48 / 256 * 256
def Desc.carryLevel (d : Desc) : Nat := d.word 48 % 64
def Desc.kept (d : Desc) (k : Nat) : Bool := d.word 53 / 2 ^ k % 2 == 1

/-- A nonzero reserved bit (R235, R414 DESC). -/
def Desc.bad (d : Desc) : Bool :=
  (List.range 48).any (fun k => decide (2 ^ 48 ≤ d.word k) || d.word k % 256 != 0) ||
    decide (2 ^ 48 ≤ d.word 48) || d.word 48 / 64 % 4 != 0 || decide (2 ^ 48 ≤ d.word 49) || decide (2 ^ 9 ≤ d.word 50) ||
    d.word 53 % 2 != 0 || decide (2 ^ 48 ≤ d.word 53) || (List.range 8).any fun i => d.word (56 + i) != 0

/-- The present blocks in combining order (R234, R253): level, address, whether it is the carry block. -/
def Desc.present (d : Desc) : List (Nat × Nat × Bool) :=
  ((List.range 48).reverse).flatMap fun k =>
    (if d.slot k = 0 then [] else [(k, d.slot k, false)]) ++
      (if d.carryAt ≠ 0 ∧ d.carryLevel = k then [(k, d.carryAt, true)] else [])

/-- The same with the base of each block (R234). -/
def withBases : Nat → List (Nat × Nat × Bool) → List (Nat × Nat × Nat × Bool)
  | _, [] => []
  | b, (k, a, c) :: r => (b, k, a, c) :: withBases (b + 2 ^ k) r

/-- A list of words as bytes. -/
def wordsBytes (l : List Nat) : List Byte := l.flatMap (leBytes 8)

/-- Bytes as words. -/
def bytesWords (n : Nat) (bs : List Byte) : List Nat := (List.range n).map fun i => leVal ((bs.drop (8 * i)).take 8)

/-- Obtains a descriptor (R236) and checks it. -/
def getDesc (w : Work) (a : Nat) : LM Desc :=
  (lread w none a 512).bind fun bs =>
    let d : Desc := bytesWords 64 bs
    if d.bad then .fail 0x0208 a else .pure d

/-- Writes a descriptor back. -/
def putDesc (w : Work) (a : Nat) (d : Desc) : LM Unit := lwrite w none a (wordsBytes d)

/-! ### Blocks (R237, R239) -/

/-- A block header. -/
structure Header where
  level : Nat
  tspur : Bool
  base : Nat
  refc : Nat
  spold : Nat
  spnew : Nat
  geom : Nat
  pool : Nat
  deriving DecidableEq, Repr

def headerOf (ws : List Nat) : Header :=
  let v := fun i => ws.getD i 0
  ⟨v 0 / 256 % 64, v 0 / 2 % 2 == 1, v 0 / 2 ^ 16, v 1 % 2 ^ 32, v 2, v 3, v 4, v 5⟩

def headerWords (h : Header) : List Nat :=
  [h.base % 2 ^ 48 * 2 ^ 16 + h.level * 256 + bit h.tspur * 2, h.refc, h.spold, h.spnew, h.geom, h.pool, 0, 0]

/-- A nonzero reserved bit of a header. -/
def headerBad (ws : List Nat) : Bool :=
  let v := fun i => ws.getD i 0
  v 0 / 2 ^ 14 % 4 != 0 || v 0 / 4 % 64 != 0 || v 0 % 2 != 0 || decide (2 ^ 32 ≤ v 1) || v 6 != 0 || v 7 != 0

/-- The keep rank of a block's lines (R181). -/
def keepRank (h : Header) : Nat := 2 * min h.refc 3 + (if 8 ≤ h.level then 1 else 0)

/-- Reads the line of a header; it takes the keep rank that the header gives (R181, R256). -/
def readHeader (w : Work) (a : Nat) : LM (List Nat) := fun s =>
  match lread w none a 64 s with
  | (.error e, t) => (.error e, t)
  | (.ok bs, _) => (LM.bind (lread w (some (keepRank (headerOf (bytesWords 8 bs)))) a 64) fun bs => .pure (bytesWords 8 bs)) s

/-- Reads and checks a header. -/
def getHeader (w : Work) (a : Nat) : LM Header :=
  (readHeader w a).bind fun ws =>
    if headerBad ws || (headerOf ws).refc == 0 then .fail 0x0208 a else .pure (headerOf ws)

def putHeader (w : Work) (a : Nat) (h : Header) : LM Unit := lwrite w (some (keepRank h)) a (wordsBytes (headerWords h))

/-- Checks the headers of the present blocks of a descriptor: their levels are their slots' (R414 DESC). -/
def checkBlocks (w : Work) (d : Desc) : LM (List Header) :=
  LM.collect (fun q : Nat × Nat × Bool =>
    (getHeader w q.2.1).bind fun h => if h.level = q.1 then .pure h else .fail 0x0208 q.2.1) d.present

/-- Raises a block's reference count (R239, R414 REFCMAX). -/
def raiseRef (w : Work) (a : Nat) : LM Unit :=
  (getHeader w a).bind fun h =>
    if h.refc + 1 = 2 ^ 32 then .fail 0x0204 a else putHeader w a { h with refc := h.refc + 1 }

/-! ### Pools (R240, R241) -/

/-- Reads a pool and checks it: BASE, FSTK, NBLK, BSZ, FTOP (R414 DESC); `need` is the block size. DESIGN CHOICE (see the log): no
condition names a pool address that is not 64-byte aligned, and it is used as it stands. -/
def getPool (w : Work) (p need : Nat) : LM (Nat × Nat × Nat × Nat × Nat) :=
  (lread w none p 64).bind fun bs =>
    let v := fun i => (bytesWords 8 bs).getD i 0
    let nblk := v 1 / 2 ^ 32
    let bsz := v 1 % 2 ^ 32
    if bsz < need ∨ nblk < v 3 ∨ v 0 % 256 ≠ 0 ∨ v 2 % 4 ≠ 0 ∨ v 4 ≠ 0 ∨ v 5 ≠ 0 ∨ v 6 ≠ 0 ∨ v 7 ≠ 0 then .fail 0x0208 p
    else .pure (v 0, v 2, nblk, bsz, v 3)

/-- Sets `FTOP`. -/
def putTop (w : Work) (p n : Nat) : LM Unit := lwrite w none (p + 24) (leBytes 8 n)

/-- Pops `n` blocks in one access (R415): their addresses, the top of the stack first. -/
def popBlocks (w : Work) (p need n : Nat) : LM (List Nat) :=
  if n = 0 then .pure []
  else
    (getPool w p need).bind fun (base, fstk, nblk, bsz, ftop) =>
      if ftop < n then .fail 0x0203 p
      else
        (LM.collect (fun i =>
          (lnum w (fstk + 4 * (ftop - 1 - i)) 4).bind fun x =>
            if nblk ≤ x then .fail 0x0208 p else .pure (base + x * bsz)) (List.range n)).bind fun l =>
          (putTop w p (ftop - n)).bind fun _ => .pure l

/-- Pushes a block onto its pool's free stack. -/
def pushBlock (w : Work) (p need a : Nat) : LM Unit :=
  (getPool w p need).bind fun (base, fstk, nblk, bsz, ftop) =>
    if nblk ≤ ftop then .fail 0x0208 p
    else
      (lwrite w none (fstk + 4 * ftop) (leBytes 4 ((a - base) / bsz))).bind fun _ => putTop w p (ftop + 1)

/-- Releases a block (R239): at zero its spurs are released, `SPOLD` first, and it returns to its pool, whose blocks must be of the
size of its own geometry. `fuel` bounds the depth, which levels bound by 48. -/
def releaseBlock (w : Work) : (fuel a : Nat) → LM Unit
  | 0, _ => .pure ()
  | fuel + 1, a =>
    if a = 0 then .pure ()
    else
      (getHeader w a).bind fun h =>
        (putHeader w a { h with refc := h.refc - 1 }).bind fun _ =>
          if h.refc ≠ 1 then .pure ()
          else
            (releaseBlock w fuel h.spold).bind fun _ =>
              (releaseBlock w fuel h.spnew).bind fun _ => pushBlock w h.pool (geomBlock h.geom) a

/-- Levels, and one more for the block itself. -/
def depth : Nat := 50

/-! ### Values (R242 to R244) -/

/-- Element `i` of a byte list in a state format. -/
def stateNum (g : Nat) (bs : List Byte) (i : Nat) : Num :=
  decodeFp (fpOf (geomFmt g)) (leVal ((bs.drop (i * geomElem g)).take (geomElem g)))

/-- Rounds to the state format, nearest even (R243). -/
def stateBits (g : Nat) (x : Num) : List Byte :=
  leBytes (geomElem g) (roundNum (fpOf (geomFmt g)) .rne false x).bits

/-- P × a + b, exact (R244). -/
def decayNum (p a b : Num) : Num := (addNum .rne (mulNum p a).1 b).1

/-- The contents of a block past its header. -/
def getState (w : Work) (g a : Nat) : LM (List Byte) :=
  (getHeader w a).bind fun h => lread w (some (keepRank h)) (a + 64) (geomBlock g - 64)

/-- The contents of a merge (R244): z and S. DESIGN CHOICE (see the log): the padding of z, whose bytes the spec does not give, is
written as 0. -/
def mergeState (g : Nat) (pow a b : List Byte) : List Byte :=
  let dk := geomDk g
  let dv := geomDv g
  let e := geomElem g
  let p := fun i => num32 (BitVec.ofNat 32 (leVal ((pow.drop (4 * i)).take 4)))
  let one := fun (i pos : Nat) => stateBits g (decayNum (p i) (stateNum g (a.drop pos) 0) (stateNum g (b.drop pos) 0))
  let z := (List.range dk).flatMap fun i => one i (i * e)
  z ++ List.replicate (geomZ g - z.length) 0 ++
    (List.range dk).flatMap fun i => (List.range dv).flatMap fun j => one i (geomZ g + (i * dv + j) * e)

/-- The contents of a token's level-0 summary (R243). -/
def tokenState (g : Nat) (k v : List Num) : List Byte :=
  let z := k.flatMap (stateBits g)
  z ++ List.replicate (geomZ g - z.length) 0 ++
    k.flatMap fun x => v.flatMap fun y => stateBits g (mulNum x y).1

/-! ### Appends and carries (R244 to R249, R415) -/

/-- A span on its way up: a block in memory, or a token that has no block yet (R245). -/
inductive Span where
  | block (a : Nat)
  | token (bs : List Byte)
  deriving DecidableEq, Repr

/-- What one ladder operation works under: geometry, descriptor address, merges under InTask (R249), and the count at which it found a
carry pending when it issued. -/
structure Under where
  g : Nat
  desc : Nat
  task : Bool
  pend : Option Nat
  deriving DecidableEq, Repr

/-- Whether an append completes the carry of a descriptor under InTask: all but one that was pending when the append issued (R249). The
count tells them apart, for an append that leaves a carry completes any older one and raises the count. -/
def Under.carryTask (u : Under) (d : Desc) : Bool := u.task && u.pend != some d.count

/-- A ladder in the hands of an operation: its descriptor and the blocks popped for it. -/
structure Hand where
  d : Desc
  free : List Nat
  merged : Bool
  deriving DecidableEq, Repr

/-- Writes a span into a block of its own: `REFC` 1 and no spur (R241). -/
def newBlock (w : Work) (u : Under) (h : Hand) (level base : Nat) (bs : List Byte) (spold spnew : Nat) (tspur : Bool) :
    LM (Nat × Hand) :=
  match h.free with
  | [] => .fail 0x0203 u.desc
  | a :: r =>
    let hd : Header := ⟨level, tspur, base, 1, spold, spnew, u.g, h.d.word 54⟩
    (lwrite w (some (keepRank hd)) (a + 64) bs).bind fun _ => (putHeader w a hd).bind fun _ => .pure (a, { h with free := r })

/-- The span's block; a token gets one (R245). -/
def settleSpan (w : Work) (u : Under) (h : Hand) (base : Nat) : Span → LM (Nat × Hand)
  | .block a => .pure (a, h)
  | .token bs => newBlock w u h 0 base bs 0 0 false

/-- The contents of a span. -/
def spanState (w : Work) (u : Under) : Span → LM (List Byte)
  | .block a => getState w u.g a
  | .token bs => .pure bs

/-- A span's reference count; a token counts 1 (R245). -/
def spanRef (w : Work) : Span → LM Nat
  | .block a => (getHeader w a).bind fun h => .pure h.refc
  | .token _ => .pure 1

/-- Releases a span; a token has no block to release. -/
def releaseSpan (w : Work) : Span → LM Unit
  | .block a => releaseBlock w depth a
  | .token _ => .pure ()

/-- Merges the older level-k block `a` with the newer span `b` (R244); `task`: under InTask. DESIGN CHOICE (see the log): the state is
written before the header, and its lines take the keep rank of the header that the merge is about to write (R256). -/
def mergeSpans (w : Work) (u : Under) (task : Bool) (h : Hand) (a : Nat) (b : Span) (k base : Nat) : LM (Nat × Hand) :=
  let call := h.d.kept (k + 1)
  let keep := call || task
  (getHeader w a).bind fun ha =>
    (spanRef w b).bind fun rb =>
      (lread w none (h.d.word 51 + 4 * (k * geomDk u.g)) (4 * geomDk u.g)).bind fun pow =>
        (getState w u.g a).bind fun sa =>
          (spanState w u b).bind fun sb =>
            let bs := mergeState u.g pow sa sb
            if !keep && ha.refc == 1 && rb == 1 then
              let hd := { ha with level := k + 1, spold := 0, spnew := 0, tspur := false, base := base }
              (lwrite w (some (keepRank hd)) (a + 64) bs).bind fun _ =>
                (putHeader w a hd).bind fun _ =>
                  (releaseBlock w depth ha.spold).bind fun _ =>
                    (releaseBlock w depth ha.spnew).bind fun _ =>
                      (releaseSpan w b).bind fun _ => .pure (a, h)
            else if keep then
              (settleSpan w u h (base + 2 ^ k) b).bind fun q =>
                (newBlock w u q.2 (k + 1) base bs a q.1 (task && !call)).bind fun r =>
                  .pure (r.1, { r.2 with merged := r.2.merged || task })
            else
              (newBlock w u h (k + 1) base bs 0 0 false).bind fun q =>
                (releaseBlock w depth a).bind fun _ => (releaseSpan w b).bind fun _ => .pure q

/-- Place(L, c, k, left) (R245); `n0` is the count below the span. -/
def place (w : Work) (u : Under) (task : Bool) (n0 : Nat) : (fuel : Nat) → Hand → Span → (k left : Nat) → LM Hand
  | 0, h, _, _, _ => .pure h
  | fuel + 1, h, c, k, left =>
    let base := n0 / 2 ^ k * 2 ^ k
    if h.d.slot k = 0 then
      (settleSpan w u h base c).bind fun q => .pure { q.2 with d := q.2.d.put k q.1 }
    else if left = 0 then
      (settleSpan w u h base c).bind fun q => .pure { q.2 with d := q.2.d.put 48 (q.1 + k) }
    else
      (mergeSpans w u task h (h.d.slot k) c k (base - 2 ^ k)).bind fun q =>
        place w u task (base - 2 ^ k) fuel { q.2 with d := q.2.d.put k 0 } (.block q.1) (k + 1) (left - 1)

/-- CarryOn (R245). -/
def carryOn (w : Work) (u : Under) (task : Bool) (h : Hand) (beta : Nat) : LM Hand :=
  if h.d.carryAt = 0 then .pure h
  else
    place w u task (h.d.count - 2 ^ h.d.carryLevel) 48 { h with d := h.d.put 48 0 } (.block h.d.carryAt) h.d.carryLevel beta

/-! #### The blocks an operation needs (R415) -/

/-- What the count of needed blocks follows of the slots: empty, or a block and whether it is shared. -/
abbrev Plan := List (Option Bool)

/-- The blocks Place needs, and the slots and carry after it. `virt`: a token without a block; `shared`: the span is. -/
def planPlace (kept : Nat → Bool) : (fuel : Nat) → Plan → (k : Nat) → (virt shared : Bool) → (left : Nat) →
    Nat × Plan × Option (Nat × Bool)
  | 0, p, _, _, _, _ => (0, p, none)
  | fuel + 1, p, k, virt, shared, left =>
    match p.getD k none with
    | none => (bit virt, p.set k (some shared), none)
    | some sa =>
      if left = 0 then (bit virt, p, some (k, shared))
      else
        let p := p.set k none
        if kept (k + 1) then
          let r := planPlace kept fuel p (k + 1) false false (left - 1)
          (r.1 + 1 + bit virt, r.2)
        else if !sa && !shared then planPlace kept fuel p (k + 1) false false (left - 1)
        else
          let r := planPlace kept fuel p (k + 1) false false (left - 1)
          (r.1 + 1, r.2)

/-- The slots as a plan. -/
def planOf (d : Desc) (hs : List Header) : Plan :=
  (List.range 48).map fun k =>
    match (d.present.zip hs).find? fun q => q.1.1 = k ∧ q.1.2.2 = false with
    | some q => some (1 < q.2.refc)
    | none => none

/-- Whether the carry block is shared. -/
def carryShared (d : Desc) (hs : List Header) : Bool := (d.present.zip hs).any fun q => q.1.2.2 && decide (1 < q.2.refc)

/-- Writes the descriptor back after an append or a carry; `TASKSEQ` follows a merge under InTask (R249). -/
def finishHand (w : Work) (u : Under) (taskSeq : Nat) (h : Hand) : LM Unit :=
  putDesc w u.desc (if h.merged then h.d.put 55 taskSeq else h.d)

/-- Whether a span is a token that has no block yet. -/
def isToken : Span → Bool
  | .token _ => true
  | .block _ => false

/-- Takes a reference to a span's block; a token has none. -/
def raiseSpan (w : Work) : Span → LM Unit
  | .block a => raiseRef w a
  | .token _ => .pure ()

/-- What an append works out before it writes (R415): the descriptor, and the blocks it will need, popped. A prebuilt span is
shared, since the ladder it comes from keeps it (R246). -/
def prepareAppend (w : Work) (u : Under) (c : Span) (j beta : Nat) : LM Hand :=
  (getDesc w u.desc).bind fun d =>
    (checkBlocks w d).bind fun hs =>
      (LM.stopIf (decide (2 ^ 48 - 1 < d.count + 2 ^ j)) 0x0205 u.desc).bind fun _ =>
        (LM.stopIf (d.count % 2 ^ j != 0) 0x0206 u.desc).bind fun _ =>
          let first := if d.carryAt = 0 then (0, planOf d hs, none)
            else planPlace (fun k => d.kept k || u.carryTask d) 48 (planOf d hs) d.carryLevel false (carryShared d hs) 64
          let next := planPlace (fun k => d.kept k || u.task) 49 first.2.1 j (isToken c) (!isToken c) beta
          (popBlocks w (d.word 54) (geomBlock u.g) (first.1 + next.1)).bind fun free => .pure ⟨d, free, false⟩

/-- An append (R245, R246, R264): the span at level `j`; answers the count before it. -/
def appendSpan (w : Work) (u : Under) (taskSeq : Nat) (c : Span) (j beta : Nat) : LM Nat :=
  LM.prepared (prepareAppend w u c j beta) fun h =>
    let n0 := h.d.count
    (raiseSpan w c).bind fun _ =>
      (carryOn w u (u.carryTask h.d) h 64).bind fun h =>
        (place w u u.task n0 49 h c j beta).bind fun h =>
          (finishHand w u taskSeq { h with d := h.d.put 49 (n0 + 2 ^ j) }).bind fun _ => .pure n0

/-- What `LCARRY` works out before it writes (R415). -/
def prepareCarry (w : Work) (u : Under) (beta : Nat) : LM Hand :=
  (getDesc w u.desc).bind fun d =>
    (checkBlocks w d).bind fun hs =>
      let plan := planPlace (fun k => d.kept k || u.task) 48 (planOf d hs) d.carryLevel false (carryShared d hs) beta
      (popBlocks w (d.word 54) (geomBlock u.g) (if d.carryAt = 0 then 0 else plan.1)).bind fun free => .pure ⟨d, free, false⟩

/-- `LCARRY` (R247). -/
def carrySpan (w : Work) (u : Under) (taskSeq beta : Nat) : LM Unit :=
  LM.prepared (prepareCarry w u beta) fun h =>
    if h.d.carryAt = 0 then .pure () else (carryOn w u u.task h beta).bind fun h => finishHand w u taskSeq h

/-! ### Truncation, drop, fork (R250 to R252) -/

/-- The reachable block of level `k` at base `b` below the block `a` of level `l` at base `ba` (R251). -/
def findBlock (w : Work) (k b : Nat) : (fuel l a ba : Nat) → LM (Option Nat)
  | 0, _, _, _ => .pure none
  | fuel + 1, l, a, ba =>
    if l = k then .pure (if ba = b then some a else none)
    else if l < k then .pure none
    else
      (getHeader w a).bind fun h =>
        let half := 2 ^ (l - 1)
        let next := if b < ba + half then (h.spold, ba) else (h.spnew, ba + half)
        if next.1 = 0 then .pure none else findBlock w k b fuel (l - 1) next.1 next.2

/-- The reachable block of a ladder for one span. -/
def reach (w : Work) (d : Desc) (k b : Nat) : LM (Option Nat) :=
  match (withBases 0 d.present).find? fun q => decide (q.1 ≤ b) && decide (b + 2 ^ k ≤ q.1 + 2 ^ q.2.1) with
  | some q => findBlock w k b depth q.2.1 q.2.2.1 q.1
  | none => .pure none

/-- The levels of the binary decomposition of T, highest first. -/
def bitsOf (t : Nat) : List Nat := ((List.range 48).reverse).filter fun k => t / 2 ^ k % 2 == 1

/-- Truncate(L, T) (R251). Each of the F[k] takes over one of the ladder's references to its block, if it has one; a block that both a
slot and the carry hold counts twice. -/
def truncate (w : Work) (u : Under) (t : Nat) : LM Unit :=
  (getDesc w u.desc).bind fun d =>
    (checkBlocks w d).bind fun _ =>
      if d.count < t then .fail 0x0202 u.desc
      else if t = d.count then .pure ()
      else
        (LM.collect (fun k =>
          (reach w d k (t / 2 ^ (k + 1) * 2 ^ (k + 1))).bind fun
            | some a => .pure (k, a)
            | none => .fail 0x0201 u.desc) (bitsOf t)).bind fun f =>
          let old := d.present.map fun q => q.2.1
          let new := f.map (·.2)
          (LM.each (raiseRef w) (old.foldl List.erase new)).bind fun _ =>
            (LM.each (releaseBlock w depth) (new.foldl List.erase old)).bind fun _ =>
              let d := (List.range 48).foldl (fun d k => Desc.put d k ((f.find? fun q => q.1 = k).elim 0 (·.2))) d
              putDesc w u.desc ((d.put 48 0).put 49 t)

/-- `LDROP` (R252). -/
def dropAll (w : Work) (u : Under) : LM Unit :=
  (getDesc w u.desc).bind fun d =>
    (checkBlocks w d).bind fun _ =>
      (LM.each (releaseBlock w depth) (d.present.map fun q => q.2.1)).bind fun _ =>
        putDesc w u.desc ((List.range 50).foldl (fun d k => Desc.put d k 0) d)

/-- `LFORK` from X into Y (R250, R266). -/
def forkInto (w : Work) (x y : Nat) : LM Unit :=
  if x = y then .pure ()
  else
    (getDesc w x).bind fun dx =>
      (checkBlocks w dx).bind fun _ =>
        (getDesc w y).bind fun dy =>
          (checkBlocks w dy).bind fun _ =>
            (LM.each (releaseBlock w depth) (dy.present.map fun q => q.2.1)).bind fun _ =>
              (LM.each (raiseRef w) (dx.present.map fun q => q.2.1)).bind fun _ => putDesc w y (dx.put 55 0)

/-- `LKEEP` (R248). -/
def keepMask (w : Work) (u : Under) (m : Nat) : LM Unit :=
  (getDesc w u.desc).bind fun d => (checkBlocks w d).bind fun _ => putDesc w u.desc (d.put 53 m)

/-! ### LNEW and LBIND (R261, R262) -/

/-- The power rows 1–47 (R242). -/
def powerRows (dk : Nat) : (n : Nat) → List (BitVec 32) → List (BitVec 32)
  | 0, _ => []
  | n + 1, row =>
    let next := row.map fun p => BitVec.ofNat 32 (fpMul .rne (num32 p) (num32 p)).bits
    next ++ powerRows dk n next

/-- `LNEW`: answers GEOM. DESIGN CHOICE (see the log): no failure names a `DECAY` or `WTAB` address that R235 has aligned and that is not;
each is used as it stands. -/
def newLadder (w : Work) (desc off : Nat) : LM Nat :=
  (lspad w off 64).bind fun bs =>
    let r := fun i => (bytesWords 8 bs).getD i 0
    let ldk := r 0 % 16
    let ldv := r 0 / 16 % 16
    if r 5 ≠ 0 ∨ r 6 ≠ 0 ∨ r 7 ≠ 0 then .fail 0x0208 desc
    else if ldk = 0 ∨ 8 < ldk ∨ ldv = 0 ∨ 8 < ldv ∨ 2 ^ 9 ≤ r 0 ∨ r 4 % 2 ≠ 0 ∨ 2 ^ 48 ≤ r 4 then .fail 0x0207 desc
    else
      let dk := geomDk (r 0)
      let d : Desc := (List.replicate 50 0) ++ [r 0, r 1, r 2, r 4, r 3] ++ List.replicate 9 0
      (lread w none (r 1) (4 * dk)).bind fun row =>
        let row0 := (List.range dk).map fun i => BitVec.ofNat 32 (leVal ((row.drop (4 * i)).take 4))
        (putDesc w desc d).bind fun _ =>
          (lwrite w none (r 1 + 4 * dk) ((powerRows dk 47 row0).flatMap fun x => leBytes 4 x.toNat)).bind fun _ => .pure (r 0)

/-! ### Reads and walks (R253 to R255) -/

/-- An exact sum of products; its zero is −0 when every term is (R253). -/
def exactSum : List Num → Num
  | [] => .fin false 0 0
  | x :: r => r.foldl (fun a b => (addNum .rne a b).1) x

/-- One TripleStep (R253): m, l and the vector o. -/
def tripleStep (m l : BitVec 32) (o : List (BitVec 32)) (sc : BitVec 32) (u : List (BitVec 32)) :
    BitVec 32 × BitVec 32 × List (BitVec 32) :=
  let nan : BitVec 32 := 0x7FC00000
  if (num32 sc).isNan || (num32 m).isNan || (num32 l).isNan then (nan, nan, o.map fun _ => nan)
  else
    let nm := fpMinMax true m sc
    if nm = 0xFF800000 then (m, l, o)
    else
      let al := num32 (BitVec.ofNat 32 (tripWeight .rne m nm).bits)
      let be := num32 (BitVec.ofNat 32 (tripWeight .rne sc nm).bits)
      (nm, BitVec.ofNat 32 (fpFma .rne (num32 l) al be).bits,
       (o.zip u).map fun q =>
         let t := fpMul .rne (num32 q.1) al
         BitVec.ofNat 32 (fpFma .rne (num32 q.2) be (num32 (BitVec.ofNat 32 t.bits))).bits)

/-- A read over levels (R253, R267): the triple and the number of blocks visited. -/
def readLadder (w : Work) (u : Under) (q : List (BitVec 32)) (lo hi : Nat) :
    LM ((BitVec 32 × BitVec 32 × List (BitVec 32)) × Nat) :=
  (getDesc w u.desc).bind fun d =>
    (checkBlocks w d).bind fun _ =>
      let dk := geomDk u.g
      let dv := geomDv u.g
      let e := geomElem u.g
      let vis := d.present.filter fun p => decide (lo ≤ p.1) && decide (p.1 ≤ hi)
      (LM.collect (fun p : Nat × Nat × Bool =>
        (getState w u.g p.2.1).bind fun bs =>
          (lnum w (d.word 52 + 4 * p.1) 4).bind fun sg =>
            let dot := fun (f : Nat → Nat) =>
              (toFp32 .rne (exactSum ((List.range dk).map fun i =>
                (mulNum (num32 (q.getD i 0)) (stateNum u.g (bs.drop (f i)) 0)).1))).bits
            let h := dot fun i => i * e
            let us := (List.range dv).map fun j => BitVec.ofNat 32 (dot fun i => geomZ u.g + (i * dv + j) * e)
            let sc := (toFp32 .rne (mulNum (mulNum (num32 (BitVec.ofNat 32 sg)) (num32 (BitVec.ofNat 32 h))).1
              (.fin false 1 (-(p.1 : Int)))).1).bits
            .pure (BitVec.ofNat 32 sc, us)) vis).bind fun steps =>
        .pure (steps.foldl (fun t x => tripleStep t.1 t.2.1 t.2.2 x.1 x.2) (0xFF800000, 0, List.replicate dv 0), steps.length)

/-- A triple record (R254). -/
def tripleRecord (t : BitVec 32 × BitVec 32 × List (BitVec 32)) (n : Nat) : List Byte :=
  leBytes 4 t.1.toNat ++ leBytes 4 t.2.1.toNat ++ leBytes 4 n ++ List.replicate 52 0 ++ t.2.2.flatMap fun x => leBytes 4 x.toNat

/-- The entries of `LWALK` (R255, R268). -/
def walkEntries (d : Desc) : List Byte :=
  ((withBases 0 d.present).flatMap fun q =>
    leBytes 8 q.2.2.1 ++ leBytes 8 (q.1 + q.2.1 * 2 ^ 48 + bit q.2.2.2 * 2 ^ 63)) ++ List.replicate 16 0

/-- The value of `LCNT` (R269). -/
def countValue (d : Desc) : Word :=
  BitVec.ofNat 64 (if d.carryAt = 0 then d.count else 2 ^ 63 + d.carryLevel * 2 ^ 56 + d.count)

/-! ### Appended tokens (R263, R264) -/

/-- Bytes of `n` elements in an input format (R82, R83). -/
def inputBytes (f n : Nat) : Nat := if f = 9 ∨ f = 10 then n / 32 * blockSize f else (n * codeWidth f + 7) / 8

/-- The decoded elements of k or v (R106, R243). DESIGN CHOICE (see the log): R84 and R106 have an element whose decoding overflows set
`OF`, R243 and R421 that ladder operations set no `FSTAT` bit; none is set. -/
def inputNums (f n : Nat) (fr : Frame) (scl : Vector (BitVec 32) 16) (si : Nat) (bs : List Byte) : List Num :=
  let v := leVal bs
  (List.range n).map fun j =>
    if f = 0 ∨ f = 2 then decodeFp (fpOf f) (v / 2 ^ (codeWidth f * j) % 2 ^ codeWidth f)
    else
      let dv := consumerOffset fr f 0 (j : Int)
      let x :=
        if f = 6 ∨ f = 7 then intElem f (v / 2 ^ (codeWidth f * j) % 2 ^ codeWidth f) dv (num32 (sclAt scl si))
        else
          let blk := v / 2 ^ (8 * (blockSize f * (j / 32)))
          dxbElem f (blk % 65536) (blk / 2 ^ (16 + codeWidth f * (j % 32)) % 2 ^ codeWidth f) dv (sclAt scl)
      num32 (BitVec.ofNat 32 (toFp32 .rne x.1).bits)

/-- Fields of the append word. -/
def appK (x : Word) : Nat := x.toNat % 2 ^ 19
def appV (x : Word) : Nat := x.toNat / 2 ^ 19 % 2 ^ 19
def appBeta (x : Word) : Nat := x.toNat / 2 ^ 38 % 64
def appFmt (x : Word) : Nat := x.toNat / 2 ^ 44 % 16
def appPre (x : Word) : Bool := x.getLsbD 62

/-- The token of an append, as its level-0 summary. -/
def tokenSpan (w : Work) (c : LadderCmd) : LM Span :=
  let g := c.hd.geom.toNat
  let f := appFmt c.x
  let dk := geomDk g
  let dv := geomDv g
  if (f = 9 ∨ f = 10) ∧ (dk % 32 ≠ 0 ∨ dv % 32 ≠ 0) then .fail 0x0207 c.hd.desc.toNat
  else
    (lspad w (appK c.x) (inputBytes f dk)).bind fun kb =>
      (lspad w (appV c.x) (inputBytes f dv)).bind fun vb =>
        .pure (.token (tokenState g (inputNums f dk c.kfr c.scl (c.x.toNat / 2 ^ 54 % 16) kb)
          (inputNums f dv c.vfr c.scl (c.x.toNat / 2 ^ 58 % 16) vb)))

/-- The block of a prebuilt span, and its level (R246). -/
def prebuiltSpan (w : Work) (c : LadderCmd) : LM (Span × Nat) :=
  (getDesc w c.hd2.desc.toNat).bind fun d =>
    (checkBlocks w d).bind fun hs =>
      match d.present, hs with
      | [(j, a, false)], [h] =>
        if h.geom ≠ c.hd.geom.toNat then .fail 0x0207 c.hd.desc.toNat
        else if h.refc + 1 = 2 ^ 32 then .fail 0x0204 a
        else .pure (.block a, j)
      | _, _ => .fail 0x0206 c.hd.desc.toNat

/-! ### Undo entries (R315, R317, R318, R424) -/

/-- An undo entry's bytes. -/
def undoEntry (kind inv argc extra : Nat) (obj : Word) (args : List Word) : List Byte :=
  wordsBytes ([kind + inv * 64 + argc * 2 ^ 12 + extra * 2 ^ 16, obj.toNat] ++
    (List.range 6).map fun i => (args.getD i 0).toNat)

/-- Writes entries from the address `a` on, the first lowest; the refusal that stops, with its address. -/
def writeEntries (w : Work) : (a : Word) → List (List Byte) → State → Option (Refused × Word) × State
  | _, [], s => (none, s)
  | a, e :: r, s =>
    match writeAt s w a e with
    | (.ok _, s) => writeEntries w (a + 64) r s
    | (.error x, s) => (some (x, a), s)

/-- Pushes what a verb leaves on the undo stack of a context, an entry or the nine of an image. A refused push is a deferred fault,
and leaves `UTOP` as it was (R424). -/
def pushUndo (w : Work) (reserved : Nat) (es : List (List Byte)) (s : State) : State :=
  let k := w.ctx
  let s := modTask s k fun t => { t with reserved := t.reserved - reserved }
  let t := (ctxAt s k).arch.tsk
  match writeEntries w (t.ubase + BitVec.ofNat 64 (64 * t.utop.toNat)) es s with
  | (none, s) => modTask s k fun t => { t with utop := t.utop + BitVec.ofNat 16 es.length }
  | (some (r, a), s) => defer s k w.seq w.handler (workFault w r a 0 .nothing)

/-- The nine entries of an image (R318). -/
def imageEntries (kind : Nat) (desc : Word) (d : Desc) : List (List Byte) :=
  ((List.range 8).map fun i => wordsBytes ((List.range 8).map fun j => d.word (8 * i + j))) ++
    [undoEntry kind kind 0 8 desc []]

/-- Takes an image: its present blocks are raised (R318). -/
def takeImage (w : Work) (desc : Nat) : LM Desc :=
  (getDesc w desc).bind fun d =>
    (checkBlocks w d).bind fun _ => (LM.each (raiseRef w) (d.present.map fun q => q.2.1)).bind fun _ => .pure d

/-- Image restore (R318): the image is written back, and every block that was present is released. -/
def restoreImage (w : Work) (desc : Nat) (img : Desc) : LM Unit :=
  (getDesc w desc).bind fun d =>
    (putDesc w desc img).bind fun _ =>
      LM.each (releaseBlock w depth) (d.present.map fun q => q.2.1)

/-- What a step of several that go on past failures answers: the failures met, oldest first (R321). -/
abbrev Tries := List EngineFail × State

/-- Runs a step; one that fails is noted and skipped, and leaves everything as it was (R321). -/
def tryLM (m : LM Unit) (s : State) : Tries :=
  match LM.whole m s with
  | (.ok _, t) => ([], t)
  | (.error e, t) => ([e], t)

/-- One step after another, whatever the first met. -/
def triesThen (r : Tries) (f : State → Tries) : Tries := let q := f r.2; (r.1 ++ q.1, q.2)

/-- The commit steps of R249 below one block: spurs held only for the task are released, the deepest first; a step that fails
is passed over (R321). -/
def clearSpurs (w : Work) : (fuel a : Nat) → State → Tries
  | 0, _, s => ([], s)
  | fuel + 1, a, s =>
    if a = 0 then ([], s)
    else
      match getHeader w a s with
      | (.error e, s) => ([e], s)
      | (.ok h, s) =>
        triesThen (triesThen (clearSpurs w fuel h.spold s) (clearSpurs w fuel h.spnew)) fun s =>
          if h.tspur then
            tryLM ((getHeader w a).bind fun h =>
              (releaseBlock w depth h.spold).bind fun _ =>
                (releaseBlock w depth h.spnew).bind fun _ =>
                  putHeader w a { h with spold := 0, spnew := 0, tspur := false }) s
          else ([], s)

/-- The commit steps of R249 on one ladder; each that fails is reported (R321). -/
def commitLadder (w : Work) (desc : Nat) (s : State) : Tries :=
  match getDesc w desc s with
  | (.error e, s) => ([e], s)
  | (.ok d, s) =>
    triesThen (d.present.foldl (fun r q => triesThen r (clearSpurs w depth q.2.1)) ([], s))
      (tryLM (putDesc w desc (d.put 55 0)))

/-- Releases the extra references of an image at a commit (R321). -/
def dropImage (w : Work) (img : Desc) : LM Unit :=
  LM.each (releaseBlock w depth) (img.present.map fun q => q.2.1)

/-! ### Running an operation -/

/-- Whether a failure is one of R414: the operation then leaves everything as it was (R415); a memory failure leaves the
writes already performed. -/
def ownFailure (e : EngineFail) : Bool := e.code.toNat / 256 == 2

/-- Runs a piece of ladder work to its end. The failure's address is the descriptor, cell or task descriptor (R412). -/
def runLM {α : Type} (a : Word) (m : LM α) (s : State) : Except EngineFail α × State :=
  match m s with
  | (.ok x, t) => (.ok x, t)
  | (.error e, t) => (.error ⟨e.code, a⟩, if ownFailure e then undone s t else t)

end Sys2Proof.Machine
end

