-- ==== Sys2Proof/Machine/Cells.lean ====
section
/-! DEFINITION. Merge cells: what MCINIT, MCDEP and MCGET do at the cell's home slice, and the combination (R271 to R274,
R414, R418). -/

namespace Sys2Proof.Machine

/-! ### The configuration word (R271) -/

def cellW (c : Nat) : Nat := c % 2 ^ 9
def cellN (c : Nat) : Nat := c / 2 ^ 16 % 2 ^ 7
def cellCore (c : Nat) : Fin 256 := Fin.ofNat 256 (c / 2 ^ 24)
def cellWord (c : Nat) : Nat := c / 2 ^ 32 % 64
def cellFen (c : Nat) : Bool := c / 2 ^ 38 % 2 == 1

/-- A configuration that R271 forbids. -/
def cellBad (c : Nat) : Bool :=
  cellN c == 0 || decide (64 < cellN c) || cellW c == 0 || decide (256 < cellW c) || c / 2 ^ 9 % 2 ^ 7 != 0 ||
    c / 2 ^ 23 % 2 != 0 || decide (2 ^ 39 ≤ c)

/-- The pitch Q of the slots, and the address of slot `i`. -/
def cellPitch (c : Nat) : Nat := (64 + 4 * cellW c + 63) / 64 * 64
def cellSlot (a c i : Nat) : Nat := a + 64 + (i + 1) * cellPitch c

/-! ### Combine (R273) -/

/-- The quotient of two values, exact to well past FP32 with a sticky bit. -/
def divNum : Num → Num → Num
  | .nan, _ => .nan
  | _, .nan => .nan
  | .inf _, .inf _ => .nan
  | .inf a, .fin b _ _ => .inf (a != b)
  | .fin a _ _, .inf b => .fin (a != b) 0 0
  | .fin a m e, .fin b n f =>
    if n = 0 then (if m = 0 then .nan else .inf (a != b))
    else
      let k := 96 + Nat.log2 n
      let q := m * 2 ^ k / n
      .fin (a != b) (2 * q + (if m * 2 ^ k % n = 0 then 0 else 1)) (e - f - k - 1)

/-- A partial: m, l, o. -/
abbrev Partial := BitVec 32 × BitVec 32 × List (BitVec 32)

/-- The combination of the partials in slot order: m, l, y and EMPTY. -/
def combine (ps : List Partial) (wd : Nat) : Partial × Bool :=
  let nan : BitVec 32 := 0x7FC00000
  if ps.any fun p => (num32 p.1).isNan || (num32 p.2.1).isNan then ((nan, nan, List.replicate wd nan), false)
  else
    let top := ps.foldl (fun a p => fpMinMax true a p.1) 0xFF800000
    if top = 0xFF800000 then ((top, 0, List.replicate wd 0), true)
    else
      let step := fun (a : BitVec 32 × List (BitVec 32)) (p : Partial) =>
        let al := num32 (BitVec.ofNat 32 (tripWeight .rne p.1 top).bits)
        (BitVec.ofNat 32 (fpFma .rne (num32 p.2.1) al (num32 a.1)).bits,
         (a.2.zip p.2.2).map fun q => BitVec.ofNat 32 (fpFma .rne (num32 q.2) al (num32 q.1)).bits)
      let r := ps.foldl step (0, List.replicate wd 0)
      if (r.1.toNat % 2 ^ 31) = 0 then ((top, r.1, List.replicate wd 0), true)
      else ((top, r.1, r.2.map fun x => BitVec.ofNat 32 (toFp32 .rne (divNum (num32 x) (num32 r.1))).bits), false)

/-- 32-bit words of bytes. -/
def bytes32 (n : Nat) (bs : List Byte) : List (BitVec 32) :=
  (List.range n).map fun i => BitVec.ofNat 32 (leVal ((bs.drop (4 * i)).take 4))

/-- A partial from a record's bytes (R254). -/
def partialOf (wd : Nat) (bs : List Byte) : Partial :=
  (BitVec.ofNat 32 (leVal (bs.take 4)), BitVec.ofNat 32 (leVal ((bs.drop 4).take 4)), bytes32 wd (bs.drop 64))

/-! ### The operations (R272, R418) -/

/-- `MCINIT`. -/
def cellInit (w : Work) (a c : Nat) : LM Unit :=
  lwrite w none a (leBytes 8 c ++ List.replicate (56 + 64 + 4 * cellW c) 0)

/-- A cell's header: `CFG`, `FILLED`, and whether a reserved bit of its other words is nonzero. -/
structure CellHeader where
  cfg : Nat
  filled : Nat
  stray : Bool
  deriving DecidableEq, Repr

/-- Reads a cell's header (R271). -/
def cellHeader (w : Work) (a : Nat) : LM CellHeader :=
  (lread w none a 64).bind fun bs =>
    let v := fun i => (bytesWords 8 bs).getD i 0
    .pure ⟨v 0, v 1, decide (4 ≤ v 2) || [3, 4, 5, 6, 7].any fun i => v i != 0⟩

/-- The flag add of a completed cell is on its way (R271, R288); the deposit completes with it (R258). -/
def cellFlag (w : Work) (c : Nat) : LM Unit := fun s =>
  if cellFen c then
    (.ok (), modWork { s with cellAdds := s.cellAdds ++ [⟨w.job, cellCore c, cellWord c, coreOf w.ctx, w.seq⟩] } (coreOf w.ctx) w.seq
      fun x => { x with acks := x.acks + 1 })
  else (.ok (), s)

/-- Combine at the home slice: the output record and STAT in one access, then the flag. -/
def cellCombine (w : Work) (a c : Nat) : LM Unit :=
  (LM.collect (fun i => (lread w none (cellSlot a c i) (64 + 4 * cellW c)).bind fun bs => .pure (partialOf (cellW c) bs))
    (List.range (cellN c))).bind fun ps =>
      let r := combine ps (cellW c)
      let stat := 1 + 2 * bit r.2
      (lwrite w none (a + 64) (leBytes 4 r.1.1.toNat ++ leBytes 4 r.1.2.1.toNat ++ leBytes 4 (cellN c) ++ leBytes 4 stat ++
        List.replicate 48 0 ++ r.1.2.2.flatMap fun x => leBytes 4 x.toNat)).bind fun _ =>
        (lwrite w none (a + 16) (leBytes 8 stat)).bind fun _ => cellFlag w c

/-- Whether a job names a core, at the time a cell is used. -/
def jobNames (s : State) (j : BitVec 32) (c : Fin 256) : Bool :=
  match findJob s j with
  | some x => x.names c
  | none => false

/-- `MCDEP`; one that fails changes nothing at the cell (R414, R418). -/
def cellDeposit (w : Work) (a off slot : Nat) : LM Unit := LM.whole fun s =>
  ((cellHeader w a).bind fun h =>
    let c := h.cfg
    if cellBad c || h.stray || (cellFen c && !jobNames s w.job (cellCore c)) then .fail 0x0210 a
    else if cellN c ≤ slot then .fail 0x0211 a
    else if h.filled / 2 ^ slot % 2 = 1 then .fail 0x0212 a
    else
      (lspad w off (64 + 4 * cellW c)).bind fun bs =>
        (lwrite w none (cellSlot a c slot) (bs.take 8)).bind fun _ =>
          (lwrite w none (cellSlot a c slot + 64) (bs.drop 64)).bind fun _ =>
            let filled := h.filled + 2 ^ slot
            (lwrite w none (a + 8) (leBytes 8 filled)).bind fun _ =>
              if filled % 2 ^ cellN c = 2 ^ cellN c - 1 then cellCombine w a c else .pure ()) s

/-- `MCGET`. -/
def cellGet (w : Work) (a off : Nat) : LM Unit :=
  (cellHeader w a).bind fun h =>
    (lread w none (a + 64) (64 + 4 * min (cellW h.cfg) 256)).bind fun bs => lspadWrite w off bs

end Sys2Proof.Machine
end

