-- ==== Sys2Proof/Machine/Fetch.lean ====
section
/-! DEFINITION. Reading the instruction store: syllables, bundles and their lengths (R52, R61, R166, R342). -/

namespace Sys2Proof.Machine

/-- The key of syllable `i` of a core's code section (R166 space 4). -/
def codeKey (c : Fin 256) (i : Nat) : Nat := localKey 4 c.val (4 * i)

/-- Syllable `i` of a core's code section, of a memory that holds it. -/
def syllableIn (m : List Host.Cell) (c : Fin 256) (i : Nat) : Nat := memVal m (codeKey c i) 4

/-- Syllable `i` of a core's code section. -/
def syllableAt (s : State) (c : Fin 256) (i : Nat) : Nat := syllableIn s.mem c i

/-- The syllables from `i` to the end of the section, at most the 16 a bundle can have (R52, R53). -/
def syllablesFrom (s : State) (c : Fin 256) (i : Nat) : List Nat :=
  let n := min 16 ((coreAt s c).codeLen - i)
  let m := memWindow s.mem (codeKey c i) (4 * n)
  (List.range n).map fun j => syllableIn m c (i + j)

/-- The syllable index after the bundle at `i`. -/
def afterBundle (s : State) (c : Fin 256) (i : Nat) : Nat := i + bundleLen (syllableAt s c i)

/-- The syllable index of the bundle after the issuing one. -/
def nextBundle (s : State) : Word :=
  BitVec.ofNat 64 (afterBundle s (coreOf s.cur) (curArch s).pc.toNat)

/-- Whether `i` is the first syllable of a bundle of the section (R131): the walk of the bundles from `p` meets it. `m` holds the
section's cells in order, those below `p` left out as the walk goes on. -/
def walkMeets (c : Fin 256) (i : Nat) : (fuel p : Nat) → List Host.Cell → Bool
  | 0, _, _ => false
  | fuel + 1, p, m =>
    p == i || (decide (p < i) &&
      let m := m.dropWhile fun q => decide (q.1 < codeKey c p)
      walkMeets c i fuel (p + bundleLen (syllableIn (m.takeWhile fun q => decide (q.1 < codeKey c (p + 1))) c p)) m)

/-- A legal target of a transfer (R131). -/
def bundleStart (s : State) (c : Fin 256) (i : Nat) : Bool :=
  let n := (coreAt s c).codeLen
  decide (i < n) && walkMeets c i n 0 (memWindow s.mem (codeKey c 0) (4 * n))

end Sys2Proof.Machine
end

