-- ==== Sys2Proof/Machine/Tasks.lean ====
section
/-! DEFINITION. Boosted tasks: domains and their tables, spawns, holds and their conflicts, verbs, the undo stack, aborts,
retraction and commit (R301 to R332, R422 to R426). -/

namespace Sys2Proof.Machine

/-! ### Domains (R301, R302) -/

/-- The domain of a job that a domain word names; one not used yet stands as at the job's start. -/
def domainOf (s : State) (j : BitVec 32) (d : BitVec 8) : Domain :=
  let fresh : Domain := ⟨d, 1, Vector.replicate 64 0, 0, Vector.replicate 64 0, []⟩
  match findJob s j with
  | some x => (x.domains.find? fun y => y.word = d).getD fresh
  | none => fresh

def setDomain (s : State) (j : BitVec 32) (d : Domain) : State :=
  modJob s j fun x => { x with domains := d :: x.domains.filter fun y => y.word ≠ d.word }

def modDomain (s : State) (j : BitVec 32) (d : BitVec 8) (f : Domain → Domain) : State := setDomain s j (f (domainOf s j d))

/-- Fields of a domain word. -/
def domSent (d : BitVec 8) : Bool := d.getLsbD 7
def domClause (d : BitVec 8) : Nat := d.toNat / 16 % 4
def domPool (d : BitVec 8) : Nat := d.toNat % 16

/-- A work pool of a job. -/
def poolOf (x : Job) (stack : Fin 4) (p : Fin 16) : Pool := x.pools[Fin.ofNat 64 (stack.val * 16 + p.val)]

/-- Whether the pools that a domain owns are task queues (R301). -/
def domPools (x : Job) (d : BitVec 8) : Bool :=
  let owners : List (Fin 4) := if domSent d then List.finRange 4 else [Fin.ofNat 4 (domClause d)]
  owners.all fun t => (poolOf x t (Fin.ofNat 16 (domPool d))).kind == 2

/-- A verb-table entry (R308), and its fields. -/
def verbEntry (s : State) (j : BitVec 32) (d : BitVec 8) (kind : BitVec 6) : Word :=
  (domainOf s j d).verbs[Fin.ofNat 64 kind.toNat]

def verbValid (e : Word) : Bool := e.getLsbD 63
def verbArgc (e : Word) : Nat := e.toNat / 2 ^ 40 % 8
def verbInv (e : Word) : BitVec 6 := e.extractLsb' 32 6
def verbRout (e : Word) : Word := e &&& 0xFFFFFFFF

/-- Whether two kinds commute (R306). -/
def commute (d : Domain) (a b : Nat) : Bool :=
  decide (a < d.loaded) && decide (b < d.loaded) && (d.grammar[Fin.ofNat 64 a]).getLsbD b && (d.grammar[Fin.ofNat 64 b]).getLsbD a

/-- A grammar miss (R306). -/
def grammarMiss (d : Domain) (a b : Nat) : Bool := decide (d.loaded ≤ a) || decide (d.loaded ≤ b)

/-! ### The task unit's accesses -/

/-- A piece of work that stands for an access of the task unit on behalf of a context. -/
def taskWork (s : State) (k : Fin 1024) (opc : Nat) : Work :=
  { newWork { s with cur := k } opc 5 0 none 0 (.vtab 0 0) [] 0 0 with slot := 7 }

/-- The same, with the host's error to a read of it. -/
def askedWork (s : State) (k : Fin 1024) (opc : Nat) (st : Option (BitVec 16)) : Work := { taskWork s k opc with hostStatus := st }

/-- Changes word 6 of a descriptor; a refused write leaves it and is a deferred fault (R304). -/
def putTaskWord (k : Fin 1024) (opc : Nat) (desc : Word) (f : Nat → Nat) (st : Option (BitVec 16)) (s : State) : State :=
  let w := askedWork s k opc st
  let a := desc + 48
  let refuse (s : State) (e : Refused) : State := defer s k s.seq (ctxAt s k).arch.hm (workFault w e a 0 .nothing)
  match readAt s (viaOf w) a 8 with
  | (.error e, s) => refuse s e
  | (.ok bs, s) =>
    match writeAt s w a (leBytes 8 (f (leVal bs))) with
    | (.error e, s) => refuse s e
    | (.ok _, s) => s

/-- Frees the holds of a task at every slice. -/
def freeHolds (s : State) (j : BitVec 32) (d : BitVec 8) (q : Word) : State :=
  { s with slices := s.slices.map fun x => { x with holds := x.holds.filter fun h => !(h.job = j && h.dom = d && h.seq = q) } }

/-- The objects that a task holds under kind 0 or 5 (R320, R321). -/
def ladderHolds (s : State) (j : BitVec 32) (d : BitVec 8) (q : Word) : List Word :=
  s.slices.toList.flatMap fun x => x.holds.filterMap fun h =>
    if h.job = j ∧ h.dom = d ∧ h.seq = q ∧ (h.kinds.getLsbD 0 ∨ h.kinds.getLsbD 5) then some h.obj else none

/-- Runs the commit steps of R249 on the ladders a task holds under kind 0 or 5; the failures met. -/
def commitHolds (w : Work) (d : BitVec 8) (q : Word) (s : State) : Tries :=
  (ladderHolds s w.job d q).foldl (fun r o => triesThen r (commitLadder w o.toNat)) ([], s)

/-- The refusal behind a memory failure of an engine, with its SUB (R371, R401). -/
def refusalOf (s : State) (v : Via) (e : EngineFail) : Refused :=
  let back : BitVec 16 :=
    if e.code = 0x0103 then 0x18 else if e.code = 0x0102 then 0x19 else if e.code = 0x0104 then 0x1A
    else if e.code = 0x0101 then 0x1B else 0x1C
  match (locate s v e.addr 1 false).1 with
  | .error r => r
  | .ok _ =>
    match (locate s v e.addr 1 true).1 with
    | .error r => r
    | .ok _ => ⟨back, 0⟩

/-- Whether a failure is one of the memory failures of R401. -/
def memoryFailure (e : EngineFail) : Bool := decide (0x0101 ≤ e.code.toNat) && decide (e.code.toNat ≤ 0x0105)

/-- Reports a failure of a commit step as a deferred fault (R321). -/
def deferStep (k : Fin 1024) (w : Work) (s : State) (e : EngineFail) : State :=
  if memoryFailure e then defer s k s.seq w.handler (workFault w (refusalOf s (viaOf w) e) e.addr 0 .nothing)
  else defer s k s.seq w.handler ⟨0x4D, e.code, some w.slot, e.addr, commandWord w, 0, none⟩

/-! ### Aborts and retraction (R319, R320, R423, R425) -/

/-- Discards the register results in flight (R135, R320): bank writes of steps, `VSTA` and `MZERO` and writes that R345 does
not count stay, and X operations keep their beats. -/
def discardResults (c : Ctx) : Ctx :=
  { c with
    flight := c.flight.filter fun f => !f.counts || (match f.act with
      | .matrix _ => true
      | .rowStore _ _ _ _ _ => true
      | .zeroBands _ _ => true
      | _ => false)
    xops := c.xops.map fun x => { x with lreg := 0 } }

/-- An abort in word 6 of a descriptor: `ABORTS` rises, `WHY` and the program's reason are set (R320). -/
def abortWord (k : Fin 1024) (desc : Word) (why trsn : Nat) : Option (BitVec 16) → State → State :=
  putTaskWord k 0x64 desc fun x => (x / 2 ^ 16 + 1) % 2 ^ 32 * 2 ^ 16 + why * 256 + trsn * 4

/-- Retraction begins (R320): `ABORTS` rises and `WHY` is set, results in flight are discarded, and the next bundle would be
the one at `CONT`. -/
def beginRetract (k : Fin 1024) (why trsn : Nat) (s : State) : State :=
  let a := (ctxAt s k).arch
  let s := if why = 3 then s else countEvent s (coreOf k) 0x000C 1
  let s := runAsk s (newAsk (.abort k a.tsk.desc why trsn)) (.job (jobOf s k)) (abortWord k a.tsk.desc why trsn)
  modCtx s k fun c =>
    let t : Task := { c.arch.tsk with icnt := false, retr := true, apend := false, why := BitVec.ofNat 8 why, routine := false }
    let d := discardResults c
    { d with arch := { d.arch with verb := false, hm := false, xfer := none, pc := t.cont.setWidth 64, tsk := t },
             waits := [], pending := none, hidden := none, holdFault := none, granted := false, asked := false, flagSeen := none }

/-- Whether an abort is to be delivered at the boundary where the context stands (R319, R423). -/
def abortDue (c : Ctx) : Bool :=
  c.arch.tsk.apend && c.arch.task && !c.arch.tsk.retr && !c.arch.hm && !c.arch.verb

/-- Sends an abort to a task (R311): it pends; a task that is retracting takes no notice. -/
def sendAbort (why : Nat) (s : State) (h : Hold) : State :=
  modTarget s h.job h.ctx fun c =>
    if c.arch.task && c.arch.tsk.seq == h.seq && c.arch.tsk.dom == h.dom && !c.arch.tsk.retr && !c.arch.tsk.apend then
      { c with arch := { c.arch with tsk := { c.arch.tsk with apend := true, why := BitVec.ofNat 8 why } } }
    else c

/-- ABORT_DELIVERY: delivers a pending abort at the boundary, when it is due there. -/
def execAbortDelivery (k : Fin 1024) (s : State) : Host.Outcome State Fault Refusal :=
  let c := ctxAt s k
  .next (if abortDue c && c.run = .started then beginRetract k c.arch.tsk.why.toNat 0 s else s)

/-- A failure of a retraction step: RETRFAIL, with `CONT` at `TBUN` (R369, R425). The context stands at `CONT`; the fault is taken
there in an entry cycle of its own (R370). -/
def retractFail (k : Fin 1024) (code : BitVec 16) (addr : Word) (s : State) : State :=
  modCtx s k fun c => { c with
    standing := some (c.arch.pc, ⟨0x4E, code, none, addr, c.arch.tsk.utop.setWidth 64, 0, none⟩) }

/-- Whether the accesses a context issued have all performed (R314, R320). -/
def accessesDone (s : State) (k : Fin 1024) : Bool := released s k s.seq

/-- The task a context is in ends: its state is cleared and the delivery forgotten (R309, R320, R321). -/
def dropTask (k : Fin 1024) (d : BitVec 8) (q : Word) (s : State) : State :=
  modArch s k fun a => { a with
    task := if a.task && a.tsk.seq == q && a.tsk.dom == d then false else a.task
    tsk := { (if a.task && a.tsk.seq == q && a.tsk.dom == d then Task.reset else a.tsk) with
      delivered := a.tsk.delivered.filter fun x => !(x.seq = q && x.dom = d) } }

/-- The end of a retraction (R320): release, commit steps, holds freed, the task requeued or reported, and control at
`CONT`. -/
def endRetract (k : Fin 1024) (st : Option (BitVec 16)) (s : State) : State :=
  let a := (ctxAt s k).arch
  let t := a.tsk
  let j := jobOf s k
  let w := askedWork s k 0x64 st
  match commitHolds w t.dom t.seq s with
  | (e :: _, s) => retractFail k e.code e.addr s
  | ([], s) =>
    let s := freeHolds s j t.dom t.seq
    let s := putTaskWord k 0x64 t.desc (fun x => x - x / 2 % 2 * 2 + 2 * bit (!t.req)) st s
    let back (l : List TaskItem) : List TaskItem :=
      if t.req then l.map fun x => if x.seq = t.seq then { x with running := none } else x
      else l.filter fun x => x.seq ≠ t.seq
    let s := modDomain s j t.dom fun d => { d with tasks := back d.tasks }
    let s := dropTask k t.dom t.seq s
    let cont := t.cont.setWidth 64
    modArch s k fun a => { a with pc := cont, xfer := none, loops := a.loops.filter fun l => decide (l.first ≤ cont) && decide (cont < l.stop) }

/-- One step of a retraction (R320): the top entry's inverse, or the end. -/
def retractStep (k : Fin 1024) (st : Option (BitVec 16)) (s : State) : State :=
  let a := (ctxAt s k).arch
  let t := a.tsk
  let w := askedWork s k 0x64 st
  let n := t.utop.toNat
  if n = 0 then endRetract k st s
  else
    let at_ := t.ubase.toNat + 64 * (n - 1)
    let addr := BitVec.ofNat 64 at_
    match lread w none at_ 64 s with
    | (.error e, s) => retractFail k e.code addr s
    | (.ok bs, s) =>
      let v := fun i => (bytesWords 8 bs).getD i 0
      let kind := v 0 % 64
      let inv := v 0 / 64 % 64
      let argc := v 0 / 2 ^ 12 % 8
      let extra := v 0 / 2 ^ 16 % 256
      if 2 ^ 24 ≤ v 0 ∨ v 0 / 2 ^ 15 % 2 = 1 then retractFail k 0x0222 addr s
      else if kind ≤ 7 then
        let undo : LM Unit :=
          if kind = 0 then
            (getDesc w (v 1)).bind fun d => truncate w ⟨d.word 50, v 1, true, none⟩ (v 2)
          else
            (lread w none (t.ubase.toNat + 64 * (n - 9)) 512).bind fun img => restoreImage w (v 1) (bytesWords 64 img)
        match runLM addr undo s with
        | (.error e, s) => retractFail k e.code addr s
        | (.ok _, s) => modTask s k fun t => { t with utop := BitVec.ofNat 16 (n - (1 + extra)) }
      else
        let e := verbEntry s (jobOf s k) t.dom (BitVec.ofNat 6 inv)
        if inv ≤ 7 ∨ !verbValid e then retractFail k 0x0222 addr s
        else
          modArch s k fun a =>
            let b := (List.range (min argc 6)).foldl (fun b i => wS b (Fin.ofNat 64 (48 + i)) (BitVec.ofNat 64 (v (2 + i))))
              (wS a 47 (BitVec.ofNat 64 (v 1)))
            { b with pc := verbRout e, tsk := { b.tsk with routine := true } }

/-- Whether a context stands between retraction steps (R320, R354, R425). -/
def retracting (s : State) (k : Fin 1024) : Bool :=
  let a := (ctxAt s k).arch
  a.tsk.retr && !a.tsk.routine && !a.hm && a.pc == a.tsk.cont.setWidth 64 && (ctxAt s k).standing.isNone

/-! ### Holds (R310 to R313) -/

/-- A slice's answer to a hold request: granted; to be asked again; the requester's own abort; a fault of its bundle; or no answer
yet, since the budget of the period is spent (R367). -/
inductive HoldAnswer where
  | granted
  | waits
  | own
  | fault (f : FaultRec)
  | later
  deriving DecidableEq, Repr

/-- A context of a job that asks for holds, running or saved (R41), as a task. -/
def taskOf (s : State) (j : BitVec 32) (k : Fin 1024) : Task := ((ringTarget s j k).map (·.arch.tsk)).getD Task.reset

/-- The holders of an object in a context's domain, other than its own task. -/
def otherHolders (s : State) (u : Fin 256) (j : BitVec 32) (t : Task) (obj : Word) : List Hold :=
  (sliceAt s u).holds.filter fun h => h.job = j && h.dom = t.dom && h.obj = obj && h.seq ≠ t.seq

/-- Whether a holder conflicts with a kind. -/
def conflicts (d : Domain) (kind : Nat) (h : Hold) : Bool :=
  (List.range 64).any fun b => h.kinds.getLsbD b && !commute d kind b

/-- Whether a task holds an entry for an object at a slice. -/
def ownEntry (s : State) (u : Fin 256) (j : BitVec 32) (t : Task) (obj : Word) : Bool :=
  (sliceAt s u).holds.any fun h => h.job = j && h.dom = t.dom && h.obj = obj && h.seq = t.seq

/-- Whether an abort has been sent to a holder, whose hold it will free. -/
def underAbort (s : State) (h : Hold) : Bool :=
  let t := taskOf s h.job h.ctx
  t.seq == h.seq && t.dom == h.dom && (t.apend || t.retr)

/-- The fault of a refused hold request (R310). -/
def holdRefused (s : State) (j : BitVec 32) (k : Fin 1024) (obj : Word) (opc : BitVec 8) (r : Refused) : FaultRec :=
  let pc := ((ringTarget s j k).map (·.arch.pc)).getD 0
  { workFault { taskWork s k opc.toNat with bun := pc } r obj 0 .nothing with replay := none }

/-- The youngest of some holders. -/
def youngest (l : List Hold) : Option Hold :=
  l.foldl (fun b h => match b with
    | none => some h
    | some x => if x.seq.toNat < h.seq.toNat then some h else some x) none

/-- The other entries of a slice that tasks of a domain hold. -/
def domainHolders (s : State) (u : Fin 256) (j : BitVec 32) (t : Task) : List Hold :=
  (sliceAt s u).holds.filter fun h => h.job = j && h.dom = t.dom && h.seq ≠ t.seq

/-- The home slice of an object, for a job on a core: its address is translated before the request is sent (R310). One that is no
global address is refused as of a core that answers no hold request. -/
def holdHome (s : State) (c : Fin 256) (j : BitVec 32) (obj : Word) : Except Refused Nat × State :=
  if isGlobal obj then xlate s c j obj.toNat false
  else (.error ⟨0x1B, BitVec.ofNat 16 (((localAddr obj).map (·.2.1)).getD 0)⟩, s)

/-- A slice handles a request (R310 to R312): a conflict, a grant in the task's entry or a new one, or a full table. -/
def answerHold (s : State) (u : Fin 256) (j : BitVec 32) (k : Fin 1024) (kind : BitVec 6) (obj : Word) : HoldAnswer × State :=
  let t := taskOf s j k
  let d := domainOf s j t.dom
  let others := otherHolders s u j t obj
  let bad := others.filter (conflicts d kind.toNat)
  let s := if others.any (fun h => (List.range 64).any fun b => h.kinds.getLsbD b && grammarMiss d kind.toNat b)
    then countSlice s u 0x0105 1 else s
  if bad ≠ [] then
    let s := countSlice s u 0x0104 1
    if bad.any fun h => decide (h.seq.toNat < t.seq.toNat) then (.own, s)
    else (.waits, bad.foldl (sendAbort 1) s)
  else if ownEntry s u j t obj then
    (.granted, modSlice (countSlice s u 0x0103 1) u fun x => { x with holds := x.holds.map fun h =>
      if h.job = j && h.dom = t.dom && h.obj = obj && h.seq = t.seq then { h with kinds := h.kinds ||| (1#64 <<< kind.toNat) } else h })
  else if (sliceAt s u).holds.length < 1024 then
    (.granted, modSlice (countSlice s u 0x0103 1) u fun x =>
      { x with holds := x.holds ++ [⟨j, t.dom, t.seq, k, obj, 1#64 <<< kind.toNat⟩] })
  else if olderTask s j t.dom t.seq then (.waits, s)
  else
    match youngest (domainHolders s u j t) with
    | some h => (.waits, sendAbort 2 s h)
    | none =>
      if (sliceAt s u).holds.all fun h => h.job = j && h.dom = t.dom && h.seq = t.seq then
        (.fault (mkFault 0x4C 0 (some 7) obj 0 0), s)
      else (.waits, s)

/-- One request of a context of a job: to the object's home slice, which refuses it for an object in a code word with an
uncorrectable error (R310, R393). A slice that has spent its budget of the period takes no request (R367). -/
def askHold (j : BitVec 32) (k : Fin 1024) (kind : BitVec 6) (obj : Word) (opc : BitVec 8) (s : State) : HoldAnswer × State :=
  match holdHome s (coreOf k) j obj with
  | (.error r, s) => (.fault (holdRefused s j k obj opc r), s)
  | (.ok pa, s) =>
    let u := homeOf pa
    if (s.budget[3]).toNat ≤ (sliceAt s u).spent3 then (.later, s)
    else
      let s := modSlice s u fun x => { x with spent3 := x.spent3 + 1 }
      if badAt s pa 1 then (.fault (holdRefused s j k obj opc ⟨0x19, 0⟩), s) else answerHold s u j k kind obj

/-- Whether a request that a slice has answered with a wait still waits (R311, R312): for a conflicting holder that has been
aborted, for its own abort, for an entry to free. What stands in its way besides, it meets when it is checked again. -/
def holdStuck (s : State) (j : BitVec 32) (k : Fin 1024) (kind : BitVec 6) (obj : Word) : Bool :=
  let t := taskOf s j k
  match (holdHome s (coreOf k) j obj).1 with
  | .error _ => false
  | .ok pa =>
    let u := homeOf pa
    let bad := (otherHolders s u j t obj).filter (conflicts (domainOf s j t.dom) kind.toNat)
    let near := domainHolders s u j t
    bad.any (underAbort s) || (t.apend && !bad.isEmpty) ||
      (bad.isEmpty && !ownEntry s u j t obj && decide (1024 ≤ (sliceAt s u).holds.length) &&
        (olderTask s j t.dom t.seq || near.any (underAbort s) ||
          (near.isEmpty && (sliceAt s u).holds.any fun h => !(h.job = j && h.dom = t.dom && h.seq = t.seq))))

/-- The requester's own abort (R311): it begins at once, and pends for a context that is saved, or in handler mode (R319). -/
def ownAbort (j : BitVec 32) (k : Fin 1024) (s : State) : State :=
  if liveAt s j (coreOf k) && !(ctxAt s k).arch.hm then beginRetract k 1 0 s
  else modTarget s j k fun c => { c with asked := true, arch := { c.arch with tsk := { c.arch.tsk with apend := true, why := 1 } } }

/-- Asks for the holds of a waiting bundle in order, each granted one leaving the list of what the context waits for; the first
that is not granted ends it (R310, R311). -/
def askHolds (j : BitVec 32) (k : Fin 1024) : List (BitVec 6 × Word × BitVec 8) → State → State
  | [], s => modTarget s j k fun c => { c with granted := true, asked := false }
  | (kind, obj, opc) :: r, s =>
    match askHold j k kind obj opc s with
    | (.granted, s) => askHolds j k r (modTarget s j k fun c => { c with asked := false, waits := c.waits.erase (.hold kind obj opc) })
    | (.waits, s) => modTarget s j k fun c => { c with asked := true }
    | (.fault f, s) => modTarget s j k fun c => { c with holdFault := some f, asked := false }
    | (.own, s) => ownAbort j k s
    | (.later, s) => s

/-- The holds that a context waits for. -/
def wantedHolds (c : Ctx) : List (BitVec 6 × Word × BitVec 8) :=
  c.waits.filterMap fun
    | .hold kind obj opc => some (kind, obj, opc)
    | _ => none

/-- Whether a context has a hold request to send. -/
def asksHold (c : Ctx) : Bool :=
  decide (c.run = .started) && !(wantedHolds c).isEmpty && !c.granted && c.holdFault.isNone && c.arch.task && !c.arch.tsk.retr

/-- A context's request reaches its slice, or reaches it again once what it waited for has gone. -/
def requestHold (k : Fin 1024) (s : State) (j : BitVec 32) : State :=
  match ringTarget s j k with
  | none => s
  | some c =>
    if !asksHold c || (c.asked && (wantedHolds c).any fun q => holdStuck s j k q.1 q.2.1) then s
    else askHolds j k (wantedHolds c) s

/-- HOLD_REQUEST: the request of a context, of the job that runs on its core and of each that stands saved there (R41). -/
def execHoldRequest (k : Fin 1024) (s : State) : Host.Outcome State Fault Refusal :=
  .next (((coreAt s (coreOf k)).job.toList ++ (s.saved.filter fun x => x.core = coreOf k).map (·.job)).foldl (requestHold k) s)

/-! ### Commands of the task unit (R323, R324, R331) -/

/-- The rings' part of a task or ladder command at issue (R257, R258). -/
def ringWaits (e : Bool) (g : Fin 8) : List Wait := if e then [.ringRoom g 1] else []
def ringFaultIf (s : State) (e : Bool) (g : Fin 8) : List FaultRec := if e then ringFault s g else []

/-- What a task command asks for. -/
def taskProbe (e : Bool) (g : Fin 8) (s : State) : Probe :=
  { regProbe [] 0 s with faults := ringFaultIf s e g, waits := ringWaits e g }

/-- A task command issues. -/
def taskEffect (opc : Nat) (e : Bool) (g : Fin 8) (kind : Arch → WorkKind) (s : State) : State :=
  let s := setRepeat s
  let ring := if e then some g else none
  let s := pushWork s (newWork s opc 5 0 ring (bit e) (kind (curArch s)) [] 0 0)
  if e then reserve s.cur g 1 s else s

def execTspawn (a : Fin 64) (e : Bool) (g : Fin 8) (s : State) : Host.Outcome State Fault Refusal :=
  runSlot (taskProbe e g) (taskEffect 0x60 e g fun r => .spawn (rS r a)) s

def execGload (d a : Fin 64) (e : Bool) (g : Fin 8) (n : Fin 64) (s : State) : Host.Outcome State Fault Refusal :=
  runSlot (taskProbe e g) (taskEffect 0x68 e g fun r => .gload (rS r d) (rS r a) (n.val + 1)) s

def execVtab (d a : Fin 64) (e : Bool) (g : Fin 8) (s : State) : Host.Outcome State Fault Refusal :=
  runSlot (taskProbe e g) (taskEffect 0x69 e g fun r => .vtab (rS r d) (rS r a)) s

/-- A descriptor's own faults (R304, R324, R414 SPAWN). -/
def spawnBad (x : Job) (stack : Fin 4) (v : Nat → Nat) : Bool :=
  let d := BitVec.ofNat 8 (v 0 / 2 ^ 32)
  decide (2 ^ 41 ≤ v 0) || d.getLsbD 6 || (domSent d && domClause d != 0) || v 5 / 2 ^ 46 % 2 ^ 17 != 0 || !domPools x d ||
    (!domSent d && domClause d != stack.val) || (v 5 / 2 ^ 63 == 1 && !x.names (Fin.ofNat 256 (v 5 / 2 ^ 32)))

/-- A spawn performs: number taken, words 7 and 6 written, the task in its pool; a refused write of them is reported, and the
spawn stands (R304, R324). -/
def performSpawn (s : State) (w : Work) (desc : Word) : Option EngineFail × State :=
  match findJob s w.job, runLM desc (lread w none desc.toNat 64) s with
  | none, (_, s) => (some ⟨0x0220, desc⟩, s)
  | some _, (.error e, s) => (some e, s)
  | some x, (.ok bs, s) =>
    let v := fun i => (bytesWords 8 bs).getD i 0
    let stack := stackOf (coreOf w.ctx)
    if spawnBad x stack v then (some ⟨0x0220, desc⟩, s)
    else
      let dw := BitVec.ofNat 8 (v 0 / 2 ^ 32)
      let d := domainOf s w.job dw
      let gate := if v 5 / 2 ^ 63 = 1 then some (v 5 / 2 ^ 32 % 256, v 5 / 2 ^ 40 % 64, BitVec.ofNat 32 (v 5)) else none
      let item : TaskItem := ⟨d.ctr, desc, stack, gate, gate.isNone, none⟩
      let s := setDomain s w.job { d with ctr := d.ctr + 1, tasks := d.tasks ++ [item] }
      let s := match gate with
        | some g => openGates s w.job (Fin.ofNat 256 g.1) g.2.1
        | none => s
      let put (a : Word) (x : Nat) (s : State) : Option (Refused × Word) × State :=
        match writeAt s w a (leBytes 8 x) with
        | (.error e, s) => (some (e, a), s)
        | (.ok _, s) => (none, s)
      let p := put (desc + 56) d.ctr.toNat s
      let q := put (desc + 48) 0 p.2
      let refused := p.1.toList ++ q.1.toList
      match w.ring, refused with
      | some _, (e, a) :: _ => (some ⟨engineCode e, a⟩, q.2)
      | _, _ => (none, refused.foldl (fun s r => defer s w.ctx w.seq w.handler (workFault w r.1 r.2 0 .nothing)) q.2)

/-- `GLOAD` performs (R331). -/
def performGload (s : State) (w : Work) (dom addr : Word) (n : Nat) : Option EngineFail × State :=
  let dw := dom.setWidth 8
  if (domainOf s w.job dw).tasks ≠ [] then (some ⟨0x0221, addr⟩, s)
  else
    match runLM addr (lread w none addr.toNat (8 * n)) s with
    | (.error e, s) => (some e, s)
    | (.ok bs, s) =>
      let rows := bytesWords n bs
      (none, modDomain s w.job dw fun d =>
        { d with loaded := n, grammar := Vector.ofFn fun i : Fin 64 =>
            if i.val < n then BitVec.ofNat 64 (rows.getD i.val 0) else d.grammar[i] })

/-- `VTAB` performs (R331). -/
def performVtab (s : State) (w : Work) (dom addr : Word) : Option EngineFail × State :=
  let dw := dom.setWidth 8
  if (domainOf s w.job dw).tasks ≠ [] then (some ⟨0x0221, addr⟩, s)
  else
    match runLM addr (lread w none addr.toNat 1024) s with
    | (.error e, s) => (some e, s)
    | (.ok bs, s) =>
      let ws := bytesWords 128 bs
      (none, modDomain s w.job dw fun d => { d with verbs := Vector.ofFn fun i : Fin 64 => BitVec.ofNat 64 (ws.getD (2 * i.val) 0) })

/-! ### Task instructions (R325 to R332, R422) -/

/-- The cases of TASKSTATE that several instructions share: inside a verb, during retraction. -/
def taskState (s : State) (outside : Bool) (more : Option Nat) : List FaultRec :=
  let r := curArch s
  let case : Option Nat :=
    if outside && !r.task then some 1 else if r.verb then some 2 else if r.tsk.retr then some 3 else more
  match case with
  | some c => [slotFault s 0x48 c (statusWord r) 0 0]
  | none => []

/-- DELAY for an instruction that may not stand in a delay bundle. -/
def delayFault (s : State) : List FaultRec :=
  if (curArch s).xfer.isSome then [slotFault s 0x03 s.slot.val 0 0 0] else []

/-- Whether the pages of an undo region all translate writable (R422 case 5). -/
def undoWritable (s : State) (base size : Nat) : Bool :=
  let hi := base + 64 * size
  decide (hi ≤ 2 ^ 48) &&
    (List.range ((hi + 65535) / 65536 - base / 65536)).all fun i =>
      match (xlate s (coreOf s.cur) (jobOf s s.cur) (max base ((base / 65536 + i) * 65536)) true).1 with
      | .ok _ => true
      | .error _ => false

/-- The case of TASKSTATE that `TBEGIN` adds. -/
def beginCase (d u : Fin 64) (s : State) : Option Nat :=
  let r := curArch s
  let desc := rS r d
  let region := rS r u
  let fresh := r.tsk.delivered.any fun x => x.desc = desc && !x.begun
  let boosted := match (readAt s ⟨coreOf s.cur, s.cur, jobOf s s.cur, none, 4⟩ desc 8).1 with
    | .ok bs => leVal bs / 2 ^ 40 % 2 == 1
    | .error _ => false
  if r.task || !fresh || !boosted then some 4
  else if region.toNat / 2 ^ 48 = 0 ∨ region.toNat % 64 ≠ 0 ∨
      !undoWritable s (region.toNat % 2 ^ 48) (region.toNat / 2 ^ 48) then some 5
  else none

/-- `TBEGIN` (R325). `SEQ` is word 7 of the descriptor, and the task is known by it from here on; a word that cannot be read leaves
the number the task was delivered with. -/
def execTbegin (c d u : Fin 64) (q : Bool) (s : State) : Host.Outcome State Fault Refusal :=
  runSlot (fun s => { regProbe [] 0 s with faults := taskState s false (beginCase d u s) })
    (fun s =>
      let r := curArch s
      let desc := rS r d
      match r.tsk.delivered.find? fun x => x.desc = desc && !x.begun with
      | none => s
      | some x =>
        let region := rS r u
        let w7 := readAt s ⟨coreOf s.cur, s.cur, jobOf s s.cur, none, 4⟩ (desc + 56) 8
        let seq := match w7.1 with
          | .ok bs => BitVec.ofNat 64 (leVal bs)
          | .error _ => x.seq
        let t : Task := { Task.reset with
          cont := (rS r c).setWidth 32, ubase := region &&& 0xFFFFFFFFFFFF, usize := BitVec.ofNat 16 (region.toNat / 2 ^ 48),
          req := q, seq, desc, dom := x.dom,
          delivered := r.tsk.delivered.map fun y => if y.seq = x.seq ∧ y.dom = x.dom then { y with seq, begun := true } else y }
        let renumber (y : TaskItem) : TaskItem :=
          if y.running = some s.cur ∧ y.desc = desc ∧ y.seq = x.seq then { y with seq } else y
        let s := modDomain w7.2 (jobOf s s.cur) x.dom fun d => { d with tasks := d.tasks.map renumber }
        setRepeat (modArch s s.cur fun a => { a with task := true, tsk := t })) s

/-- What `TCOMMIT` asks for: case 6 without a task, the release, and for `.ORD` no older task (R326). -/
def commitProbe (ord : Bool) (s : State) : Probe :=
  { regProbe [] 0 s with
    faults := taskState s false (if (currentTask (curArch s)).isNone then some 6 else none)
    waits := .released :: if ord then [.oldest] else [] }

/-- Releases the references of the images on the undo stack (R321), from the top down; `fuel` is the entries left. -/
def dropImages (w : Work) (base : Nat) : (fuel n : Nat) → State → Tries
  | 0, _, s => ([], s)
  | fuel + 1, n, s =>
    if n = 0 then ([], s)
    else
      match lread w none (base + 64 * (n - 1)) 8 s with
      | (.error e, s) => triesThen ([e], s) (dropImages w base fuel (n - 1))
      | (.ok bs, s) =>
        let extra := leVal bs / 2 ^ 16 % 256
        if leVal bs % 64 ≤ 7 ∧ extra = 8 then
          triesThen (tryLM ((lread w none (base + 64 * (n - 9)) 512).bind fun img => dropImage w (bytesWords 64 img)) s)
            (dropImages w base fuel (n - 9))
        else dropImages w base fuel (n - (1 + extra)) s

/-- A task of a context commits (R321). -/
def commitNow (k : Fin 1024) (opc : Nat) (st : Option (BitVec 16)) (s : State) : State :=
  let a := (ctxAt s k).arch
  match currentTask a with
  | none => s
  | some x =>
    let w := askedWork s k opc st
    let r := if a.task then
        triesThen (commitHolds w x.dom x.seq s) (dropImages w a.tsk.ubase.toNat a.tsk.utop.toNat a.tsk.utop.toNat)
      else ([], s)
    let s := r.1.foldl (deferStep k w) r.2
    let s := putTaskWord k opc x.desc (fun y => if y % 2 = 1 then y else y + 1) st s
    let s := freeHolds s w.job x.dom x.seq
    let s := modDomain s w.job x.dom fun d => { d with tasks := d.tasks.filter fun y => y.seq ≠ x.seq }
    dropTask k x.dom x.seq s

/-- `TCOMMIT` takes effect (R321, R326), once the host memory that it reads has come; till then its context stands (R358). -/
def commitEffect (opc : Nat) (s : State) : State :=
  runAsk (setRepeat s) (newAsk (.commit s.cur opc)) (.job (jobOf s s.cur)) (commitNow s.cur opc)

def execTcommit (s : State) : Host.Outcome State Fault Refusal := runSlot (commitProbe false) (commitEffect 0x62) s

def execTcommitOrd (s : State) : Host.Outcome State Fault Refusal := runSlot (commitProbe true) (commitEffect 0x63) s

def execTabort (w : Fin 64) (s : State) : Host.Outcome State Fault Refusal :=
  runSlot (fun s => { regProbe [] 0 s with faults := taskState s true none })
    (fun s =>
      let s := setRepeat (beginRetract s.cur 3 w.val s)
      { s with flow := .jumped ((curArch s).tsk.cont.setWidth 64) }) s

/-- The fault of a hold request that the bundle next to issue has met (R310, R312). -/
def holdFaults (s : State) : List FaultRec := (curCtx s).holdFault.toList

def execVcall (o k : Fin 64) (s : State) : Host.Outcome State Fault Refusal :=
  runSlot (fun s =>
      let r := curArch s
      let e := verbEntry s (jobOf s s.cur) r.tsk.dom (BitVec.ofNat 6 k.val)
      { regProbe [⟨0, 47⟩, ⟨0, 63⟩] 2 s with
        faults := delayFault s ++ taskState s true none ++
          (if r.task && !verbValid e then [slotFault s 0x49 k.val 0 0 0] else []) ++ holdFaults s
        waits := [.hold (BitVec.ofNat 6 k.val) (rS r o) 0x65] })
    (fun s =>
      let r := curArch s
      let e := verbEntry s (jobOf s s.cur) r.tsk.dom (BitVec.ofNat 6 k.val)
      let s := land 1 (.sreg 63 (nextBundle s)) 0 (land 1 (.sreg 47 (rS r o)) 0 (setRepeat s))
      let s := modCtx s s.cur fun c => { c with granted := false, asked := false, arch := { c.arch with
        verb := true, tsk := { c.arch.tsk with icnt := false, kind := BitVec.ofNat 6 k.val, obj := rS r o, args := [] } } }
      { s with flow := .jumped (verbRout e) }) s

def execVinv (f n : Fin 64) (s : State) : Host.Outcome State Fault Refusal :=
  runSlot (fun s =>
      let r := curArch s
      let j := jobOf s s.cur
      let inv := verbInv (verbEntry s j r.tsk.dom r.tsk.kind)
      let case : Option Nat :=
        if !r.verb || r.tsk.retr then some 4
        else if r.tsk.icnt then some 2
        else if n.val ≠ verbArgc (verbEntry s j r.tsk.dom inv) ∨ 64 < f.val + n.val then some 3 else none
      { regProbe [] 0 s with faults := match case with
          | some c => [slotFault s 0x4A c 0 0 0]
          | none => [] })
    (fun s =>
      let r := curArch s
      modTask s s.cur fun t => { t with icnt := true, args := (List.range n.val).map fun i => rS r (Fin.ofNat 64 (f.val + i)) }) s

/-- UNDOFULL when `n` more entries would not fit (R422). -/
def undoFull (s : State) (n : Nat) : List FaultRec :=
  let t := (curArch s).tsk
  if t.usize.toNat < t.utop.toNat + t.reserved + n then
    [slotFault s 0x4B n (t.utop.setWidth 64) (t.usize.setWidth 64) 0] else []

def execVret (s : State) : Host.Outcome State Fault Refusal :=
  runSlot (fun s =>
      let t := (curArch s).tsk
      { regProbe [] 0 s with faults := delayFault s ++ (if t.retr then [] else
          (if !t.icnt then [slotFault s 0x4A 1 0 0 0] else []) ++ undoFull s 1) })
    (fun s =>
      let r := curArch s
      let t := r.tsk
      let s := setRepeat s
      if t.retr then
        let s := modTask s s.cur fun t => { t with routine := false, utop := if t.routine then t.utop - 1 else t.utop }
        { s with flow := .jumped (t.cont.setWidth 64) }
      else
        let inv := verbInv (verbEntry s (jobOf s s.cur) t.dom t.kind)
        let s := pushUndo (taskWork s s.cur 0x67) 0 [undoEntry t.kind.toNat inv.toNat t.args.length 0 t.obj t.args] s
        let s := modArch s s.cur fun a => { a with verb := false, tsk := { a.tsk with icnt := false } }
        { s with flow := .jumped (rS r 63 &&& 0xFFFFFFFF) }) s

/-- What `TSTAT` reads (R332). -/
def taskStat (r : Arch) (sel : Nat) : Word :=
  match currentTask r with
  | none => 0
  | some x =>
    if sel = 0 then x.seq
    else if sel = 1 then x.desc
    else if !r.task then 0
    else if sel = 2 then r.tsk.utop.setWidth 64
    else BitVec.ofNat 64 (bit r.task + 2 * bit r.verb + 4 * bit r.tsk.retr + 8 * bit r.tsk.apend + 16 * bit r.tsk.req)

def execTstat (d : Fin 64) (x : Fin 4) (s : State) : Host.Outcome State Fault Refusal :=
  sForm d 1 (fun r => taskStat r x.val) s

end Sys2Proof.Machine
end

