-- ==== Sys2Proof/Machine/Perform.lean ====
section
/-! DEFINITION. How a piece of outstanding work performs and ends, for every kind of work: the accesses of Access, the commands
of the engines, the ladder unit's operations with their undo entries (R257 to R274, R317, R318, R354), and the messages to the host
that an access to host memory takes (R358). -/

namespace Sys2Proof.Machine

/-! ### The ladder unit (R259 to R272) -/

/-- `GEOM` as read by an `LNEW` or `LBIND` reaches the handles and operations that wait for it (R260, R262). -/
def patchBind (s : State) (k : Fin 1024) (q : Nat) (g : BitVec 9) : State :=
  let fix (h : Handle) : Handle := if h.bind = q ∧ q ≠ 0 then { h with geom := g, bind := 0 } else h
  let s := modCtx s k fun c =>
    let fl := c.flight.map fun f => match f.act with
      | .handle i h => { f with act := .handle i (fix h) }
      | _ => f
    { c with flight := fl, arch := { c.arch with h := c.arch.h.map fix } }
  modCore s (coreOf k) fun c => { c with work := c.work.map fun w => match w.kind with
    | .ladder l => if w.ctx = k then { w with kind := .ladder { l with hd := fix l.hd, hd2 := fix l.hd2 } } else w
    | _ => w }

/-- What a ladder operation hands back: undo entries for its task. -/
abbrev Undo := List (List Byte)

/-- Whether an operation issued as its built-in verb (R317): `idx` 1, which is the slot of `MCDEP` alone elsewhere. -/
def cmdVerb (c : LadderCmd) : Bool := c.idx == 1 && decide (c.op.toNat < 0x4A)

/-- Runs a verb whose inverse is an image restore: the image is taken first, its entries go back with the verb's end (R318); a verb that
fails before its first write leaves nothing raised (R415). -/
def withImage (w : Work) (c : LadderCmd) (kind : Nat) (desc : Word) (m : LM Unit) : LM Undo :=
  if cmdVerb c then
    LM.prepared (takeImage w desc.toNat) fun d => m.bind fun _ => .pure (imageEntries kind desc d)
  else m.bind fun _ => .pure []

/-- The query of an `LREAD` (R267). -/
def readQuery (w : Work) (c : LadderCmd) : LM (List (BitVec 32)) :=
  let n := geomDk c.hd.geom.toNat
  (lspad w c.x.toNat (4 * n)).bind fun bs => .pure (bytes32 n bs)

/-- The effect of an operation, by opcode. -/
def ladderRun (w : Work) (c : LadderCmd) : LM Undo :=
  let desc := c.hd.desc
  let u : Under := ⟨c.hd.geom.toNat, desc.toNat, c.inTask, c.pend⟩
  let seq := c.taskSeq.toNat
  let op := c.op.toNat
  if op = 0x42 then
    if appPre c.x then
      (prebuiltSpan w c).bind fun q => (appendSpan w u seq q.1 q.2 (appBeta c.x)).bind fun n0 =>
        .pure (if cmdVerb c then [undoEntry 0 1 1 0 desc [BitVec.ofNat 64 n0]] else [])
    else
      (tokenSpan w c).bind fun t => (appendSpan w u seq t 0 (appBeta c.x)).bind fun n0 =>
        .pure (if cmdVerb c then [undoEntry 0 1 1 0 desc [BitVec.ofNat 64 n0]] else [])
  else if op = 0x43 then withImage w c 5 desc (carrySpan w u seq c.x.toNat)
  else if op = 0x44 then withImage w c 3 c.hd2.desc (forkInto w desc.toNat c.hd2.desc.toNat)
  else if op = 0x45 then withImage w c 1 desc (truncate w u c.x.toNat)
  else if op = 0x46 then withImage w c 4 desc (dropAll w u)
  else if op = 0x49 then withImage w c 6 desc (keepMask w u c.x.toNat)
  else if op = 0x47 then
    (readQuery w c).bind fun q =>
      (readLadder w u q (c.y.toNat / 2 ^ 24 % 64) (c.y.toNat / 2 ^ 32 % 64)).bind fun r =>
        (lspadWrite w (c.y.toNat % 2 ^ 19) (tripleRecord r.1 r.2)).bind fun _ => .pure []
  else if op = 0x48 then
    (getDesc w desc.toNat).bind fun d =>
      (checkBlocks w d).bind fun _ => (lspadWrite w c.x.toNat (walkEntries d)).bind fun _ => .pure []
  else if op = 0x50 then (cellInit w c.x.toNat c.y.toNat).bind fun _ => .pure []
  else if op = 0x51 then (cellDeposit w c.x.toNat (c.y.toNat % 2 ^ 19) c.idx).bind fun _ => .pure []
  else (cellGet w c.x.toNat (c.y.toNat % 2 ^ 19)).bind fun _ => .pure []

/-- The entries an operation has reserved on its task's undo stack (R422). -/
def undoNeed (c : LadderCmd) : Nat :=
  let op := c.op.toNat
  if !cmdVerb c then 0
  else if op = 0x42 then 1
  else if op = 0x43 ∨ op = 0x44 ∨ op = 0x45 ∨ op = 0x46 ∨ op = 0x49 then 9
  else 0

/-- `LNEW` or `LBIND` performs: the descriptor is written or read, and `GEOM` handed on (R261, R262). DEDUCED (see the log): `LBIND`
fails with DESC for a reserved bit of the descriptor, as R415 has of every operation that obtains one; R416 lists no engine failure
of it. -/
def performBind (s : State) (w : Work) (c : LadderCmd) : Option EngineFail × State :=
  let m : LM Nat :=
    if c.op = 0x40 then newLadder w c.hd.desc.toNat c.x.toNat
    else (getDesc w c.hd.desc.toNat).bind fun d => .pure (d.word 50)
  match runLM c.hd.desc m s with
  | (.error e, s) => (some e, patchBind { s with free := s.free + 1 } w.ctx w.seq (Config.failedGeom s.free))
  | (.ok g, s) => (none, patchBind s w.ctx w.seq (BitVec.ofNat 9 g))

/-- `LCNT`'s read performs: its value arrives, or its landing fault (R269). -/
def performCount (s : State) (w : Work) (c : LadderCmd) : State :=
  let a := c.hd.desc
  match runLM a (getDesc w a.toNat) s with
  | (.ok d, s) => arrive (countEvent s (coreOf w.ctx) 0x000A 1) w.ctx w.seq fun
    | .sreg r _ => .sreg r (countValue d)
    | x => x
  | (.error e, s) =>
    if memoryFailure e then arriveFault s w.ctx w.seq (workFault w (refusalOf s (viaOf w) e) a 0)
    else arriveFault s w.ctx w.seq fun _ => ⟨0x4D, e.code, some w.slot, a, commandWord w, 0, none⟩

/-- A ladder or merge-cell operation performs, with its undo entries. -/
def performLadder (s : State) (w : Work) (c : LadderCmd) : Option EngineFail × State :=
  if c.op = 0x40 ∨ c.op = 0x41 then performBind s w c
  else
    let a := if 0x50 ≤ c.op.toNat then c.x else if c.op = 0x44 then c.hd2.desc else c.hd.desc
    match runLM a (ladderRun w c) s with
    | (.error e, s) => (some e, modTask s w.ctx fun t => { t with reserved := t.reserved - undoNeed c })
    | (.ok es, s) => (none, if es = [] then s else pushUndo w (undoNeed c) es s)

/-! ### Slot loads that are replayed (R380) -/

/-- The words of a slot load, read again: a word still in error faults again. -/
def performSpload (s : State) (w : Work) (offs : List (Option Nat)) (size : Nat) (signed : Bool) : State :=
  let c := coreOf w.ctx
  match (offs.filterMap id).find? fun o => badAt s (spadKey c o) size with
  | some o => arriveFault s w.ctx w.seq (workFault w ⟨0x80, 0⟩ (BitVec.ofNat 64 o) 0)
  | none =>
    let word := fun (o : Nat) => leVal (memRead s.mem (spadKey c o) size)
    arrive s w.ctx w.seq fun
      | .sreg d _ => .sreg d (extendTo size signed (word ((offs.getD 0 none).getD 0)))
      | .vreg d _ lanes =>
        if size = 256 then .vreg d (BitVec.ofNat 2048 (word ((offs.getD 0 none).getD 0))) lanes
        else .vreg d (ofLanes fun i => match offs.getD i none with
          | some o => BitVec.ofNat 32 (word o)
          | none => 0) lanes
      | a => a

/-- An accumulator row, read again. -/
def performRowload (s : State) (w : Work) (e : Fin 8) (row : Fin 128) (half : Bool) : State :=
  let c := coreOf w.ctx
  let b := bankAt s c e
  let off := entryOff b e row.val (if b.mode = 2 then 0 else 64 * bit half)
  if b.al && badAt s (localKey 1 c.val off) (if b.mode = 2 then 512 else 256) then
    arriveFault s w.ctx w.seq (workFault w ⟨0x80, 1⟩ (BitVec.ofNat 64 off) 0)
  else
    let q := rowValue s c e row.val half
    let s := modArch s w.ctx fun a => raiseAstat q.2.1 (raiseFlags q.2.2 a)
    arrive s w.ctx w.seq fun
      | .vreg d _ lanes => .vreg d q.1 lanes
      | a => a

/-! ### Any piece of work -/

/-- A flag write to another device leaves as a flit (R298, R362); it performs when its acknowledgement returns. -/
def sendFlag (s : State) (w : Work) (dev : BitVec 13) (cores : Word) (stack core : Nat) (word : Fin 64) (x : BitVec 32)
    (add : Bool) : State :=
  let targets : List Nat :=
    if add then [core] else ((List.range 64).filter fun i => cores.getLsbD i).map fun i => stack * 64 + i
  let s := targets.foldl (fun s c =>
    sendFlit s dev 2 (BitVec.ofNat 64 (c * 64 + word.val)) (leBytes 4 x.toNat ++ [BitVec.ofNat 8 (bit add)]) w.job) s
  modWork s (coreOf w.ctx) w.seq fun y => { y with acks := targets.length }

/-- A piece of work performs (R278), whatever its kind; `WNEXT`'s request is served elsewhere (R48). `cut` is the block of a `CPYX`
that the watchdog cuts off (R405). -/
def performRaw (s : State) (w : Work) (cut : Option Nat) : State :=
  match w.kind with
  | .load r => endCommand (performLoad s w r) w none
  | .amo r ret => endCommand (performAmo s w r ret) w none
  | .vstg a x => endCommand (performVstg s w a x) w none
  | .l1op a n inv => endCommand (performL1 s w a n inv) w none
  | .spart u n => endCommand (performSpart s w (Fin.ofNat 256 u) n) w none
  | .flagw cores stack core word x add none => endCommand (performFlag s w cores stack core word x add) w none
  | .flagw cores stack core word x add (some dev) => sendFlag s w dev cores stack core word x add
  | .copy c =>
    let r := performCopy s w c cut
    let waits := patRemote c.op.toNat c.pat && (match findWork r.2 (coreOf w.ctx) w.seq with
      | some x => x.acks != 0
      | none => false)
    if r.1.isNone && waits then r.2 else endCommand r.2 w r.1
  | .drain c => let r := performDrain s w c; endCommand r.2 w r.1
  | .ladder c =>
    if c.op = 0x4A then endCommand (performCount s w c) w none
    else
      let r := performLadder s w c
      endCommand (if r.1.isNone then countEvent r.2 (coreOf w.ctx) 0x000A 1 else r.2) w r.1
  | .spawn a => let r := performSpawn s w a; endCommand r.2 w r.1
  | .gload d a n => let r := performGload s w d a n; endCommand r.2 w r.1
  | .vtab d a => let r := performVtab s w d a; endCommand r.2 w r.1
  | .wnext _ => s
  | .spload offs size signed => endCommand (performSpload s w offs size signed) w none
  | .rowload e row half => endCommand (performRowload s w e row half) w none

/-- The `READ`s and `WRITE`s that a piece of work has still to send. A read that has been answered for it is not sent again. -/
def readsToSend (w : Work) (ms : List HostMsg) : List HostMsg :=
  (ms.filter fun m => m.type = 0 && !w.seen.contains (m.addr.toNat, m.len.toNat)).eraseDups

/-- Performs a piece of work. One that reaches host memory first sends the reads it needs, then its writes, and performs when they
have been answered (R358); until then the machine stands as it stood. -/
def perform (s : State) (w : Work) (cut : Option Nat := none) : State :=
  let r := performRaw { s with want := [] } w cut
  let reads := readsToSend w r.want
  let writes := r.want.filter fun m => m.type = 1
  let send (stage : Fin 3) (ms : List HostMsg) : State :=
    let q := postMsgs ms s
    modWork q.2 (coreOf w.ctx) w.seq fun x => { x with hostStage := stage, heldSince := some s.cycle, tags := q.1 }
  if reads ≠ [] then send 1 reads
  else if w.hostStage.val ≤ 1 ∧ writes ≠ [] then send 2 writes
  else { r with want := s.want }

/-- Whether a piece of work has been sent out and waits for answers: of the host, or of another device. -/
def awaiting (w : Work) : Bool :=
  !w.performed && (match w.kind with
    | .wnext _ => false
    | _ => !w.tags.isEmpty || decide (w.acks ≠ 0))

/-- A store of bytes through a slot port (R123, R124). -/
def slotStore (s : State) (off : Nat) (bs : List Byte) : State := putBytes s (spadKey (coreOf s.cur) off) bs

end Sys2Proof.Machine
end

