-- ==== Sys2Proof/Machine/ScalarMem.lean ====
section
/-! DEFINITION. The S slot's memory operations: scratchpad loads and stores, landing loads, L1 range operations, global
atomics and massif partitioning (R123 to R130, R381). -/

namespace Sys2Proof.Machine

/-! ### Scratchpad loads and stores (R123, R124) -/

/-- What a slot access of `n` scratchpad bytes waits for: the context's earlier accesses to them (R281). -/
def spadWaits (s : State) (addr : Word) (n : Nat) : List Wait := [.earlier (spadKey (coreOf s.cur) addr.toNat) n]

/-- Reports a store whose bytes at `off` cover part of a word in error, which stays as it is (R393). -/
def reportPart (opc : Nat) (c : Fin 16) (off n : Nat) (s : State) : State :=
  if badPart s (spadKey (coreOf s.cur) off) n then
    defer s s.cur s.seq (curArch s).hm
      { spData s opc c 0 0 0 off (.spload [] n false) .nothing with replay := none }
  else s

/-- A load: its bytes are read from the bank in the issue cycle, after the context's earlier accesses to them (R281), and land at
t + 3. -/
def loadForm (opc size : Nat) (signed : Bool) (d a : Fin 64) (o : BitVec 32) (c : Fin 16) (s : State) :
    Host.Outcome State Fault Refusal :=
  runSlot (fun s =>
      let x := memAddr s a o size
      { regProbe (wrS d) 1 s with
        faults := spadFaults s x size size false, rbanks := bankMask x.toNat size, waits := spadWaits s x size })
    (fun s =>
      let off := (memAddr s a o size).toNat
      let key := spadKey (coreOf s.cur) off
      if badAt s key size then
        landFault 3 (.sreg d 0) (spData s opc c d 3 0 off (.spload [some off] size signed) (.sreg d 0)) s
      else land 3 (.sreg d (extendTo size signed (memVal s.mem key size))) 0 s) s

/-- A store: its bytes are written in the issue cycle, after the context's earlier accesses to them (R281); part of a word in error
is left, and reported (R393). -/
def storeForm (opc size : Nat) (d a : Fin 64) (o : BitVec 32) (c : Fin 16) (s : State) : Host.Outcome State Fault Refusal :=
  runSlot (fun s =>
      let x := memAddr s a o size
      { regProbe [] 0 s with
        faults := spadFaults s x size size true, wbanks := bankMask x.toNat size, waits := spadWaits s x size
        stores := [(x.toNat, size)] })
    (fun s =>
      let off := (memAddr s a o size).toNat
      slotStore (reportPart opc c off size s) off (leBytes size (rS (curArch s) d).toNat)) s

def execLdB (d a : Fin 64) (o : BitVec 32) (c : Fin 16) (s : State) : Host.Outcome State Fault Refusal :=
  loadForm 0x60 1 true d a o c s

def execLdH (d a : Fin 64) (o : BitVec 32) (c : Fin 16) (s : State) : Host.Outcome State Fault Refusal :=
  loadForm 0x61 2 true d a o c s

def execLdW (d a : Fin 64) (o : BitVec 32) (c : Fin 16) (s : State) : Host.Outcome State Fault Refusal :=
  loadForm 0x62 4 true d a o c s

def execLdD (d a : Fin 64) (o : BitVec 32) (c : Fin 16) (s : State) : Host.Outcome State Fault Refusal :=
  loadForm 0x63 8 true d a o c s

def execLdBz (d a : Fin 64) (o : BitVec 32) (c : Fin 16) (s : State) : Host.Outcome State Fault Refusal :=
  loadForm 0x64 1 false d a o c s

def execLdHz (d a : Fin 64) (o : BitVec 32) (c : Fin 16) (s : State) : Host.Outcome State Fault Refusal :=
  loadForm 0x65 2 false d a o c s

def execLdWz (d a : Fin 64) (o : BitVec 32) (c : Fin 16) (s : State) : Host.Outcome State Fault Refusal :=
  loadForm 0x66 4 false d a o c s

def execStB (d a : Fin 64) (o : BitVec 32) (c : Fin 16) (s : State) : Host.Outcome State Fault Refusal :=
  storeForm 0x67 1 d a o c s

def execStH (d a : Fin 64) (o : BitVec 32) (c : Fin 16) (s : State) : Host.Outcome State Fault Refusal :=
  storeForm 0x68 2 d a o c s

def execStW (d a : Fin 64) (o : BitVec 32) (c : Fin 16) (s : State) : Host.Outcome State Fault Refusal :=
  storeForm 0x69 4 d a o c s

def execStD (d a : Fin 64) (o : BitVec 32) (c : Fin 16) (s : State) : Host.Outcome State Fault Refusal :=
  storeForm 0x6A 8 d a o c s

/-! ### Landing loads (R125) -/

/-- The ADDRESS fault of an access (R381, R382). -/
def addressFault (s : State) (ok : Bool) (x : Word) : List FaultRec := if ok then [] else [slotSub s 0x09 x 0]

/-- A landing load: it goes out at issue, and its value lands at t + dist. -/
def landForm (opc size : Nat) (signed : Bool) (d a : Fin 64) (o : BitVec 24) (t : BitVec 16) (c : Fin 16) (s : State) :
    Host.Outcome State Fault Refusal :=
  runSlot (fun s =>
      let x := lndAddr s a o size
      { regProbe (wrS d) 1 s with faults := addressFault s (landAddrOk x size) x })
    (fun s =>
      let x := lndAddr s a o size
      landLate t.toNat (.sreg d 0) s.seq
        (pushWork s (newWork s opc 0 c none 0 (.load ⟨x, size, signed⟩) (footOf x size) d t))) s

def execLdlW (d a : Fin 64) (o : BitVec 24) (t : BitVec 16) (c : Fin 16) (s : State) : Host.Outcome State Fault Refusal :=
  landForm 0x6B 4 true d a o t c s

def execLdlWz (d a : Fin 64) (o : BitVec 24) (t : BitVec 16) (c : Fin 16) (s : State) : Host.Outcome State Fault Refusal :=
  landForm 0x6C 4 false d a o t c s

def execLdlD (d a : Fin 64) (o : BitVec 24) (t : BitVec 16) (c : Fin 16) (s : State) : Host.Outcome State Fault Refusal :=
  landForm 0x6D 8 false d a o t c s

/-! ### L1 range operations (R126) -/

/-- `L1INV` and `L1WB`: a result due at t + 1 that waits for every covered sector. -/
def rangeForm (inv : Bool) (a b : Fin 64) (p : Fin 16) (n : Bool) (s : State) : Host.Outcome State Fault Refusal :=
  runSlot (fun s =>
      let r := curArch s
      let bad := !isGlobal (rS r a) || decide (2 ^ 48 < (rS r a).toNat + (rS r b).toNat)
      { predProbe p n [] 1 s with faults := if guarded r p n && bad then [slotSub s 0x0D (rS r a) 0] else [] })
    (predEffect p n fun s =>
      let x := rS (curArch s) a
      let y := rS (curArch s) b
      landLate 1 .nothing s.seq
        (pushWork s (newWork s (if inv then 0x6E else 0x6F) 0 0 none 0 (.l1op x y inv) [(x.toNat, x.toNat + y.toNat)] 0 0))) s

def execL1inv (a b : Fin 64) (p : Fin 16) (n : Bool) (s : State) : Host.Outcome State Fault Refusal := rangeForm true a b p n s

def execL1wb (a b : Fin 64) (p : Fin 16) (n : Bool) (s : State) : Host.Outcome State Fault Refusal := rangeForm false a b p n s

/-! ### Atomics (R127 to R129) -/

/-- The sector of an address in the issuing core's L1 is written back when dirty and is invalid from the issue on (R128). The
translation is only looked up: what it would leave in a TLB, the access leaves when it performs. -/
def invalidateSector (addr : Word) (s : State) : State :=
  let c := coreOf s.cur
  match (xlate s c (jobOf s s.cur) addr.toNat false).1 with
  | .ok pa => dropL1 (postSector c) s c pa
  | .error _ => s

/-- `AMO` (`ret`) and `RED`: sent at issue; an `AMO` takes a place in the return queue. -/
def atomicForm (op : Nat) (ret z : Bool) (c : Fin 16) (a b x : Fin 64) (s : State) : Host.Outcome State Fault Refusal :=
  let size := if z then 8 else 4
  runSlot (fun s =>
      let addr := rS (curArch s) a
      let full := if ret && decide (16 ≤ (curCtx s).amoq.length) then [slotFault s 0x0C 1 0 0 0] else []
      let f := full ++ addressFault s (isGlobal addr && addr.toNat % size == 0) addr
      { regProbe [] 0 s with faults := f })
    (fun s =>
      let r := curArch s
      let addr := rS r a
      let s := setRepeat s
      let s := pushWork s (newWork s op 0 c none 0 (.amo ⟨BitVec.ofNat 8 op, addr, z, rS r b, rS r x⟩ ret) (footOf addr size) 0 0)
      invalidateSector addr
        (if ret then modCtx s s.cur fun k => { k with amoq := k.amoq ++ [⟨s.seq, z, none, none⟩] } else s)) s

def execAmoAdd (z : Bool) (c : Fin 16) (a b : Fin 64) (s : State) : Host.Outcome State Fault Refusal :=
  atomicForm 0x70 true z c a b 0 s

def execAmoAnd (z : Bool) (c : Fin 16) (a b : Fin 64) (s : State) : Host.Outcome State Fault Refusal :=
  atomicForm 0x71 true z c a b 0 s

def execAmoOr (z : Bool) (c : Fin 16) (a b : Fin 64) (s : State) : Host.Outcome State Fault Refusal :=
  atomicForm 0x72 true z c a b 0 s

def execAmoXor (z : Bool) (c : Fin 16) (a b : Fin 64) (s : State) : Host.Outcome State Fault Refusal :=
  atomicForm 0x73 true z c a b 0 s

def execAmoMin (z : Bool) (c : Fin 16) (a b : Fin 64) (s : State) : Host.Outcome State Fault Refusal :=
  atomicForm 0x74 true z c a b 0 s

def execAmoMax (z : Bool) (c : Fin 16) (a b : Fin 64) (s : State) : Host.Outcome State Fault Refusal :=
  atomicForm 0x75 true z c a b 0 s

def execAmoSwap (z : Bool) (c : Fin 16) (a b : Fin 64) (s : State) : Host.Outcome State Fault Refusal :=
  atomicForm 0x76 true z c a b 0 s

def execAmoCas (z : Bool) (c : Fin 16) (a b x : Fin 64) (s : State) : Host.Outcome State Fault Refusal :=
  atomicForm 0x77 true z c a b x s

def execRedAdd (z : Bool) (c : Fin 16) (a b : Fin 64) (s : State) : Host.Outcome State Fault Refusal :=
  atomicForm 0x78 false z c a b 0 s

def execRedAnd (z : Bool) (c : Fin 16) (a b : Fin 64) (s : State) : Host.Outcome State Fault Refusal :=
  atomicForm 0x79 false z c a b 0 s

def execRedOr (z : Bool) (c : Fin 16) (a b : Fin 64) (s : State) : Host.Outcome State Fault Refusal :=
  atomicForm 0x7A false z c a b 0 s

def execRedMin (z : Bool) (c : Fin 16) (a b : Fin 64) (s : State) : Host.Outcome State Fault Refusal :=
  atomicForm 0x7B false z c a b 0 s

def execRedMax (z : Bool) (c : Fin 16) (a b : Fin 64) (s : State) : Host.Outcome State Fault Refusal :=
  atomicForm 0x7C false z c a b 0 s

/-- `AMOPOP`: takes the oldest place; its value lands at t + 3, or when it comes (R129). -/
def execAmopop (d : Fin 64) (p : Fin 16) (n : Bool) (s : State) : Host.Outcome State Fault Refusal :=
  runSlot (fun s =>
      let none_ := guarded (curArch s) p n && (curCtx s).amoq.isEmpty
      { predProbe p n (wrS d) 1 s with faults := if none_ then [slotFault s 0x0C 2 0 0 0] else [] })
    (predEffect p n fun s =>
      match (curCtx s).amoq with
      | [] => s
      | x :: rest =>
        let s := modCtx s s.cur fun k => { k with amoq := rest }
        match x.value with
        | some v => land 3 (.sreg d (amoReturn x.wide v.toNat)) 0 s
        | none => landLate 3 (.sreg d 0) x.seq s) s

/-! ### SPART (R130) -/

def execSpart (d a : Fin 64) (i : Fin 17) (s : State) : Host.Outcome State Fault Refusal :=
  runSlot (fun s => { regProbe (wrS d) 1 s with faults :=
      if 255 < (rS (curArch s) a).toNat then [slotSub s 0x0D (rS (curArch s) a) 0] else [] })
    (fun s =>
      let u := (rS (curArch s) a).toNat
      landLate 1 (.sreg d 0) s.seq
        (pushWork (setRepeat s) (newWork s 0x7E 0 0 none 0 (.spart u i.val) [] d 1))) s

end Sys2Proof.Machine
end

