-- ==== Sys2Proof/Machine/VectorMem.lean ====
section
/-! DEFINITION. The V slots' memory operations: rows, strided, gathered and scattered words, landing loads and `VSTG` (R157 to
R161, R382). -/

namespace Sys2Proof.Machine

/-! ### Rows (R158) -/

def execVld (d a : Fin 64) (o : BitVec 32) (c : Fin 16) (s : State) : Host.Outcome State Fault Refusal :=
  runSlot (fun s =>
      let x := memAddr s a o 256
      { regProbe (wrV d) 1 s with
        faults := spadFaults s x 256 64 false, rbanks := bankMask x.toNat 256, waits := spadWaits s x 256 })
    (fun s =>
      let off := (memAddr s a o 256).toNat
      let key := spadKey (coreOf s.cur) off
      let all := BitVec.allOnes 64
      if badAt s key 256 then
        landFault 3 (.vreg d 0 all) (spData s 0x70 c d 3 0 off (.spload [some off] 256 false) (.vreg d 0 all)) s
      else land 3 (.vreg d (BitVec.ofNat 2048 (memVal s.mem key 256)) all) 0 s) s

def execVst (d a : Fin 64) (o : BitVec 32) (c : Fin 16) (s : State) : Host.Outcome State Fault Refusal :=
  runSlot (fun s =>
      let x := memAddr s a o 256
      { regProbe [] 0 s with
        faults := spadFaults s x 256 64 true, wbanks := bankMask x.toNat 256, waits := spadWaits s x 256
        stores := [(x.toNat, 256)] })
    (fun s =>
      let off := (memAddr s a o 256).toNat
      slotStore (reportPart 0x71 c off 256 s) off (vBytes (rV (curArch s) d))) s

/-! ### Strides, gathers and scatters (R159) -/

/-- The addresses of `VLDS`. -/
def strideAddr (r : Arch) (a b : Fin 64) (i : Nat) : Word := rS r a + BitVec.ofNat 64 i * rS r b

/-- The addresses of `VGATH` and `VSCAT`. -/
def indexAddr (r : Arch) (a b : Fin 64) (i : Nat) : Word := rS r a + (elem (rV r b) 32 i).setWidth 64

/-- The active lanes. -/
def activeLanes (r : Arch) (p : Fin 16) (n : Bool) : List Nat := (List.range 64).filter fun i => (laneMask r p n).getLsbD i

/-- The banks of the active lanes. -/
def laneBanks (s : State) (f : Arch → Nat → Word) (p : Fin 16) (n : Bool) : BitVec 32 :=
  (activeLanes (curArch s) p n).foldl (fun b i => b ||| bankMask (f (curArch s) i).toNat 4) 0

/-- The faults of the active lanes. -/
def laneFaults (s : State) (f : Arch → Nat → Word) (p : Fin 16) (n store : Bool) : List FaultRec :=
  (activeLanes (curArch s) p n).flatMap fun i => spadFaults s (f (curArch s) i) 4 4 store

/-- What the active lanes wait for (R281). -/
def laneWaits (s : State) (f : Arch → Nat → Word) (p : Fin 16) (n : Bool) : List Wait :=
  (activeLanes (curArch s) p n).flatMap fun i => spadWaits s (f (curArch s) i) 4

/-- `VLDS` and `VGATH`: every active word is read in the issue cycle and lands at t + 6. -/
def gatherForm (opc : Nat) (f : Arch → Nat → Word) (d : Fin 64) (p : Fin 16) (n : Bool) (s : State) :
    Host.Outcome State Fault Refusal :=
  runSlot (fun s => { regProbe (wrV d) 1 s with
      faults := laneFaults s f p n false, rbanks := laneBanks s f p n, waits := laneWaits s f p n })
    (fun s =>
      let r := curArch s
      let lanes := laneMask r p n
      let act := activeLanes r p n
      let offs := (List.range 64).map fun i => if lanes.getLsbD i then some (f r i).toNat else none
      let c := coreOf s.cur
      match act.find? fun i => badAt s (spadKey c (f r i).toNat) 4 with
      | some i =>
        landFault 6 (.vreg d 0 lanes) (spData s opc 0 d 6 0 (f r i).toNat (.spload offs 4 false) (.vreg d 0 lanes)) s
      | none =>
        let x := ofLanes fun i => match offs.getD i none with
          | some o => BitVec.ofNat 32 (memVal s.mem (spadKey c o) 4)
          | none => 0
        land 6 (.vreg d x lanes) 0 s) s

def execVlds (d a b : Fin 64) (p : Fin 16) (n : Bool) (s : State) : Host.Outcome State Fault Refusal :=
  gatherForm 0x72 (fun r i => strideAddr r a b i) d p n s

def execVgath (d a b : Fin 64) (p : Fin 16) (n : Bool) (s : State) : Host.Outcome State Fault Refusal :=
  gatherForm 0x73 (fun r i => indexAddr r a b i) d p n s

/-- `VSCAT`: lanes are written in order, so that the highest of several remains; part of a word in error is left (R393). -/
def execVscat (d a b : Fin 64) (p : Fin 16) (n : Bool) (s : State) : Host.Outcome State Fault Refusal :=
  runSlot (fun s =>
      let f := fun (r : Arch) i => indexAddr r a b i
      { regProbe [] 0 s with
        faults := laneFaults s f p n true, wbanks := laneBanks s f p n, waits := laneWaits s f p n
        stores := (activeLanes (curArch s) p n).map fun i => ((f (curArch s) i).toNat, 4) })
    (fun s =>
      let r := curArch s
      let act := activeLanes r p n
      let off := fun i => (indexAddr r a b i).toNat
      let s := match act.find? fun i => badPart s (spadKey (coreOf s.cur) (off i)) 4 with
        | some i => reportPart 0x74 0 (off i) 4 s
        | none => s
      act.foldl (fun s i => slotStore s (off i) (leBytes 4 (elem (rV r d) 32 i).toNat)) s) s

/-! ### Landing loads and VSTG (R160, R161) -/

def execVldl (d a : Fin 64) (o : BitVec 24) (t : BitVec 16) (c : Fin 16) (s : State) : Host.Outcome State Fault Refusal :=
  runSlot (fun s =>
      let x := lndAddr s a o 256
      { regProbe (wrV d) 1 s with faults := addressFault s (landAddrOk x 256) x })
    (fun s =>
      let x := lndAddr s a o 256
      landLate t.toNat (.vreg d 0 (BitVec.allOnes 64)) s.seq
        (pushWork s (newWork s 0x75 0 c none 0 (.load ⟨x, 256, false⟩) (footOf x 256) d t))) s

def execVstg (d a : Fin 64) (o : BitVec 32) (c : Fin 16) (s : State) : Host.Outcome State Fault Refusal :=
  runSlot (fun s =>
      let x := memAddr s a o 256
      { regProbe [] 0 s with faults := addressFault s (landAddrOk x 256) x })
    (fun s =>
      let x := memAddr s a o 256
      pushWork s (newWork s 0x76 0 c none 0 (.vstg x (rV (curArch s) d)) (footOf x 256) d 0)) s

end Sys2Proof.Machine
end

