-- ==== Sys2Proof/Machine/LadderExec.lean ====
section
/-! DEFINITION. The ladder and merge-cell instructions at issue: their handles, operands, holds and waits, what they bind, and
the command they queue (R257 to R272, R317, R416, R418, R422). -/

namespace Sys2Proof.Machine

/-! ### Shared forms -/

/-- Whether a ladder instruction issues as its built-in verb (R317). -/
def isVerb (s : State) : Bool := (curArch s).task && !(curArch s).tsk.retr

/-- A handle of the issuing context. -/
def handleOf (s : State) (h : Fin 16) : Handle := (curArch s).h[h]

/-- HANDLE: an operation through an unbound handle (R260). -/
def handleFault (s : State) (h : Fin 16) : List FaultRec :=
  if (handleOf s h).bound then [] else [slotFault s 0x40 h.val 0 0 0]

/-- LOPERAND with the register value that breaks a limit (R413). -/
def loperand (s : State) (bad : Bool) (x : Word) : List FaultRec := if bad then [slotSub s 0x41 x 0] else []

/-- What a ladder operation asks for: its own faults; as a verb, `n` undo entries and its holds; room in ring and queue. -/
def ladderProbe (op : Nat) (e : Bool) (g : Fin 8) (n : Nat) (faults : State → List FaultRec)
    (holds : State → List (BitVec 6 × Word)) (s : State) : Probe :=
  let verb := isVerb s
  { regProbe [] 0 s with
    faults := faults s ++ ringFaultIf s e g ++
      (if verb then (if n = 0 then [] else undoFull s n) ++ holdFaults s else [])
    waits := ringWaits e g ++ [.ladderRoom] ++
      (if verb then (holds s).map fun q => .hold q.1 q.2 (BitVec.ofNat 8 op) else []) }

/-- The count of the ladder at a descriptor, when a carry is pending in it as an operation issues (R249): none while an earlier operation
of the context on it is queued, which may leave its own. -/
def pendingAt (s : State) (desc : Word) : Option Nat :=
  let queued := (curCore s).work.any fun w => decide (w.ctx = s.cur) && !w.performed && match w.kind with
    | .ladder c => decide (c.op ∈ [(0x40 : BitVec 8), 0x42, 0x44, 0x45]) && (c.hd.desc == desc || c.hd2.desc == desc)
    | _ => false
  match (xlate s (coreOf s.cur) (jobOf s s.cur) desc.toNat false).1 with
  | .ok pa => if queued || decide (memVal s.mem (pa + 8 * 48) 8 < 256) then none else some (memVal s.mem (pa + 8 * 49) 6)
  | .error _ => none

/-- A command with the state of the issuing context that every operation captures (R260, R270). -/
def ladderCmd (s : State) (op : Nat) (hd : Handle) (x y : Word) : LadderCmd :=
  let r := curArch s
  { op := BitVec.ofNat 8 op, hd, hd2 := Handle.reset, hn := 0, x, y, idx := bit (isVerb s), kfr := Frame.reset,
    vfr := Frame.reset, pend := pendingAt s hd.desc, scl := r.scl, inTask := r.task, taskSeq := r.tsk.seq }

/-- Bytes of the issuing core's scratchpad, as addresses. -/
def spadSpan (s : State) (off n : Nat) : Nat × Nat := (spadKey (coreOf s.cur) off, spadKey (coreOf s.cur) off + n)

/-- The bytes that an operation on a ladder may reach: its blocks, pools and descriptors lie anywhere in global memory, so that all
of it is ordered (R281; DESIGN CHOICE, safe: see the log). -/
def ladderFoot : Nat × Nat := (0, 2 ^ 48)

/-- Queues a command over the bytes `foot`: entries and ring are reserved, and the holds it was granted are used (R258, R317,
R422). -/
def queueLadder (op : Nat) (e : Bool) (g : Fin 8) (again : Bool) (foot : List (Nat × Nat)) (c : LadderCmd) (s : State) : State :=
  let s := if again then setRepeat s else s
  let s := modCtx s s.cur fun k => { k with granted := false, asked := false }
  let s := modTask s s.cur fun t => { t with reserved := t.reserved + undoNeed c }
  let s := pushWork s (newWork s op 4 0 (if e then some g else none) (bit e) (.ladder c) foot 0 0)
  if e then reserve s.cur g 1 s else s

/-- Queues an operation on a ladder, which touches `spans` of the scratchpad besides. -/
def ladderEffect (op : Nat) (e : Bool) (g : Fin 8) (again : Bool) (spans : List (Nat × Nat)) (c : LadderCmd) (s : State) : State :=
  queueLadder op e g again (ladderFoot :: spans) c s

/-- Binds a handle from t + 1; it does not count toward R29 (R345). -/
def bindAt (h : Fin 16) (x : Handle) (s : State) : State := landFree 1 (.handle h x) s

/-- The form of `LCARRY`, `LTRUNC`, `LKEEP`: one register operand (R265). -/
def placeForm (op kind : Nat) (bad : Word → Bool) (x : Fin 64) (e : Bool) (g : Fin 8) (h : Fin 16) (s : State) :
    Host.Outcome State Fault Refusal :=
  runSlot (ladderProbe op e g 9 (fun s => handleFault s h ++ loperand s (bad (rS (curArch s) x)) (rS (curArch s) x))
      fun s => [(BitVec.ofNat 6 kind, (handleOf s h).desc)])
    (fun s => ladderEffect op e g true [] (ladderCmd s op (handleOf s h) (rS (curArch s) x) 0) s) s

/-! ### LNEW, LBIND (R261, R262) -/

def execLnew (p a : Fin 64) (e : Bool) (g : Fin 8) (h : Fin 16) (s : State) : Host.Outcome State Fault Refusal :=
  runSlot (fun s =>
      let r := curArch s
      let off := (rS r p).toNat
      let p0 := ladderProbe 0x40 e g 0 (fun s =>
        loperand s ((rS r a).toNat % 512 != 0) (rS r a) ++ loperand s (off % 64 != 0 || decide (0x5FFC0 < off)) (rS r p)) (fun _ => []) s
      p0)
    (fun s =>
      let r := curArch s
      let x : Handle := ⟨true, rS r a, 0, s.seq⟩
      bindAt h x (ladderEffect 0x40 e g true [spadSpan s (rS r p).toNat 64] (ladderCmd s 0x40 x (rS r p) 0) s)) s

def execLbind (a : Fin 64) (e : Bool) (g : Fin 8) (h : Fin 16) (s : State) : Host.Outcome State Fault Refusal :=
  runSlot (ladderProbe 0x41 e g 0 (fun s => loperand s ((rS (curArch s) a).toNat % 512 != 0) (rS (curArch s) a)) fun _ => [])
    (fun s =>
      let x : Handle := ⟨true, rS (curArch s) a, 0, s.seq⟩
      bindAt h x (ladderEffect 0x41 e g false [] (ladderCmd s 0x41 x 0 0) s)) s

/-! ### LAPPEND (R263, R264, R416, R420) -/

/-- The alignment of an appended operand. -/
def inputAlign (f : Nat) : Nat := if f = 0 then 4 else if f = 2 ∨ f = 9 ∨ f = 10 then 2 else 1

/-- An append word that breaks R263; sizes are judged here when `GEOM` is known, else those of the smallest geometry are, and the rest
when the operation runs. -/
def appendBad (hd : Handle) (x : Word) : Bool :=
  let f := appFmt x
  let known := hd.bind == 0
  let place := fun (off n : Nat) => off % inputAlign f != 0 || decide (spadSize < off + max 1 (inputBytes f (if known then n else 2))) ||
    (known && (f == 9 || f == 10) && n % 32 != 0)
  if x.getLsbD 63 then true
  else if appPre x then x.toNat / 2 ^ 44 % 2 ^ 18 != 0 || x.toNat / 16 % 2 ^ 34 != 0
  else !(f == 0 || f == 2 || f == 6 || f == 7 || f == 9 || f == 10) ||
    place (appK x) (geomDk hd.geom.toNat) || place (appV x) (geomDv hd.geom.toNat)

/-- The frames of an append word. -/
def appKfr (x : Word) : Fin 8 := Fin.ofNat 8 (x.toNat / 2 ^ 48)
def appVfr (x : Word) : Fin 8 := Fin.ofNat 8 (x.toNat / 2 ^ 51)

/-- The handle of a prebuilt span. -/
def appHandle (x : Word) : Fin 16 := Fin.ofNat 16 x.toNat

def execLappend (o : Fin 64) (e : Bool) (g : Fin 8) (h : Fin 16) (s : State) : Host.Outcome State Fault Refusal :=
  runSlot (ladderProbe 0x42 e g 1 (fun s =>
        let r := curArch s
        let x := rS r o
        handleFault s h ++ loperand s (appendBad (handleOf s h) x) x ++
          (if appPre x then handleFault s (appHandle x)
           else if isCodeFormat (appFmt x) then
             frameFault s (appKfr x) (rD r (appKfr x)) (appFmt x) ++ frameFault s (appVfr x) (rD r (appVfr x)) (appFmt x)
           else []))
      fun s =>
        let x := rS (curArch s) o
        (0, (handleOf s h).desc) :: if appPre x then [(2, (handleOf s (appHandle x)).desc)] else [])
    (fun s =>
      let r := curArch s
      let x := rS r o
      let c := ladderCmd s 0x42 (handleOf s h) x 0
      let spans := if appPre x then [] else [spadSpan s (appK x) 1024, spadSpan s (appV x) 1024]
      ladderEffect 0x42 e g true spans
        { c with hd2 := handleOf s (appHandle x), kfr := rD r (appKfr x), vfr := rD r (appVfr x) } s) s

/-! ### LCARRY, LTRUNC, LDROP, LKEEP, LFORK (R265, R266) -/

def execLcarry (b : Fin 64) (e : Bool) (g : Fin 8) (h : Fin 16) (s : State) : Host.Outcome State Fault Refusal :=
  placeForm 0x43 5 (fun x => decide (63 < x.toNat)) b e g h s

def execLtrunc (t : Fin 64) (e : Bool) (g : Fin 8) (h : Fin 16) (s : State) : Host.Outcome State Fault Refusal :=
  placeForm 0x45 1 (fun _ => false) t e g h s

def execLkeep (m : Fin 64) (e : Bool) (g : Fin 8) (h : Fin 16) (s : State) : Host.Outcome State Fault Refusal :=
  placeForm 0x49 6 (fun x => x.getLsbD 0 || decide (2 ^ 48 ≤ x.toNat)) m e g h s

def execLdrop (e : Bool) (g : Fin 8) (h : Fin 16) (s : State) : Host.Outcome State Fault Refusal :=
  runSlot (ladderProbe 0x46 e g 9 (fun s => handleFault s h) fun s => [(4, (handleOf s h).desc)])
    (fun s => bindAt h Handle.reset (ladderEffect 0x46 e g true [] (ladderCmd s 0x46 (handleOf s h) 0 0) s)) s

def execLfork (x : Fin 16) (e : Bool) (g : Fin 8) (h : Fin 16) (s : State) : Host.Outcome State Fault Refusal :=
  runSlot (ladderProbe 0x44 e g 9 (fun s => handleFault s h ++ handleFault s x)
      fun s => [(3, (handleOf s h).desc), (2, (handleOf s x).desc)])
    (fun s =>
      let hx := handleOf s x
      let hy := handleOf s h
      bindAt h { hy with geom := hx.geom, bind := hx.bind }
        (ladderEffect 0x44 e g true [] { ladderCmd s 0x44 hx 0 0 with hd2 := hy } s)) s

/-! ### LREAD, LWALK, LCNT (R267 to R269). `LCNT` takes a place in the queue as the others do (R258). -/

/-- A range word that breaks R267, or a record outside the scratchpad. -/
def rangeBad (hd : Handle) (x : Word) : Bool :=
  let v := x.toNat
  let lo := v / 2 ^ 24 % 64
  let hi := v / 2 ^ 32 % 64
  let off := v % 2 ^ 19
  decide (2 ^ 38 ≤ v) || v / 2 ^ 30 % 4 != 0 || v / 2 ^ 19 % 32 != 0 || decide (hi < lo) || decide (47 < hi) || off % 64 != 0 ||
    decide (spadSize < off + 64 + (if hd.bind = 0 then 4 * geomDv hd.geom.toNat else 0))

/-- A query that is misaligned or reaches past the scratchpad. -/
def queryBad (hd : Handle) (x : Word) : Bool :=
  x.toNat % 64 != 0 || decide (spadSize < x.toNat + (if hd.bind = 0 then 4 * geomDk hd.geom.toNat else 64))

def execLread (r q : Fin 64) (e : Bool) (g : Fin 8) (h : Fin 16) (s : State) : Host.Outcome State Fault Refusal :=
  runSlot (ladderProbe 0x47 e g 0 (fun s =>
        let a := curArch s
        let hd := handleOf s h
        handleFault s h ++ loperand s (queryBad hd (rS a q)) (rS a q) ++ loperand s (rangeBad hd (rS a r)) (rS a r))
      fun s => [(2, (handleOf s h).desc)])
    (fun s =>
      let a := curArch s
      ladderEffect 0x47 e g false [spadSpan s (rS a q).toNat 1024, spadSpan s ((rS a r).toNat % 2 ^ 19) 1088]
        (ladderCmd s 0x47 (handleOf s h) (rS a q) (rS a r)) s) s

def execLwalk (l : Fin 64) (e : Bool) (g : Fin 8) (h : Fin 16) (s : State) : Host.Outcome State Fault Refusal :=
  runSlot (ladderProbe 0x48 e g 0 (fun s =>
        let x := rS (curArch s) l
        handleFault s h ++ loperand s (x.toNat % 16 != 0 || decide (spadSize < x.toNat + 800)) x)
      fun s => [(2, (handleOf s h).desc)])
    (fun s =>
      let x := rS (curArch s) l
      ladderEffect 0x48 e g false [spadSpan s x.toNat 800] (ladderCmd s 0x48 (handleOf s h) x 0) s) s

def execLcnt (d : Fin 64) (h : Fin 16) (t : BitVec 16) (s : State) : Host.Outcome State Fault Refusal :=
  runSlot (fun s => { regProbe (wrS d) 1 s with faults := handleFault s h, waits := [.ladderRoom] })
    (fun s =>
      landLate t.toNat (.sreg d 0) s.seq
        (pushWork s (newWork s 0x4A 4 0 none 0 (.ladder (ladderCmd s 0x4A (handleOf s h) 0 0))
          [ladderFoot] d t))) s

/-! ### Merge cells (R271, R272, R418) -/

/-- The record offset of `MCDEP` and `MCGET`. -/
def recordBad (x : Word) : Bool := let off := x.toNat % 2 ^ 19; off % 64 != 0 || decide (spadSize < off + 64)

/-- The bytes that a merge-cell operation may reach from the cell's address on (R271): the header and the output record, and for a
deposit 64 slots of the widest record. -/
def cellFoot (op : Nat) (a : Word) : Nat × Nat := (a.toNat, a.toNat + (if op = 0x51 then 70784 else 1152))

/-- A merge-cell operation: no handle, no verb. -/
def cellForm (op idx : Nat) (again : Bool) (bad : Word → Bool) (spad : Bool) (c y : Fin 64) (e : Bool) (g : Fin 8) (s : State) :
    Host.Outcome State Fault Refusal :=
  runSlot (fun s =>
      let r := curArch s
      { regProbe [] 0 s with
        faults := loperand s ((rS r c).toNat % 64 != 0) (rS r c) ++ loperand s (bad (rS r y)) (rS r y) ++ ringFaultIf s e g
        waits := ringWaits e g ++ [.ladderRoom] })
    (fun s =>
      let r := curArch s
      let spans := if spad then [spadSpan s ((rS r y).toNat % 2 ^ 19) 1088] else []
      queueLadder op e g again (cellFoot op (rS r c) :: spans)
        { ladderCmd s op Handle.reset (rS r c) (rS r y) with idx := idx, inTask := false } s) s

def execMcinit (f c : Fin 64) (e : Bool) (g : Fin 8) (s : State) : Host.Outcome State Fault Refusal :=
  cellForm 0x50 0 true (fun x => cellBad x.toNat) false c f e g s

def execMcdep (r c : Fin 64) (e : Bool) (g : Fin 8) (i : Fin 64) (s : State) : Host.Outcome State Fault Refusal :=
  cellForm 0x51 i.val true recordBad true c r e g s

def execMcget (r c : Fin 64) (e : Bool) (g : Fin 8) (s : State) : Host.Outcome State Fault Refusal :=
  cellForm 0x52 0 false recordBad true c r e g s

end Sys2Proof.Machine
end

