-- ==== Sys2Proof/Machine/Sync.lean ====
section
/-! DEFINITION. Meanings of the K-slot instructions of ordering and synchronisation: formats, scales and frames, fences,
supersteps, flags, rings and work (R284 to R300, R197, R49). -/

namespace Sys2Proof.Machine

/-! ### Formats, scales, frames -/

/-- `FMTW` (R294): in force for operations issued at t + 5 and later. -/
def execFmtw (a : Fin 64) (s : State) : Host.Outcome State Fault Refusal :=
  runSlot noProbe (fun s => landFree 5 (.fmt (rS (curArch s) a &&& 0xFFFF)) s) s

/-- `SCLLD` (R294). -/
def execSclld (a : Fin 64) (n : Fin 16) (s : State) : Host.Outcome State Fault Refusal :=
  runSlot noProbe (fun s => landFree 5 (.scale n ((rS (curArch s) a).setWidth 32)) s) s

/-- A frame write lands at t + 1 (R295). -/
def frameWrite (a : Fin 64) (f : Fin 4) (r : Fin 8) (add : Bool) (s : State) : Host.Outcome State Fault Refusal :=
  runSlot (regProbe [⟨6, BitVec.ofNat 8 r.val⟩] 1)
    (fun s => land 1 (.frame r f ((rS (curArch s) a).setWidth 32) add) 0 s) s

def execDfrm (a : Fin 64) (f : Fin 4) (r : Fin 8) (s : State) : Host.Outcome State Fault Refusal := frameWrite a f r false s

def execDfrmAdd (a : Fin 64) (f : Fin 4) (r : Fin 8) (s : State) : Host.Outcome State Fault Refusal := frameWrite a f r true s

/-! ### Fences (R284, R285) -/

/-- A fence is one result due at t + 1, which has no data until every covered access has performed. -/
def fenceForm (act : Landing) (s : State) : Host.Outcome State Fault Refusal :=
  runSlot (regProbe [] 1) (fun s => landLate 1 act s.seq s) s

/-- `FENCE`: classes of `mask`, each path within itself. -/
def execFence (m : BitVec 16) (c : Fin 8) (s : State) : Host.Outcome State Fault Refusal := fenceForm (.fence false 0 m c) s

/-- `FENCEX`: earlier accesses of the paths in `from`, of any class, before the later ones of those in `to`: no bundle issues until
they have performed, whatever path it takes. -/
def execFencex (c : Fin 8) (f _t : BitVec 6) (s : State) : Host.Outcome State Fault Refusal := fenceForm (.fence true f 0 c) s

/-! ### Supersteps (R46, R291, R297) -/

/-- `DSYNC` of a level: OPERAND for a level at which the context is no member, and inside a task; then it stands at the
barrier. One that a handler issues while another is under way waits for that one. -/
def syncForm (l : Fin 5) (s : State) : Host.Outcome State Fault Refusal :=
  runSlot (fun s =>
      let r := curArch s
      { regProbe [] 0 s with
        faults := if !r.dmemb.getLsbD l.val || r.task then [slotSub s 0x0D 0 0] else []
        waits := if (curCtx s).sync.isSome then [.barrier l] else [] })
    (fun s => modCtx (setRepeat s) s.cur fun c => { c with sync := some (l, false), waits := [.barrier l] }) s

def execDsyncWord (s : State) : Host.Outcome State Fault Refusal := syncForm 0 s
def execDsyncPhrase (s : State) : Host.Outcome State Fault Refusal := syncForm 1 s
def execDsyncClause (s : State) : Host.Outcome State Fault Refusal := syncForm 2 s
def execDsyncSentence (s : State) : Host.Outcome State Fault Refusal := syncForm 3 s
def execDsyncParagraph (s : State) : Host.Outcome State Fault Refusal := syncForm 4 s

/-! ### Flags (R298) -/

/-- Fields of a target register. -/
def targetRem (x : Word) : Bool := x.getLsbD 29
def targetDev (x : Word) : BitVec 13 := x.extractLsb' 16 13

/-- The faults of a flag write: a device outside the paragraph, an empty mask, a core of this device that the job does not name. -/
def flagFaults (s : State) (t m : Word) (cores : List Nat) : List FaultRec :=
  if targetRem t && decide (s.psize.toNat ≤ (targetDev t).toNat) then [slotSub s 0x0D t 0]
  else if cores.isEmpty then [slotSub s 0x0D m 0]
  else if (!targetRem t || targetDev t == s.devid) && cores.any fun c => !jobNames s (jobOf s s.cur) (Fin.ofNat 256 c) then [slotSub s 0x0D m 0]
  else []

/-- A flag write issues: it performs later, with release (R289). With `REM` it becomes a flag flit, whatever device it names
(R362). -/
def flagEffect (opc : Nat) (t : Word) (cores : Word) (stack core : Nat) (word : Fin 64) (x : BitVec 32) (add : Bool)
    (targets : List Nat) (s : State) : State :=
  let rem := if targetRem t then some (targetDev t) else none
  let foot := if rem.isSome then [] else targets.map fun c => (localKey 3 c (4 * word.val), localKey 3 c (4 * word.val) + 4)
  pushWork (setRepeat s) (newWork s opc 0 0 none 0 (.flagw cores stack core word x add rem) foot 0 0)

def execFladd (c v : Fin 64) (w : Fin 64) (s : State) : Host.Outcome State Fault Refusal :=
  runSlot (fun s =>
      let t := rS (curArch s) c
      { regProbe [] 0 s with faults := flagFaults s t t [t.toNat % 256] })
    (fun s =>
      let t := rS (curArch s) c
      flagEffect 0x18 t 0 0 (t.toNat % 256) w ((rS (curArch s) v).setWidth 32) true [t.toNat % 256] s) s

/-- The cores that an `FLSET` mask names. -/
def maskCores (m : Word) (stack : Nat) : List Nat :=
  ((List.range 64).filter fun i => m.getLsbD i).map fun i => stack * 64 + i

def execFlset (v m t : Fin 64) (w : Fin 64) (s : State) : Host.Outcome State Fault Refusal :=
  runSlot (fun s =>
      let r := curArch s
      { regProbe [] 0 s with faults := flagFaults s (rS r t) (rS r m) (maskCores (rS r m) ((rS r t).toNat % 4)) })
    (fun s =>
      let r := curArch s
      let stack := (rS r t).toNat % 4
      flagEffect 0x19 (rS r t) (rS r m) stack 0 w ((rS r v).setWidth 32) false (maskCores (rS r m) stack) s) s

/-- `FLWAIT`: issues once it has read a value that meets its condition, and lands that value (R290, R298). A word with an
uncorrectable error that it reads ends the job (R392). -/
def execFlwait (d v : Fin 64) (c : Fin 4) (w : Fin 64) (s : State) : Host.Outcome State Fault Refusal :=
  runSlot (fun s => { regProbe (wrS d) 1 s with waits := [.flag w c ((rS (curArch s) v).setWidth 32)] })
    (fun s =>
      let f := (curCtx s).flagSeen.getD (flagWord s (coreOf s.cur) w.val)
      if (curCtx s).flagSeen.isNone && badAt s (localKey 3 (coreOf s.cur).val (4 * w.val)) 4 then lostData s (coreOf s.cur) 2
      else
      land 1 (.sreg d (f.setWidth 64)) 0 (modCtx s s.cur fun k => { k with flagSeen := none })) s

/-! ### Rings (R197, R299) -/

def execAwait (g : Fin 8) (n : BitVec 22) (s : State) : Host.Outcome State Fault Refusal :=
  runSlot (fun s => { regProbe [] 0 s with faults := ringFault s g, waits := [.ringFill g (n.setWidth 32)] }) id s

def execRelease (g : Fin 8) (n : BitVec 22) (s : State) : Host.Outcome State Fault Refusal :=
  runSlot (fun s =>
      let r := (curArch s).g[g]
      { regProbe [⟨8, BitVec.ofNat 8 g.val⟩] 0 s with
        faults := ringFault s g ++
          if (r.fill - r.cons).toNat < n.toNat then [slotFault s 0x0F g.val (r.fill.setWidth 64) (r.cons.setWidth 64) 0] else [] })
    (fun s => landFree 1 (.ringCons g (n.setWidth 32)) s) s

/-! ### Work (R49, R300) -/

/-- Whether a pool of the issuing context's clause can be asked (R384). -/
def poolAsked (s : State) (p : Fin 16) : Bool :=
  match findJob s (jobOf s s.cur) with
  | some j => let k := (poolOf j (stackOf (coreOf s.cur)) p).kind; k == 1 || k == 2
  | none => false

/-- `WNEXT`: the request goes to the work distributor; its value lands in the work register named at issue. -/
def execWnext (w : Fin 8) (p : Fin 16) (t : BitVec 16) (s : State) : Host.Outcome State Fault Refusal :=
  runSlot (fun s =>
      { regProbe [⟨4, BitVec.ofNat 8 (w + (curArch s).wbase).val⟩] 1 s with
        faults := if poolAsked s p then [] else [slotSub s 0x0D 0 0] })
    (fun s =>
      let phys := w + (curArch s).wbase
      let s := landLate t.toNat (.wreg phys 0 none) s.seq (setRepeat s)
      pushWork s (newWork s 0x1D 0 0 none 0 (.wnext p) [] 0 t)) s

/-- `WROT`: lands `w0` as named at issue, and moves the window base, both at t + 1. -/
def execWrot (d : Fin 64) (k : Fin 8) (s : State) : Host.Outcome State Fault Refusal :=
  runSlot (regProbe (wrS d) 1)
    (fun s =>
      let r := curArch s
      landFree 1 (.wbase k) (land 1 (.sreg d r.w[r.wbase]) 0 s)) s

end Sys2Proof.Machine
end

