-- ==== Sys2Proof/Machine/Control.lean ====
section
/-! DEFINITION. Meanings of the empty bundle, branches, calls, loops, traps and their return, halting, yielding and landing
replay (R52, R61, R63, R131 to R136, R139, R380, R396). -/

namespace Sys2Proof.Machine

/-! ### Cairns (R396) -/

/-- Whether a context has nothing in flight: no result or X beat, no unpopped `AMO`, no verb open, no engine command under
way. -/
def nothingInFlight (s : State) (k : Fin 1024) : Bool :=
  let c := ctxAt s k
  inFlight c == 0 && c.amoq.isEmpty && !c.arch.verb &&
    !(coreAt s (coreOf k)).work.any fun w => decide (w.ctx = k) && !w.done && (match w.kind with
      | .copy _ => true
      | .drain _ => true
      | .ladder l => l.op != 0x4A
      | .spawn _ => true
      | .gload _ _ _ => true
      | .vtab _ _ => true
      | _ => false)

/-- A bundle with `CAIRN` issues: the shadow copy is taken and the repeat flag cleared, when nothing is in flight. The passes of a
rollback take none: both run from one copy (R398; DEDUCED). -/
def takeCairn (s : State) : State :=
  if nothingInFlight s s.cur && (curCore s).rolling.isNone then
    modCtx s s.cur fun c =>
      { c with shadow := ⟨c.arch, c.pending, c.entryBun, c.hidden⟩, shadowBad := false, repeatFlag := false }
  else s

/-- The empty bundle (R52). -/
def execNop (c : Bool) (s : State) : Host.Outcome State Fault Refusal :=
  runSlot noProbe (fun s => if c then takeCairn s else s) s

/-! ### Loops (R63, R132) -/

/-- What follows a bundle in order: every open loop whose body ends with it is tested, the innermost first; a pass left over leads
back to the body's first bundle, a loop on its last pass closes. A body left open by a call or a return stays open meanwhile. -/
def loopNext (next : Word) : List Loop → Word × List Loop
  | [] => (next, [])
  | l :: r =>
    if l.stop = next then
      if 1 < l.left.toNat then (l.first, { l with left := l.left - 1 } :: r) else loopNext next r
    else
      let q := loopNext next r
      (q.1, l :: q.2)

/-- Whether the issuing bundle is one of the last three of an open body. -/
def lastThree (s : State) : Bool :=
  let c := coreOf s.cur
  let a := curArch s
  let p := a.pc.toNat
  let n3 := afterBundle s c (afterBundle s c (afterBundle s c p))
  a.loops.any fun l => decide (l.first.toNat ≤ p) && decide (p < l.stop.toNat) && decide (l.stop.toNat ≤ n3)

/-- `LOOP`: a fifth open loop is LOOP 1, an end beyond that of the innermost open body LOOP 2, whatever the count. -/
def execLoop (a : Fin 64) (i : BitVec 32) (s : State) : Host.Outcome State Fault Refusal :=
  runSlot (fun s =>
      let r := curArch s
      let stop := nextBundle s + i.setWidth 64
      { regProbe [] 0 s with
        faults := delayFault s ++
          (if 4 ≤ r.loops.length then [slotFault s 0x0B 1 0 0 0]
           else match r.loops with
            | l :: _ => if l.stop.toNat < stop.toNat then [slotFault s 0x0B 2 0 0 0] else []
            | [] => []) })
    (fun s =>
      let first := nextBundle s
      let stop := first + i.setWidth 64
      let n := (rS (curArch s) a).setWidth 32
      if n = 0 then { s with flow := .jumped stop }
      else modArch s s.cur fun r => { r with loops := ⟨first, stop, n⟩ :: r.loops }) s

/-! ### Transfers (R61, R131) -/

/-- What a transfer asks for: DELAY in a delay bundle, LOOP 3 when taken near the end of an open body. -/
def branchProbe (p : Fin 16) (n : Bool) (ws : List WReg) (s : State) : Probe :=
  { predProbe p n ws ws.length s with
    faults := delayFault s ++ (if guarded (curArch s) p n && lastThree s then [slotFault s 0x0B 3 0 0 0] else []) }

/-- A taken transfer: two delay bundles, then the target. `closes`: open loops whose body excludes the target close (R132). -/
def branchTo (target : Word) (closes : Bool) (s : State) : State :=
  modArch s s.cur fun r =>
    { r with
      xfer := some ⟨target, 2, r.pc⟩
      loops := if closes then r.loops.filter fun l => decide (l.first ≤ target) && decide (target < l.stop) else r.loops }

/-- A transfer under a predicate. -/
def branchForm (p : Fin 16) (n : Bool) (closes : Bool) (target : Arch → Word) (s : State) :
    Host.Outcome State Fault Refusal :=
  runSlot (branchProbe p n []) (predEffect p n fun s => branchTo (target (curArch s)) closes s) s

def execBr (p : Fin 16) (n : Bool) (o : BitVec 35) (s : State) : Host.Outcome State Fault Refusal :=
  branchForm p n true (fun r => r.pc + o.signExtend 64) s

def execJmp (p : Fin 16) (n : Bool) (o : BitVec 35) (s : State) : Host.Outcome State Fault Refusal :=
  branchForm p n true (fun _ => o.setWidth 64) s

def execJmpr (a : Fin 64) (p : Fin 16) (n : Bool) (s : State) : Host.Outcome State Fault Refusal :=
  branchForm p n true (fun r => rS r a &&& 0xFFFFFFFF) s

/-- `CALL` also lands in `s63` the index of the bundle after its second delay bundle. -/
def execCall (p : Fin 16) (n : Bool) (o : BitVec 35) (s : State) : Host.Outcome State Fault Refusal :=
  runSlot (branchProbe p n [⟨0, 63⟩])
    (predEffect p n fun s =>
      let c := coreOf s.cur
      let back := afterBundle s c (afterBundle s c (afterBundle s c (curArch s).pc.toNat))
      branchTo ((curArch s).pc + o.signExtend 64) false (land 1 (.sreg 63 (BitVec.ofNat 64 back)) 0 s)) s

def execRet (a : Fin 64) (p : Fin 16) (n : Bool) (s : State) : Host.Outcome State Fault Refusal :=
  runSlot (branchProbe p n [])
    (predEffect p n fun s =>
      countEvent (branchTo (rS (curArch s) a &&& 0xFFFFFFFF) false s) (coreOf s.cur) 0x000B 1) s

/-! ### Traps, halting, yielding -/

/-- `TRAP` (R133): with traps disabled or in handler mode it is the fault that ends the job. -/
def execTrap (i : BitVec 16) (s : State) : Host.Outcome State Fault Refusal :=
  runSlot (fun s =>
      let r := curArch s
      { regProbe [] 0 s with
        faults := delayFault s ++ (if !r.tvec.getLsbD 32 || r.hm then [slotFault s 0x01 i.toNat 0 0 0] else []) })
    (fun s =>
      match s.flow with
      | .jumped _ => trapByInstr s.cur i 0 s
      | _ =>
        let n := loopNext (nextBundle s) (curArch s).loops
        trapByInstr s.cur i n.1 (modArch s s.cur fun r => { r with loops := n.2 })) s

/-- `ERET` (R134, R376). -/
def execEret (p : Fin 16) (n : Bool) (s : State) : Host.Outcome State Fault Refusal :=
  runSlot (fun s =>
      let r := curArch s
      { predProbe p n [] 0 s with
        faults := delayFault s ++ (if guarded r p n && !r.hm then [slotFault s 0x06 2 0 0 0] else []) })
    (predEffect p n fun s => trapReturn s.cur s) s

/-- `HALT` (R135): the context's last bundle; register results, those of its other slots among them, and unpopped values are
dropped. -/
def execHalt (p : Fin 16) (n : Bool) (s : State) : Host.Outcome State Fault Refusal :=
  runSlot noProbe
    (predEffect p n fun s => modCtx s s.cur fun c =>
      { discardResults c with run := .halted, haltCycle := s.cycle, amoq := [], deferred := [], waits := [], flagSeen := none }) s

/-- `YIELD` (R136): the context gives up the issue width after its bundle, as when `QUANT` expires. -/
def execYield (p : Fin 16) (n : Bool) (s : State) : Host.Outcome State Fault Refusal :=
  runSlot noProbe
    (predEffect p n fun s => modCore s (coreOf s.cur) fun c => { c with yielded := [subOf s.cur] }) s

/-! ### Landing replay (R139, R380) -/

/-- Whether the trap that the handler serves left an access that `RLAND` may supply (`set`) or replay. -/
def rlandLegal (c : Ctx) (set : Bool) : Bool :=
  let code := c.arch.tcause.toNat % 2 ^ 16
  c.arch.hm && (decide (0x18 ≤ code ∧ code ≤ 0x1C) || (code == 0x80 && decide (c.arch.tval2.toNat % 2 ^ 16 ≠ 0))) &&
    match c.hidden with
    | none => false
    | some h =>
      match h.kind with
      | .amo _ ret => !set || ret
      | .vstg _ _ => !set
      | _ => true

def rlandProbe (set : Bool) (p : Fin 16) (n : Bool) (s : State) : Probe :=
  { predProbe p n [] (match (curCtx s).hidden with
      | some ⟨_, .nothing, _, _⟩ => 0
      | _ => 1) s with
    faults := if guarded (curArch s) p n && !rlandLegal (curCtx s) set then [slotFault s 0x06 3 0 0 0] else [] }

/-- The value of `RLAND.SET`, sized and extended as the load's form requires. -/
def suppliedLanding (kind : WorkKind) (x : Word) : Landing → Landing
  | .sreg d _ => .sreg d (match kind with
      | .load r => extendTo r.size r.signed (x.toNat % 2 ^ (8 * r.size))
      | .spload _ size signed => extendTo size signed (x.toNat % 2 ^ (8 * size))
      | _ => x)
  | .vreg d _ lanes => .vreg d (match kind with
      | .spload _ 4 _ => ofLanes fun _ => x.setWidth 32
      | _ => ofElems 64 32 fun _ => x) lanes
  | a => a

/-- A second `RLAND` before `ERET` replaces the first: an access that the first has sent out, and that has not performed, is
withdrawn (R380). -/
def withdrawReplay (h : Replay) (s : State) : State :=
  match findWork s (coreOf s.cur) h.seq with
  | some w => if w.performed then s else dropWork s (coreOf s.cur) h.seq
  | none => s

/-- A result that waits for the first bundle after `ERET`, in place of an earlier one. -/
def replayFlight (act : Landing) (ready : Bool) (src : Nat) (s : State) : State :=
  let s := modCtx s s.cur fun c => { c with flight := c.flight.filter fun f => f.due ≠ afterReturn }
  match act with
  | .nothing => s
  | _ => pushFlight s ⟨afterReturn, s.seq, true, act, 0, 0, ready, src, none, false⟩

def execRlandSet (a : Fin 64) (p : Fin 16) (n : Bool) (s : State) : Host.Outcome State Fault Refusal :=
  runSlot (rlandProbe true p n)
    (predEffect p n fun s =>
      match (curCtx s).hidden with
      | none => s
      | some h =>
        let x := rS (curArch s) a
        let s := withdrawReplay h s
        match h.dest with
        | .nothing => modCtx s s.cur fun c => { c with amoq := c.amoq.map fun q => if q.seq = h.seq then { q with value := some x } else q }
        | d => replayFlight (suppliedLanding h.kind x d) true 0 s) s

/-- The access to replay, with the operands that `TVAL0` and `TVAL1` hold now. -/
def replayKind (kind : WorkKind) (v0 v1 : Word) : WorkKind :=
  match kind with
  | .load r => .load { r with addr := v0 }
  | .amo r ret => .amo { r with addr := v0, x := v1 } ret
  | .vstg _ x => .vstg v0 x
  | .ladder c => .ladder { c with hd := { c.hd with desc := v0 } }
  | .spload offs size signed => if size = 4 ∧ offs.length = 64 then kind else .spload [some v0.toNat] size signed
  | .rowload _ _ _ =>
    .rowload (Fin.ofNat 8 (v0.toNat / 2 ^ 16)) (Fin.ofNat 128 (v0.toNat % 2 ^ 16 / 512)) (decide (256 ≤ v0.toNat % 512))
  | k => k

/-- The bytes that a replayed access touches. -/
def replayFoot (kind : WorkKind) : List (Nat × Nat) :=
  match kind with
  | .load r => footOf r.addr r.size
  | .amo r _ => footOf r.addr (if r.wide then 8 else 4)
  | .vstg a _ => footOf a 256
  | .ladder c => footOf c.hd.desc 512
  | _ => []

def execRlandRedo (p : Fin 16) (n : Bool) (s : State) : Host.Outcome State Fault Refusal :=
  runSlot (rlandProbe false p n)
    (predEffect p n fun s =>
      match (curCtx s).hidden with
      | none => s
      | some h =>
        let r := curArch s
        let kind := replayKind h.kind r.tval0 r.tval1
        let path : Fin 6 := match kind with
          | .ladder _ => 4
          | _ => 0
        let d := r.tval2.toNat
        let w := { newWork s (d / 2 ^ 32) path h.cls none 0 kind (replayFoot kind) (Fin.ofNat 64 (d / 2 ^ 26)) (BitVec.ofNat 16 d)
          with bun := BitVec.ofNat 64 (d / 2 ^ 44), slot := Fin.ofNat 8 r.tslot.toNat, handler := false }
        let s := replayFlight h.dest false s.seq (withdrawReplay h s)
        let s := modCtx s s.cur fun c =>
          { c with
            amoq := c.amoq.map fun q => if q.seq = h.seq ∧ h.dest = .nothing then { q with seq := s.seq, value := none } else q
            hidden := some { h with seq := s.seq } }
        pushWork s w) s

end Sys2Proof.Machine
end

