-- ==== Sys2Proof/Machine/Csr.lean ====
section
/-! DEFINITION. The control and status registers: reading each (R22, R25, R34, R45, R66 to R76), and the four instructions that
access them (R137, R138). -/

namespace Sys2Proof.Machine

/-- `CTX` (R69). -/
def ctxWord (k : Fin 1024) : Word := BitVec.ofNat 64 ((subOf k).val * 2 ^ 10 + k.val)

/-- `CORE` (R69, R14). -/
def coreWord (c : Fin 256) : Word :=
  BitVec.ofNat 64 (c.val % 8 * 2 ^ 13 + c.val / 8 % 8 * 2 ^ 10 + c.val / 64 * 2 ^ 8 + c.val)

/-- A column's sample in the layout of `TEMPC` (R22). -/
def sampleWord (s : State) (c : Fin 256) : Word :=
  let t := s.temps[c]
  let h := s.threshNow[stackOf c]
  BitVec.ofNat 64 (s.sample.toNat * 2 ^ 48 + h.toNat * 2 ^ 32 + bit (h.slt t) * 2 ^ 16 + t.toNat)

/-- A CSR as it stands (R68). -/
def csrRead (s : State) (k : Fin 1024) (i : BitVec 12) : Word :=
  let a := (ctxAt s k).arch
  let c := coreAt s (coreOf k)
  let n := i.toNat
  if n = 0x000 then ctxWord k
  else if n = 0x001 then coreWord (coreOf k)
  else if n = 0x002 then statusWord a
  else if n = 0x003 then a.prio.setWidth 64
  else if n = 0x004 then c.quant.setWidth 64
  else if n = 0x005 then a.sched
  else if n = 0x006 then a.dmemb
  else if n = 0x007 then sampleWord s (coreOf k)
  else if n = 0x008 then a.snapbase
  else if n = 0x010 then a.tvec
  else if n = 0x011 then a.tcause
  else if n = 0x012 then a.tbun
  else if n = 0x013 then a.tslot
  else if n = 0x014 then a.tval0
  else if n = 0x015 then a.tval1
  else if n = 0x016 then a.tval2
  else if n = 0x020 then a.astat
  else if n = 0x021 then a.fstat
  else if n = 0x030 then a.fmt
  else if 0x040 ≤ n ∧ n < 0x050 then c.evsel[Fin.ofNat 16 n]
  else if 0x050 ≤ n ∧ n < 0x060 then c.evcnt[Fin.ofNat 16 n]
  else 0

/-- CSRs that only a handler writes (R68). -/
def handlerCsr (i : BitVec 12) : Bool := decide (0x011 ≤ i.toNat) && decide (i.toNat ≤ 0x016)

/-- The `RW` fields of a CSR, by the maps of R33, R34 and R71 to R76. -/
def rwFields (i : BitVec 12) : Word :=
  let n := i.toNat
  if n = 0x003 then 3
  else if n = 0x004 then 0xFFFF
  else if n = 0x010 then 0x1FFFFFFFF
  else if n = 0x011 then 0xFFFFFFFF
  else if n = 0x013 then 0x17
  else if n = 0x012 ∨ n = 0x014 ∨ n = 0x015 ∨ n = 0x016 ∨ (0x050 ≤ n ∧ n < 0x060) then BitVec.allOnes 64
  else if 0x040 ≤ n ∧ n < 0x050 then 0x1FFFF
  else 0

/-- The `W1C` fields of a CSR (R74, R75). -/
def w1cFields (i : BitVec 12) : Word :=
  if i = 0x020 then 0xFF000003 else if i = 0x021 then 0x3F else 0

/-- A CSR write takes effect, field by field (R137): `x` for the `RW` fields when `rw`, `clear` for the `W1C` ones. A counter
written in a cycle does not count that cycle's events (R366). -/
def csrWrite (s : State) (k : Fin 1024) (i : BitVec 12) (x clear : Word) (rw : Bool) : State :=
  let m := if rw then rwFields i else 0
  let fix (old : Word) : Word := ((old &&& ~~~m) ||| (x &&& m)) &&& ~~~(clear &&& w1cFields i)
  let n := i.toNat
  if n = 0x003 then modArch s k fun a => { a with prio := (fix (a.prio.setWidth 64)).setWidth 2 }
  else if n = 0x004 then modCore s (coreOf k) fun c => { c with quant := (fix (c.quant.setWidth 64)).setWidth 16 }
  else if n = 0x010 then modArch s k fun a => { a with tvec := fix a.tvec }
  else if n = 0x011 then modArch s k fun a => { a with tcause := fix a.tcause }
  else if n = 0x012 then modArch s k fun a => { a with tbun := fix a.tbun }
  else if n = 0x013 then modArch s k fun a => { a with tslot := fix a.tslot }
  else if n = 0x014 then modArch s k fun a => { a with tval0 := fix a.tval0 }
  else if n = 0x015 then modArch s k fun a => { a with tval1 := fix a.tval1 }
  else if n = 0x016 then modArch s k fun a => { a with tval2 := fix a.tval2 }
  else if n = 0x020 then modArch s k fun a => { a with astat := fix a.astat }
  else if n = 0x021 then modArch s k fun a => { a with fstat := fix a.fstat }
  else if 0x040 ≤ n ∧ n < 0x050 then
    modCore s (coreOf k) fun c => { c with evsel := c.evsel.set (Fin.ofNat 16 n) (fix c.evsel[Fin.ofNat 16 n]) }
  else if 0x050 ≤ n ∧ n < 0x060 then
    modCore s (coreOf k) fun c =>
      { c with
        evcnt := c.evcnt.set (Fin.ofNat 16 n) (fix c.evcnt[Fin.ofNat 16 n])
        evHold := c.evHold ||| (1#16 <<< (n % 16)) }
  else s

/-- What a CSR access asks for: its result, and PRIV 1 for a handler's CSR written outside handler mode. -/
def csrProbe (d : Fin 64) (i : BitVec 12) (write : Bool) (s : State) : Probe :=
  { regProbe (wrS d) 1 s with
    faults := if write && handlerCsr i && !(curArch s).hm then [slotFault s 0x06 1 0 0 0] else [] }

/-- A CSR is written: `PRIO` and `QUANT` at once, which rules selection from the next cycle; every other one at t + 1. -/
def csrSend (i : BitVec 12) (x clear : Word) (rw : Bool) (s : State) : State :=
  if rwFields i = 0 ∧ w1cFields i = 0 then s
  else if i = 0x003 ∨ i = 0x004 then csrWrite s s.cur i x clear rw
  else landFree 1 (.csr i x clear rw) s

def execCsrr (d : Fin 64) (i : BitVec 12) (s : State) : Host.Outcome State Fault Refusal :=
  runSlot (csrProbe d i false) (fun s => land 1 (.sreg d (csrRead s s.cur i)) 0 s) s

def execCsrw (d a : Fin 64) (i : BitVec 12) (s : State) : Host.Outcome State Fault Refusal :=
  runSlot (csrProbe d i true) (fun s =>
    let x := rS (curArch s) a
    csrSend i x x true (land 1 (.sreg d (csrRead s s.cur i)) 0 s)) s

def execCsrs (d a : Fin 64) (i : BitVec 12) (s : State) : Host.Outcome State Fault Refusal :=
  runSlot (csrProbe d i true) (fun s =>
    let old := csrRead s s.cur i
    csrSend i (old ||| rS (curArch s) a) 0 true (land 1 (.sreg d old) 0 s)) s

def execCsrc (d a : Fin 64) (i : BitVec 12) (s : State) : Host.Outcome State Fault Refusal :=
  runSlot (csrProbe d i true) (fun s =>
    let old := csrRead s s.cur i
    csrSend i (old &&& ~~~(rS (curArch s) a)) (rS (curArch s) a) true (land 1 (.sreg d old) 0 s)) s

end Sys2Proof.Machine
end

