-- ==== Sys2Proof/Machine/Crypto.lean ====
section
/-! DEFINITION. The digest and the signature that images and attestation reports carry: SHA-512 and ECDSA on curve P-521 (R342,
R343, R364). The spec names both standards and gives none of their steps: PRESUMED, the steps are those of the standards. -/

namespace Sys2Proof.Machine

/-! ### Big-endian numbers (R343) -/

/-- The number that bytes, most significant first, make. -/
def beVal (bs : List Byte) : Nat := leVal bs.reverse

/-- The `n` low bytes of `x`, most significant first. -/
def beBytes (n x : Nat) : List Byte := (leBytes n x).reverse

/-! ### SHA-512 -/

/-- The constants of the eighty rounds: the first 64 bits of the fractional parts of the cube roots of the first eighty primes. -/
def shaRound0 : List Word :=
  [0x428A2F98D728AE22, 0x7137449123EF65CD, 0xB5C0FBCFEC4D3B2F, 0xE9B5DBA58189DBBC,
   0x3956C25BF348B538, 0x59F111F1B605D019, 0x923F82A4AF194F9B, 0xAB1C5ED5DA6D8118,
   0xD807AA98A3030242, 0x12835B0145706FBE, 0x243185BE4EE4B28C, 0x550C7DC3D5FFB4E2,
   0x72BE5D74F27B896F, 0x80DEB1FE3B1696B1, 0x9BDC06A725C71235, 0xC19BF174CF692694]
def shaRound1 : List Word :=
  [0xE49B69C19EF14AD2, 0xEFBE4786384F25E3, 0x0FC19DC68B8CD5B5, 0x240CA1CC77AC9C65,
   0x2DE92C6F592B0275, 0x4A7484AA6EA6E483, 0x5CB0A9DCBD41FBD4, 0x76F988DA831153B5,
   0x983E5152EE66DFAB, 0xA831C66D2DB43210, 0xB00327C898FB213F, 0xBF597FC7BEEF0EE4,
   0xC6E00BF33DA88FC2, 0xD5A79147930AA725, 0x06CA6351E003826F, 0x142929670A0E6E70]
def shaRound2 : List Word :=
  [0x27B70A8546D22FFC, 0x2E1B21385C26C926, 0x4D2C6DFC5AC42AED, 0x53380D139D95B3DF,
   0x650A73548BAF63DE, 0x766A0ABB3C77B2A8, 0x81C2C92E47EDAEE6, 0x92722C851482353B,
   0xA2BFE8A14CF10364, 0xA81A664BBC423001, 0xC24B8B70D0F89791, 0xC76C51A30654BE30,
   0xD192E819D6EF5218, 0xD69906245565A910, 0xF40E35855771202A, 0x106AA07032BBD1B8]
def shaRound3 : List Word :=
  [0x19A4C116B8D2D0C8, 0x1E376C085141AB53, 0x2748774CDF8EEB99, 0x34B0BCB5E19B48A8,
   0x391C0CB3C5C95A63, 0x4ED8AA4AE3418ACB, 0x5B9CCA4F7763E373, 0x682E6FF3D6B2B8A3,
   0x748F82EE5DEFB2FC, 0x78A5636F43172F60, 0x84C87814A1F0AB72, 0x8CC702081A6439EC,
   0x90BEFFFA23631E28, 0xA4506CEBDE82BDE9, 0xBEF9A3F7B2C67915, 0xC67178F2E372532B]
def shaRound4 : List Word :=
  [0xCA273ECEEA26619C, 0xD186B8C721C0C207, 0xEADA7DD6CDE0EB1E, 0xF57D4F7FEE6ED178,
   0x06F067AA72176FBA, 0x0A637DC5A2C898A6, 0x113F9804BEF90DAE, 0x1B710B35131C471B,
   0x28DB77F523047D84, 0x32CAAB7B40C72493, 0x3C9EBE0A15C9BEBC, 0x431D67C49C100D4C,
   0x4CC5D4BECB3E42B6, 0x597F299CFC657E2A, 0x5FCB6FAB3AD6FAEC, 0x6C44198C4A475817]
def shaRounds : List Word := shaRound0 ++ shaRound1 ++ shaRound2 ++ shaRound3 ++ shaRound4

/-- The eight words that a digest starts from, and goes on with block by block. -/
structure ShaState where
  a : Word
  b : Word
  c : Word
  d : Word
  e : Word
  f : Word
  g : Word
  h : Word
  deriving DecidableEq, Repr

def shaStart : ShaState :=
  ⟨0x6A09E667F3BCC908, 0xBB67AE8584CAA73B, 0x3C6EF372FE94F82B, 0xA54FF53A5F1D36F1, 0x510E527FADE682D1, 0x9B05688C2B3E6C1F,
   0x1F83D9ABFB41BD6B, 0x5BE0CD19137E2179⟩

/-- The next word of a block's schedule, from those before it, latest first. -/
def shaNext (ws : List Word) : Word :=
  let small (r t k : Nat) (x : Word) : Word := x.rotateRight r ^^^ x.rotateRight t ^^^ (x >>> k)
  small 19 61 6 (ws.getD 1 0) + ws.getD 6 0 + small 1 8 7 (ws.getD 14 0) + ws.getD 15 0

/-- The eighty words of a block's schedule, from its sixteen. -/
def shaSchedule (ws : List Word) : List Word := ((List.range 64).foldl (fun r _ => shaNext r :: r) ws.reverse).reverse

/-- One round, with its constant and its word of the schedule. -/
def shaRound (s : ShaState) (k w : Word) : ShaState :=
  let big (r t u : Nat) (x : Word) : Word := x.rotateRight r ^^^ x.rotateRight t ^^^ x.rotateRight u
  let t1 := s.h + big 14 18 41 s.e + ((s.e &&& s.f) ^^^ (~~~s.e &&& s.g)) + k + w
  let t2 := big 28 34 39 s.a + ((s.a &&& s.b) ^^^ (s.a &&& s.c) ^^^ (s.b &&& s.c))
  ⟨t1 + t2, s.a, s.b, s.c, s.d + t1, s.e, s.f, s.g⟩

/-- One block of 128 bytes. -/
def shaBlock (s : ShaState) (bs : List Byte) : ShaState :=
  let ws := (List.range 16).map fun i => BitVec.ofNat 64 (beVal ((bs.drop (8 * i)).take 8))
  let t := (shaRounds.zip (shaSchedule ws)).foldl (fun s q => shaRound s q.1 q.2) s
  ⟨s.a + t.a, s.b + t.b, s.c + t.c, s.d + t.d, s.e + t.e, s.f + t.f, s.g + t.g, s.h + t.h⟩

/-- The blocks of a padded message, `n` of them. -/
def shaBlocks : (n : Nat) → List Byte → ShaState → ShaState
  | 0, _, s => s
  | n + 1, bs, s => shaBlocks n (bs.drop 128) (shaBlock s bs)

/-- A message with its padding: a 1 bit, zeros, and its length in bits. -/
def shaPad (bs : List Byte) : List Byte :=
  bs ++ [0x80] ++ List.replicate ((239 - bs.length % 128) % 128) 0 ++ beBytes 16 (8 * bs.length)

/-- SHA-512 (R342): 64 bytes, read as the number whose least significant byte is the first. -/
def sha512 (bs : List Byte) : BitVec 512 :=
  let m := shaPad bs
  let s := shaBlocks (m.length / 128) m shaStart
  BitVec.ofNat 512 (leVal ([s.a, s.b, s.c, s.d, s.e, s.f, s.g, s.h].flatMap fun x => beBytes 8 x.toNat))

/-! ### Curve P-521 -/

/-- The prime of the field. -/
def curveP : Nat := 2 ^ 521 - 1

/-- The order of the base point. -/
def curveN : Nat :=
  0x01FFFFFFFFFFFFFFFFFFFFFFFFFFFFFFFFFFFFFFFFFFFFFFFFFFFFFFFFFFFFFFFFFA51868783BF2F966B7FCC0148F709A5D03BB5C9B8899C47AEBB6FB71E91386409

/-- The constant of y² = x³ − 3x + b. -/
def curveB : Nat :=
  0x0051953EB9618E1C9A1F929A21A0B68540EEA2DA725B99B315F3B8B489918EF109E156193951EC7E937B1652C0BD3BB1BF073573DF883D2C34F1EF451FD46B503F00

/-- A point of the curve; `none` is the point at infinity. -/
abbrev Point : Type := Option (Nat × Nat)

/-- The base point. -/
def curveG : Point :=
  some (0x00C6858E06B70404E9CD9E3ECB662395B4429C648139053FB521F828AF606B4D3DBAA14B5E77EFE75928FE1DC127A2FFA8DE3348B3C1856A429BF97E7E31C2E5BD66,
        0x011839296A789A3BC0045C8A5FB42C7D1BD998F54449579B446817AFBD17273E662C97EE72995EF42640C550B9013FAD0761353C7086A272C24088BE94769FD16650)

/-- `x` to the power `e` modulo `m`, for `e` of `n` bits. -/
def powMod (m x : Nat) : (n e : Nat) → Nat
  | 0, _ => 1 % m
  | n + 1, e => let h := powMod m x n (e / 2); if e % 2 = 1 then h * h % m * x % m else h * h % m

/-- The inverse modulo a prime of at most 521 bits. -/
def invMod (m x : Nat) : Nat := powMod m (x % m) 521 (m - 2)

/-- The sum of two points. -/
def addPoints : Point → Point → Point
  | none, q => q
  | some a, none => some a
  | some (x1, y1), some (x2, y2) =>
    if x1 = x2 ∧ (y1 + y2) % curveP = 0 then none
    else
      let slope := if x1 = x2 then (3 * x1 * x1 + (curveP - 3)) * invMod curveP (2 * y1) % curveP
        else (y2 + (curveP - y1)) * invMod curveP (x2 + (curveP - x1)) % curveP
      let x := (slope * slope + (curveP - x1) + (curveP - x2)) % curveP
      some (x, (slope * (x1 + (curveP - x)) + (curveP - y1)) % curveP)

/-- `k` times a point, for `k` of `n` bits. -/
def mulPoint (a : Point) : (n k : Nat) → Point
  | 0, _ => none
  | n + 1, k =>
    let h := mulPoint a n (k / 2)
    let d := addPoints h h
    if k % 2 = 1 then addPoints d a else d

/-- Whether coordinates are those of a point of the curve. -/
def onCurve (x y : Nat) : Bool :=
  decide (x < curveP) && decide (y < curveP) && (y * y) % curveP == (x * x * x + (curveP - 3) * x + curveB) % curveP

/-- The x coordinate of a point, modulo the order; 0 for the point at infinity. -/
def pointX : Point → Nat
  | some (x, _) => x % curveN
  | none => 0

/-! ### ECDSA (R343) -/

/-- The number that a digest stands for in a signature. -/
def digestVal (d : BitVec 512) : Nat := beVal (leBytes 64 d.toNat)

/-- Whether the signature (r, t) of a digest verifies under a public key. -/
def verifies (key : Nat × Nat) (d : BitVec 512) (r t : Nat) : Bool :=
  let w := invMod curveN t
  onCurve key.1 key.2 && decide (0 < r) && decide (r < curveN) && decide (0 < t) && decide (t < curveN) &&
    pointX (addPoints (mulPoint curveG 521 (digestVal d * w % curveN)) (mulPoint (some key) 521 (r * w % curveN))) == r

/-- The signature of a digest with a private key and a nonce. -/
def signDigest (key nonce : Nat) (d : BitVec 512) : Nat × Nat :=
  let r := pointX (mulPoint curveG 521 nonce)
  (r, invMod curveN nonce * (digestVal d + r * key) % curveN)

/-- Whether the 132 bytes of a signature, its two integers of 66 bytes each, verify under the Hokudal key (R364). -/
def hokudalVerifies (d : BitVec 512) (sig : List Byte) : Bool :=
  verifies Config.hokudalKey d (beVal (sig.take 66)) (beVal ((sig.drop 66).take 66))

/-- The 132 bytes of the device's signature of a digest (R364). -/
def identitySignature (d : BitVec 512) : List Byte :=
  let q := signDigest (1 + Config.identityKey % (curveN - 1)) (1 + Config.signNonce d % (curveN - 1)) d
  beBytes 66 q.1 ++ beBytes 66 q.2

end Sys2Proof.Machine
end

