-- ==== Sys2Proof/Machine/Land.lean ====
section
/-! DEFINITION. How results land (R26 to R30): what each landing writes, in which order, when a context is frozen, and which
fault stands at a bundle boundary (R377 to R379). -/

namespace Sys2Proof.Machine

/-! ### One landing -/

/-- A frame field is written (R295). -/
def frameField (f : Frame) (fld : Fin 4) (x : BitVec 32) (add : Bool) : Frame :=
  match fld with
  | 0 => { f with seed := x }
  | 1 => { f with rowo := if add then f.rowo + x else x }
  | 2 => { f with colo := if add then f.colo + x else x }
  | 3 => { f with cfmt := x.setWidth 4, tr := x.getLsbD 4 }

/-- A register write of a landing (R26, R56, R67, R186, R194, R260, R294, R300). -/
def landReg (act : Landing) (a : Arch) : Arch :=
  match act with
  | .sreg d x => wS a d x
  | .preg d x => wP a d x
  | .vreg d x lanes => wV a d x lanes
  | .mreg d x lanes => wM a d x lanes
  | .wreg d x task =>
    { a with
      w := a.w.set d x
      tsk := match task with
        | some (q, dom) => { a.tsk with delivered := a.tsk.delivered ++ [⟨x &&& 0xFFFFFFFFFFFF, q, dom, false⟩] }
        | none => a.tsk }
  | .pattern i k x => { a with a := a.a.set i ⟨(a.a[i]).words.set k x⟩ }
  | .frame r fld x add => { a with d := a.d.set r (frameField a.d[r] fld x add) }
  | .ringInit g cap => { a with g := a.g.set g { Ring.reset with cap := cap } }
  | .ringCons g n => { a with g := a.g.set g { a.g[g] with cons := (a.g[g]).cons + n } }
  | .fmt x => { a with fmt := x }
  | .scale n x => { a with scl := a.scl.set n x }
  | .handle h x => { a with h := a.h.set h x }
  | .wbase k => { a with wbase := a.wbase + k }
  | _ => a

/-- What a landing does. -/
def landAct (k : Fin 1024) (act : Landing) (s : State) : State :=
  match act with
  | .csr i x clear rw => csrWrite s k i x clear rw
  | .rowStore e row half add x => landRowStore s k e row half add x
  | .zeroBands e bands => landZeroBands s k e bands
  | .matrix c => landMatrix s k c
  | _ => modArch s k (landReg act)

/-- The fault of a due flight. That of a matrix step stands only when it meets an uncorrectable entry: then the step writes no
entry, and the flight's record is completed with the offset (R393). That of a `VSTA` is a deferred one, which its landing sends. -/
def stepFault (s : State) (k : Fin 1024) (f : Flight) : Option FaultRec :=
  match f.act with
  | .matrix c =>
    match stepBad s k c with
    | some off => f.fault.map fun e => { e with v0 := BitVec.ofNat 64 off }
    | none => none
  | .rowStore _ _ _ _ _ => none
  | _ => f.fault

/-! ### Signatures of a rollback pass (R398) -/

/-- One bit of the CRC-64. -/
def crcBit (r : BitVec 64) (b : Bool) : BitVec 64 :=
  if r.getLsbD 63 != b then (r <<< 1) ^^^ 0x42F0E1EBA9EA3693 else r <<< 1

/-- The CRC-64 of `n` bits of a number, highest first, from a state. -/
def crcBits (r : BitVec 64) (x : Nat) : Nat → BitVec 64
  | 0 => r
  | n + 1 => crcBits (crcBit r (x.testBit n)) x n

/-- What the landing of a register of R65 contributes: its destination number, and its value in 8-byte groups. The numbers are the
model's choice (see the log). -/
def landingGroups : Landing → Option (Nat × List Nat)
  | .sreg d x => some (d.val, [x.toNat])
  | .preg d x => some (0x100 + d.val, [bit x])
  | .vreg d x _ => some (0x200 + d.val, (List.range 32).map fun i => (elem x 64 i).toNat)
  | .mreg d x _ => some (0x300 + d.val, [x.toNat])
  | .wreg d x _ => some (0x400 + d.val, [x.toNat])
  | .pattern a i x => some (0x500 + a.val * 32 + i.val, [x.toNat])
  | .frame r fld x _ => some (0x600 + r.val * 4 + fld.val, [x.toNat])
  | .ringInit g cap => some (0x680 + g.val, [cap.toNat])
  | .ringCons g n => some (0x690 + g.val, [n.toNat])
  | .wbase k => some (0x6C0, [k.val])
  | .handle h x => some (0x6D0 + h.val, [bit x.bound, x.desc.toNat, x.geom.toNat])
  | .scale n x => some (0x6E0 + n.val, [x.toNat])
  | .fmt x => some (0x6F0, [x.toNat])
  | .csr i x clear _ => some (0x1000 + i.toNat, [x.toNat, clear.toNat])
  | _ => none

/-- Adds a landing to the signature of a context whose core rolls back. -/
def sign (s : State) (k : Fin 1024) (act : Landing) : State :=
  match (coreAt s (coreOf k)).rolling, landingGroups act with
  | some r, some (n, gs) =>
    let add (q : Fin 4 × Nat × BitVec 64) : Fin 4 × Nat × BitVec 64 :=
      if q.1 = subOf k then (q.1, q.2.1, gs.foldl (fun h g => crcBits h g 64) (crcBits q.2.2 n 16)) else q
    modCore s (coreOf k) fun c => { c with rolling := some { r with counts := r.counts.map add } }
  | _, _ => s

/-! ### Landing in order -/

/-- The `SPDATA` fault that the landing of a `VSTA` row defers: a lane of it writes part of a code word in error (R393, R394). -/
def rowStoreFault (s : State) (k : Fin 1024) (f : Flight) : Option FaultRec :=
  match f.act with
  | .rowStore e row half add _ => (rowStoreBad s k e row half add).bind fun off => f.fault.map fun x => { x with v0 := BitVec.ofNat 64 off }
  | _ => none

/-- The group of R42 of the register that a landing writes; the flags of any are in the last. -/
def landingGroup : Landing → Nat
  | .sreg _ _ => 0
  | .preg _ _ => 1
  | .mreg _ _ _ => 1
  | .vreg d _ _ => 2 + d.val / 8
  | _ => 10

/-- The register groups that a landing makes dirty again (R42). -/
def landedUnits (s : State) (k : Fin 1024) (f : Flight) : List (Fin 256 × Nat) :=
  shadowedOf s (coreOf k) [groupUnit (subOf k).val (landingGroup f.act)]

/-- A result lands: its write, the flags it raises (R90, R163), and the deferred fault it meets. -/
def landFlight (k : Fin 1024) (f : Flight) (s : State) : State :=
  let s := { s with dirty := addDirty s.dirty (landedUnits s k f) }
  let t := modArch (landAct k f.act (sign s k f.act)) k fun a => raiseAstat f.aflags (raiseFlags f.flags a)
  match rowStoreFault s k f with
  | some e => defer t k f.seq f.handler e
  | none => t

/-- Lands what one operation has due by schedule cycle `t`, its transform beats after its results. -/
def landOperation (k : Fin 1024) (t q : Nat) (s : State) : State :=
  let c := ctxAt s k
  let mine (f : Flight) : Bool := decide (f.seq = q) && decide (f.due ≤ t) && flightReady s k f
  let go := c.flight.filter fun f => mine f && (stepFault s k f).isNone
  let marked := c.flight.filterMap fun f =>
    if mine f then
      match stepFault s k f with
      | some e => some { f with fault := some e, act := .nothing, counts := false }
      | none => none
    else some f
  let s := go.foldl (fun s f => landFlight k f s) (setCtx s k { c with flight := marked })
  (ctxAt s k).xops.foldl (fun s x =>
    if x.seq = q then
      match landsAt x with
      | some u => if u ≤ t then landChunk s k x else s
      | none => s
    else s) s

/-- What a context has due at schedule cycle `u`, or before it: the results and the chunks of its X operations land, in the issue
order of the operations; then the chunks of the cycle are read (R26, R210). -/
def landCycle (k : Fin 1024) (u : Nat) (s : State) : State :=
  let c := ctxAt s k
  let due := (c.flight.filter fun f => f.due ≤ u).map (·.seq) ++ (c.xops.filter (landDue u)).map (·.seq)
  beatReads k u ((rising due).foldl (fun s q => landOperation k u q s) s)

/-- Everything of a context that is due by schedule cycle `t` takes effect, cycle by cycle. -/
def landUpTo (k : Fin 1024) (t : Nat) (s : State) : State :=
  let c := ctxAt s k
  let cycles := ((c.flight.map (·.due)).filter fun u => decide (u ≤ t)) ++ c.xops.flatMap (beatCycles t)
  (rising cycles).foldl (fun s u => landCycle k u s) s

/-- RESULT_LANDS: a context's schedule clock has reached the landing cycle of results, which land. -/
def execResultLands (k : Fin 1024) (s : State) : Host.Outcome State Fault Refusal :=
  .next (if (ctxAt s k).run = .started && !frozen s k then landUpTo k (beatClock s k) s else s)

/-- HALTED_ENGINE_RESULT (R135): the engine results of a halted context take effect in the cycle that stands for their landing
schedule cycle, in landing order. -/
def execHaltedEngineResult (k : Fin 1024) (s : State) : Host.Outcome State Fault Refusal :=
  .next (if (ctxAt s k).run = .halted then landUpTo k (beatClock s k) s else s)

/-! ### Faults at a boundary (R377 to R379) -/

/-- The landing fault that stands at the boundary: the earliest issued of those due; in handler mode only one of an access that
the handler issued. -/
def landingFault (c : Ctx) : Option Flight :=
  c.flight.foldl (fun b f =>
    if f.fault.isSome && decide (f.due ≤ c.arch.sched.toNat) && (!c.arch.hm || f.handler) then
      match b with
      | none => some f
      | some x => if f.seq < x.seq then some f else some x
    else b) none

/-- The deferred fault that stands at the boundary: the first in issue order. -/
def deferredFault (c : Ctx) : Option Deferred :=
  c.deferred.foldl (fun b d =>
    if !c.arch.hm || d.handler then
      match b with
      | none => some d
      | some x => if d.seq < x.seq then some d else some x
    else b) none

/-- Whether a context has a fault to take at its boundary. -/
def faultStands (c : Ctx) : Bool := (landingFault c).isSome || (deferredFault c).isSome

/-- Takes the fault that stands at the boundary of a context (R377, R379), with `TBUN` the bundle next to issue. -/
def takeFault (k : Fin 1024) (s : State) : State :=
  let c := ctxAt s k
  match landingFault c with
  | some f =>
    match f.fault with
    | some e => trapEnter k e c.arch.pc (setCtx s k { c with flight := c.flight.filter fun x => !(x.seq = f.seq && x.fault.isSome) })
    | none => s
  | none =>
    match deferredFault c with
    | some d => trapEnter k d.what c.arch.pc (setCtx s k { c with deferred := c.deferred.erase d })
    | none => s

end Sys2Proof.Machine
end

