-- ==== Sys2Proof/Machine/Units.lean ====
section
/-! DEFINITION. When a piece of outstanding work may perform, and the events in which it does: data of landing loads, atomics,
flag writes, commands of the engines and their failures, increments of other cores' rings, and steps that retire. -/

namespace Sys2Proof.Machine

/-! ### Which work may perform -/

/-- Whether a piece of work is one of the ladder unit's (R258). -/
def isLadder (w : Work) : Bool :=
  match w.kind with
  | .ladder _ => true
  | _ => false

/-- Whether a piece of work is a copy command of an engine, by its slot (R192). -/
def isCopyOf (slot : Fin 8) (w : Work) : Bool :=
  match w.kind with
  | .copy _ => decide (w.slot = slot)
  | _ => false

/-- Whether a piece of work is a drain (R231). -/
def isDrain (w : Work) : Bool :=
  match w.kind with
  | .drain _ => true
  | _ => false

/-- The conditions on the queues of the core: the ladder unit works in issue order (R259), drains too, and a copy engine runs
its first four commands (R192). -/
def atQueueHead (s : State) (w : Work) : Bool :=
  let before := (coreAt s (coreOf w.ctx)).work.filter fun x => decide (x.seq < w.seq) && !x.performed
  if isLadder w then !before.any isLadder
  else if isDrain w then !before.any isDrain
  else if isCopyOf w.slot w then decide ((before.filter (isCopyOf w.slot)).length < 4)
  else true

/-- Whether copies issued before `q` and still under way write into the ways of a window that an `SPART` takes (R130, R402). -/
def spartBusy (s : State) (u : Fin 256) (ways q : Nat) : Bool :=
  let lost := [(localKey 2 u.val (ways * 0x100000), localKey 2 u.val ((sliceAt s u).ways * 0x100000))]
  s.cores.toList.any fun c => c.work.any fun w =>
    match w.kind with
    | .copy x => !w.performed && decide (w.seq < q) && footsMeet (copyDests x.op.toNat x.pat) lost
    | _ => false

/-- Whether an access that `RLAND.REDO` has issued anew, and that changes memory, still waits for the `ERET`: until then another
`RLAND` may replace it (R380). -/
def replayHeld (s : State) (w : Work) : Bool :=
  let c := ctxAt s w.ctx
  c.arch.hm && c.hidden.any (fun h => h.seq == w.seq) && !stalledFor s w && match w.kind with
    | .amo _ _ => true
    | .vstg _ _ => true
    | _ => false

/-- The granules of the arbitrated ports that a copy command moves (R367): those of each side that lies in a scratchpad. -/
def copyGranules (x : CopyCmd) : Nat :=
  let n := (patTotal x.pat + 63) / 64
  let side (a : Word) : Nat := match localAddr a with
    | some (0, _, _) => n
    | _ => 0
  side (patWord x.pat 0) + side (patWord x.pat 1)

/-- The entry of copy engine `e`, of two. -/
def engineOf (e : Bool) (q : Nat × Nat) : Nat := if e then q.2 else q.1
def setEngine (e : Bool) (x : Nat) (q : Nat × Nat) : Nat × Nat := if e then (q.1, x) else (x, q.2)

/-- The engine of a copy command: slot 5 holds engine 1 (R192). -/
def isEngine1 (w : Work) : Bool := w.slot != 4

/-- The granules that a copy command has still to move in this period, once what its engine moved of it in periods past is taken off. -/
def granulesLeft (s : State) (w : Work) (x : CopyCmd) : Nat := copyGranules x - engineOf (isEngine1 w) s.moved4[coreOf w.ctx]

/-- Whether the budget of class 4 lets a copy command finish in this period; a budget of 0 is no limit (R367). -/
def engineMay (s : State) (w : Work) (x : CopyCmd) : Bool :=
  s.budget[4] == 0 ||
    decide (engineOf (isEngine1 w) s.spent4[coreOf w.ctx] + granulesLeft s w x ≤ (s.budget[4]).toNat)

/-- Charges a copy command that has moved its blocks to its engine's budget. DESIGN CHOICE (see the log): a command performs whole, in the
period in which its last granule moves. -/
def chargeCopy (s : State) (w : Work) : State :=
  match w.kind with
  | .copy x =>
    let c := coreOf w.ctx
    if s.budget[4] = 0 ∨ !((findWork s c w.seq).all fun y => y.performed || y.acks != 0) then s
    else
      let e := isEngine1 w
      let q := s.spent4[c]
      { s with spent4 := s.spent4.set c (setEngine e (engineOf e q + granulesLeft s w x) q),
               moved4 := s.moved4.set c (setEngine e 0 s.moved4[c]) }
  | _ => s

/-- Whether nothing but a rule of its own kind holds a piece of work: not blocked by earlier accesses (R280, R281), at its queue's head. -/
def mayAccess (s : State) (w : Work) : Bool :=
  !w.performed && !awaiting w && !blockedBy s w && atQueueHead s w && !replayHeld s w

/-- Whether a piece of work may perform now: a release
after everything its sender issued before it (R289), to words not yet written in the cycle (R288). An `SPART` waits for copies into
the ways it takes (R130). The flag add of a deposit that completes a merge cell waits for the release on its own (`runCellAdds`). -/
def mayPerform (s : State) (w : Work) : Bool :=
  mayAccess s w &&
    match w.kind with
    | .wnext _ => false
    | .flagw _ _ _ _ _ _ _ => released s w.ctx w.seq && flagsFree s w
    | .spart u n => !spartBusy s (Fin.ofNat 256 u) n w.seq
    | .copy x => engineMay s w x
    | _ => true

/-- At the end of a period an engine has moved what its budget left of the command that it is at (R367). -/
def carryEngine (s : State) (c : Fin 256) (e : Bool) : Nat :=
  match (coreAt s c).work.find? fun w => isCopy w && isEngine1 w == e && mayAccess s w with
  | some w =>
    match w.kind with
    | .copy x => min (copyGranules x) (engineOf e s.moved4[c] + ((s.budget[4]).toNat - engineOf e s.spent4[c]))
    | _ => 0
  | none => 0

/-- A piece of work performs, if it may. -/
def runWork (s : State) (c : Fin 256) (q : Nat) : State :=
  match findWork s c q with
  | some w => if mayPerform s w then chargeCopy (perform s w) w else s
  | none => s

/-- An event about a piece of work of the kinds a test selects: it performs, if it may. -/
def workEvent (sel : WorkKind → Bool) (c : Fin 256) (q : Nat) (s : State) : State :=
  match findWork s c q with
  | some w => if sel w.kind then runWork s c q else s
  | none => s

/-! ### Results that land while the schedule clock stands still -/

/-- A context without its bank writes and transform beats in flight. -/
def withoutResults (s : State) (k : Fin 1024) : State :=
  modCtx s k fun c => { c with flight := c.flight.filter fun f => !isBankWrite f, xops := [] }

/-- Whether a context's schedule clock stands still while something must come after its bank writes or beats in flight: work that would
perform but for them (R198, R258, R281), a fence or a commit that waits for them (R285, R326), a retraction, a rollback to come
(R320, R398), a merge cell's flag add (R289). -/
def clockHolds (s : State) (k : Fin 1024) : Bool :=
  let c := ctxAt s k
  let t := withoutResults s k
  let still := !waitsMet s k [] [] c.waits || (c.sync.isSome && !c.arch.hm) || retracting s k ||
    (coreAt s (coreOf k)).rolling.any fun r => r.pass = 0
  decide (c.run = .started) && (c.flight.any isBankWrite || !c.xops.isEmpty) &&
    (((coreAt s (coreOf k)).work.any fun w => decide (w.ctx = k) && (still || stalledFor s w) && !mayPerform s w && mayPerform t w) ||
      (frozen s k && !frozen t k) ||
      c.waits.any (fun w => w == .released && !waitMet s k [] [] w && waitMet t k [] [] w) ||
      (retracting s k && !accessesDone s k && accessesDone t k) ||
      (still && s.cellAdds.any fun a => decide (a.src = coreOf k) && !cellReleased s a && cellReleased t a))

/-- The bank writes and beats of the earliest schedule cycle that has any land, as those of a halted context do (R135). DEDUCED (see the
log): R27 holds them for the schedule clock, which R24 stops, and the rules that `clockHolds` names have something come after them. -/
def landStanding (k : Fin 1024) (s : State) : State :=
  let c := ctxAt s k
  match rising (((c.flight.filter isBankWrite).map (·.due)) ++ c.xops.flatMap (beatCycles (2 ^ 65))) with
  | [] => s
  | u :: _ =>
    let s := landCycle k u (setCtx s k { c with flight := c.flight.filter isBankWrite })
    modCtx s k fun d => { d with flight := (c.flight.filter fun f => !isBankWrite f) ++ d.flight }

/-! ### Events -/

/-- LANDING_DATA_ARRIVES (R28): the data of a variable-latency result arrives and waits in the landing buffer. -/
def execLandingDataArrives (c : Fin 256) (q : Nat) (s : State) : Host.Outcome State Fault Refusal :=
  .next (workEvent (fun
    | .load _ => true
    | .l1op _ _ _ => true
    | .spart _ _ => true
    | .spload _ _ _ => true
    | .rowload _ _ _ => true
    | .ladder l => l.op == 0x4A
    | _ => false) c q s)

/-- AMO_PERFORM (R128): an `AMO` or `RED` performs at the word's home slice. -/
def execAmoPerform (c : Fin 256) (q : Nat) (s : State) : Host.Outcome State Fault Refusal :=
  .next (workEvent (fun
    | .amo _ _ => true
    | _ => false) c q s)

/-- DEFERRED_REFUSAL (R379): a store or atomic is judged where it performs; a refusal reaches the context, which takes it at
its next boundary. -/
def execDeferredRefusal (c : Fin 256) (q : Nat) (s : State) : Host.Outcome State Fault Refusal :=
  .next (workEvent (fun
    | .amo _ _ => true
    | .vstg _ _ => true
    | .spart _ _ => true
    | _ => false) c q s)

/-- FLAG_WRITE_ARRIVES (R288): a flag write performs at its flag files. -/
def execFlagWriteArrives (c : Fin 256) (q : Nat) (s : State) : Host.Outcome State Fault Refusal :=
  .next (workEvent (fun
    | .flagw _ _ _ _ _ _ _ => true
    | _ => false) c q s)

/-- COPY_COMPLETE (R196): a copy command completes. -/
def execCopyComplete (c : Fin 256) (q : Nat) (s : State) : Host.Outcome State Fault Refusal :=
  .next (workEvent (fun
    | .copy _ => true
    | _ => false) c q s)

/-- DRAIN_COMPLETE (R231): a drain completes. -/
def execDrainComplete (c : Fin 256) (q : Nat) (s : State) : Host.Outcome State Fault Refusal :=
  .next (workEvent (fun
    | .drain _ => true
    | _ => false) c q s)

/-- LADDER_OP_COMPLETE (R258, R324, R331): a ladder, merge-cell or task command completes. -/
def execLadderOpComplete (c : Fin 256) (q : Nat) (s : State) : Host.Outcome State Fault Refusal :=
  .next (workEvent (fun
    | .ladder _ => true
    | .spawn _ => true
    | .gload _ _ _ => true
    | .vtab _ _ => true
    | _ => false) c q s)

/-- ENGINE_FAULT (R385): a command of an engine runs up to the access that meets a fault, and fails there. -/
def execEngineFault (c : Fin 256) (q : Nat) (s : State) : Host.Outcome State Fault Refusal :=
  .next (workEvent (fun
    | .copy _ => true
    | .drain _ => true
    | .ladder _ => true
    | .spawn _ => true
    | .gload _ _ _ => true
    | .vtab _ _ => true
    | _ => false) c q s)

/-- DECODER_WATCHDOG (R405): the decoder of a `CPYX` has been busy too long on the chunk that block `b` draws from, which is cut
off with `LENGTH`; every earlier block performs. -/
def execDecoderWatchdog (c : Fin 256) (q : CutOff) (s : State) : Host.Outcome State Fault Refusal :=
  .next (match findWork s c q.seq with
    | some w =>
      match w.kind with
      | .copy x => if x.op = 4 ∧ mayPerform s w then chargeCopy (perform s w (some q.blocks)) w else s
      | _ => s
    | none => s)

/-- DREN_INCREMENT (R199): the `i`-th increment on its way arrives, if none of its issuer to its ring comes before it. -/
def execDrenIncrement (i : Nat) (s : State) : Host.Outcome State Fault Refusal :=
  .next (match s.dren[i]? with
    | some d => if drenFirst s d then applyDren s d else s
    | none => s)

/-- MMA_STEP_RETIRE (R221): the step in a core's array retires, 32 cycles after its issue. -/
def execMmaStepRetire (c : Fin 256) (s : State) : Host.Outcome State Fault Refusal :=
  .next (match (coreAt s c).array with
    | some (t, _) => if t ≤ s.cycle then retireStep s c else s
    | none => s)

/-! ### Completing everything a core has issued (R40, R398) -/

/-- Serves the buffered writes of every core (R172). -/
def serveEvery (s : State) : State :=
  (List.finRange 256).foldl (fun s c => if (coreAt s c).buf.isEmpty then s else serveAll s c) s

/-- Whether a piece of work is an engine command, which a save and a rollback see through to its end (R40, R398). -/
def isCommand (w : Work) : Bool :=
  match w.kind with
  | .copy _ => true
  | .drain _ => true
  | .ladder c => c.op != 0x4A
  | .spawn _ => true
  | .gload _ _ _ => true
  | .vtab _ _ => true
  | _ => false

/-- The piece of a core's work to perform next: a command that may, else what may, as long as `all` work, or a command, is still to
come. -/
def firstWork (all : Bool) (s : State) (c : Fin 256) : Option Work :=
  let l := (coreAt s c).work.filter fun w => mayPerform s w
  (l.find? isCommand).or
    (if all || (coreAt s c).work.any fun w => isCommand w && !w.performed then l.head? else none)

/-- Performs a core's work as far as it goes; `fuel` bounds the pieces. -/
def runAll (all : Bool) (c : Fin 256) : (fuel : Nat) → State → State
  | 0, s => s
  | fuel + 1, s =>
    match firstWork all s c with
    | some w => runAll all c fuel (runCellAdds (serveEvery { chargeCopy (perform s w) w with flagged := [] }))
    | none => s

/-- Lets the increments that a core's copies owe to other cores arrive, in order. -/
def runDren (c : Fin 256) : (fuel : Nat) → State → State
  | 0, s => s
  | fuel + 1, s =>
    match s.dren.find? fun d => coreOf d.src = c ∧ drenFirst s d with
    | some d => runDren c fuel (applyDren s d)
    | none => s

/-- Completes the commands that a core has issued, or all its work: its scratchpad writes are served, its increments arrive. -/
def completeCore (all : Bool) (s : State) (c : Fin 256) : State :=
  let n := 3 * (coreAt s c).work.length
  let s := runAll all c n (serveEvery s)
  runDren c s.dren.length s

/-- Whether every command a core has issued is done, and what its task unit does; with `all`, all its work but requests to the work distributor. -/
def coreQuiet (all : Bool) (s : State) (c : Fin 256) : Bool :=
  !(s.asks.any fun a => a.ctx.any fun k => coreOf k = c) && (coreAt s c).work.all fun w => w.done || (match w.kind with
    | .wnext _ => true
    | _ => !all && !isCommand w)

end Sys2Proof.Machine
end

