-- ==== Sys2Proof/Machine/Pools.lean ====
section
/-! DEFINITION. The work distributor (R23, R47 to R50, R305), the thermal sensors it judges by (R21, R22), and the barriers of
the synchronisation domains (R44, R46, R291, R363). -/

namespace Sys2Proof.Machine

/-! ### Requests -/

/-- The requests outstanding that a test selects, of cores that run and of cores that are saved (R41). -/
def requestsWith (s : State) (sel : Work → Fin 16 → Bool) : List Work :=
  let mine (w : Work) : Bool := match w.kind with
    | .wnext q => sel w q
    | _ => false
  s.cores.toList.flatMap (fun c => c.work.filter mine) ++ s.saved.flatMap fun x => x.work.filter mine

/-- The requests to pool `p` of a clause. -/
def requestsOf (s : State) (stack : Fin 4) (p : Fin 16) : List Work :=
  requestsWith s fun w q => stackOf (coreOf w.ctx) == stack && q == p

/-- Changes a request where it stands: in its running core, or in the saved image of its job. -/
def modRequest (s : State) (w : Work) (f : List Work → List Work) : State :=
  if (coreAt s (coreOf w.ctx)).job = some w.job then modCore s (coreOf w.ctx) fun c => { c with work := f c.work }
  else { s with saved := s.saved.map fun x =>
    if x.job = w.job ∧ x.core = coreOf w.ctx then { x with work := f x.work } else x }

/-- Whether a core's column is hot in the latest sample (R22). -/
def hot (s : State) (c : Fin 256) : Bool := (s.threshNow[stackOf c]).slt s.temps[c]

/-- Whether a request is held (R23). -/
def isHeld (w : Work) : Bool := w.hostStage == 1

/-- Whether a hot request has been held for 2048 cycles (R23). -/
def heldOut (s : State) (w : Work) : Bool := isHeld w && w.heldSince.any fun h => decide (h + 2048 ≤ s.cycle)

/-- The request with the lowest issue number: those of one cycle have theirs by context id (R48). -/
def oldestOf (l : List Work) : Option Work :=
  l.foldl (fun b w => match b with
    | none => some w
    | some x => if w.seq < x.seq then some w else some x) none

/-! ### Answers (R48, R49) -/

/-- What the distributor does with a request. -/
inductive Answer where
  /-- nothing yet: the pool is closed, or its queue empty with tasks still uncommitted -/
  | held
  /-- the value, and the task delivered: sequence number and domain -/
  | gives (x : Word) (task : Option (Word × BitVec 8))
  deriving DecidableEq, Repr

/-- The value of an exhausted pool. -/
def exhausted : Word := 0x8000000000000000

/-- Coordinates of item `i` of a tile space, by its order (R47, R48). -/
def tileItem (p : Pool) (i : Nat) : Word :=
  let split (a b : Nat) : Nat × Nat × Nat := (i % a, i / a % b, i / (a * b))
  let pack (x y z : Nat) : Word := BitVec.ofNat 64 (z % 2 ^ 21 * 2 ^ 42 + y % 2 ^ 21 * 2 ^ 21 + x % 2 ^ 21)
  match p.order.toNat with
  | 0 => let q := split p.x p.y; pack q.1 q.2.1 q.2.2
  | 1 => let q := split p.x p.z; pack q.1 q.2.2 q.2.1
  | 2 => let q := split p.y p.x; pack q.2.1 q.1 q.2.2
  | 3 => let q := split p.y p.z; pack q.2.2 q.1 q.2.1
  | 4 => let q := split p.z p.x; pack q.2.1 q.2.2 q.1
  | _ => let q := split p.z p.y; pack q.2.2 q.2.1 q.1

/-- The domains of a job whose tasks a pool of a clause queues. -/
def poolDomains (j : Job) (stack : Fin 4) (p : Fin 16) : List Domain :=
  j.domains.filter fun d => domPool d.word == p.val && (domSent d.word || domClause d.word == stack.val)

/-- The eligible task with the smallest sequence number, of those placed in a clause's queue (R305). -/
def nextTask (ds : List Domain) (stack : Fin 4) : Option (BitVec 8 × TaskItem) :=
  let l := ds.flatMap fun d => (d.tasks.filter fun t => t.clause == stack && t.running.isNone && t.met).map fun t => (d.word, t)
  l.foldl (fun b q => match b with
    | none => some q
    | some x => if q.2.seq.toNat < x.2.seq.toNat then some q else some x) none

/-- The distributor's answer to a request, and what serving it changes. -/
def answerOf (s : State) (w : Work) (p : Fin 16) : Answer × State :=
  let i : Fin 64 := Fin.ofNat 64 ((stackOf (coreOf w.ctx)).val * 16 + p.val)
  let s := match findJob s w.job with
    | some j => let g := (j.pools[i]).gate i; openGates s w.job g.1 g.2
    | none => s
  match findJob s w.job with
  | none => (.gives exhausted none, s)
  | some j =>
    let stack := stackOf (coreOf w.ctx)
    let pool := j.pools[i]
    if !pool.isOpen then (.held, s)
    else if pool.kind = 1 then
      if pool.next < pool.x * pool.y * pool.z then
        (.gives (tileItem pool pool.next) none, modJob s w.job fun x => { x with pools := x.pools.set i { pool with next := pool.next + 1 } })
      else (.gives exhausted none, s)
    else
      let ds := poolDomains j stack p
      match nextTask ds stack with
      | some (dw, t) =>
        (.gives (t.desc &&& 0xFFFFFFFFFFFF) (some (t.seq, dw)),
          modDomain s w.job dw fun d => { d with tasks := d.tasks.map fun x => if x.seq = t.seq then { x with running := some w.ctx } else x })
      | none => if ds.all fun d => d.tasks.isEmpty then (.gives exhausted none, s) else (.held, s)

/-- Serves a request, when its pool can: the value goes to the context's landing buffer (R49, R28). -/
def serveRequest (s : State) (w : Work) (p : Fin 16) : State :=
  match answerOf s w p with
  | (.held, s) => s
  | (.gives x task, s) =>
    let s := modTarget s w.job w.ctx fun c => { c with flight := c.flight.map fun f =>
      if !f.ready && f.src == w.seq then
        { f with ready := true, act := match f.act with
            | .wreg d _ _ => .wreg d x task
            | a => a }
      else f }
    modRequest s w fun l => l.filter fun y => y.seq ≠ w.seq

/-- Changes a request where it stands. -/
def changeRequest (f : Work → Work) (s : State) (w : Work) : State := modRequest s w fun r => r.map fun y => if y.seq = w.seq then f y else y

/-- A request of a hot column is held from cycle `t` on (R23). -/
def hold (t : Nat) (w : Work) : Work := { w with hostStage := 1, heldSince := some t }

/-- A request of a cool column stands in the queue, as one that was never held. -/
def admitRequest (w : Work) : Work := { w with hostStage := 2, heldSince := none }

/-- A held request enters the queue while its column is hot: it is no cooler request for that. -/
def release (w : Work) : Work := { w with hostStage := 2 }

/-- Whether a request waits in the queue as one of a cool column. -/
def waitsCool (w : Work) : Bool := w.hostStage == 2 && w.heldSince.isNone

/-- The requests of one job to a pool, judged (R23): one that reaches the distributor by the latest sample, one that is held by every
sample since; those still held are released when no cooler request waits. DESIGN CHOICE (see the log): the cooler requests are those
of the same job, clause and pool, which wait in the same queue. `mine` finds the requests as they stand. -/
def judgeRequests (mine : State → List Work) (s : State) : State :=
  let judge (s : State) (w : Work) : State :=
    if hot s (coreOf w.ctx) then (if w.hostStage = 0 then changeRequest (hold s.cycle) s w else s)
    else if w.hostStage ≠ 2 then changeRequest admitRequest s w
    else s
  let s := (mine s).foldl judge s
  if (mine s).any waitsCool then s else ((mine s).filter isHeld).foldl (changeRequest release) s

/-- The request that a queue serves next (R48): the oldest that is not held. -/
def nextRequest (l : List Work) : Option Work := oldestOf (l.filter fun w => w.hostStage == 2)

/-- The distributor turns to the requests of one job to a pool. -/
def serveQueue (stack : Fin 4) (p : Fin 16) (s : State) (j : BitVec 32) : State :=
  let mine (s : State) : List Work := (requestsOf s stack p).filter fun w => w.job = j
  let s := judgeRequests mine s
  match nextRequest (mine s) with
  | some w => serveRequest s w p
  | none => s

/-- WNEXT_SERVE: the distributor of a clause turns to a pool's requests, those of each job in a queue of their own: it judges them,
and serves the next. -/
def execWnextServe (stack : Fin 4) (p : Fin 16) (s : State) : Host.Outcome State Fault Refusal :=
  .next ((((requestsOf s stack p).map (·.job)).eraseDups).foldl (serveQueue stack p) s)

/-- THERMAL_HOLD_TIMEOUT (R23): the requests of a context that have been held for 2048 cycles are released, to be served in the
ordinary order. -/
def execThermalHoldTimeout (k : Fin 1024) (s : State) : Host.Outcome State Fault Refusal :=
  .next (((requestsWith s fun w _ => w.ctx == k).filter (heldOut s)).foldl (changeRequest release) s)

/-! ### Sensors (R21, R22, R365) -/

/-- A reading within the range of R21, −40 °C to +150 °C in units of 0.25 °C. -/
def clampReading (x : BitVec 16) : BitVec 16 := if x.slt (-160#16) then -160#16 else if (600#16).slt x then 600#16 else x

/-- THERMAL_SAMPLE: every 1024 cycles all sensors are sampled together, and thresholds written since come into force. DESIGN CHOICE
(see the log): the samples fall in the cycles that are multiples of 1024 since reset. -/
def execThermalSample (s : State) : Host.Outcome State Fault Refusal :=
  .next (if s.cycle % 1024 = 0 then
    { s with temps := Vector.ofFn fun i : Fin 256 => clampReading (Config.sensorReading s.cycle i.val),
             threshNow := s.thresh, sample := s.sample + 1, sampled := true }
  else s)

/-! ### Barriers (R44, R46, R291, R363) -/

/-- The unit of a level that a core lies in: the core, the phrase, the stack, the device. -/
def unitOf (l : Fin 5) (c : Fin 256) : Nat :=
  match l with
  | 0 => c.val
  | 1 => c.val / 8
  | 2 => c.val / 64
  | _ => 0

/-- The members of a job's domain of a level. -/
def members (j : Job) (l : Fin 5) (u : Nat) : List (Fin 1024) :=
  (j.recs.filter fun r => r.memb.getLsbD l.val && unitOf l (coreOf r.ctx) == u).map (·.ctx)

/-- A context at a barrier arrives (R291) once everything it issued before has performed, and, above word level, the dirty sectors
of its core's L1 have been written back and the host has answered what that took. Bank writes in flight land after the `DSYNC`
bundle, in the next superstep. -/
def tryArrive (s : State) (k : Fin 1024) : State :=
  let c := coreOf k
  match (ctxAt s k).sync with
  | some (l, false) =>
    if performedAll s k s.seq then
      let s := if l = 0 then s else l1Sweep (postSector c) s c false fun _ => true
      if l = 0 ∨ settledFor s (.core c) = true then modCtx s k fun x => { x with sync := some (l, true) } else s
    else s
  | _ => s

/-- Whether a member counts as arrived at its domain's barrier (R46): it stands there, or it has halted. -/
def arrivedAt (s : State) (j : BitVec 32) (l : Fin 5) (k : Fin 1024) : Bool :=
  match ringTarget s j k with
  | some c => decide (c.run = .halted) || c.sync == some (l, true)
  | none => false

/-- Whether some member stands at the barrier. -/
def standsAt (s : State) (j : BitVec 32) (l : Fin 5) (k : Fin 1024) : Bool :=
  match ringTarget s j k with
  | some c => decide (c.run ≠ .halted) && c.sync == some (l, true)
  | none => false

/-- The barrier of a domain releases its members: above word level, the L1 of every member's core is invalidated, dirty
sectors written back first. -/
def releaseBarrier (s : State) (j : BitVec 32) (l : Fin 5) (ms : List (Fin 1024)) : State :=
  let s := if l = 0 then s
    else ((List.finRange 256).filter fun c => ms.any fun k => coreOf k = c).foldl (fun s c => l1Sweep (postSector c) s c true fun _ => true) s
  ms.foldl (fun s k => modTarget s j k fun c => match c.sync with
    | some (m, true) => if m = l then { c with sync := none, waits := c.waits.filter fun w => w ≠ .barrier l } else c
    | _ => c) s

/-- The paragraph barrier's word: job and count (R361, R363). -/
def barrierWord (j : BitVec 32) (k : Nat) : Word := BitVec.ofNat 64 (k % 2 ^ 32 * 2 ^ 32 + j.toNat)

/-- A release of paragraph barrier `k` reaches this device (R363). -/
def paragraphRelease (s : State) (j k : BitVec 32) : State :=
  match findJob s j with
  | none => s
  | some x =>
    if x.parReleased % 2 ^ 32 = k.toNat ∧ x.parReleased < x.parArrived then
      modJob (releaseBarrier s j 4 (members x 4 0)) j fun x => { x with parReleased := x.parReleased + 1 }
    else s

/-- Whether this device counts as arrived at a barrier that another has reached (R363): it has no paragraph member of the job, or the
job has ended on it. -/
def deviceIdle (s : State) (j : BitVec 32) : Bool :=
  match findJob s j with
  | some x => x.phase != .waiting && (members x 4 0).isEmpty
  | none => s.ended.any fun q => q.1 = j

/-- The master device counts an arrival; with every device of the paragraph arrived, it releases them all (R363). -/
def countArrival (s : State) (j k : BitVec 32) (dev : BitVec 13) : State :=
  let old := match s.par.find? fun p => p.job = j ∧ p.k = k with
    | some p => p.devs
    | none => []
  let devs := if old.contains dev then old else dev :: old
  let devs := if deviceIdle s j && !devs.contains 0 then 0 :: devs else devs
  let rest := s.par.filter fun p => !(p.job = j && p.k = k)
  if (List.range s.psize.toNat).all fun i => devs.contains (BitVec.ofNat 13 i) then
    let s := (List.range (s.psize.toNat - 1)).foldl (fun s i =>
      sendFlit s (BitVec.ofNat 13 (i + 1)) 4 (barrierWord j k.toNat) [] j) { s with par := rest }
    paragraphRelease s j k
  else { s with par := ⟨j, k, devs⟩ :: rest }

/-- This device arrives at its next paragraph barrier (R363): by a flit to device 0, or counted here; a paragraph of one
releases at once. -/
def paragraphArrive (s : State) (j : Job) : State :=
  let s := modJob s j.id fun x => { x with parArrived := x.parArrived + 1 }
  let k := BitVec.ofNat 32 j.parArrived
  if s.psize.toNat ≤ 1 then paragraphRelease s j.id k
  else if s.devid = 0 then countArrival s j.id k 0
  else sendFlit s 0 3 (barrierWord j.id j.parArrived) [] j.id

/-- A device other than the master that counts as arrived (R363) arrives at its next barrier of a job once it knows of another device's
arrival there. -/
def idleArrive (s : State) (j : BitVec 32) : State :=
  let known (n : Nat) : Bool := s.par.any fun p => p.job = j && p.k = BitVec.ofNat 32 n
  if s.psize.toNat ≤ 1 ∨ s.devid = 0 then s
  else
    match findJob s j with
    | some x => if deviceIdle s j && decide (x.parArrived = x.parReleased) && known x.parArrived then paragraphArrive s x else s
    | none =>
      match s.ended.find? fun q => q.1 = j with
      | some q =>
        if known q.2 then
          sendFlit { s with ended := s.ended.map fun y => if y = q then (q.1, q.2 + 1) else y } 0 3 (barrierWord j q.2) [] j
        else s
      | none => s

/-- A device other than the master learns of an arrival by the flit that reaches it, or that it passes on. DESIGN CHOICE (see the log):
R363 has an idle device arrive as soon as another does, and names no other way in which it could know. -/
def hearArrival (s : State) (j k : BitVec 32) (dev : BitVec 13) : State :=
  if s.par.any fun p => p.job = j && p.k = k then s else idleArrive { s with par := ⟨j, k, [dev]⟩ :: s.par } j

/-- A release reaches this device: its members go on, and what it knew of the barrier is done with. -/
def releaseDevice (s : State) (j k : BitVec 32) : State :=
  let s := { s with par := s.par.filter fun p => !(p.job = j && p.k = k) }
  idleArrive (paragraphRelease s j k) j

/-- The master device counts again the barriers of a job for which it waits (R363). -/
def recount (s : State) (j : BitVec 32) : State :=
  if s.devid ≠ 0 then s
  else (s.par.filter fun p => p.job = j).foldl (fun s p => match p.devs with
    | d :: _ => countArrival s j p.k d
    | [] => s) s

/-- DOMAIN_BARRIER_RELEASE: members that can arrive do; when every member of the domain has arrived, its barrier releases. At
paragraph level the device arrives, and the paragraph releases it. -/
def execDomainBarrierRelease (j : BitVec 32) (l : Fin 5) (u : Nat) (s : State) : Host.Outcome State Fault Refusal :=
  .next (match findJob s j with
  | none => s
  | some x =>
    let ms := members x l u
    let s := ms.foldl (fun s k => if (coreAt s (coreOf k)).job = some j then tryArrive s k else s) s
    if ms.all (arrivedAt s j l) && (ms.any (standsAt s j l) || (l = 4 && !ms.isEmpty && decide (1 < s.psize.toNat))) then
      if l = 4 then (if x.parArrived = x.parReleased then paragraphArrive s x else s) else releaseBarrier s j l ms
    else s)

end Sys2Proof.Machine
end

