-- ==== Sys2Proof/Machine/Image.lean ====
section
/-! DEFINITION. What a `START` names: the start vector (R35), the BX image (R342, R343), the pool table (R47), and the checks of a
launch (R391); filling an instruction store (R36, R436). -/

namespace Sys2Proof.Machine

/-! ### Translation by a job's root -/

/-- The physical address of a virtual one by the tables under a root, or its refusal (R169, R359); every table read is an access at
its home slice. -/
def rootXlate (s : State) (root va : Nat) (write : Bool) : Except Refused Nat × State :=
  if 2 ^ 48 ≤ va then (.error ⟨0x0018, 3⟩, s)
  else
    match walk va 3 root s with
    | (.error r, s) => (.error r, s)
    | (.ok f, s) =>
      (if write && !f.w then .error ⟨0x0018, BitVec.ofNat 16 (16 + f.level.val)⟩ else .ok (f.base + va % 2 ^ pageBits f.level.val), s)

/-- The virtual addresses at which [va, va + n) enters its pages of 64 KiB. -/
def pagesOf (va n : Nat) : List Nat :=
  if n = 0 then [] else (List.range ((va + n + 65535) / 65536 - va / 65536)).map fun i => max va ((va / 65536 + i) * 65536)

/-- The refusal of the first of some addresses that does not translate, their walks being accesses of home slices (R168). -/
def rootRefusal (root : Nat) (write : Bool) : List Nat → State → Option Refused × State
  | [], s => (none, s)
  | a :: r, s =>
    match rootXlate s root a write with
    | (.error e, s) => (some e, s)
    | (.ok _, s) => rootRefusal root write r s

/-- Whether every page of [va, va + n) translates. -/
def pagesOk (s : State) (root va n : Nat) (write : Bool) : Bool := (rootRefusal root write (pagesOf va n) s).1.isNone

/-- The walks that find out whether they do. -/
def touchPages (s : State) (root va n : Nat) (write : Bool) : State := (rootRefusal root write (pagesOf va n) s).2

/-- Writes bytes at a virtual address at the home slices, through no L1, where they translate writable (R359), in the name of an owner
of the messages to host memory that this takes. -/
def rootWrite (o : Owner) (s : State) (root : Nat) (va : Word) (bs : List Byte) : State :=
  ((pieces va bs.length).foldl (fun (q : List Byte × State) p =>
    match rootXlate q.2 root p.1.toNat true with
    | (.ok pa, s) => (q.1.drop p.2, homePost o s pa (q.1.take p.2))
    | (.error _, s) => (q.1.drop p.2, s)) (bs, s)).2

/-- Reads bytes at a virtual address at the home slices; 0 where they do not translate. -/
def rootRead (s : State) (root : Nat) (va : Word) (n : Nat) : List Byte × State :=
  (pieces va n).foldl (fun (q : List Byte × State) p =>
    match rootXlate q.2 root p.1.toNat false with
    | (.ok pa, s) =>
      let r := homeRead s pa p.2 none
      (q.1 ++ r.1, r.2)
    | (.error _, s) => (q.1 ++ List.replicate p.2 0, s)) ([], s)

/-- Whether a code word among the bytes at a virtual address has an uncorrectable error. -/
def rootBad (s : State) (root : Nat) (va : Word) (n : Nat) : Bool :=
  (pieces va n).any fun p => match (rootXlate s root p.1.toNat false).1 with
    | .ok pa => badAt s pa p.2
    | .error _ => false

/-! ### The image (R342) -/

/-- Whether an image breaks `MAGIC`, `VER`, its layout or its digest (R391 status 1). DESIGN CHOICE (see the log): one that cannot be
read for an uncorrectable error counts as one whose digest is wrong. -/
def imageBad (s : State) (img : Nat) : Bool :=
  let nc := imgNcode s img
  let nd := imgNdata s img
  let dig := imgDigoff s img
  badAt s img (max 288 (dig + 64)) || imgVal s img 0 4 != 0x00395842 || imgVal s img 4 4 != 1 || nc == 0 || decide (255 < nc) || decide (65535 < nd) ||
    decide (4 ≤ imgFlags s img) || decide (dig < 288 + 16 * nc + 32 * nd) ||
    ((List.finRange 256).any fun c => imgCmap s img c != 0xFF && decide (nc ≤ imgCmap s img c)) ||
    ((List.range nc).any fun i =>
      let q := imgCode s img i
      decide (dig < q.1 + 4 * q.2) || imgVal s img (288 + 16 * i + 12) 4 != 0) ||
    ((List.range nd).any fun i =>
      let q := imgData s img i
      decide (dig < q.2.1 + q.2.2) || imgVal s img (288 + 16 * nc + 32 * i + 24) 8 != 0) ||
    sha512 (memRead s.mem img dig) != imgDigest s img

/-! ### The start vector (R35) -/

/-- Bits [lo, lo + n) of the header of a start vector, or of record `i` of it. -/
def vecBits (s : State) (vec lo n : Nat) : Nat := memVal s.mem vec 32 / 2 ^ lo % 2 ^ n
def recBits (s : State) (vec i lo n : Nat) : Nat := memVal s.mem (vec + 32 + 80 * i) 80 / 2 ^ lo % 2 ^ n

/-- A record. -/
def recAt (s : State) (vec i : Nat) : StartRec :=
  { ctx := Fin.ofNat 1024 (recBits s vec i 0 16), entry := BitVec.ofNat 32 (recBits s vec i 64 32),
    memb := BitVec.ofNat 5 (recBits s vec i 40 5), prio := BitVec.ofNat 2 (recBits s vec i 32 2),
    args := Vector.ofFn fun n : Fin 8 => BitVec.ofNat 64 (recBits s vec i (128 + 64 * n.val) 64) }

/-- The records of a vector whose `NREC` is in range. -/
def recsOf (s : State) (vec : Nat) : List StartRec := (List.range (min 1024 (vecBits s vec 48 16))).map (recAt s vec)

/-- Whether a list of context ids repeats one. -/
def repeats : List Nat → Bool
  | [] => false
  | a :: r => r.contains a || repeats r

/-- The `CTXID`s of a vector's records. -/
def vectorIds (s : State) (vec : Nat) : List Nat := (List.range (min 1024 (vecBits s vec 48 16))).map fun i => recBits s vec i 0 16

/-- The records whose `CTXID` is a context. -/
def validRecs (s : State) (vec : Nat) : List StartRec :=
  ((recsOf s vec).zip (vectorIds s vec)).filterMap fun q => if q.2 < 1024 then some q.1 else none

/-- Status 3 of R391. DESIGN CHOICE (see the log): a vector that cannot be read for an uncorrectable error is refused with it, and so, with
status 4, is a pool table. -/
def vectorBad (s : State) (vec : Nat) : Bool :=
  let n := vecBits s vec 48 16
  let ids := vectorIds s vec
  badAt s vec (32 + 80 * min 1024 n) || n == 0 || decide (1024 < n) || ids.any (fun k => decide (1023 < k)) || repeats ids || decide (96 < vecBits s vec 40 8) ||
    vecBits s vec 96 32 != 0 || vecBits s vec 35 5 != 0 ||
    ((List.range (min 1024 n)).any fun i =>
      recBits s vec i 96 32 != 0 || recBits s vec i 45 19 != 0 || recBits s vec i 34 6 != 0 || recBits s vec i 16 16 != 0)

/-! ### The pool table (R47) -/

/-- Entry `n` of the table at a virtual address, as a number. -/
def poolWord (s : State) (root tab n : Nat) : Nat := leVal (rootRead s root (BitVec.ofNat 64 (tab + 32 * n)) 32).1

/-- Status 4 of R391. DEDUCED: the counts are those of a tile space; the worked example of section 19 starts a task queue with counts
of 0. -/
def poolsBad (s : State) (root tab : Nat) : Bool :=
  rootBad s root (BitVec.ofNat 64 tab) 512 || (List.range 16).any fun n =>
    let e := poolWord s root tab n
    let f (lo k : Nat) : Nat := e / 2 ^ lo % 2 ^ k
    let bad (lo : Nat) : Bool := f lo 32 == 0 || decide (2097152 < f lo 32)
    f 0 2 == 3 || decide (6 ≤ f 2 3) || decide (63 < f 32 8) || (f 0 2 == 1 && (bad 64 || bad 96 || bad 128))

/-- A pool as the table configures it. -/
def poolEntry (s : State) (root tab n : Nat) : Pool :=
  if tab = 0 then ⟨0, 0, 0, 0, 0, 0, true, 0, 0, 0⟩
  else
    let e := poolWord s root tab n
    let f (lo k : Nat) : Nat := e / 2 ^ lo % 2 ^ k
    { kind := BitVec.ofNat 2 (f 0 2), order := BitVec.ofNat 3 (f 2 3), x := f 64 32, y := f 96 32, z := f 128 32, next := 0,
      isOpen := f 5 1 == 0, gcore := BitVec.ofNat 8 (f 32 8), gflag := BitVec.ofNat 8 (f 16 8), gval := BitVec.ofNat 32 (f 160 32) }

/-! ### The checks of a launch (R391) -/

/-- An address in HBM (R168). -/
def inHbm (a : Nat) : Bool := decide (a < 2 ^ 39)

/-- Status 2 of R391: a named core without a code section, or an entry beyond its section. -/
def sectionBad (s : State) (img : Nat) (recs : List StartRec) : Bool :=
  recs.any fun r => match coreSection s img (coreOf r.ctx) with
    | some q => decide (q.2 ≤ r.entry.toNat)
    | none => true

/-- The later conditions of status 5 of R391. -/
def addressBad (s : State) (vec img root notify : Nat) : Bool :=
  let tab := vecBits s vec 192 64
  let snap := vecBits s vec 128 64
  !inHbm root || (notify != 0 && (notify / 2 ^ 47 != 1 || notify % 8 != 0)) || tab % 64 != 0 || snap % 4096 != 0 ||
    ((List.range (imgNdata s img)).any fun i =>
      let q := imgData s img i
      !pagesOk s root q.1 q.2.2 true) ||
    !pagesOk s root snap (64 + 0x180000 * (namedCores (validRecs s vec)).length) true || (tab != 0 && !pagesOk s root tab 512 false)

/-- The status of a `START`: vector, image, root and notify addresses of job `j`; 0 when it may proceed. -/
def startStatus (s : State) (j : BitVec 32) (vec img root notify : Nat) : Nat :=
  if !inHbm vec || !inHbm img || vec % 256 != 0 || img % 256 != 0 then 5
  else if imageBad s img then 1
  else
    let recs := validRecs s vec
    let tab := vecBits s vec 192 64
    if sectionBad s img recs then 2
    else if vectorBad s vec then 3
    else if tab ≠ 0 ∧ inHbm root = true ∧ pagesOk s root tab 512 false = true ∧ poolsBad s root tab = true then 4
    else if addressBad s vec img root notify then 5
    else if !s.ready || s.hbmFail then 6
    else if (findJob s j).isSome then 7
    else if (namedCores recs).any fun c => (coreAt s c).retired then 8
    else 0

/-- The accesses of home slices that the checks of a `START` make: of its vector and image, of its pool table, and of the tables that
translate the pages it names (R168). -/
def touchStart (s : State) (vec img root : Nat) : State :=
  if !inHbm vec || !inHbm img || vec % 256 != 0 || img % 256 != 0 then s
  else
    let s := touchRange s img (if imageBad s img then 288 else imgDigoff s img + 64)
    let s := touchRange s vec (32 + 80 * min 1024 (vecBits s vec 48 16))
    if imageBad s img || !inHbm root then s
    else
      let tab := vecBits s vec 192 64
      let s := if tab = 0 then s else (rootRead s root (BitVec.ofNat 64 tab) 512).2
      let s := (List.range (imgNdata s img)).foldl (fun s i =>
        let q := imgData s img i
        touchPages s root q.1 q.2.2 true) s
      touchPages s root (vecBits s vec 128 64) (64 + 0x180000 * (namedCores (validRecs s vec)).length) true

end Sys2Proof.Machine
end

