-- ==== Sys2Proof/Machine/Save.lean ====
section
/-! DEFINITION. The image of a saved core in its job's save area (R40, R42, R374, R437): what it holds, where, how it is written and how
it is read back. DESIGN CHOICE (see the log): the order of an image is the device's own, and so the model's. What other agents of the
device change while a core is saved (R41) is recorded in `SavedCore`; a restore takes each byte that the save wrote of it as it then
stands in the image, where a program has changed it. -/

namespace Sys2Proof.Machine

/-! ### Bytes of an image -/

/-- Numbers as 64-bit words. -/
def wordBytes (l : List Nat) : List Byte := l.flatMap (leBytes 8)

/-- The first `n` of some numbers, or of some bytes, with zeros after them. -/
def padNats (n : Nat) (l : List Nat) : List Nat := (l ++ List.replicate (n - l.length) 0).take n
def padBytes (n : Nat) (l : List Byte) : List Byte := (l ++ List.replicate (n - l.length) 0).take n

/-- The number that `n` bytes at a place make. -/
def byteField (bs : List Byte) (o n : Nat) : Nat := leVal ((bs.drop o).take n)

/-! ### The registers of a context -/

/-- A completion ring, with the record of its failing command. -/
def ringBytes (g : Ring) : List Byte :=
  leBytes 4 g.fill.toNat ++ leBytes 4 g.cons.toNat ++ leBytes 4 g.rsv.toNat ++ leBytes 2 g.cap.toNat ++ leBytes 2 g.fcode.toNat ++
    leBytes 8 g.faddr.toNat ++ leBytes 4 g.fbun.toNat ++ leBytes 4 g.fslot.toNat

def readRing (bs : List Byte) (o : Nat) : Ring :=
  let f (i n : Nat) : Nat := byteField bs (o + i) n
  ⟨BitVec.ofNat 32 (f 0 4), BitVec.ofNat 32 (f 4 4), BitVec.ofNat 32 (f 8 4), BitVec.ofNat 12 (f 12 2), BitVec.ofNat 16 (f 14 2),
   BitVec.ofNat 64 (f 16 8), BitVec.ofNat 20 (f 24 4), BitVec.ofNat 3 (f 28 4)⟩

/-- The registers that are neither `s`, `p`, `m` nor `v`: the rings `g` among them. -/
def restBytes (a : Arch) : List Byte :=
  let words (l : List Word) : List Byte := l.flatMap fun x => leBytes 8 x.toNat
  let x := a.xfer.getD ⟨0, 0, 0⟩
  padBytes 0x900 (words a.w.toList ++
    leBytes 8 (a.wbase.val + (bit a.hm + 2 * bit a.task + 4 * bit a.verb + 8 * bit a.slraise + 16 * bit a.xfer.isSome) * 2 ^ 8 +
      a.prio.toNat * 2 ^ 16 + a.loops.length % 8 * 2 ^ 24) ++
    words [a.fmt, a.sched, a.pc, x.target, BitVec.ofNat 64 x.left, x.origin, a.tvec, a.tcause, a.tbun, a.tslot, a.tval0, a.tval1,
      a.tval2, a.snapbase, a.dmemb, a.astat, a.fstat] ++
    (a.scl.toList.flatMap fun x => leBytes 4 x.toNat) ++
    (a.d.toList.flatMap fun f =>
      leBytes 4 f.seed.toNat ++ leBytes 4 f.rowo.toNat ++ leBytes 4 f.colo.toNat ++ leBytes 4 (f.cfmt.toNat + 16 * bit f.tr)) ++
    (a.h.toList.flatMap fun h => leBytes 8 h.desc.toNat ++ leBytes 8 (h.geom.toNat + 2 ^ 16 * bit h.bound)) ++
    ((List.range 4).flatMap fun i =>
      let l := a.loops.getD i ⟨0, 0, 0⟩
      words [l.first, l.stop, l.left.setWidth 64]) ++
    (a.a.toList.flatMap fun p => words p.words.toList)) ++
  a.g.toList.flatMap ringBytes

/-- The groups of R42 of a context's registers: `s`; `p` with `m`; each block of eight `v`; the remaining files. With each its place
in the context's part of the image. -/
def registerGroups (a : Arch) : List (Nat × List Byte) :=
  [(0, a.s.toList.flatMap fun x => leBytes 8 x.toNat),
   (0x200, padBytes 0x200 (leBytes 8 (packNat 1 (fun i => bit (a.p.toList.getD i false)) 16) ++ a.m.toList.flatMap fun x => leBytes 8 x.toNat))] ++
  ((List.range 8).map fun b => (0x400 + 0x800 * b, ((a.v.toList.drop (8 * b)).take 8).flatMap vBytes)) ++
  [(0x4400, restBytes a)]

/-- A context's registers, as its part of the image begins. -/
def archBytes (a : Arch) : List Byte := (registerGroups a).flatMap (·.2)

/-- The registers that such bytes hold; the task state is elsewhere. -/
def readArch (old : Arch) (bs : List Byte) : Arch :=
  let f (o n : Nat) : Nat := byteField bs o n
  let w (o : Nat) : Word := BitVec.ofNat 64 (f o 8)
  let c := f 0x4440 8
  { old with
    s := Vector.ofFn fun i : Fin 64 => w (8 * i.val)
    p := Vector.ofFn fun i : Fin 16 => (f 0x200 2).testBit i.val
    m := Vector.ofFn fun i : Fin 16 => w (0x208 + 8 * i.val)
    v := Vector.ofFn fun i : Fin 64 => BitVec.ofNat 2048 (f (0x400 + 0x100 * i.val) 256)
    w := Vector.ofFn fun i : Fin 8 => w (0x4400 + 8 * i.val)
    wbase := Fin.ofNat 8 c
    hm := c.testBit 8
    task := c.testBit 9
    verb := c.testBit 10
    slraise := c.testBit 11
    xfer := if c.testBit 12 then some ⟨w 0x4460, f 0x4468 8, w 0x4470⟩ else none
    prio := BitVec.ofNat 2 (c / 2 ^ 16)
    loops := (List.range (c / 2 ^ 24 % 8)).map fun i =>
      ⟨w (0x4690 + 24 * i), w (0x4698 + 24 * i), BitVec.ofNat 32 (f (0x46A0 + 24 * i) 4)⟩
    fmt := w 0x4448
    sched := w 0x4450
    pc := w 0x4458
    tvec := w 0x4478
    tcause := w 0x4480
    tbun := w 0x4488
    tslot := w 0x4490
    tval0 := w 0x4498
    tval1 := w 0x44A0
    tval2 := w 0x44A8
    snapbase := w 0x44B0
    dmemb := w 0x44B8
    astat := w 0x44C0
    fstat := w 0x44C8
    scl := Vector.ofFn fun i : Fin 16 => BitVec.ofNat 32 (f (0x44D0 + 4 * i.val) 4)
    d := Vector.ofFn fun i : Fin 8 =>
      let o := 0x4510 + 16 * i.val
      ⟨BitVec.ofNat 32 (f o 4), BitVec.ofNat 32 (f (o + 4) 4), BitVec.ofNat 32 (f (o + 8) 4), (f (o + 12) 1).testBit 4, BitVec.ofNat 4 (f (o + 12) 1)⟩
    h := Vector.ofFn fun i : Fin 16 =>
      let o := 0x4590 + 16 * i.val
      ⟨(f (o + 10) 1).testBit 0, w o, BitVec.ofNat 9 (f (o + 8) 2), (old.h[i]).bind⟩
    a := Vector.ofFn fun i : Fin 8 => ⟨Vector.ofFn fun k : Fin 24 => w (0x46F0 + 192 * i.val + 8 * k.val)⟩
    g := Vector.ofFn fun i : Fin 8 => readRing bs (0x4D00 + 32 * i.val) }

/-! ### Task state, waits, landing buffer -/

/-- The task state of R309, in 41 words; the first eight tasks delivered. -/
def taskWords (t : Task) : List Nat :=
  padNats 17 ([t.cont.toNat, t.ubase.toNat, t.usize.toNat + t.utop.toNat * 2 ^ 16,
    bit t.icnt + 2 * bit t.req + 4 * bit t.apend + 8 * bit t.retr + 16 * bit t.routine, t.seq.toNat, t.desc.toNat,
    t.dom.toNat + t.why.toNat * 2 ^ 8 + t.kind.toNat * 2 ^ 16, t.obj.toNat, t.args.length + t.reserved * 2 ^ 8, t.delivered.length] ++
    t.args.map (·.toNat)) ++
  padNats 24 (t.delivered.flatMap fun d => [d.desc.toNat, d.seq.toNat, d.dom.toNat + 2 ^ 8 * bit d.begun])

/-- The task state that such words hold. -/
def readTask (old : Task) (w : Nat → Nat) : Task :=
  { cont := BitVec.ofNat 32 (w 0), ubase := BitVec.ofNat 64 (w 1), usize := BitVec.ofNat 16 (w 2), utop := BitVec.ofNat 16 (w 2 / 2 ^ 16),
    icnt := (w 3).testBit 0, req := (w 3).testBit 1, apend := (w 3).testBit 2, retr := (w 3).testBit 3, routine := (w 3).testBit 4,
    seq := BitVec.ofNat 64 (w 4), desc := BitVec.ofNat 64 (w 5), dom := BitVec.ofNat 8 (w 6), why := BitVec.ofNat 8 (w 6 / 2 ^ 8),
    kind := BitVec.ofNat 6 (w 6 / 2 ^ 16), obj := BitVec.ofNat 64 (w 7),
    args := (List.range (w 8 % 8)).map fun i => BitVec.ofNat 64 (w (10 + i)),
    reserved := w 8 / 2 ^ 8,
    delivered := (List.range (w 9 % 2 ^ 16)).map fun i =>
      if i < 8 then ⟨BitVec.ofNat 64 (w (17 + 3 * i)), BitVec.ofNat 64 (w (18 + 3 * i)), BitVec.ofNat 8 (w (19 + 3 * i)), (w (19 + 3 * i)).testBit 8⟩
      else old.delivered.getD i ⟨0, 0, 0, false⟩ }

/-- A condition of R31, in three words. -/
def waitWords : Wait → List Nat
  | .earlier lo n => [0, lo, n]
  | .ringFill g n => [1, g.val, n.toNat]
  | .ringRoom g n => [2, g.val, n]
  | .copyRoom e => [3, e.val, 0]
  | .ladderRoom => [4, 0, 0]
  | .drainRoom => [5, 0, 0]
  | .tileRoom o n => [6, o.val, n]
  | .array a b => [7, a.val, b.val]
  | .ringEnd g => [8, g.val, 0]
  | .flag w cc x => [9, w.val + 64 * cc.val, x.toNat]
  | .barrier l => [10, l.val, 0]
  | .released => [11, 0, 0]
  | .oldest => [12, 0, 0]
  | .hold kind obj opc => [13 + 2 ^ 8 * kind.toNat + 2 ^ 16 * opc.toNat, obj.toNat, 0]
  | .ladderIdle => [14, 0, 0]

/-- The condition that three words hold. -/
def readWait (t a b : Nat) : Wait :=
  match t % 2 ^ 8 with
  | 0 => .earlier a b
  | 1 => .ringFill (Fin.ofNat 8 a) (BitVec.ofNat 32 b)
  | 2 => .ringRoom (Fin.ofNat 8 a) b
  | 3 => .copyRoom (Fin.ofNat 2 a)
  | 4 => .ladderRoom
  | 5 => .drainRoom
  | 6 => .tileRoom (Fin.ofNat 8 a) b
  | 7 => .array (Fin.ofNat 8 a) (Fin.ofNat 8 b)
  | 8 => .ringEnd (Fin.ofNat 8 a)
  | 9 => .flag (Fin.ofNat 64 a) (Fin.ofNat 4 (a / 64)) (BitVec.ofNat 32 b)
  | 10 => .barrier (Fin.ofNat 5 a)
  | 11 => .released
  | 12 => .oldest
  | 13 => .hold (BitVec.ofNat 6 (t / 2 ^ 8)) (BitVec.ofNat 64 a) (BitVec.ofNat 8 (t / 2 ^ 16))
  | _ => .ladderIdle

/-- What a landing writes, as it is saved: kind, destination, a word beside it (lanes, a class of bits), its value. The operands of a
step are saved apart (`heldBytes`). -/
def landingParts : Landing → Nat × Nat × Word × List Byte
  | .nothing => (0, 0, 0, [])
  | .sreg d x => (1, d.val, 0, leBytes 8 x.toNat)
  | .preg d x => (2, d.val, 0, leBytes 1 (bit x))
  | .vreg d x l => (3, d.val, l, vBytes x)
  | .mreg d x l => (4, d.val, l, leBytes 8 x.toNat)
  | .wreg d x none => (5, d.val, 0, leBytes 8 x.toNat)
  | .wreg d x (some (q, dom)) => (5, d.val + 8 + 16 * dom.toNat, q, leBytes 8 x.toNat)
  | .pattern a k x => (6, a.val + 8 * k.val, 0, leBytes 8 x.toNat)
  | .frame r f x add => (7, r.val + 8 * f.val + 32 * bit add, 0, leBytes 4 x.toNat)
  | .ringInit g cap => (8, g.val, cap.setWidth 64, [])
  | .ringCons g n => (9, g.val, n.setWidth 64, [])
  | .csr i x clear rw => (10, i.toNat + 2 ^ 12 * bit rw, clear, leBytes 8 x.toNat)
  | .fmt x => (11, 0, x, [])
  | .scale n x => (12, n.val, x.setWidth 64, [])
  | .handle h x => (13, h.val + 16 * bit x.bound + 32 * x.geom.toNat, x.desc, [])
  | .wbase k => (14, k.val, 0, [])
  | .rowStore e r half add x => (15, e.val + 8 * r.val + 2 ^ 10 * bit half + 2 ^ 11 * bit add, 0, vBytes x)
  | .zeroBands e b => (16, e.val + 8 * b.toNat, 0, [])
  | .matrix c => (17, c.bank.val, 0, [])
  | .fence cross src classes scope => (18, bit cross + 2 * src.toNat + 2 ^ 7 * scope.val, classes.setWidth 64, [])
  | .beats => (19, 0, 0, [])

/-- The landing that such parts stand for; a step keeps its own. -/
def readLanding (old : Landing) (t d : Nat) (l : Word) (v : List Byte) : Landing :=
  let n (k : Nat) : Nat := leVal (v.take k)
  let x : Word := BitVec.ofNat 64 (n 8)
  match t with
  | 0 => .nothing
  | 1 => .sreg (Fin.ofNat 64 d) x
  | 2 => .preg (Fin.ofNat 16 d) ((n 1).testBit 0)
  | 3 => .vreg (Fin.ofNat 64 d) (BitVec.ofNat 2048 (n 256)) l
  | 4 => .mreg (Fin.ofNat 16 d) x l
  | 5 => .wreg (Fin.ofNat 8 d) x (if d.testBit 3 then some (l, BitVec.ofNat 8 (d / 16)) else none)
  | 6 => .pattern (Fin.ofNat 8 d) (Fin.ofNat 24 (d / 8)) x
  | 7 => .frame (Fin.ofNat 8 d) (Fin.ofNat 4 (d / 8)) (BitVec.ofNat 32 (n 4)) (d.testBit 5)
  | 8 => .ringInit (Fin.ofNat 8 d) (l.setWidth 12)
  | 9 => .ringCons (Fin.ofNat 8 d) (l.setWidth 32)
  | 10 => .csr (BitVec.ofNat 12 d) x l (d.testBit 12)
  | 11 => .fmt l
  | 12 => .scale (Fin.ofNat 16 d) (l.setWidth 32)
  | 13 => .handle (Fin.ofNat 16 d) ⟨d.testBit 4, l, BitVec.ofNat 9 (d / 32), match old with
      | .handle _ h => h.bind
      | _ => 0⟩
  | 14 => .wbase (Fin.ofNat 8 d)
  | 15 => .rowStore (Fin.ofNat 8 d) (Fin.ofNat 128 (d / 8)) (d.testBit 10) (d.testBit 11) (BitVec.ofNat 2048 (n 256))
  | 16 => .zeroBands (Fin.ofNat 8 d) (BitVec.ofNat 8 (d / 8))
  | 18 => .fence (d.testBit 0) (BitVec.ofNat 6 (d / 2)) (l.setWidth 16) (Fin.ofNat 8 (d / 2 ^ 7))
  | 19 => .beats
  | _ => old

/-- The schedule cycles that remain to a landing, as a 64-bit word; one that `RLAND` made waits for the `ERET` (R139). -/
def remaining (sched due : Nat) : Nat := if due = afterReturn then 2 ^ 63 else (due + 2 ^ 64 - sched) % 2 ^ 64

/-- The schedule cycle of a landing with some cycles remaining. -/
def dueAfter (sched r : Nat) : Nat := if r = 2 ^ 63 then afterReturn else if r < 2 ^ 63 then sched + r else sched + r - 2 ^ 64

/-- A result in flight, in four words. -/
def flightWords (sched : Nat) (f : Flight) : List Nat :=
  let p := landingParts f.act
  [remaining sched f.due, p.1 + 2 ^ 8 * f.flags.toNat + 2 ^ 16 * bit f.ready + 2 ^ 17 * bit f.counts + 2 ^ 18 * bit f.handler + 2 ^ 24 * p.2.1,
   p.2.2.1.toNat, f.aflags.toNat]

/-- The result that four words hold; `v` its value. -/
def readFlight (sched : Nat) (old : Flight) (w : Nat → Nat) (v : List Byte) : Flight :=
  { old with
    due := dueAfter sched (w 0), flags := BitVec.ofNat 6 (w 1 / 2 ^ 8), ready := (w 1).testBit 16, counts := (w 1).testBit 17,
    handler := (w 1).testBit 18, aflags := BitVec.ofNat 64 (w 3),
    act := readLanding old.act (w 1 % 2 ^ 8) (w 1 / 2 ^ 24) (BitVec.ofNat 64 (w 2)) v }

/-- A transfer whose delay bundles have not all issued. -/
def xferWords (x : Option Transfer) : List Nat :=
  let y := x.getD ⟨0, 0, 0⟩
  [y.target.toNat, y.left, y.origin.toNat]

/-- The control state of a context: run and wait state, the repeat flag, the task state of the context and of its shadow copy, the return
queue, the landing buffer. -/
def controlWords (c : Ctx) : List Nat :=
  let run := match c.run with
    | .unstarted => 0
    | .started => 1
    | .halted => 2
  let sync := match c.sync with
    | none => 0
    | some (l, b) => 1 + 2 * l.val + bit b
  [run + 2 ^ 2 * sync + 2 ^ 8 * bit c.repeatFlag + 2 ^ 9 * bit c.granted + 2 ^ 10 * bit c.asked + 2 ^ 11 * bit c.flagSeen.isSome +
     2 ^ 12 * bit c.pending.isSome + 2 ^ 13 * bit c.shadow.pending.isSome,
   c.waitCount, c.haltCycle, c.lastX.1, c.lastX.2, c.lastBun.toNat, c.entryBun.toNat, (c.flagSeen.getD 0).toNat] ++
  xferWords c.pending ++ xferWords c.shadow.pending ++ [c.shadow.entryBun.toNat, c.waits.length] ++
  taskWords c.arch.tsk ++ taskWords c.shadow.arch.tsk ++ padNats 96 (c.waits.flatMap waitWords) ++
  padNats 64 (c.amoq.flatMap fun q => [(q.value.getD 0).toNat, bit q.value.isSome + 2 * bit q.wide]) ++
  padNats 254 (c.flight.flatMap (flightWords c.arch.sched.toNat))

/-- The values of the first 32 results of a landing buffer. -/
def valueBytes (c : Ctx) : List Byte :=
  padBytes 0x2000 ((c.flight.take 32).flatMap fun f => padBytes 256 (landingParts f.act).2.2.2)

/-- The operand bytes of a step that has still to land. -/
def stepBytes : Landing → List Byte
  | .matrix m => (m.tileA ++ m.tileB).map (·.2)
  | _ => []

/-- The engine results held under R27 beside the landing buffer: the chunks of X operations and the operands of steps, as far as there is
room. -/
def heldBytes (c : Ctx) : List Byte :=
  ((c.xops.flatMap fun x => leBytes 8 (remaining c.arch.sched.toNat x.t) ++ x.pend.flatMap (·.1)) ++
    c.flight.flatMap fun f => stepBytes f.act).take 0x18000

/-- Takes the bytes of chunks from a string. -/
def readPend : List (List Byte × BitVec 6) → List Byte → List (List Byte × BitVec 6) × List Byte
  | [], bs => ([], bs)
  | p :: r, bs =>
    if bs.length < p.1.length then (p :: r, [])
    else
      let q := readPend r (bs.drop p.1.length)
      ((bs.take p.1.length, p.2) :: q.1, q.2)

/-- Takes X operations from a string. -/
def readXops (sched : Nat) : List XOp → List Byte → List XOp × List Byte
  | [], bs => ([], bs)
  | x :: r, bs =>
    if bs.length < 8 then (x :: r, [])
    else
      let p := readPend x.pend (bs.drop 8)
      let q := readXops sched r p.2
      ({ x with t := dueAfter sched (leVal (bs.take 8)), pend := p.1 } :: q.1, q.2)

/-- Takes the bytes of cells from a string. -/
def readCells (l : List Host.Cell) (bs : List Byte) : List Host.Cell := l.zipIdx.map fun q => (q.1.1, bs.getD q.2 q.1.2)

/-- Takes the operands of steps from a string. -/
def readSteps : List Flight → List Byte → List Flight
  | [], _ => []
  | f :: r, bs =>
    match f.act with
    | .matrix m =>
      { f with act := .matrix { m with tileA := readCells m.tileA bs, tileB := readCells m.tileB (bs.drop m.tileA.length) } } ::
        readSteps r (bs.drop (m.tileA.length + m.tileB.length))
    | _ => f :: readSteps r bs

/-! ### The parts of an image -/

/-- Where a context's registers begin in an image, its shadow copy and the values of its landing buffer after them; its control state; and
what is held of its engine results. -/
def contextBase (i : Nat) : Nat := 0x10C0 + 0xBC00 * i
def controlBase (i : Nat) : Nat := 0x1100C0 + 0x1000 * i
def heldBase (i : Nat) : Nat := 0x1140C0 + 0x18000 * i

/-- The parts of a context, by place. -/
def ctxParts (c : Ctx) (i : Nat) : List (Nat × List Byte) :=
  [(contextBase i, archBytes c.arch), (contextBase i + 0x4E00, archBytes c.shadow.arch), (contextBase i + 0x9C00, valueBytes c),
   (controlBase i, wordBytes (controlWords c)), (heldBase i, heldBytes c)]

/-- A context as such parts have it; what R40 does not list stays as recorded. -/
def readCtx (old : Ctx) (regs shadow values control held : List Byte) : Ctx :=
  let w (i : Nat) : Nat := byteField control (8 * i) 8
  let x (i : Nat) : Transfer := ⟨BitVec.ofNat 64 (w i), w (i + 1), BitVec.ofNat 64 (w (i + 2))⟩
  let a := { readArch old.arch regs with tsk := readTask old.arch.tsk fun i => w (16 + i) }
  let sched := a.sched.toNat
  let held := readXops sched old.xops held
  let flight := old.flight.zipIdx.map fun q =>
    if 63 ≤ q.2 then q.1
    else readFlight sched q.1 (fun i => w (258 + 4 * q.2 + i))
      (if q.2 < 32 then (values.drop (256 * q.2)).take 256 else (landingParts q.1.act).2.2.2)
  { old with
    arch := a
    run := if w 0 % 4 = 0 then .unstarted else if w 0 % 4 = 1 then .started else .halted
    sync := if w 0 / 4 % 64 = 0 then none else some (Fin.ofNat 5 ((w 0 / 4 % 64 - 1) / 2), (w 0 / 4 % 64 - 1) % 2 == 1)
    repeatFlag := (w 0).testBit 8
    granted := (w 0).testBit 9
    asked := (w 0).testBit 10
    flagSeen := if (w 0).testBit 11 then some (BitVec.ofNat 32 (w 7)) else none
    pending := if (w 0).testBit 12 then some (x 8) else none
    waitCount := w 1
    haltCycle := w 2
    lastX := (w 3, w 4)
    lastBun := BitVec.ofNat 64 (w 5)
    entryBun := BitVec.ofNat 64 (w 6)
    shadow := { old.shadow with
      arch := { readArch old.shadow.arch shadow with tsk := readTask old.shadow.arch.tsk fun i => w (57 + i) }
      pending := if (w 0).testBit 13 then some (x 11) else none
      entryBun := BitVec.ofNat 64 (w 14) }
    waits := (List.range (w 15 % 2 ^ 16)).map fun i =>
      if i < 32 then readWait (w (98 + 3 * i)) (w (99 + 3 * i)) (w (100 + 3 * i)) else old.waits.getD i .ladderIdle
    amoq := old.amoq.zipIdx.map fun q =>
      if 32 ≤ q.2 then q.1
      else { q.1 with value := if (w (195 + 2 * q.2)).testBit 0 then some (BitVec.ofNat 64 (w (194 + 2 * q.2))) else none,
                      wide := (w (195 + 2 * q.2)).testBit 1 }
    xops := held.1
    flight := readSteps flight held.2 }

/-- What the contexts of a core share: its operand rings, the words of its banks, the context that issued last. -/
def coreBytes (o : Vector ORing 8) (e : Vector Bank 8) (last : Option (Fin 4)) : List Byte :=
  (o.toList.flatMap fun x => leBytes 1 x.slm.toNat ++ leBytes 1 x.tsz.toNat ++ leBytes 2 x.baseu.toNat ++ leBytes 4 x.clm.toNat ++
    leBytes 4 x.head.toNat ++ leBytes 4 x.tail.toNat) ++
  (e.toList.flatMap fun x => leBytes 8 (x.own.toNat + 2 ^ 16 * x.anc.toNat + 2 ^ 24 * x.mode.toNat + 2 ^ 32 * bit x.al)) ++
  leBytes 8 (match last with
    | none => 0
    | some i => 1 + i.val)

def readRings (bs : List Byte) : Vector ORing 8 := Vector.ofFn fun i : Fin 8 =>
  let f (o n : Nat) : Nat := byteField bs (16 * i.val + o) n
  ⟨BitVec.ofNat 6 (f 0 1), BitVec.ofNat 8 (f 1 1), BitVec.ofNat 11 (f 2 2), BitVec.ofNat 7 (f 4 4), BitVec.ofNat 32 (f 8 4),
   BitVec.ofNat 32 (f 12 4)⟩

def readBanks (bs : List Byte) : Vector Bank 8 := Vector.ofFn fun i : Fin 8 =>
  let x := byteField bs (128 + 8 * i.val) 8
  ⟨BitVec.ofNat 16 x, BitVec.ofNat 8 (x / 2 ^ 16), BitVec.ofNat 2 (x / 2 ^ 24), x.testBit 32⟩

def readLast (bs : List Byte) : Option (Fin 4) :=
  let n := byteField bs 192 8
  if n = 0 then none else some (Fin.ofNat 4 (n - 1))

/-- The parts of an image that stand in `SavedCore` as well. -/
def savedParts (ctxs : List Ctx) (o : Vector ORing 8) (e : Vector Bank 8) (last : Option (Fin 4)) : List (Nat × List Byte) :=
  (0x300, coreBytes o e last) :: ctxs.zipIdx.flatMap fun q => ctxParts q.1 q.2

/-! ### Units of an image -/

/-- The bytes of a core's counters, and of `QUANT`. -/
def counterBytes (x : Core) : List Byte :=
  (x.evsel.toList.flatMap fun w => leBytes 8 w.toNat) ++ (x.evcnt.toList.flatMap fun w => leBytes 8 w.toNat) ++ leBytes 8 x.quant.toNat

/-- A unit of an image (R42): number, place, bytes. -/
abbrev SaveUnit : Type := Nat × Nat × List Byte

/-- The units of the image of a core: the register groups of its contexts, its counters, its flags, its pages in use, the quarters of
its allocated banks. `get` reads the core's local spaces. -/
def imageUnits (pages : Nat) (x : Core) (ctxs : List Ctx) (get : Nat → Nat → Nat → List Byte) : List SaveUnit :=
  ctxs.zipIdx.flatMap (fun q => (registerGroups q.1.arch).zipIdx.map fun g => (groupUnit q.2 g.2, contextBase q.2 + g.1.1, g.1.2)) ++
    [(512, 0x1C0, counterBytes x), (513, 0xC0, get 3 0 256)] ++
    ((List.range pages).map fun p => (pageUnit p, 0x300C0 + 4096 * p, get 0 (4096 * p) 4096)) ++
    ((List.finRange 8).flatMap fun e =>
      if (x.e[e]).al then
        (List.range 4).map fun q => (quarterUnit (4 * e.val + q), 0x900C0 + 0x10000 * e.val + 0x4000 * q, get 1 (0x10000 * e.val + 0x4000 * q) 0x4000)
      else [])

/-- The contexts of a core. -/
def coreCtxs (s : State) (c : Fin 256) : List Ctx := (List.finRange 4).map fun i => ctxAt s (ctxId c i)

/-- The units of a running core. -/
def liveUnits (s : State) (c : Fin 256) (pages : Nat) : List SaveUnit :=
  imageUnits pages (coreAt s c) (coreCtxs s c) fun sp off n => memRead s.mem (localKey sp c.val off) n

/-- Writes bytes to their place in the save area of a job, at the home slices. -/
def putPart (j : Job) (c : Fin 256) (s : State) (u : Nat × List Byte) : State :=
  rootWrite (.core c) s j.root.toNat (BitVec.ofNat 64 (imageVa j c u.1)) u.2

/-- Writes a unit there. -/
def putUnit (j : Job) (c : Fin 256) (s : State) (u : SaveUnit) : State := putPart j c s u.2

/-- Whether the shadow save has written a unit, which has not been written since (R42). -/
def cleanUnit (s : State) (c : Fin 256) (u : SaveUnit) : Bool :=
  (coreAt s c).shadowed.contains (u.1, cellsFrom 0 u.2.2) && !s.dirty.contains (c, u.1)

/-- The units that are dirty: a save writes these. -/
def dirtyUnits (s : State) (j : Job) (c : Fin 256) : List SaveUnit := (liveUnits s c j.sppages.toNat).filter fun u => !cleanUnit s c u

/-- The shadow save has written a unit. -/
def markClean (s : State) (c : Fin 256) (u : SaveUnit) : State :=
  let s := modCore s c fun x => { x with shadowed := (u.1, cellsFrom 0 u.2.2) :: x.shadowed.filter fun q => q.1 ≠ u.1 }
  { s with dirty := s.dirty.filter fun q => q ≠ (c, u.1) }

/-- The parts of an image that no shadow save writes: everything but the register groups of the contexts. -/
def otherParts (l : List (Nat × List Byte)) : List (Nat × List Byte) := l.filter fun u => !(List.range 4).any fun i => u.1 = contextBase i

/-- Writes the image of a running core as it is saved: the units dirty at the save point, and what is no unit. -/
def writeImage (s : State) (j : Job) (c : Fin 256) (parts : List (Nat × List Byte)) : State :=
  (otherParts parts).foldl (putPart j c) ((dirtyUnits s j c).foldl (putUnit j c) s)

/-- The bytes of parts, by place. -/
def partCells (l : List (Nat × List Byte)) : List Host.Cell := l.foldl (fun m u => memWrite m u.1 u.2) []

/-! ### Reading an image back -/

/-- Bytes of an image as they now stand, and the accesses of home slices that read them. -/
def readImage (j : Job) (c : Fin 256) (off n : Nat) (s : State) : List Byte × State :=
  rootRead s j.root.toNat (BitVec.ofNat 64 (imageVa j c off)) n

/-- Whether a code word among them has an uncorrectable error. -/
def imageLost (s : State) (j : Job) (c : Fin 256) (u : Nat × Nat) : Bool :=
  rootBad s j.root.toNat (BitVec.ofNat 64 (imageVa j c u.1)) u.2

/-- A part of a saved core as it comes back: `now`, as recorded since, but for the bytes that differ in the image from what the save
wrote. -/
def restored (s : State) (j : Job) (x : SavedCore) (off : Nat) (now : List Byte) : List Byte :=
  (now.zip ((memRead x.kept off now.length).zip (readImage j x.core off now.length s).1)).map fun q =>
    if q.2.1 = q.2.2 then q.1 else q.2.2

/-- What the contexts of a saved core share, as it comes back. -/
def restoredCore (s : State) (j : Job) (x : SavedCore) : List Byte := restored s j x 0x300 (coreBytes x.o x.e x.last)

/-- A saved context as it comes back. -/
def restoredCtx (s : State) (j : Job) (x : SavedCore) (c : Ctx) (i : Nat) : Ctx :=
  readCtx c (restored s j x (contextBase i) (archBytes c.arch)) (restored s j x (contextBase i + 0x4E00) (archBytes c.shadow.arch))
    (restored s j x (contextBase i + 0x9C00) (valueBytes c)) (restored s j x (controlBase i) (wordBytes (controlWords c)))
    (restored s j x (heldBase i) (heldBytes c))

/-- The local bytes that an image holds: place, space, offset, length. -/
def localUnits (pages : Nat) (e : Vector Bank 8) : List (Nat × Nat × Nat × Nat) :=
  [(0xC0, 3, 0, 256)] ++ ((List.range pages).map fun p => (0x300C0 + 4096 * p, 0, 4096 * p, 4096)) ++
    ((List.finRange 8).flatMap fun i => if (e[i]).al then [(0x900C0 + 0x10000 * i.val, 1, 0x10000 * i.val, 0x10000)] else [])

/-- What a restore reads: place and length. -/
def restoreSpans (s : State) (j : Job) (x : SavedCore) : List (Nat × Nat) :=
  (0x1C0, 264) :: ((savedParts x.ctxs x.o x.e x.last).map fun u => (u.1, u.2.length)) ++
    (localUnits j.sppages.toNat (readBanks (restoredCore s j x))).map fun u => (u.1, u.2.2.2)

/-- Counters and `QUANT` as bytes hold them. -/
def readCounters (bs : List Byte) (x : Core) : Core :=
  let f (o n : Nat) : Nat := byteField bs o n
  { x with
    evsel := Vector.ofFn fun i : Fin 16 => BitVec.ofNat 64 (f (8 * i.val) 8)
    evcnt := Vector.ofFn fun i : Fin 16 => BitVec.ofNat 64 (f (128 + 8 * i.val) 8)
    quant := BitVec.ofNat 16 (f 256 2) }

/-! ### Marks of words in error -/

/-- Marks of words with an uncorrectable error of a core's local spaces, set aside for a job while it is saved, or taken back. -/
def asideMark (j : BitVec 32) (c : Fin 256) (w : Nat) : Option Nat :=
  if ([0, 1, 3] : List Nat).any fun sp => decide (localKey sp c.val 0 ≤ w) && decide (w < localKey sp c.val 0 + 2 ^ 48) then
    some (w + (j.toNat + 1) * 2 ^ 64) else none

/-- Sets a core's marks aside for a job. -/
def marksAside (s : State) (j : BitVec 32) (c : Fin 256) : State := { s with bad := s.bad.map fun w => (asideMark j c w).getD w }

/-- Takes a job's marks of a core back: those of bytes that the image holds. -/
def marksBack (s : State) (j : Job) (c : Fin 256) : State :=
  let base := (j.id.toNat + 1) * 2 ^ 64
  { s with bad := s.bad.filterMap fun w =>
      if w < base then some w
      else if (asideMark j.id c (w - base)).isSome then
        (if w - base < localKey 0 c.val (j.sppages.toNat * 4096) ∨ localKey 1 c.val 0 ≤ w - base then some (w - base) else none)
      else some w }

end Sys2Proof.Machine
end

