-- ==== Sys2Proof/Machine/Jobs.lean ====
section
/-! DEFINITION. The job scheduler: launch (R36 to R38), saving and restoring cores (R39 to R43, R436), rotation, the end of a job
and its record (R37, R359, R373, R374), and the events that drive them. -/

namespace Sys2Proof.Machine

/-! ### Launch (R36 to R38, R44, R45) -/

/-- The effective slice (R43). -/
def effSlice (j : Job) : Nat :=
  if j.slice = 0 then 0 else max j.slice.toNat (10240 + 32 * j.sppages.toNat)

/-- Members of the domain of a level that a context belongs to, 0 when it is no member (R45). -/
def memberCount (j : Job) (l : Fin 5) (k : Fin 1024) : Nat :=
  let m := members j l (unitOf l (coreOf k))
  if m.contains k then m.length else 0

/-- The member index in the sentence domain (R37). -/
def sentenceIndex (j : Job) (k : Fin 1024) : Word :=
  let m := members j 3 0
  if m.contains k then BitVec.ofNat 64 (m.filter fun x => x < k).length else BitVec.allOnes 64

/-- `DMEMB` (R45). -/
def dmembWord (j : Job) (r : StartRec) : Word :=
  let n := fun l => memberCount j l r.ctx
  BitVec.ofNat 64 (n 3 * 2 ^ 53 + n 2 * 2 ^ 44 + n 1 * 2 ^ 38 + n 0 * 2 ^ 35 + (sentenceIndex j r.ctx).toNat % 2 ^ 16 * 2 ^ 16 +
    r.memb.toNat)

/-- The registers of a started context at its first bundle (R37). -/
def launchArch (j : Job) (r : StartRec) : Arch :=
  { Arch.reset with
    s := Vector.ofFn fun i : Fin 64 =>
      if h : 1 ≤ i.val ∧ i.val ≤ 8 then r.args[i.val - 1]
      else if i.val = 9 then BitVec.ofNat 64 r.ctx.val
      else if i.val = 10 then sentenceIndex j r.ctx else 0
    pc := r.entry.setWidth 64
    prio := r.prio
    snapbase := j.snapbase
    dmemb := dmembWord j r
    slraise := decide (j.slice.toNat < effSlice j) }

/-- A context at launch: its launch state is its first shadow copy (R396); one without a record is never started (R36). -/
def launchCtx (j : Job) (k : Fin 1024) : Ctx :=
  match j.recs.find? fun r => r.ctx = k with
  | some r =>
    let a := launchArch j r
    { Ctx.reset with arch := a, shadow := ⟨a, none, 0, none⟩, run := .started, lastBun := BitVec.allOnes 64 }
  | none => Ctx.reset

/-- Sets the local bytes of a core to 0: scratchpad, accumulator memory, flag file (R38). -/
def clearLocal (s : State) (c : Fin 256) : State :=
  let m := memClear (memClear (memClear s.mem (localKey 0 c.val 0) 0x60000) (localKey 1 c.val 0) 0x80000) (localKey 3 c.val 0) 0x100
  { s with mem := m, bad := s.bad.filter fun w => (asideMark 0 c w).isNone }

/-- A job takes a core for the first time (R38); the core issues from cycle `t` on. -/
def launchCore (s : State) (j : Job) (t : Nat) (c : Fin 256) : State :=
  let s := fillCode (clearLocal s c) c j.image.toNat
  let s := (List.finRange 4).foldl (fun s i => setCtx s (ctxId c i) (launchCtx j (ctxId c i))) s
  modCore s c fun x =>
    { Core.reset with
      job := some j.id, l1 := x.l1, l1clock := x.l1clock, tlb := x.tlb, codeLen := x.codeLen, retired := x.retired, spares := x.spares,
      served := x.served, turnStart := s.cycle, busyUntil := t }

/-! ### Saving and restoring (R40, R41, R43, R436) -/

/-- Cycles that a save or a restore takes (R43). -/
def moveCycles (pages : Nat) : Nat := 3072 + 16 * pages

/-- A core with nothing left of the job it ran. -/
def emptyCore (s : State) (c : Fin 256) (t : Nat) : State :=
  let s := (List.finRange 4).foldl (fun s i => setCtx s (ctxId c i) Ctx.reset) s
  modCore s c fun x =>
    { x with job := none, work := [], buf := [], array := none, holder := none, streak := 0, yielded := [], floor := 0, rolling := none,
             shadowed := [], busyUntil := max x.busyUntil t }

/-- Saves a core for its job, when it may be saved: every command issued has completed, and no rollback is under way (R40, R399). The
rest of what it has issued stays outstanding in the saved state (R41), with the transform beats carried out whose chunks land later
(R211). -/
def saveCore (s : State) (c : Fin 256) : Option State :=
  match (coreAt s c).job.bind (findJob s) with
  | none => none
  | some j =>
    let s := completeCore false s c
    if (coreAt s c).rolling.isSome || !coreQuiet false s c then none
    else
      let s := retireStep s c
      let ctxs := (coreCtxs s c).map fun y => { y with xops := carryOut s c y.xops }
      let x := coreAt s c
      let parts := savedParts ctxs x.o x.e x.last
      let y : SavedCore :=
        { job := j.id, core := c, ctxs, o := x.o, e := x.e, last := x.last, work := x.work, codeLen := x.codeLen, kept := partCells parts,
          since := s.cycle }
      let s := clearLocal (marksAside (writeImage s j c parts) j.id c) c
      some (emptyCore { s with saved := s.saved ++ [y] } c (s.cycle + moveCycles j.sppages.toNat))

/-- Whether an image cannot be read back whole, for an uncorrectable error or an answer of the host. -/
def restoreFails (st : Option (BitVec 16)) (s : State) (j : Job) (x : SavedCore) : Bool :=
  st.isSome || (restoreSpans s j x).any (imageLost s j x.core)

/-- The local bytes of a core, as the image of `s` has them, go back. -/
def readLocal (s : State) (j : Job) (c : Fin 256) (r : State) (u : Nat × Nat × Nat × Nat) : State :=
  putBytes r (localKey u.2.1 c.val u.2.2.1) (readImage j c u.1 u.2.2.2 s).1

/-- Restores a saved core (R40, R43, R436, R437): what its image holds, its instruction store from the BX image; what completed while it
was saved settles; a grant floor begins. DESIGN CHOICE (see the log): an image that cannot be read back whole ends the job with
`LOSTDATA`, `SUB` 0. -/
def restoreCore (st : Option (BitVec 16)) (s : State) (x : SavedCore) (j : Job) : State :=
  let c := x.core
  let read := (restoreSpans s j x).foldl (fun r u => (readImage j c u.1 u.2 r).2) s
  if restoreFails st s j x then machineEnd read j.id 3 0x90 0 (some c)
  else
    let shared := restoredCore s j x
    let t := fillCode (clearLocal { read with saved := read.saved.erase x } c) c j.image.toNat
    let t := modCore t c fun y =>
      { readCounters (readImage j c 0x1C0 264 s).1 y with
        job := some j.id, o := readRings shared, e := readBanks shared, last := readLast shared, work := x.work, floor := 4097,
        turnStart := s.cycle, busyUntil := max s.cycle y.busyUntil + moveCycles j.sppages.toNat }
    let t := (localUnits j.sppages.toNat (readBanks shared)).foldl (readLocal s j c) t
    let t := (x.ctxs.zip (List.finRange 4)).foldl (fun t q => setCtx t (ctxId c q.2) (restoredCtx s j x q.1 q.2.val)) t
    settle (marksBack t j c) c

/-- The saved job that a free core goes to: the highest priority, and among equals the one that has not run for longest (R36,
R39). -/
def nextSaved (s : State) (c : Fin 256) : Option (SavedCore × Job) :=
  let l := s.saved.filterMap fun x =>
    if x.core = c then
      match findJob s x.job with
      | some j => if j.phase = .running then some (x, j) else none
      | none => none
    else none
  l.foldl (fun b q => match b with
    | none => some q
    | some p =>
      if p.2.jpri.toNat < q.2.jpri.toNat ∨ (p.2.jpri = q.2.jpri ∧ q.1.since < p.1.since) then some q else some p) none

/-- A restore that has read what lies in host memory takes place, if the core is still free and the job saved there. -/
def restoreNow (j : BitVec 32) (c : Fin 256) (st : Option (BitVec 16)) (s : State) : State :=
  match findSaved s j c, findJob s j with
  | some x, some y =>
    if (coreAt s c).job.isSome || (coreAt s c).retired || decide (y.phase ≠ .running) then s else restoreCore st s x y
  | _, _ => s

/-- Whether a restore of a core waits for reads of host memory. -/
def restoring (s : State) (c : Fin 256) : Bool := s.asks.any fun a => match a.what with
  | .restore _ d => decide (d = c)
  | _ => false

/-- A free core goes to the saved job whose turn it is, once what saves have written to host memory has been answered, and when what its
image has there has been read (R358). -/
def giveCore (c : Fin 256) (s : State) : State :=
  if (coreAt s c).job.isSome || (coreAt s c).retired || restoring s c || !settledFor s (.core c) then s
  else
    match nextSaved s c with
    | some (_, j) => runAsk s (newAsk (.restore j.id c)) (.core c) (restoreNow j.id c)
    | none => s

/-- CORE_RESTORE: a free core is given to the saved job whose turn it is. -/
def execCoreRestore (c : Fin 256) (s : State) : Host.Outcome State Fault Refusal := .next (giveCore c s)

/-- Whether the scheduler may take a core from its job: its grant floor is met, and it is neither moved nor rolled back (R43,
R390, R399). -/
def preemptible (s : State) (c : Fin 256) : Bool :=
  let x := coreAt s c
  decide (x.floor ≤ 1) && decide (x.busyUntil ≤ s.cycle) && x.rolling.isNone

/-- Whether the turn of the job on a core is over and another of its priority waits (R39). DESIGN CHOICE (see the log): a turn is
counted from the start of the job's restore or launch on the core; a job that keeps the core when its turn ends begins no new turn, and
is rotated as soon as another waits. -/
def turnOver (s : State) (c : Fin 256) : Bool :=
  let x := coreAt s c
  match x.job.bind (findJob s) with
  | none => false
  | some j =>
    decide (effSlice j ≠ 0) && decide (x.turnStart + effSlice j ≤ s.cycle) && preemptible s c &&
      s.saved.any fun y => y.core = c && (match findJob s y.job with
        | some q => decide (q.jpri = j.jpri) && decide (q.phase = .running)
        | none => false)

/-- SLICE_EXPIRY: at the end of a turn the core is saved, and goes to the job that has waited longest. -/
def execSliceExpiry (c : Fin 256) (s : State) : Host.Outcome State Fault Refusal :=
  .next (
    if turnOver s c then
      match saveCore s c with
      | some s => giveCore c s
      | none => s
    else s)

/-- GRANT_FLOOR_MET (R43): a restored core has earned its 4096 credits and may be taken again. -/
def execGrantFloorMet (c : Fin 256) (s : State) : Host.Outcome State Fault Refusal :=
  .next (if (coreAt s c).floor = 1 then modCore s c fun x => { x with floor := 0 } else s)

/-! ### Admission (R36) -/

/-- Whether a job that holds a core lets another start there: it has a lower priority, or shares. -/
def admits (j x : Job) : Bool :=
  match x.phase with
  | .waiting => true
  | .ending _ => false
  | .telling _ _ _ => false
  | .running => decide (x.jpri.toNat < j.jpri.toNat) || (decide (x.jpri = j.jpri) && decide (j.slice ≠ 0) && decide (x.slice ≠ 0))

/-- Whether a waiting job can start now: its data segments are in place, and its cores may be had. -/
def admissible (s : State) (j : Job) : Bool :=
  decide (j.phase = .waiting) && settledFor s (.job j.id) &&
    (namedCores j.recs).all fun c =>
      (s.jobs.all fun x => !x.names c || x.id == j.id || admits j x) && !(coreAt s c).retired &&
        ((coreAt s c).job.isNone || preemptible s c)

/-- Takes the named cores that other jobs run: those of lower priority are pre-empted, and those of the same give up their turn. DESIGN
CHOICE (see the log): a job that starts on a shared core begins its first turn there, since R36 has its contexts ready together, and R39
names no other moment. -/
def takeCores (s : State) (j : Job) : List (Fin 256) → Option State
  | [] => some s
  | c :: r =>
    match (coreAt s c).job.bind (findJob s) with
    | some _ =>
      match saveCore s c with
      | some s => takeCores s j r
      | none => none
    | none => takeCores s j r

/-- Answers a message of the host (R358, R407). -/
def sendAck (s : State) (t : BitVec 16) (status : Nat) : State := sendHost s [⟨3, t, 0, BitVec.ofNat 32 status, []⟩]

/-- Whether a core is to be saved before it issues again: its job's turn is over, or another job may start there (R36, R39). -/
def saveDue (s : State) (c : Fin 256) : Bool :=
  turnOver s c || (match (coreAt s c).job.bind (findJob s) with
    | none => false
    | some x => s.jobs.any fun j => decide (j.id ≠ x.id) && j.names c && admissible s j)

/-- JOB_ADMIT: a waiting job starts: its cores and contexts are set, and its `START` answered. All its cores issue from one cycle on, when
the last of them has been saved (R36). -/
def execJobAdmit (id : BitVec 32) (s : State) : Host.Outcome State Fault Refusal :=
  .next (match findJob s id with
  | none => s
  | some j =>
    if !admissible s j then s
    else
      match takeCores s j (namedCores j.recs) with
      | none => s
      | some s =>
        let s := modJob s id fun x => { x with phase := .running }
        let ready := (namedCores j.recs).foldl (fun t c => max t (coreAt s c).busyUntil) s.cycle
        let s := (namedCores j.recs).foldl (fun s c => launchCore s j ready c) s
        let s := match j.answer with
          | some (_, t) => sendAck s t 0
          | none => s
        idleArrive (recount s id) id)

/-! ### The end of a job (R37, R359, R373, R374) -/

/-- The job end record's eight words, as 64 bytes (R374). -/
def recordBytes (j : BitVec 32) (r : EndRec) : List Byte :=
  let w0 := r.state.toNat + r.ctx % 1024 * 2 ^ 32 + r.tslot.toNat % 8 * 2 ^ 48 + r.tslot.toNat / 16 % 2 * 2 ^ 51
  [w0, j.toNat, r.tcause.toNat, r.tbun.toNat, r.v0.toNat, r.v1.toNat, r.v2.toNat, r.sched.toNat].flatMap (leBytes 8)

/-- Stops a context of a job that ends: it issues no more, and its results in flight are discarded. -/
def stopCtx (s : State) (c : Ctx) : Ctx :=
  if c.run = .started then
    { c with run := .halted, haltCycle := s.cycle, flight := [], amoq := [], xops := [], deferred := [], waits := [], sync := none,
             holdFault := none, flagSeen := none, standing := none }
  else c

/-- A job is complete when every started context has halted (R37). -/
def allHalted (s : State) (j : Job) : Bool :=
  j.recs.all fun r => match ringTarget s j.id r.ctx with
    | some c => decide (c.run = .halted)
    | none => false

/-- A complete job begins to end, with the record of R373. -/
def completeJob (s : State) (j : Job) : State :=
  if j.phase = .running ∧ allHalted s j = true then
    modJob s j.id fun x => { x with phase := .ending ⟨0, 0, 0, 0, 0, 0, 0, 0, 0⟩ }
  else s

/-- The cores a job runs on now. -/
def liveCores (s : State) (j : BitVec 32) : List (Fin 256) := (List.finRange 256).filter fun c => (coreAt s c).job = some j

/-- A core that its job gives up. -/
def freeCore (s : State) (c : Fin 256) : State := emptyCore s c 0

/-- The 8 bytes of a job's notify word. -/
def notifyWord (j : Job) : Nat := j.notify.toNat

/-- A job that has told the host is gone, and its cores are free (R37, R373). -/
def removeJob (s : State) (j : Job) : State :=
  let s := (liveCores s j.id).foldl freeCore s
  let s := { s with
    jobs := s.jobs.filter fun x => x.id ≠ j.id
    saved := s.saved.filter fun x => x.job ≠ j.id
    dren := s.dren.filter fun d => d.job ≠ j.id
    cellAdds := s.cellAdds.filter fun a => a.job ≠ j.id
    bad := s.bad.filter fun w => !(decide ((j.id.toNat + 1) * 2 ^ 64 ≤ w) && decide (w < (j.id.toNat + 2) * 2 ^ 64))
    ended := (j.id, j.parArrived) :: s.ended.filter fun x => x.1 ≠ j.id }
  let s := recount s j.id
  idleArrive s j.id

/-- A message about a job's notify word leaves, and the job waits for its answer. -/
def tellHost (s : State) (j : Job) (stage : Fin 3) (m : HostMsg) : State :=
  let q := postMsgs [m] s
  modJob q.2 j.id fun x => { x with phase := .telling stage (q.1.headD 0) q.2.cycle }

/-- The record of a job is written and everything of it has been answered: the host's notify word is read, to be raised by 1 (R359). -/
def beginTelling (s : State) (j : Job) : State :=
  if j.notify = 0 then removeJob s j else tellHost s j 1 (readMsg (notifyWord j) 8)

/-- The notify word has been read: 1 more is written. -/
def raiseNotify (s : State) (j : Job) (old : List Byte) : State :=
  let a := notifyWord j
  let x := leBytes 8 (leVal (if sliceHas s a then memRead s.mem a 8 else old) + 1)
  tellHost (putBytes s a x) j 2 ⟨1, 0, j.notify, 8, x⟩

/-- The cores at which writes of a job to host memory may still be unanswered. -/
def jobSettled (s : State) (j : Job) : Bool :=
  settledFor s (.job j.id) && (namedCores j.recs).all fun c => settledFor s (.core c)

/-- A job ends, everything it issued having completed: holds are freed, the record is written, the windows are returned (R167, R373,
R374). -/
def concludeJob (s : State) (j : Job) (r : EndRec) : State :=
  let s := { s with slices := s.slices.map fun x => { x with holds := x.holds.filter fun h => h.job ≠ j.id } }
  let s := rootWrite (.job j.id) s j.root.toNat j.snapbase (recordBytes j.id r)
  let s := (List.finRange 256).foldl (fun s u => if (sliceAt s u).holder = some j.id then setWays s u 0 j.id else s) s
  modJob s j.id fun x => { x with phase := .telling 0 0 s.cycle }

/-- A saved core of a job that ends: its contexts stop, and no result lands there. -/
def stopSaved (s : State) (x : SavedCore) : SavedCore :=
  { x with ctxs := x.ctxs.map fun c => { stopCtx s c with flight := [], xops := [], waits := [] } }

/-- The first saved core of a job with work that has not completed: the work completes, as that of a running core does (R359, R373), and
what the core runs now stands as it stood. -/
def finishSaved (s : State) (x : SavedCore) : State :=
  let c := x.core
  let ids := (List.finRange 4).map (ctxId c)
  let live := coreCtxs s c
  let work := (coreAt s c).work
  let swap (ctxs : List Ctx) (ws : List Work) (s : State) : State :=
    (ctxs.zip ids).foldl (fun s q => setCtx s q.2 q.1) (modCore s c fun y => { y with work := ws })
  let t := completeCore true (swap x.ctxs x.work s) c
  let left := (coreAt t c).work
  let t := swap live work t
  { t with saved := t.saved.map fun y => if y.job = x.job ∧ y.core = c then { y with work := left } else y }

/-- Whether a saved core has nothing outstanding but requests to the work distributor. -/
def savedQuiet (x : SavedCore) : Bool := x.work.all fun w => w.done || (match w.kind with
  | .wnext _ => true
  | _ => false)

/-- Whether the task unit waits for host memory for a context of a job: of a core that it runs on, or of one that is saved. -/
def jobAsks (s : State) (j : BitVec 32) : Bool := s.asks.any fun a => match a.what with
  | .abort k _ _ _ => liveAt s j (coreOf k)
  | .retract k => liveAt s j (coreOf k)
  | .commit k _ => liveAt s j (coreOf k)
  | .cell i _ _ _ _ => decide (i = j)
  | _ => false

/-- Carries a job that is ending on: its contexts stop, and what they issued completes; after a normal completion the L1s of its cores
are written back, and the host answers; then it ends (R359, R373). -/
def endJob (s : State) (j : Job) : State :=
  match j.phase with
  | .ending r =>
    let cores := liveCores s j.id
    let s := cores.foldl (fun s c => (List.finRange 4).foldl (fun s i => modCtx s (ctxId c i) (stopCtx s)) s) s
    let s := { s with saved := s.saved.map fun x => if x.job = j.id then stopSaved s x else x }
    let s := cores.foldl (fun s c => modCore (completeCore true s c) c fun x => { x with rolling := none }) s
    let s := (s.saved.filter fun x => x.job = j.id && !savedQuiet x).foldl finishSaved s
    if !cores.all (coreQuiet true s) || !(s.saved.all fun x => x.job ≠ j.id || savedQuiet x) || jobAsks s j.id then s
    else
      let s := if r.state = 0 then (namedCores j.recs).foldl (fun s c => l1Sweep (postSector c) s c false fun _ => true) s else s
      let r := match (findJob s j.id).map (·.phase) with
        | some (.ending q) => q
        | _ => r
      if jobSettled s j then concludeJob s j r else s
  | .telling stage _ since =>
    if stage = 0 then (if jobSettled s j then beginTelling s j else s)
    else if since + 2 ^ 24 ≤ s.cycle then removeJob s j
    else s
  | _ => s

/-- At the end of a cycle: complete jobs begin to end, ending jobs go on to their end. -/
def finishJobs (s : State) : State :=
  let s := s.jobs.foldl (fun s j => match findJob s j.id with
    | some j => completeJob s j
    | none => s) s
  s.jobs.foldl (fun s j => match findJob s j.id with
    | some j => endJob s j
    | none => s) s

end Sys2Proof.Machine
end

