-- ==== Sys2Proof/Machine/Integrity.lean ====
section
/-! DEFINITION. Rollback and retirement (R396 to R400), the background classes and their budgets (R42, R367, R395, R406), and the
health record (R410). -/

namespace Sys2Proof.Machine

/-! ### Health and retirement (R400, R410) -/

/-- A bitmap of `n` bits. -/
def bitmap (n : Nat) (f : Nat → Bool) : Nat := packNat 1 (fun i => bit (f i)) n

/-- The 64-byte health record: retired cores, ports down, modules down. -/
def healthBytes (s : State) : List Byte :=
  leBytes 32 (bitmap 256 fun i => (coreAt s (Fin.ofNat 256 i)).retired) ++
    leBytes 2 (bitmap 16 fun i => !(s.ports[Fin.ofNat 16 i]).up) ++ leBytes 1 (bitmap 8 fun i => !s.modules.getLsbD i) ++
    List.replicate 29 0

/-- The physical address of a host bus address (R168). -/
def hostAddr (a : Nat) : Nat := 2 ^ 47 + a

/-- Writes bytes to host memory, piece by piece. -/
def toHost (s : State) (a : Nat) (bs : List Byte) : State :=
  (postMsgs (writeMsgs (hostAddr a) bs) (putBytes s (hostAddr a) bs)).2

/-- The device writes its health record to host address 0x200. -/
def writeHealth (s : State) : State := toHost s 0x200 (healthBytes s)

/-- A `START` that waits, and names a core that is retired, fails with status 8 (R391, R400). -/
def refuseWaiting (s : State) (j : Job) : State :=
  let s := { s with jobs := s.jobs.filter fun x => x.id ≠ j.id }
  match j.answer with
  | some (_, t) => sendAck s t 8
  | none => s

/-- A core is retired: it issues nothing more, and every job that holds it, running or saved there, ends with `RETIRED`; one that waits for
it is refused. -/
def retireCore (s : State) (c : Fin 256) : State :=
  let s := writeHealth (modCore s c fun x => { x with retired := true, rolling := none })
  let s := (s.jobs.filter fun j => j.names c && j.phase == .waiting).foldl refuseWaiting s
  (s.jobs.filter fun j => j.names c && j.phase != .waiting).foldl (fun s j => machineEnd s j.id 4 0x92 c.val (some c)) s

/-! ### Rollback (R397, R398) -/

/-- The contexts of a core that take part: started and not halted. -/
def rollContexts (s : State) (c : Fin 256) : List (Fin 4) := (List.finRange 4).filter fun i => (ctxAt s (ctxId c i)).run = .started

/-- A context as its shadow copy has it, its landing buffer empty. -/
def fromShadow (x : Ctx) : Ctx :=
  { Ctx.reset with arch := x.shadow.arch, pending := x.shadow.pending, entryBun := x.shadow.entryBun, hidden := x.shadow.hidden,
                   shadow := x.shadow, shadowBad := x.shadowBad, run := .started, lastBun := x.lastBun, repeatFlag := x.repeatFlag }

/-- Whether a piece of work stands over a rollback: a write that its context has issued stands (R397), and so does a request of the
work distributor; data of loads in flight is discarded (R399). -/
def outlivesPass (w : Work) : Bool :=
  match w.kind with
  | .load _ => false
  | .spload _ _ _ => false
  | .rowload _ _ _ => false
  | .ladder c => c.op != 0x4A
  | _ => true

/-- The work that stands over a pass of a core: the increments that its commands owe to the core's own rings are discarded (R398). -/
def keptWork (x : Core) : List Work := (x.work.filter outlivesPass).map fun w => { w with inc := 0 }

/-- A pass begins: its contexts are restored, which takes 64 cycles; increments that the core owes to its own rings are
discarded. -/
def beginPass (s : State) (c : Fin 256) (r : Rolling) (pass : Nat) : State :=
  let s := r.goal.foldl (fun s q => modCtx s (ctxId c q.1) fromShadow) s
  let s := { s with dren := s.dren.filter fun d => !(coreOf d.src = c && coreOf d.dst = c) }
  modCore s c fun x =>
    { x with
      work := keptWork x
      array := none
      holder := none
      busyUntil := s.cycle + 65
      rolling := some { r with pass := pass, since := s.cycle, counts := r.goal.map fun q => (q.1, 0, 0) } }

/-- The job of a core ends because its rollback is impossible. -/
def noRepeat (s : State) (c : Fin 256) (sub : Nat) : State :=
  match (coreAt s c).job with
  | some j => modCore (machineEnd s j 3 0x91 sub (some c)) c fun x => { x with rolling := none }
  | none => s

/-- With every command of the core complete, the rollback starts, or ends the job where a second run would repeat what must not be
repeated, or a shadow copy cannot be read. -/
def startRollback (s : State) (c : Fin 256) : State :=
  let cs := rollContexts s c
  if cs.any fun i => (ctxAt s (ctxId c i)).repeatFlag then noRepeat s c 0
  else if cs.any fun i => (ctxAt s (ctxId c i)).shadowBad then noRepeat s c 1
  else beginPass s c ⟨1, s.cycle, cs.map fun i => (i, (ctxAt s (ctxId c i)).arch.sched.toNat), [], []⟩ 1

/-- Waits for the commands a core has issued, then starts its rollback. -/
def waitRollback (s : State) (c : Fin 256) : State :=
  let s := completeCore false s c
  if coreQuiet false s c then startRollback s c
  else modCore s c fun x => { x with rolling := some ⟨0, s.cycle, [], [], []⟩ }

/-- ROLLBACK: a rollback-class error is detected in a core. One during a pass retires it. -/
def execRollback (c : Fin 256) (s : State) : Host.Outcome State Fault Refusal :=
  .next (
    if (coreAt s c).job.isNone || (coreAt s c).retired then s
    else
      match (coreAt s c).rolling with
      | some r => if r.pass = 0 then s else retireCore s c
      | none => waitRollback s c)

/-- Whether a context has reached the point of its pass: the clock of the detection, or its halt. -/
def passReached (s : State) (c : Fin 256) (q : Fin 4 × Nat) : Bool :=
  let x := ctxAt s (ctxId c q.1)
  decide (x.run ≠ .started) || decide (q.2 ≤ x.arch.sched.toNat)

/-- At the end of a cycle: a pass that every context has finished gives way to the next, or to the comparison (R398). -/
def rollOn (s : State) (c : Fin 256) : State :=
  match (coreAt s c).rolling with
  | none => s
  | some r =>
    if r.pass = 0 then waitRollback s c
    else if r.goal.all (passReached s c) then
      if r.pass = 1 then beginPass s c { r with first := r.counts } 2
      else if r.counts = r.first then modCore s c fun x => { x with rolling := none }
      else retireCore s c
    else s

/-- ROLLBACK_PASS_TIMEOUT: a pass has not ended within 2^28 cycles; the job ends. -/
def execRollbackPassTimeout (c : Fin 256) (s : State) : Host.Outcome State Fault Refusal :=
  .next (match (coreAt s c).rolling with
    | some r => if r.pass ≠ 0 ∧ r.since + 2 ^ 28 ≤ s.cycle then noRepeat s c 2 else s
    | none => s)

/-- Counts a bundle issued, or a trap entry, of a context whose core rolls back. -/
def rollCount (s : State) (k : Fin 1024) : State :=
  match (coreAt s (coreOf k)).rolling with
  | none => s
  | some r =>
    let up (q : Fin 4 × Nat × BitVec 64) : Fin 4 × Nat × BitVec 64 := if q.1 = subOf k then (q.1, q.2.1 + 1, q.2.2) else q
    modCore s (coreOf k) fun c => { c with rolling := some { r with counts := r.counts.map up } }

/-- A context stops in its pass, for its next bundle would set its repeat flag: it has reached its point. -/
def rollStop (s : State) (k : Fin 1024) : State :=
  match (coreAt s (coreOf k)).rolling with
  | none => s
  | some r =>
    let here (q : Fin 4 × Nat) : Fin 4 × Nat := if q.1 = subOf k then (q.1, (ctxAt s k).arch.sched.toNat) else q
    modCore s (coreOf k) fun c => { c with rolling := some { r with goal := r.goal.map here } }

/-- Whether a context may issue while its core rolls back: a pass is under way, and its point is not reached. -/
def rollReady (s : State) (k : Fin 1024) : Bool :=
  match (coreAt s (coreOf k)).rolling with
  | none => true
  | some r => r.pass ≠ 0 && r.goal.any fun q => q.1 = subOf k && !passReached s (coreOf k) q

/-! ### Background classes (R367) -/

/-- BUDGET_PERIOD: at every multiple of 4096 cycles the budgets are renewed. -/
def execBudgetPeriod (s : State) : Host.Outcome State Fault Refusal :=
  .next (if s.cycle % 4096 = 0 then
    { s with slices := s.slices.map fun x => { x with spent0 := 0, spent3 := 0 }
             spent1 := Vector.replicate 256 0
             spent2 := Vector.replicate 256 0
             spent4 := Vector.replicate 256 (0, 0)
             moved4 := Vector.ofFn fun c : Fin 256 => (carryEngine s c false, carryEngine s c true) }
  else s)

/-- The key of the sector that a slice's scrubber visits as sector `p`, when it holds data: of the window, or of a valid sector of a
cached line. Sector `p` is sector `p` mod 4 of way `p` div 4 mod 16 of set `p` div 64. DESIGN CHOICE (see the log): a window's sectors
lie in its ways in order of their offsets. -/
def patrolKey (s : State) (u : Fin 256) (p : Nat) : Option Nat :=
  let x := sliceAt s u
  let set := p / 64
  let way := p / 4 % 16
  if way < x.ways then some (localKey 2 u.val (way * 0x100000 + set * 1024 + p % 4 * 256))
  else (x.lines.find? fun l => l.set = set ∧ l.way = way ∧ l.valid.getLsbD (p % 4) = true).map fun l => l.line * 1024 + p % 4 * 256

/-- PATROL_SCRUB_VISIT (R395): one slice access, to the next sector; its code words are corrected, each counted; a word with an
uncorrectable error is left in place. -/
def execPatrolScrubVisit (u : Fin 256) (s : State) : Host.Outcome State Fault Refusal :=
  .next (if (sliceAt s u).spent0 < (s.budget[0]).toNat then
    let s := countSlice s u 0x0100 1
    let s := match patrolKey s u (sliceAt s u).patrol with
      | some a => correctWords s u a 256
      | none => s
    modSlice s u fun x => { x with patrol := (x.patrol + 1) % 65536, spent0 := x.spent0 + 1 }
  else s)

/-- SHADOW_SAVE (R42): the first dirty unit that the budget of the period allows is written to the save area, in 256-byte writes;
programs see nothing of it. -/
def execShadowSave (c : Fin 256) (s : State) : Host.Outcome State Fault Refusal :=
  .next (match (coreAt s c).job.bind (findJob s) with
    | none => s
    | some j =>
      let cost (u : SaveUnit) : Nat := (u.2.2.length + 255) / 256
      match (dirtyUnits s j c).find? fun u => decide (s.spent2[c] + cost u ≤ (s.budget[2]).toNat) with
      | none => s
      | some u => markClean (putUnit j c { s with spent2 := s.spent2.set c (s.spent2[c] + cost u) } u) c u)

/-- BUS_TEST (R406): a pattern on one of a core's two vertical buses; a failing lane is replaced by a spare, and with no spare
left the core is retired. -/
def execBusTest (c : Fin 256) (b f : Bool) (s : State) : Host.Outcome State Fault Refusal :=
  .next (
    if (coreAt s c).retired || decide ((s.budget[1]).toNat ≤ s.spent1[c]) then s
    else
      let s := { s with spent1 := s.spent1.set c (s.spent1[c] + 1) }
      if !f then s
      else
        let n := (if b then (coreAt s c).spares.2 else (coreAt s c).spares.1) - 1
        let s := modCore s c fun x => { x with spares := if b then (x.spares.1, n) else (n, x.spares.2) }
        if n = 0 then retireCore s c else s)

end Sys2Proof.Machine
end

