-- ==== Sys2Proof/Machine/HostEvents.lean ====
section
/-! DEFINITION. What the outside world does to the device: host messages and their answers (R356 to R360, R407), attestation (R364),
management space (R365, R366), Sveth flits (R361 to R363, R409), UCIe modules (R408), and power-on (R368, R410). -/

namespace Sys2Proof.Machine

/-! ### Host messages (R358, R407) -/

/-- Whether the device performs a message that arrives on a module: the module is in use, and the firmware has verified (R408,
R410). -/
def hears (s : State) (m : Fin 8) : Bool := s.modules.getLsbD m.val && s.fwOk

/-- Answers a read at `a` with `RDATA` messages of at most 192 bytes, in address order (R358). DEDUCED: each carries the address
of its first byte. -/
def sendData (s : State) (t : BitVec 16) (a : Nat) (bs : List Byte) : State :=
  sendHost s ((List.range ((bs.length + 191) / 192)).map fun i =>
    let d := (bs.drop (192 * i)).take 192
    ⟨2, t, BitVec.ofNat 64 (a + 192 * i), BitVec.ofNat 32 d.length, d⟩)

/-- Writes bytes of HBM at the home slices, sector by sector. -/
def hbmWrite (s : State) (pa : Nat) (bs : List Byte) : State :=
  ((pieces (BitVec.ofNat 64 pa) bs.length).foldl (fun (q : List Byte × State) p =>
    (q.1.drop p.2, homeWrite q.2 p.1.toNat (q.1.take p.2) none)) (bs, s)).2

/-- READ: the host reads HBM at the home slices; a word in error answers with status 0x13. -/
def execHostRead (m : Fin 8) (t : BitVec 16) (a : BitVec 64) (l : BitVec 32) (s : State) : Host.Outcome State Fault Refusal :=
  .next (
    if !hears s m then s
    else if l.toNat = 0 ∨ 4096 < l.toNat then sendAck s t 0x11
    else if 2 ^ 39 < a.toNat + l.toNat then sendAck s t 0x12
    else
      let s := touchRange s a.toNat l.toNat
      if badAt s a.toNat l.toNat then sendAck s t 0x13 else sendData s t a.toNat (memRead s.mem a.toNat l.toNat))

/-- WRITE: the host writes HBM at the home slices. -/
def execHostWrite (m : Fin 8) (t : BitVec 16) (a : BitVec 64) (l : BitVec 32) (x : List (BitVec 8)) (s : State) :
    Host.Outcome State Fault Refusal :=
  .next (
    if !hears s m then s
    else if l.toNat = 0 ∨ 192 < l.toNat then sendAck s t 0x11
    else if 2 ^ 39 < a.toNat + l.toNat then sendAck s t 0x12
    else
      sendAck (hbmWrite s a.toNat ((x ++ List.replicate l.toNat 0).take l.toNat)) t 0)

/-- A piece of work, of a core that runs or of one that is saved. -/
def workAny (s : State) (c : Fin 256) (q : Nat) : Option Work :=
  (findWork s c q).or (s.saved.findSome? fun x => if x.core = c then x.work.find? fun w => w.seq = q else none)

/-- Changes a piece of work where it stands. -/
def modWorkAny (s : State) (c : Fin 256) (q : Nat) (f : Work → Work) : State :=
  let s := modWork s c q f
  { s with saved := s.saved.map fun x => if x.core = c then { x with work := x.work.map fun w => if w.seq = q then f w else w } else x }

/-- The outstanding work that waits for the answer with a tag. -/
def workOfTag (s : State) (t : BitVec 16) : Option Work := (allWork s).find? fun w => !w.performed && w.tags.contains t

/-- The device's message that has a tag and is not answered. -/
def messageOfTag (s : State) (t : BitVec 16) : Option HostMsg :=
  s.outbox.find? fun m => m.tag = t ∧ (m.type = 0 ∨ m.type = 1)

/-- A message of the device has been answered. -/
def dropMessage (s : State) (t : BitVec 16) : State :=
  { s with outbox := s.outbox.filter fun m => !(m.tag = t && (m.type = 0 || m.type = 1)) }

/-- The host refuses an access (R401): none of its messages waits any more. -/
def refuseHost (s : State) (w : Work) (status : BitVec 16) : State :=
  modWorkAny (w.tags.foldl dropMessage s) (coreOf w.ctx) w.seq fun x => { x with hostStatus := some status, tags := [] }

/-- Bytes that the host has answered enter the device, where no slice holds their sector. -/
def takeHostBytes (s : State) (pa : Nat) (bs : List Byte) : State := if sliceHas s pa then s else putBytes s pa bs

/-- Acknowledges a remote write or flag: status in the payload (DESIGN CHOICE: the spec gives no payload). -/
def sendWriteAck (s : State) (dev : BitVec 13) (a : Word) (status : Nat) (j : BitVec 32) : State :=
  sendFlit s dev 1 a (leBytes 2 status) j

/-- A remote write that the host refuses: none of its messages waits any more, and it is acknowledged with 0x0105 (R362). -/
def refuseRemote (s : State) (o : Owner) (dev : BitVec 13) (a : Word) (j : BitVec 32) : State :=
  sendWriteAck { s with posts := s.posts.filter fun p => p.owner ≠ o, asks := s.asks.filter fun x => x.owner ≠ some o } dev a 0x0105 j

/-- A write that the device owes an owner's answer to has been answered: with the last one a remote write is acknowledged (R362). -/
def postAnswered (s : State) (p : Post) (status : BitVec 16) : State :=
  let s := { s with posts := s.posts.filter fun x => x.tag ≠ p.tag }
  match p.owner with
  | .remote _ _ dev a j =>
    if status ≠ 0 then refuseRemote s p.owner dev a j
    else if settledFor s p.owner then sendWriteAck s dev a 0 j
    else s
  | _ => s

/-! ### Actions that wait for host memory (R358) -/

/-- A flag write of another device performs at its flag file, and is acknowledged; the host's refusal of a read that it needs refuses
it. -/
def flagAct (j : BitVec 32) (c : Fin 256) (word : Nat) (x : BitVec 32) (add : Bool) (dev : BitVec 13) (a : Word) (st : Option (BitVec 16))
    (s : State) : State :=
  if st.isSome then sendWriteAck s dev a 0x0105 j else sendWriteAck (plainFlag j c word x add s) dev a 0 j

/-- A completed merge cell's flag add, or the failure of the deposit that completed it where the host refuses a read that it needs. -/
def cellNow (j : BitVec 32) (c : Fin 256) (word : Nat) (src : Fin 256) (q : Nat) (st : Option (BitVec 16)) (s : State) : State :=
  match st, findWork s src q with
  | some _, some w => endCommand s w (some ⟨0x0105, match w.kind with
      | .ladder l => l.x
      | _ => 0⟩)
  | some _, none => s
  | none, _ => cellAct j c word src q s

/-- Copies an image's data segments to their places, at the home slices (R359). -/
def placeData (s : State) (img root : Nat) (j : BitVec 32) : State :=
  (List.range (imgNdata s img)).foldl (fun s i =>
    let q := imgData s img i
    rootWrite (.job j) (touchRange s (img + q.2.1) q.2.2) root (BitVec.ofNat 64 q.1) (memRead s.mem (img + q.2.1) q.2.2)) s

/-- The job that a start vector describes, accepted and waiting (R35), its pools as its table configures them (R47). -/
def newJob (s : State) (j : BitVec 32) (vec img root notify : Nat) (m : Fin 8) (t : BitVec 16) : Job :=
  { id := j, phase := .waiting, jpri := BitVec.ofNat 3 (vecBits s vec 32 3), slice := BitVec.ofNat 32 (vecBits s vec 64 32),
    sppages := BitVec.ofNat 8 (vecBits s vec 40 8), pooltab := BitVec.ofNat 64 (vecBits s vec 192 64),
    snapbase := BitVec.ofNat 64 (vecBits s vec 128 64), root := BitVec.ofNat 64 root, image := BitVec.ofNat 64 img,
    notify := BitVec.ofNat 64 notify, answer := some (m, t), recs := recsOf s vec,
    pools := Vector.ofFn fun i : Fin 64 => poolEntry s root (vecBits s vec 192 64) (i.val % 16), domains := [], parArrived := 0,
    parReleased := 0 }

/-- A firmware image: installed when its signature verifies (R364). -/
def installFirmware (s : State) (t : BitVec 16) (img : Nat) : State :=
  if imgFlags s img % 2 = 1 ∧ hokudalVerifies (imgDigest s img) (memRead s.mem (img + imgDigoff s img + 64) 132) = true then
    sendAck { s with fwDigest := imgDigest s img } t 0
  else sendAck s t 0x14

/-- A `START` that passes its checks: the data segments are placed, and the job waits for its cores (R359). -/
def acceptStart (s : State) (j : BitVec 32) (vec img root notify : Nat) (m : Fin 8) (t : BitVec 16) : State :=
  let job := newJob s j vec img root notify m t
  let s := { placeData s img root j with lastDigest := imgDigest s img, lastJob := j }
  { s with jobs := s.jobs ++ [job], ended := s.ended.filter fun y => y.1 ≠ j }

/-- The addresses that the data of a `START` give (R359), and the job that its start vector names (R35). -/
def startWord (x : List Byte) (i : Nat) : Nat := leVal ((x.drop (8 * i)).take 8)
def startJob (s : State) (x : List Byte) : BitVec 32 := BitVec.ofNat 32 (vecBits s (startWord x 0) 0 32)

/-- Whether a `START` brings firmware (R364). -/
def startFirmware (s : State) (x : List Byte) : Bool :=
  let img := startWord x 1
  inHbm img && img % 256 == 0 && !imageBad s img && imgFlags s img / 2 % 2 == 1

/-- A `START` is performed, its reads having been answered: the whole is checked first; then the data segments are placed and the job waits
for its cores. The job's id is that of its start vector (R35); the message's own `JOBID` names the same job. With bring-up not complete, or
an HBM stack failed, no image is taken, a firmware image neither (R368, R410). DESIGN CHOICE (see the log): a pool table that the host
refuses to read answers with status 4. -/
def startNow (m : Fin 8) (t : BitVec 16) (x : List Byte) (e : Option (BitVec 16)) (s : State) : State :=
  let v := startWord x
  let j := startJob s x
  let st := startStatus s j (v 0) (v 1) (v 2) (v 3)
  let firmware := startFirmware s x
  let s := touchStart s (v 0) (v 1) (v 2)
  if s.hbmFail then sendAck s t 6
  else if firmware then (if s.ready then installFirmware s t (v 1) else sendAck s t 6)
  else if e.isSome then sendAck s t 4
  else if st ≠ 0 then sendAck s t st
  else acceptStart s j (v 0) (v 1) (v 2) (v 3) m t

/-- START (R359): a pool table in host memory is read first. -/
def execStart (m : Fin 8) (t : BitVec 16) (_j : BitVec 32) (x : List (BitVec 8)) (s : State) :
    Host.Outcome State Fault Refusal :=
  .next (if !hears s m then s else runAsk s (newAsk (.start m t x)) (.job (startJob s x)) (startNow m t x))

/-- What an action does once its reads have been answered, or one of them refused. DESIGN CHOICE (see the log): a write of part of a sector
whose fill the host refuses is lost, and a remote one is acknowledged with 0x0105. -/
def askAct (what : AskKind) (st : Option (BitVec 16)) (s : State) : State :=
  match what with
  | .put o pa bs =>
    if st.isNone then homeWrite s pa bs none
    else match o with
      | .remote _ _ dev a j => refuseRemote s o dev a j
      | _ => s
  | .start m t x => startNow m t x st s
  | .restore j c => restoreNow j c st s
  | .flag j c word x add dev a => flagAct j c word x add dev a st s
  | .cell j c word src q => cellNow j c word src q st s
  | .abort k desc why trsn => abortWord k desc why trsn st s
  | .retract k => retractStep k st s
  | .commit k opc => commitNow k opc st s

/-- In whose name an action writes to host memory. -/
def askOwner (s : State) (what : AskKind) : Owner :=
  match what with
  | .put o _ _ => o
  | .start _ _ x => .job (startJob s x)
  | .restore _ c => .core c
  | .flag j _ _ _ _ _ _ => .job j
  | .cell _ _ _ src _ => .core src
  | .abort k _ _ _ => .job (jobOf s k)
  | .retract k => .job (jobOf s k)
  | .commit k _ => .job (jobOf s k)

/-- An owner's last answer has come: a remote write is acknowledged (R362). -/
def ownerSettled (s : State) : Owner → State
  | .remote p n dev a j => if settledFor s (.remote p n dev a j) then sendWriteAck s dev a 0 j else s
  | _ => s

/-- An action goes on, with nothing of it left to be answered. -/
def resumeAsk (s : State) (a : Ask) : State :=
  let s := runAsk { s with asks := s.asks.erase a } { a with tags := [] } (askOwner s a.what) (askAct a.what)
  match a.what with
  | .put o _ _ => if a.status = 0 then ownerSettled s o else s
  | _ => s

/-- The action that waits for the answer with a tag. -/
def askOfTag (s : State) (t : BitVec 16) : Option Ask := s.asks.find? fun a => a.tags.contains t

/-- A read of an action has been answered: with the last it goes on. -/
def askAnswered (s : State) (a : Ask) (m : HostMsg) : State :=
  let b : Ask := { a with tags := a.tags.erase m.tag, seen := a.seen ++ [(m.addr.toNat, m.len.toNat)] }
  let s := { s with asks := s.asks.map fun x => if x = a then b else x }
  if b.tags.isEmpty then resumeAsk s b else s

/-- The host refuses a read of an action, or does not answer within 2^24 cycles: none of its messages waits any more. -/
def askRefused (s : State) (a : Ask) (status : BitVec 16) : State :=
  let b : Ask := { a with tags := [], status := status }
  resumeAsk (a.tags.foldl dropMessage { s with asks := s.asks.map fun x => if x = a then b else x }) b

/-- A read of the device is complete: `m`, its message with all its data. A piece of work goes on with the bytes, an action outside any work
too, a job that ends with its notify word. -/
def readAnswered (s : State) (m : HostMsg) : State :=
  let s := dropMessage s m.tag
  match workOfTag s m.tag with
  | some w =>
    modWorkAny (takeHostBytes s m.addr.toNat m.data) (coreOf w.ctx) w.seq fun x =>
      { x with tags := x.tags.erase m.tag, seen := x.seen ++ [(m.addr.toNat, m.len.toNat)] }
  | none =>
    match askOfTag s m.tag with
    | some a => askAnswered (takeHostBytes s m.addr.toNat m.data) a m
    | none =>
      match s.jobs.find? fun j => match j.phase with
        | .telling stage t _ => stage = 1 && t == m.tag
        | _ => false with
      | some j => raiseNotify s j m.data
      | none => s

/-- RDATA: bytes of a device read; one that answers none is discarded. With the last byte the read is answered. -/
def execRdata (m : Fin 8) (t : BitVec 16) (x : List (BitVec 8)) (s : State) : Host.Outcome State Fault Refusal :=
  .next (
    if !s.modules.getLsbD m.val then s
    else
      match messageOfTag s t with
      | none => s
      | some q =>
        if q.type ≠ 0 then s
        else
          let d := (q.data ++ x).take q.len.toNat
          if d.length = q.len.toNat then readAnswered s { q with data := d }
          else { s with outbox := s.outbox.map fun y => if y = q then { q with data := d } else y })

/-- The 340-byte attestation report (R364). -/
def attestation (s : State) (nonce : List Byte) : List Byte :=
  let body := leBytes 64 (if s.fwOk then s.fwDigest.toNat else 0) ++ leBytes 64 s.lastDigest.toNat ++
    (nonce ++ List.replicate 64 0).take 64 ++ leBytes 8 s.devid.toNat ++ leBytes 8 s.lastJob.toNat
  body ++ identitySignature (sha512 body)

/-- The second part of the report of bring-up is sent after the first has been answered; then the device accepts `START` and writes
its health record (R368, R410). -/
def finishBringUp (s : State) : State :=
  let rest := (attestation s []).drop 192
  writeHealth { toHost s 192 rest with ready := true }

/-- ACK: answers a device message; one that answers none is discarded. A status other than 0 refuses the access (R401). -/
def execAck (m : Fin 8) (t : BitVec 16) (l : BitVec 32) (s : State) : Host.Outcome State Fault Refusal :=
  .next (
    if !s.modules.getLsbD m.val then s
    else if t = reportTag ∧ s.fwOk = true ∧ s.ready = false then finishBringUp s
    else
      match messageOfTag s t with
      | none => s
      | some q =>
        if q.type = 0 ∧ l = 0 then s
        else
          match workOfTag s t, s.posts.find? fun p => p.tag = t with
          | some w, _ =>
            if l ≠ 0 then refuseHost s w (l.setWidth 16)
            else modWorkAny (dropMessage s t) (coreOf w.ctx) w.seq fun x => { x with tags := x.tags.erase t }
          | none, some p => postAnswered (dropMessage s t) p (l.setWidth 16)
          | none, none =>
            match askOfTag s t with
            | some a => askRefused s a (l.setWidth 16)
            | none =>
              match s.jobs.find? fun j => match j.phase with
                | .telling stage u _ => stage ≠ 0 && u == t
                | _ => false with
              | some j => removeJob (dropMessage s t) j
              | none => dropMessage s t)

/-- Whether a piece of work has waited for the host for 2^24 cycles (R401). -/
def hostOverdue (s : State) (w : Work) : Bool :=
  !w.performed && !w.tags.isEmpty && w.heldSince.any fun h => decide (h + 2 ^ 24 ≤ s.cycle)

/-- HOST_ANSWER_TIMEOUT: no answer within 2^24 cycles: the access is refused with status 0xFFFF. -/
def execHostAnswerTimeout (c : Fin 256) (q : Nat) (s : State) : Host.Outcome State Fault Refusal :=
  .next (match workAny s c q with
    | some w => if hostOverdue s w then refuseHost s w 0xFFFF else s
    | none => s)

/-- Writes and reads outside any work that the host has not answered within 2^24 cycles are answered with status 0xFFFF. -/
def expirePosts (s : State) : State :=
  let s := (s.posts.filter fun p => decide (p.since + 2 ^ 24 ≤ s.cycle)).foldl (fun s p => postAnswered (dropMessage s p.tag) p 0xFFFF) s
  (s.asks.filter fun a => decide (a.since + 2 ^ 24 ≤ s.cycle)).foldl (fun s a => if s.asks.contains a then askRefused s a 0xFFFF else s) s

/-! ### TLBINV (R360) -/

/-- The entries that a `TLBINV` leaves. -/
def tlbKeep (j : BitVec 32) (a : BitVec 64) (l : Nat) (t : List TlbEntry) : List TlbEntry :=
  t.filter fun e => !(e.job = j && (l = 3 || (e.level.val = l && e.page = a.toNat / 2 ^ pageBits l)))

/-- The accesses of a job in flight that have used a translation: those that wait for the host. -/
def inFlightOf (s : State) (j : BitVec 32) : List (Fin 256 × Nat) :=
  ((allWork s).filter fun w => w.job = j && !w.performed && !w.tags.isEmpty).map fun w => (coreOf w.ctx, w.seq)

/-- TLBINV: translations of a job are removed from every TLB; the `ACK` waits for the accesses in flight (R360). -/
def execTlbinv (m : Fin 8) (t : BitVec 16) (j : BitVec 32) (a : BitVec 64) (l : BitVec 32) (s : State) :
    Host.Outcome State Fault Refusal :=
  .next (
    if !hears s m then s
    else if 3 < l.toNat then sendAck s t 0x11
    else
      let r := { s with
        cores := s.cores.map fun c => { c with tlb := tlbKeep j a l.toNat c.tlb }
        tlb2 := s.tlb2.map (tlbKeep j a l.toNat) }
      match inFlightOf s j with
      | [] => sendAck r t 0
      | ws => { r with invals := r.invals ++ [⟨t, ws⟩] })

/-- Answers the `TLBINV`s whose accesses have performed. -/
def checkInvals (s : State) : State :=
  let busy (q : Fin 256 × Nat) : Bool := (workAny s q.1 q.2).any fun w => !w.performed
  let left := s.invals.map fun i => { i with works := i.works.filter busy }
  (left.filter fun i => i.works = []).foldl (fun s i => sendAck s i.tag 0) { s with invals := left.filter fun i => i.works ≠ [] }

/-! ### Management space (R365, R366) -/

/-- A management register; a `SENSOR` reads 0 until the first sample after reset (R365). -/
def mgmtRead (s : State) (a : Nat) : Word :=
  if a = 0 then s.devid.setWidth 64
  else if a = 8 then s.psize.setWidth 64
  else if 0x100 ≤ a ∧ a < 0x120 then (s.thresh[Fin.ofNat 4 ((a - 0x100) / 8)]).setWidth 64
  else if 0x200 ≤ a ∧ a < 0xA00 then if s.sampled then sampleWord s (Fin.ofNat 256 ((a - 0x200) / 8)) else 0
  else if 0x1000 ≤ a ∧ a < 0x1028 then (s.budget[Fin.ofNat 5 ((a - 0x1000) / 8)]).setWidth 64
  else if 0x2000 ≤ a ∧ a < 0x6000 then (sliceAt s (Fin.ofNat 256 ((a - 0x2000) / 64))).sevsel[Fin.ofNat 8 (a / 8)]
  else if 0x6000 ≤ a ∧ a < 0xA000 then (sliceAt s (Fin.ofNat 256 ((a - 0x6000) / 64))).sevcnt[Fin.ofNat 8 (a / 8)]
  else if 0x10000 ≤ a ∧ a < 0x20000 then
    match s.route.find? fun q => q.1 = (a - 0x10000) / 8 with
    | some q => q.2.setWidth 64
    | none => 0
  else 0

/-- Writes a management register; read-only and unlisted offsets ignore it. -/
def mgmtWrite (s : State) (a : Nat) (x : Word) : State :=
  if a = 0 then { s with devid := x.setWidth 13 }
  else if a = 8 then { s with psize := x.setWidth 14 }
  else if 0x100 ≤ a ∧ a < 0x120 then { s with thresh := s.thresh.set (Fin.ofNat 4 ((a - 0x100) / 8)) (x.setWidth 16) }
  else if 0x1000 ≤ a ∧ a < 0x1028 then { s with budget := s.budget.set (Fin.ofNat 5 ((a - 0x1000) / 8)) (x.setWidth 16) }
  else if 0x2000 ≤ a ∧ a < 0x6000 then
    modSlice s (Fin.ofNat 256 ((a - 0x2000) / 64)) fun u => { u with sevsel := u.sevsel.set (Fin.ofNat 8 (a / 8)) (x &&& 0x1FFFF) }
  else if 0x6000 ≤ a ∧ a < 0xA000 then
    modSlice s (Fin.ofNat 256 ((a - 0x6000) / 64)) fun u =>
      { u with sevcnt := u.sevcnt.set (Fin.ofNat 8 (a / 8)) x, sevHold := u.sevHold ||| (1#8 <<< (a / 8 % 8)) }
  else if 0x10000 ≤ a ∧ a < 0x20000 then
    let d := (a - 0x10000) / 8
    { s with route := (d, x.setWidth 4) :: s.route.filter fun q => q.1 ≠ d }
  else s

/-- MREAD: one of the two messages that a device answers whose firmware has not verified (R410). -/
def execMread (m : Fin 8) (t : BitVec 16) (a : MgmtSpan) (s : State) : Host.Outcome State Fault Refusal :=
  .next (
    if !s.modules.getLsbD m.val then s
    else if a.len ≠ 8 then sendAck s t 0x11
    else if a.addr.toNat % 8 ≠ 0 then sendAck s t 0x12
    else sendData s t a.addr.toNat (leBytes 8 (mgmtRead s a.addr.toNat).toNat))

def execMwrite (m : Fin 8) (t : BitVec 16) (a : MgmtSpan) (x : BitVec 64) (s : State) :
    Host.Outcome State Fault Refusal :=
  .next (
    if !hears s m then s
    else if a.len ≠ 8 then sendAck s t 0x11
    else if a.addr.toNat % 8 ≠ 0 then sendAck s t 0x12
    else sendAck (mgmtWrite s a.addr.toNat x) t 0)

/-- ATTEST (R364): the report over a nonce, in two `RDATA` messages. -/
def execAttest (m : Fin 8) (t : BitVec 16) (x : List (BitVec 8)) (s : State) : Host.Outcome State Fault Refusal :=
  .next (if !s.modules.getLsbD m.val then s else sendData s t 0 (attestation s x))

/-- RESERVED_HOST_TYPE (R407): discarded, and answered with status 0x10. -/
def execReservedHostType (m : Fin 8) (t : BitVec 16) (_y : Fin 7) (s : State) : Host.Outcome State Fault Refusal :=
  .next (if !hears s m then s else sendAck s t 0x10)

/-! ### Sveth (R361 to R363, R409) -/

/-- The flits that a port keeps are acknowledged up to `SEQ` `k`, which one of them has (R409). DESIGN CHOICE (see the log): each flit of
the other direction names the last `SEQ` that its sender has received. -/
def ackFlits (s : State) (p : Fin 16) (k : BitVec 24) : State :=
  let x := s.ports[p]
  match x.unacked.findIdx? fun f => f.seq = k with
  | some i => { s with ports := s.ports.set p { x with unacked := x.unacked.drop (i + 1) } }
  | none => s

/-- A flit for another device goes on by the port table (R361); an arrival at a barrier is heard in passing. -/
def passOn (s : State) (f : Flit) : State :=
  let s := sendOn s f
  if f.kind = 3 ∧ s.devid ≠ 0 then hearArrival s f.job (BitVec.ofNat 32 (f.addr.toNat / 2 ^ 32)) f.sdev else s

/-- A flit arrives on a port (R409): it acknowledges; in order by its `SEQ` it is taken, a duplicate or a later one is not; one for another
device goes on by the port table (R361). -/
def acceptFlit (p : Fin 16) (k : BitVec 24) (f : Flit) (s : State) (take : State → State) : State :=
  if !(s.ports[p]).up then s
  else
    let s := ackFlits s p k
    let x := s.ports[p]
    if x.rx ≠ f.seq then s
    else
      let s := { s with ports := s.ports.set p { x with rx := x.rx + 1 } }
      if f.ddev = s.devid then take s else passOn s f

/-- A flit as it arrives. -/
def arriving (d dev : BitVec 13) (kind : BitVec 4) (n : BitVec 24) (a : Word) (payload : List Byte) (j : BitVec 32) : Flit :=
  ⟨d, dev, kind, BitVec.ofNat 10 payload.length, n, a, payload, j, 0, 0⟩

/-- What refuses a write of another device to [a, a + n): a page that does not translate, or part of a code word with an uncorrectable
error (R393, R401, R403). -/
def remoteRefusal (s : State) (root a n : Nat) : Option Refused :=
  match (rootRefusal root true (pagesOf a n) s).1 with
  | some r => some r
  | none =>
    (pieces (BitVec.ofNat 64 a) n).findSome? fun q =>
      match (rootXlate s root q.1.toNat true).1 with
      | .ok pa => if badPart s pa q.2 then some ⟨0x19, 0⟩ else none
      | .error r => some r

/-- REMOTE_WRITE: data of another device is written at a virtual address of the same job here, or refused, and acknowledged. -/
def execRemoteWrite (p : Fin 16) (z : FlitEnds) (n : FlitSeqs) (j : BitVec 32) (a : BitVec 64) (x : List (BitVec 8))
    (s : State) : Host.Outcome State Fault Refusal :=
  .next (acceptFlit p n.acked (arriving z.dst z.src 0 n.seq a x j) s fun s =>
    match findJob s j with
    | none => sendWriteAck s z.src a 0x0103 j
    | some jb =>
      match remoteRefusal s jb.root.toNat a.toNat x.length with
      | some r => sendWriteAck s z.src a (engineCode r).toNat j
      | none =>
        let o : Owner := .remote p n.seq z.src a j
        let s := rootWrite o (touchPages s jb.root.toNat a.toNat x.length true) jb.root.toNat a x
        if settledFor s o then sendWriteAck s z.src a 0 j else s)

/-- A remote access of a piece of work has been acknowledged, or was refused with a failure code. -/
def remoteAnswered (s : State) (w : Work) (r : BitVec 16) : State :=
  let c := coreOf w.ctx
  match findWork s c w.seq, w.kind with
  | some _, .copy x =>
    if r ≠ 0 then endCommand s w (some ⟨r, patWord x.pat 1⟩)
    else if w.acks = 1 then endCommand (modWork s c w.seq fun y => { y with acks := 0 }) { w with acks := 0 } none
    else modWork s c w.seq fun y => { y with acks := y.acks - 1 }
  | some _, _ =>
    if w.acks = 1 then endCommand (modWork s c w.seq fun y => { y with acks := 0 }) { w with acks := 0 } none
    else modWork s c w.seq fun y => { y with acks := y.acks - 1 }
  | none, _ =>
    modWorkAny s c w.seq fun y => { y with acks := y.acks - 1, performed := y.acks == 1, done := y.acks == 1 }

/-- WRITE_ACKNOWLEDGEMENT: a remote write or flag of work `q` of core `c` has performed, or was refused with a failure code. -/
def execWriteAcknowledgement (p : Fin 16) (z : FlitEnds) (n : FlitSeqs) (c : Fin 256) (q : Nat) (r : BitVec 16) (s : State) :
    Host.Outcome State Fault Refusal :=
  .next (acceptFlit p n.acked (arriving z.dst z.src 1 n.seq 0 (leBytes 2 r.toNat) 0) s fun s =>
    match workAny s c q with
    | none => s
    | some w => if w.performed || w.acks == 0 || (workDevice w).isNone then s else remoteAnswered s w r)

/-- FLAG: a flag write of another device performs at its flag file here (R362), and is acknowledged. -/
def execFlag (p : Fin 16) (z : FlitEnds) (n : FlitSeqs) (j : BitVec 32) (a : BitVec 64) (v : BitVec 32) (o : Bool) (s : State) :
    Host.Outcome State Fault Refusal :=
  .next (acceptFlit p n.acked (arriving z.dst z.src 2 n.seq a (leBytes 4 v.toNat ++ [BitVec.ofNat 8 (bit o)]) j) s fun s =>
    let c : Fin 256 := Fin.ofNat 256 (a.toNat / 64)
    runAsk s (newAsk (.flag j c (a.toNat % 64) v o z.src a)) (.job j) (flagAct j c (a.toNat % 64) v o z.src a))

/-- BARRIER_ARRIVAL: device 0 counts it (R363); another hears of it. -/
def execBarrierArrival (p : Fin 16) (z : FlitEnds) (n : FlitSeqs) (j b : BitVec 32) (s : State) :
    Host.Outcome State Fault Refusal :=
  .next (acceptFlit p n.acked (arriving z.dst z.src 3 n.seq (barrierWord j b.toNat) [] j) s fun s => if s.devid = 0 then countArrival s j b z.src else hearArrival s j b z.src)

/-- BARRIER_RELEASE: this device's members are released (R363, R291). -/
def execBarrierRelease (p : Fin 16) (z : FlitEnds) (n : FlitSeqs) (j b : BitVec 32) (s : State) :
    Host.Outcome State Fault Refusal :=
  .next (acceptFlit p n.acked (arriving z.dst z.src 4 n.seq (barrierWord j b.toNat) [] j) s fun s => releaseDevice s j b)

/-- A port is down: jobs with flits kept on it end with `LINKDOWN`, and the health record is written (R409, R410). -/
def portDown (s : State) (p : Fin 16) : State :=
  let x := s.ports[p]
  let js := x.unacked.map (·.job)
  let s := { s with ports := s.ports.set p { x with up := false, unacked := [] } }
  (s.jobs.filter fun j => js.contains j.id && j.phase != .waiting).foldl (fun s j => machineEnd s j.id 4 0x93 p.val none) (writeHealth s)

/-- The sender resends the flits that it keeps, from the one with `SEQ` `n` on; with one that has been sent again 16 times the port is
down (R409). -/
def resend (s : State) (p : Fin 16) (n : BitVec 24) : State :=
  let x := s.ports[p]
  match x.unacked.findIdx? fun f => f.seq = n with
  | none => s
  | some i =>
    if !x.up then s
    else if (x.unacked.drop i).any fun f => decide (16 ≤ f.resent) then portDown s p
    else
      let again (f : Flit) : Flit := { f with resent := f.resent + 1, sent := s.cycle }
      { s with ports := s.ports.set p { x with unacked := x.unacked.take i ++ (x.unacked.drop i).map again } }

/-- The flit of a port that has waited for its acknowledgement for 4096 cycles. -/
def overdueFlit (s : State) (p : Fin 16) : Option Flit :=
  ((s.ports[p]).unacked.head?).filter fun f => (s.ports[p]).up && decide (f.sent + 4096 ≤ s.cycle)

/-- SVETH_ACK_TIMEOUT: no acknowledgement within 4096 cycles. -/
def execSvethAckTimeout (p : Fin 16) (s : State) : Host.Outcome State Fault Refusal :=
  .next (match overdueFlit s p with
    | some f => resend s p f.seq
    | none => s)

/-- SVETH_CRC_MISMATCH: the receiver reports a mismatch of the flit with `SEQ` `n`. -/
def execSvethCrcMismatch (p : FlitName) (s : State) : Host.Outcome State Fault Refusal := .next (resend s p.port p.seq)

/-! ### UCIe modules (R408) -/

/-- UCIE_MODULE_RETRAIN_FAIL: the module is taken out of use; with none left every running job ends with `HOSTLOST`. -/
def execUcieModuleRetrainFail (m : Fin 8) (s : State) : Host.Outcome State Fault Refusal :=
  let s := { s with modules := s.modules &&& ~~~(1#8 <<< m.val) }
  let s := if s.modules = 0 then
      (s.jobs.filter fun j => j.phase = .running).foldl (fun s j => machineEnd s j.id 4 0x94 0 none) s
    else s
  .next (writeHealth s)

/-- UCIE_RETRAINING_SUCCEEDS: the module is in use again. -/
def execUcieRetrainingSucceeds (m : Fin 8) (s : State) : Host.Outcome State Fault Refusal :=
  .next { s with modules := s.modules ||| (1#8 <<< m.val) }

/-! ### Power-on (R368, R410) -/

/-- POWER_ON: the device is reset; `f`: its firmware verifies; `m`: the UCIe modules that do not train; `b`: some HBM stack fails;
`c`: the cores whose memories fail; `p`: the ports that do not train. The first part of the attestation report leaves. -/
def execPowerOn (f : Bool) (m : BitVec 8) (b : Bool) (c : BitVec 256) (p : BitVec 16) (s : State) :
    Host.Outcome State Fault Refusal :=
  let r : State := { State.reset with auto := s.auto, agenda := s.agenda, seq := s.seq, free := s.free }
  if !f then .next r
  else
    let r : State := { r with
      fwOk := true, fwDigest := Config.firmwareDigest, modules := ~~~m, hbmFail := b
      cores := Vector.ofFn fun i : Fin 256 => { Core.reset with retired := c.getLsbD i.val }
      ports := Vector.ofFn fun i : Fin 16 => { Port.reset with up := !p.getLsbD i.val } }
    let bs := (attestation r []).take 192
    .next (sendHost (putBytes r (hostAddr 0) bs) ((writeMsgs (hostAddr 0) bs).map fun x => { x with tag := reportTag }))

end Sys2Proof.Machine
end

