-- ==== Sys2Proof/Machine/ScalarFloat.lean ====
section
/-! DEFINITION. Scalar floating point (R115, R120 to R122). -/

namespace Sys2Proof.Machine

/-- The FP32 value in bits [31:0] of an `s` register (R115). -/
def sNum (a : Arch) (i : Fin 64) : Num := num32 ((rS a i).setWidth 32)

/-- An FP32 result in an `s` register: bits [63:32] zero (R115). -/
def sFloat (r : Res) : Word × BitVec 6 := (BitVec.ofNat 64 r.bits, r.flags)

def execFadd (d a b : Fin 64) (p : Fin 16) (n : Bool) (s : State) : Host.Outcome State Fault Refusal :=
  fFormP d p n 4 (fun r => sFloat (fpAdd (rmodeOf r.fmt) (sNum r a) (sNum r b))) s

def execFmul (d a b : Fin 64) (p : Fin 16) (n : Bool) (s : State) : Host.Outcome State Fault Refusal :=
  fFormP d p n 4 (fun r => sFloat (fpMul (rmodeOf r.fmt) (sNum r a) (sNum r b))) s

def execFfma (d a b c : Fin 64) (s : State) : Host.Outcome State Fault Refusal :=
  fForm d 4 (fun r => sFloat (fpFma (rmodeOf r.fmt) (sNum r a) (sNum r b) (sNum r c))) s

/-- `FCVT` (R121): the source from its low bits; an INT32 result sign-extended, a float result zero-extended. -/
def execFcvt (d a : Fin 64) (l : Bool) (t f : Fin 16) (s : State) : Host.Outcome State Fault Refusal :=
  fForm d 2 (fun r =>
    let y := convert f.val t.val l (rmodeOf r.fmt) (fmtSat r.fmt)
      ((rS r a).toNat % 2 ^ (if f.val = 8 ∧ l then 64 else codeWidth f.val))
    (if t.val = 8 ∧ !l then (BitVec.ofNat 32 y.bits).signExtend 64 else BitVec.ofNat 64 y.bits, y.flags)) s

/-- `FCMP.cc` (R122): a condition on two FP32 values; `nv`: a NaN operand sets `NV`. -/
def fcmpOp (f : Num → Num → Bool) (nv : Bool) (d : Fin 16) (a b : Fin 64) (p : Fin 16) (n : Bool) (s : State) :
    Host.Outcome State Fault Refusal :=
  fpFormP d p n 1 (fun r =>
    (f (sNum r a) (sNum r b), flagIf (nv && ((sNum r a).isNan || (sNum r b).isNan)) fNV)) s

def execFcmpEq (d : Fin 16) (a b : Fin 64) (p : Fin 16) (n : Bool) (s : State) : Host.Outcome State Fault Refusal :=
  fcmpOp numEq false d a b p n s

def execFcmpLt (d : Fin 16) (a b : Fin 64) (p : Fin 16) (n : Bool) (s : State) : Host.Outcome State Fault Refusal :=
  fcmpOp numLt true d a b p n s

def execFcmpLe (d : Fin 16) (a b : Fin 64) (p : Fin 16) (n : Bool) (s : State) : Host.Outcome State Fault Refusal :=
  fcmpOp (fun x y => numLt x y || numEq x y) true d a b p n s

def execFcmpUn (d : Fin 16) (a b : Fin 64) (p : Fin 16) (n : Bool) (s : State) : Host.Outcome State Fault Refusal :=
  fcmpOp (fun x y => x.isNan || y.isNan) false d a b p n s

def execFminmaxMin (d a b : Fin 64) (p : Fin 16) (n : Bool) (s : State) : Host.Outcome State Fault Refusal :=
  sFormP d p n 1 (fun r => (fpMinMax false ((rS r a).setWidth 32) ((rS r b).setWidth 32)).setWidth 64) s

def execFminmaxMax (d a b : Fin 64) (p : Fin 16) (n : Bool) (s : State) : Host.Outcome State Fault Refusal :=
  sFormP d p n 1 (fun r => (fpMinMax true ((rS r a).setWidth 32) ((rS r b).setWidth 32)).setWidth 64) s

end Sys2Proof.Machine
end

