-- ==== Sys2Proof/Machine/Sched.lean ====
section
/-! DEFINITION. The selector of a core (R31 to R34, R136): which contexts are ready, which one has the issue width, what a cycle
counts, and the events that become due by themselves as cycles pass. -/

namespace Sys2Proof.Machine

/-! ### Readiness (R31) -/

/-- Whether a command of a core waits for bank writes or beats that land by the schedule clock: the core goes on until it may perform,
and a save waits for it (R40, R281). -/
def landingsFirst (s : State) (c : Fin 256) : Bool :=
  ((coreAt s c).work.any fun w => isCommand w && !w.performed && blockedByLanding s w) ||
    s.cellAdds.any fun a => decide (a.src = c) && !cellReleased s a

/-- Whether a core may issue at all: it runs a job that has not begun to end, it is not retired, saved or being moved, and it is not
to be saved first. -/
def coreRuns (s : State) (c : Fin 256) : Bool :=
  let x := coreAt s c
  !x.retired && decide (x.busyUntil ≤ s.cycle) && (match x.job.bind (findJob s) with
    | some j => decide (j.phase = .running)
    | none => false) && !(s.auto && saveDue s c && !landingsFirst s c)

/-- The fault that the bundle next to issue has been found to have (R375). -/
def standingFault (c : Ctx) : Option FaultRec :=
  match c.standing with
  | some (b, f) => if b = c.arch.pc then some f else none
  | none => none

/-- Whether a context enters its handler when it is selected: for a fault of its boundary (R377, R379), or of its bundle (R375). -/
def mustEnter (c : Ctx) : Bool := faultStands c || (standingFault c).isSome

/-- Boundary work that needs no issue width: results and beats that are due land, and a pending abort is delivered when no fault
stands (R319, R379). -/
def settleCtx (s : State) (k : Fin 1024) : State :=
  if (ctxAt s k).run ≠ .started ∨ frozen s k = true ∨ rollReady s k = false then s
  else
    let s := landUpTo k (ctxAt s k).arch.sched.toNat s
    let c := ctxAt s k
    if !faultStands c && abortDue c then beginRetract k c.arch.tsk.why.toNat 0 (setCtx s k { c with standing := none }) else s

/-- A retraction goes on at the end of a cycle, once every access of its context has performed (R320); a failure is taken in the cycle
after (R370). -/
def carryRetract (s : State) (k : Fin 1024) : State :=
  let c := ctxAt s k
  if c.run = .started ∧ retracting s k = true ∧ frozen s k = false ∧ rollReady s k = true ∧ coreRuns s (coreOf k) = true ∧
      faultStands c = false ∧ accessesDone s k = true ∧ asking s k = false then
    runAsk s (newAsk (.retract k)) (.job (jobOf s k)) (retractStep k)
  else s

/-- Whether a context is ready: started, not frozen (R30), with a fault to take (R379) or no wait left; a failed ring has its bundle
checked again (R432). A handler runs while its context's barrier is under way. -/
def ctxReady (s : State) (k : Fin 1024) : Bool :=
  let c := ctxAt s k
  decide (c.run = .started) && !frozen s k && rollReady s k && !asking s k &&
    (mustEnter c || (!retracting s k && (c.sync.isNone || c.arch.hm) && (waitsMet s k [] [] c.waits || c.waits.any (ringFailed s k))))

/-- The ready contexts of a core. -/
def readyOf (s : State) (c : Fin 256) : List (Fin 4) := (List.finRange 4).filter fun i => ctxReady s (ctxId c i)

/-! ### Selection (R32) -/

/-- The wait count of promotion. -/
def promoteAt : Nat := 1024

/-- The promoted context that goes first: the higher wait count, then the lower id. -/
def bestPromoted (s : State) (c : Fin 256) : Option (Fin 4) :=
  (readyOf s c).foldl (fun b i =>
    let n := (ctxAt s (ctxId c i)).waitCount
    if n < promoteAt then b
    else match b with
      | none => some i
      | some j => if (ctxAt s (ctxId c j)).waitCount < n then some i else some j) none

/-- Whether another context of a holder's priority or higher is ready. -/
def rivalReady (s : State) (c : Fin 256) (h : Fin 4) : Bool :=
  (readyOf s c).any fun i => decide (i ≠ h) && decide ((ctxAt s (ctxId c h)).arch.prio.toNat ≤ (ctxAt s (ctxId c i)).arch.prio.toNat)

/-- No context holds the issue width. -/
def dropHolder (s : State) (c : Fin 256) : State := modCore s c fun x => { x with holder := none, streak := 0, yielded := [] }

/-- The holder gives up the issue width after `QUANT` bundles, or after `YIELD`, when a rival is ready. -/
def expire (yields : Bool) (s : State) (c : Fin 256) : State :=
  let x := coreAt s c
  match x.holder with
  | none => s
  | some h =>
    let over_ := if yields then x.yielded.contains h else decide (x.quant ≠ 0) && decide (x.quant.toNat ≤ x.streak)
    if over_ && rivalReady s c h then dropHolder s c else s

/-- The promoted context that has been given the issue width and has not used it yet, the switch cycle lying between: its promotion
ends with the bundle that it issues. -/
def handedOver (s : State) (c : Fin 256) : Option (Fin 4) :=
  let x := coreAt s c
  x.holder.filter fun h => x.streak == 0 && ctxReady s (ctxId c h) && decide (promoteAt ≤ (ctxAt s (ctxId c h)).waitCount)

/-- A promoted context takes the issue width from any other; not from a promoted one to which it has just been handed (R32, R33). -/
def promote (s : State) (c : Fin 256) : State :=
  match bestPromoted s c with
  | some i => if (coreAt s c).holder = some i ∨ (handedOver s c).isSome = true then s else dropHolder s c
  | none => s

/-- QUANT_EXPIRY: the holder has issued `QUANT` bundles since it was selected and a rival is ready. -/
def execQuantExpiry (c : Fin 256) (s : State) : Host.Outcome State Fault Refusal := .next (expire false s c)

/-- CONTEXT_PROMOTION: a ready context whose wait count has reached 1024 is to be served next. -/
def execContextPromotion (c : Fin 256) (s : State) : Host.Outcome State Fault Refusal := .next (promote s c)

/-- The places of a core's contexts in round-robin order, after the one that issued last. -/
def robin (last : Option (Fin 4)) : List (Fin 4) :=
  match last with
  | none => [0, 1, 2, 3]
  | some l => [l + 1, l + 2, l + 3, l]

/-- The ready context of the highest `PRIO` that comes first in round-robin order. -/
def nextInTurn (s : State) (c : Fin 256) : Option (Fin 4) :=
  let prio (i : Fin 4) : Nat := (ctxAt s (ctxId c i)).arch.prio.toNat
  ((robin (coreAt s c).last).filter (readyOf s c).contains).foldl (fun b i => match b with
    | none => some i
    | some j => if prio j < prio i then some i else some j) none

/-- The context that has the issue width in a cycle. -/
def selected (s : State) (c : Fin 256) : Option (Fin 4) :=
  match (handedOver s c).or (bestPromoted s c) with
  | some i => some i
  | none =>
    match (coreAt s c).holder with
    | some h => if ctxReady s (ctxId c h) then some h else nextInTurn s c
    | none => nextInTurn s c

/-- Every ready context but the selected one waits a cycle more (R32). -/
def countWaits (s : State) (c : Fin 256) (sel : Option (Fin 4)) : State :=
  (readyOf s c).foldl (fun s i =>
    if sel = some i then s else modCtx s (ctxId c i) fun x => { x with waitCount := x.waitCount + 1 }) s

/-- A credit toward the grant floor (R43); none while the core rolls back (R399). -/
def earn (s : State) (c : Fin 256) : State :=
  modCore s c fun x => { x with floor := if 1 < x.floor ∧ x.rolling.isNone then x.floor - 1 else x.floor }

/-- A context has used the issue width: it issued a bundle, or entered its handler (R32, R370, R398). -/
def useWidth (s : State) (k : Fin 1024) : State :=
  let s := modCtx (rollCount s k) k fun c => { c with waitCount := 0 }
  modCore s (coreOf k) fun x => { x with last := some (subOf k), streak := x.streak + 1 }

/-- What a core does in its turn of a cycle. -/
inductive Choice where
  /-- it issues nothing: no context is ready, or it may not issue -/
  | idle
  /-- a switch cycle (R32) -/
  | switch
  /-- the context that issues, or enters its handler -/
  | issues (i : Fin 4)
  deriving DecidableEq, Repr

/-- Whether the context that holds the issue width is to enter its handler: it takes that cycle before another has the width (R389). -/
def holderEnters (s : State) (c : Fin 256) : Bool :=
  (coreAt s c).holder.any fun h => ctxReady s (ctxId c h) && mustEnter (ctxAt s (ctxId c h))

/-- Selects, with the width handed over where it must be; an idle cycle earns a credit (R43). -/
def choose (s : State) (c : Fin 256) : Choice × State :=
  let s := if holderEnters s c then s else expire true (expire false (promote s c) c) c
  match (if holderEnters s c then (coreAt s c).holder else none).or (selected s c) with
  | none => (.idle, earn (dropHolder s c) c)
  | some i =>
    let x := coreAt s c
    let s := countWaits s c (some i)
    if x.holder = some i then (.issues i, modCore s c fun x => { x with yielded := [] })
    else
      let s := modCore s c fun x => { x with holder := some i, streak := 0, yielded := [] }
      if x.last.isSome ∧ x.last ≠ some i then (.switch, countEvent s c 0x0002 1) else (.issues i, s)

/-! ### The end of a cycle -/

/-- What a core counts of a cycle (R366): the cycle, its frozen contexts, its waiting ones, its held requests. -/
def countCycle (s : State) (c : Fin 256) : State :=
  let ks := (List.finRange 4).map (ctxId c)
  let live := ks.filter fun k => (ctxAt s k).run = .started && coreRuns s c
  let s := countEvent s c 0x0000 1
  let s := countEvent s c 0x0003 (live.filter (frozen s)).length
  let s := countEvent s c 0x0004 (live.filter fun k =>
    let x := ctxAt s k
    !frozen s k && !((x.sync.isNone || x.arch.hm) && waitsMet s k [] [] x.waits)).length
  let held := (coreAt s c).work.filter fun w => isHeld w && (match w.kind with
    | .wnext _ => true
    | _ => false)
  let s := countEvent s c 0x0005 held.length
  modCore s c fun x => { x with evHold := 0 }

/-- The end of a cycle: adds of merge cells (R288), the counts, the bank ports (R172), results that a clock standing still would hold, arrivals at barriers (R291), retractions (R320),
rollbacks (R398), what waits for the host, jobs that end. -/
def endCycle (s : State) : State :=
  let s := { runCellAdds s with flagged := [] }
  let s := (List.finRange 256).foldl countCycle s
  let s := { s with slices := s.slices.map fun x => { x with sevHold := 0 } }
  let s := (List.finRange 256).foldl (fun s c => if (coreAt s c).buf.isEmpty && (coreAt s c).portBusy == 0 then s else serveBanks s c) s
  let s := (List.finRange 1024).foldl (fun s k => if clockHolds s k then landStanding k s else s) s
  let s := (List.finRange 1024).foldl (fun s k => if (ctxAt s k).sync.isSome then tryArrive s k else s) s
  let s := (List.finRange 1024).foldl (fun s k => if retracting s k then carryRetract s k else s) s
  let s := (List.finRange 256).foldl rollOn s
  flushWant (finishJobs { checkInvals (expirePosts s) with cycle := s.cycle + 1, turn := 0 })

/-! ### Events that are due by themselves -/

/-- An event, as its meaning. -/
abbrev Act : Type := State → Host.Outcome State Fault Refusal

/-- The event in which a piece of work performs. -/
def workEventOf (w : Work) : Option Act :=
  let c := coreOf w.ctx
  match w.kind with
  | .load _ => some (execLandingDataArrives c w.seq)
  | .l1op _ _ _ => some (execLandingDataArrives c w.seq)
  | .spart _ _ => some (execLandingDataArrives c w.seq)
  | .spload _ _ _ => some (execLandingDataArrives c w.seq)
  | .rowload _ _ _ => some (execLandingDataArrives c w.seq)
  | .amo _ _ => some (execAmoPerform c w.seq)
  | .vstg _ _ => some (execDeferredRefusal c w.seq)
  | .flagw _ _ _ _ _ _ _ => some (execFlagWriteArrives c w.seq)
  | .copy _ => some (execCopyComplete c w.seq)
  | .drain _ => some (execDrainComplete c w.seq)
  | .ladder l => if l.op = 0x4A then some (execLandingDataArrives c w.seq) else some (execLadderOpComplete c w.seq)
  | .spawn _ => some (execLadderOpComplete c w.seq)
  | .gload _ _ _ => some (execLadderOpComplete c w.seq)
  | .vtab _ _ => some (execLadderOpComplete c w.seq)
  | .wnext _ => none

/-- The first global address that a piece of work reaches at its home slice: of an access, of a command's source or destination, of a
descriptor, cell, table or range. -/
def homeAddr (w : Work) : Option Word :=
  let first (l : List Word) : Option Word := l.find? isGlobal
  match w.kind with
  | .load r => first [r.addr]
  | .amo r _ => first [r.addr]
  | .vstg a _ => first [a]
  | .l1op a _ _ => first [a]
  | .copy c => first [patWord c.pat 0, patWord c.pat 1]
  | .drain c => first [c.dst]
  | .ladder c => first [if 0x50 ≤ c.op.toNat then c.x else c.hd.desc]
  | .spawn a => first [a]
  | .gload _ a _ => first [a]
  | .vtab _ a => first [a]
  | _ => none

/-- The port of its home slice by which an access of a core to an address of a job arrives (R182), by its place in the order: the mesh port,
the die-to-die ports in increasing stack number, the slice's own core. -/
def portRank (s : State) (c : Fin 256) (j : BitVec 32) (a : Word) : Nat :=
  match (xlate s c j a.toNat false).1 with
  | .error _ => 0
  | .ok pa =>
    let u := homeOf pa
    if u = c then 5 else if stackOf u = stackOf c then 0 else 1 + (stackOf c).val

/-- Whether a piece of work is a flag write. -/
def isFlagWrite (w : Work) : Bool :=
  match w.kind with
  | .flagw _ _ _ _ _ _ _ => true
  | _ => false

/-- The work that may perform, that of a home slice apart: flag writes by context (R288), then the rest. -/
def localWork (l : List Work) : List Work :=
  let flags := l.filter isFlagWrite
  let ids := (flags.map fun w => w.ctx).eraseDups
  ((List.finRange 256).flatMap fun c => (List.finRange 4).flatMap fun i =>
      if ids.contains (ctxId c i) then flags.filter fun w => w.ctx = ctxId c i else []) ++
    l.filter fun w => !isFlagWrite w && (homeAddr w).isNone

/-- The contexts that ask for a hold, of jobs that run and of saved ones (R41), each with the port by which its request arrives. -/
def holdArrivals (s : State) : List (Nat × Fin 1024) :=
  let of (k : Fin 1024) (j : BitVec 32) (c : Ctx) : Option (Nat × Fin 1024) :=
    if asksHold c then some (match (wantedHolds c).head? with
      | some q => if isGlobal q.2.1 then portRank s (coreOf k) j q.2.1 else 0
      | none => 0, k) else none
  ((List.finRange 1024).filterMap fun k => of k (jobOf s k) (ctxAt s k)) ++
    s.saved.flatMap fun x => (x.ctxs.zip (List.finRange 4)).filterMap fun q => of (ctxId x.core q.2) x.job q.1

/-- What reaches the home slices in a cycle, in the order of their ports (R182): hold requests, and accesses and commands that may
perform. -/
def sliceEvents (s : State) (l : List Work) : List Act :=
  let holds := holdArrivals s
  let works := l.filterMap fun w => (homeAddr w).map fun a => (portRank s (coreOf w.ctx) w.job a, w)
  (List.range 6).flatMap fun r =>
    ((holds.filter fun q => q.1 = r).map fun q => execHoldRequest q.2) ++ ((works.filter fun q => q.1 = r).map (·.2)).filterMap workEventOf

/-- The events of outstanding work and hold requests: what may perform does. -/
def workEvents (s : State) : List Act :=
  let l := (s.cores.toList.flatMap (·.work)).filter (mayPerform s)
  sliceEvents s l ++ (localWork l).filterMap workEventOf

/-- The events of work that has waited too long: for the host (R401), or in a hot column (R23). -/
def overdueEvents (s : State) : List Act :=
  (allWork s).filterMap fun w =>
    match w.kind with
    | .wnext _ => if heldOut s w then some (execThermalHoldTimeout w.ctx) else none
    | _ => if hostOverdue s w then some (execHostAnswerTimeout (coreOf w.ctx) w.seq) else none

/-- The ports whose oldest flit waits for its acknowledgement too long (R409). -/
def portEvents (s : State) : List Act :=
  (List.finRange 16).filterMap fun p => (overdueFlit s p).map fun _ => execSvethAckTimeout p

/-- The events of a core: its array, its rollback, its turn, its grant floor, its restoring. -/
def coreEvents (s : State) (c : Fin 256) : List Act :=
  let x := coreAt s c
  (if x.array.any fun q => decide (q.1 ≤ s.cycle) then [execMmaStepRetire c] else []) ++
    (if x.rolling.any fun r => r.pass ≠ 0 && decide (r.since + 2 ^ 28 ≤ s.cycle) then [execRollbackPassTimeout c] else []) ++
    (if x.floor = 1 then [execGrantFloorMet c] else []) ++
    (if turnOver s c then [execSliceExpiry c] else []) ++
    (if x.job.isNone && !x.retired && s.saved.any fun y => y.core = c then [execCoreRestore c] else [])

/-- The events of a context: engine results after its halt (R135). -/
def ctxEvents (s : State) (k : Fin 1024) : List Act :=
  let c := ctxAt s k
  match c.run with
  | .unstarted => []
  | .halted => if c.flight.isEmpty && c.xops.isEmpty then [] else [execHaltedEngineResult k]
  | .started => []

/-- The queues of the work distributors that hold requests. -/
def poolEvents (s : State) : List Act :=
  (List.finRange 4).flatMap fun t => (List.finRange 16).filterMap fun p =>
    if (requestsOf s t p).isEmpty then none else some (execWnextServe t p)

/-- The barriers at which some member stands, or, across a paragraph, at which none is left to come. -/
def barrierEvents (s : State) : List Act :=
  s.jobs.flatMap fun j =>
    (List.finRange 5).flatMap fun l =>
      let us := (j.recs.map fun r => unitOf l (coreOf r.ctx)).eraseDups
      us.filterMap fun u =>
        let ms := members j l u
        let at_ := ms.any fun k => (ringTarget s j.id k).any fun c => c.sync.any fun q => q.1 = l
        let gone := l = 4 && decide (1 < s.psize.toNat) && !ms.isEmpty &&
          ms.all fun k => (ringTarget s j.id k).any fun c => decide (c.run = .halted)
        if at_ || gone then some (execDomainBarrierRelease j.id l u) else none

/-- The waiting jobs, higher priorities first (R36). -/
def admitEvents (s : State) : List Act :=
  ([7, 6, 5, 4, 3, 2, 1, 0] : List Nat).flatMap fun p =>
    s.jobs.filterMap fun j => if j.phase = .waiting ∧ j.jpri.toNat = p then some (execJobAdmit j.id) else none

/-- The first increment on its way that may arrive (R199). -/
def drenEvents (s : State) : List Act :=
  match s.dren.findIdx? (drenFirst s) with
  | some i => [execDrenIncrement i]
  | none => []

/-- Everything that is due by itself at the start of a cycle. -/
def autoEvents (s : State) : List Act :=
  (if s.cycle % 4096 = 0 then [execBudgetPeriod] else []) ++ (if s.cycle % 1024 = 0 then [execThermalSample] else []) ++
    (List.finRange 1024).flatMap (ctxEvents s) ++ (List.finRange 256).flatMap (coreEvents s) ++
    overdueEvents s ++ workEvents s ++ drenEvents s ++ poolEvents s ++ barrierEvents s ++ portEvents s ++ admitEvents s

end Sys2Proof.Machine
end

