-- ==== Sys2Proof/Machine/Dispatch.lean ====
section
/-! DEFINITION. One arm per constructor of Instr, each a direct call of its meaning. -/

namespace Sys2Proof.Machine

def exec (i : Instr) (s : State) : Host.Outcome State Fault Refusal :=
  match i with
  | .nop c => Sys2Proof.Machine.execNop c s
  | .add d a b p n w => Sys2Proof.Machine.execAdd d a b p n w s
  | .sub d a b p n w => Sys2Proof.Machine.execSub d a b p n w s
  | .mul d a b p n w => Sys2Proof.Machine.execMul d a b p n w s
  | .mulhS d a b p n w => Sys2Proof.Machine.execMulhS d a b p n w s
  | .mulhU d a b p n w => Sys2Proof.Machine.execMulhU d a b p n w s
  | .divS d a b p n w => Sys2Proof.Machine.execDivS d a b p n w s
  | .divU d a b p n w => Sys2Proof.Machine.execDivU d a b p n w s
  | .remS d a b p n w => Sys2Proof.Machine.execRemS d a b p n w s
  | .remU d a b p n w => Sys2Proof.Machine.execRemU d a b p n w s
  | .and d a b p n w => Sys2Proof.Machine.execAnd d a b p n w s
  | .or d a b p n w => Sys2Proof.Machine.execOr d a b p n w s
  | .xor d a b p n w => Sys2Proof.Machine.execXor d a b p n w s
  | .andn d a b p n w => Sys2Proof.Machine.execAndn d a b p n w s
  | .shl d a b p n w => Sys2Proof.Machine.execShl d a b p n w s
  | .shr d a b p n w => Sys2Proof.Machine.execShr d a b p n w s
  | .sra d a b p n w => Sys2Proof.Machine.execSra d a b p n w s
  | .rotl d a b p n w => Sys2Proof.Machine.execRotl d a b p n w s
  | .clz d a p n w => Sys2Proof.Machine.execClz d a p n w s
  | .ctz d a p n w => Sys2Proof.Machine.execCtz d a p n w s
  | .popc d a p n w => Sys2Proof.Machine.execPopc d a p n w s
  | .minS d a b p n w => Sys2Proof.Machine.execMinS d a b p n w s
  | .minU d a b p n w => Sys2Proof.Machine.execMinU d a b p n w s
  | .maxS d a b p n w => Sys2Proof.Machine.execMaxS d a b p n w s
  | .maxU d a b p n w => Sys2Proof.Machine.execMaxU d a b p n w s
  | .sext d a k => Sys2Proof.Machine.execSext d a k s
  | .zext d a k => Sys2Proof.Machine.execZext d a k s
  | .bfxS d a l m => Sys2Proof.Machine.execBfxS d a l m s
  | .bfxU d a l m => Sys2Proof.Machine.execBfxU d a l m s
  | .bfi d a l m => Sys2Proof.Machine.execBfi d a l m s
  | .sel d a b c => Sys2Proof.Machine.execSel d a b c s
  | .pand d a b p n => Sys2Proof.Machine.execPand d a b p n s
  | .por d a b p n => Sys2Proof.Machine.execPor d a b p n s
  | .pxor d a b p n => Sys2Proof.Machine.execPxor d a b p n s
  | .pnot d a p n => Sys2Proof.Machine.execPnot d a p n s
  | .addi d a k => Sys2Proof.Machine.execAddi d a k s
  | .andi d a k => Sys2Proof.Machine.execAndi d a k s
  | .ori d a k => Sys2Proof.Machine.execOri d a k s
  | .xori d a k => Sys2Proof.Machine.execXori d a k s
  | .shli d a k => Sys2Proof.Machine.execShli d a k s
  | .shri d a k => Sys2Proof.Machine.execShri d a k s
  | .srai d a k => Sys2Proof.Machine.execSrai d a k s
  | .lui d a k => Sys2Proof.Machine.execLui d a k s
  | .movi d k => Sys2Proof.Machine.execMovi d k s
  | .cmpEq d a b p n w => Sys2Proof.Machine.execCmpEq d a b p n w s
  | .cmpNe d a b p n w => Sys2Proof.Machine.execCmpNe d a b p n w s
  | .cmpLt d a b p n w => Sys2Proof.Machine.execCmpLt d a b p n w s
  | .cmpGe d a b p n w => Sys2Proof.Machine.execCmpGe d a b p n w s
  | .cmpLtu d a b p n w => Sys2Proof.Machine.execCmpLtu d a b p n w s
  | .cmpGeu d a b p n w => Sys2Proof.Machine.execCmpGeu d a b p n w s
  | .cmpTst d a b p n w => Sys2Proof.Machine.execCmpTst d a b p n w s
  | .cmpTstn d a b p n w => Sys2Proof.Machine.execCmpTstn d a b p n w s
  | .fadd d a b p n => Sys2Proof.Machine.execFadd d a b p n s
  | .fmul d a b p n => Sys2Proof.Machine.execFmul d a b p n s
  | .ffma d a b c => Sys2Proof.Machine.execFfma d a b c s
  | .fcvt d a l t z => Sys2Proof.Machine.execFcvt d a l t z s
  | .fcmpEq d a b p n => Sys2Proof.Machine.execFcmpEq d a b p n s
  | .fcmpLt d a b p n => Sys2Proof.Machine.execFcmpLt d a b p n s
  | .fcmpLe d a b p n => Sys2Proof.Machine.execFcmpLe d a b p n s
  | .fcmpUn d a b p n => Sys2Proof.Machine.execFcmpUn d a b p n s
  | .fminmaxMin d a b p n => Sys2Proof.Machine.execFminmaxMin d a b p n s
  | .fminmaxMax d a b p n => Sys2Proof.Machine.execFminmaxMax d a b p n s
  | .ldB d a o c => Sys2Proof.Machine.execLdB d a o c s
  | .ldH d a o c => Sys2Proof.Machine.execLdH d a o c s
  | .ldW d a o c => Sys2Proof.Machine.execLdW d a o c s
  | .ldD d a o c => Sys2Proof.Machine.execLdD d a o c s
  | .ldBz d a o c => Sys2Proof.Machine.execLdBz d a o c s
  | .ldHz d a o c => Sys2Proof.Machine.execLdHz d a o c s
  | .ldWz d a o c => Sys2Proof.Machine.execLdWz d a o c s
  | .stB d a o c => Sys2Proof.Machine.execStB d a o c s
  | .stH d a o c => Sys2Proof.Machine.execStH d a o c s
  | .stW d a o c => Sys2Proof.Machine.execStW d a o c s
  | .stD d a o c => Sys2Proof.Machine.execStD d a o c s
  | .ldlW d a o t c => Sys2Proof.Machine.execLdlW d a o t c s
  | .ldlWz d a o t c => Sys2Proof.Machine.execLdlWz d a o t c s
  | .ldlD d a o t c => Sys2Proof.Machine.execLdlD d a o t c s
  | .l1inv a b p n => Sys2Proof.Machine.execL1inv a b p n s
  | .l1wb a b p n => Sys2Proof.Machine.execL1wb a b p n s
  | .amoAdd z c a b => Sys2Proof.Machine.execAmoAdd z c a b s
  | .amoAnd z c a b => Sys2Proof.Machine.execAmoAnd z c a b s
  | .amoOr z c a b => Sys2Proof.Machine.execAmoOr z c a b s
  | .amoXor z c a b => Sys2Proof.Machine.execAmoXor z c a b s
  | .amoMin z c a b => Sys2Proof.Machine.execAmoMin z c a b s
  | .amoMax z c a b => Sys2Proof.Machine.execAmoMax z c a b s
  | .amoSwap z c a b => Sys2Proof.Machine.execAmoSwap z c a b s
  | .amoCas z c a b x => Sys2Proof.Machine.execAmoCas z c a b x s
  | .redAdd z c a b => Sys2Proof.Machine.execRedAdd z c a b s
  | .redAnd z c a b => Sys2Proof.Machine.execRedAnd z c a b s
  | .redOr z c a b => Sys2Proof.Machine.execRedOr z c a b s
  | .redMin z c a b => Sys2Proof.Machine.execRedMin z c a b s
  | .redMax z c a b => Sys2Proof.Machine.execRedMax z c a b s
  | .amopop d p n => Sys2Proof.Machine.execAmopop d p n s
  | .spart d a k => Sys2Proof.Machine.execSpart d a k s
  | .br p n o => Sys2Proof.Machine.execBr p n o s
  | .jmp p n o => Sys2Proof.Machine.execJmp p n o s
  | .jmpr a p n => Sys2Proof.Machine.execJmpr a p n s
  | .call p n o => Sys2Proof.Machine.execCall p n o s
  | .ret a p n => Sys2Proof.Machine.execRet a p n s
  | .loop a k => Sys2Proof.Machine.execLoop a k s
  | .trap k => Sys2Proof.Machine.execTrap k s
  | .eret p n => Sys2Proof.Machine.execEret p n s
  | .halt p n => Sys2Proof.Machine.execHalt p n s
  | .yield p n => Sys2Proof.Machine.execYield p n s
  | .csrr d k => Sys2Proof.Machine.execCsrr d k s
  | .csrw d a k => Sys2Proof.Machine.execCsrw d a k s
  | .csrs d a k => Sys2Proof.Machine.execCsrs d a k s
  | .csrc d a k => Sys2Proof.Machine.execCsrc d a k s
  | .rlandRedo p n => Sys2Proof.Machine.execRlandRedo p n s
  | .rlandSet a p n => Sys2Proof.Machine.execRlandSet a p n s
  | .vadd d a b p n w => Sys2Proof.Machine.execVadd d a b p n w s
  | .vsub d a b p n w => Sys2Proof.Machine.execVsub d a b p n w s
  | .vmul d a b p n w => Sys2Proof.Machine.execVmul d a b p n w s
  | .vfma d a b p n => Sys2Proof.Machine.execVfma d a b p n s
  | .vfms d a b p n => Sys2Proof.Machine.execVfms d a b p n s
  | .vmin d a b p n w => Sys2Proof.Machine.execVmin d a b p n w s
  | .vmax d a b p n w => Sys2Proof.Machine.execVmax d a b p n w s
  | .vabs d a p n w => Sys2Proof.Machine.execVabs d a p n w s
  | .vneg d a p n w => Sys2Proof.Machine.execVneg d a p n w s
  | .vsel d a b p n => Sys2Proof.Machine.execVsel d a b p n s
  | .vand d a b p n => Sys2Proof.Machine.execVand d a b p n s
  | .vor d a b p n => Sys2Proof.Machine.execVor d a b p n s
  | .vxor d a b p n => Sys2Proof.Machine.execVxor d a b p n s
  | .vshl d a b p n => Sys2Proof.Machine.execVshl d a b p n s
  | .vshr d a b p n => Sys2Proof.Machine.execVshr d a b p n s
  | .vsra d a b p n => Sys2Proof.Machine.execVsra d a b p n s
  | .vexp2 d a p n => Sys2Proof.Machine.execVexp2 d a p n s
  | .vlog2 d a p n => Sys2Proof.Machine.execVlog2 d a p n s
  | .vrcp d a p n => Sys2Proof.Machine.execVrcp d a p n s
  | .vrsq d a p n => Sys2Proof.Machine.execVrsq d a p n s
  | .vcmpEq d a b p n w => Sys2Proof.Machine.execVcmpEq d a b p n w s
  | .vcmpNe d a b p n w => Sys2Proof.Machine.execVcmpNe d a b p n w s
  | .vcmpLt d a b p n w => Sys2Proof.Machine.execVcmpLt d a b p n w s
  | .vcmpLe d a b p n w => Sys2Proof.Machine.execVcmpLe d a b p n w s
  | .vcmpGt d a b p n w => Sys2Proof.Machine.execVcmpGt d a b p n w s
  | .vcmpGe d a b p n w => Sys2Proof.Machine.execVcmpGe d a b p n w s
  | .vcmpUn d a b p n => Sys2Proof.Machine.execVcmpUn d a b p n s
  | .vcmpLtu d a b p n => Sys2Proof.Machine.execVcmpLtu d a b p n s
  | .vcmpOrd d a b p n => Sys2Proof.Machine.execVcmpOrd d a b p n s
  | .vcmpGeu d a b p n => Sys2Proof.Machine.execVcmpGeu d a b p n s
  | .vcvt d a k t z => Sys2Proof.Machine.execVcvt d a k t z s
  | .vqnt d a f k z r v => Sys2Proof.Machine.execVqnt d a f k z r v s
  | .vdq d a f k z r v => Sys2Proof.Machine.execVdq d a f k z r v s
  | .vpermb d a b p n => Sys2Proof.Machine.execVpermb d a b p n s
  | .vpermw d a b p n => Sys2Proof.Machine.execVpermw d a b p n s
  | .vbcast d a p n => Sys2Proof.Machine.execVbcast d a p n s
  | .vextr d a k => Sys2Proof.Machine.execVextr d a k s
  | .viota d p n => Sys2Proof.Machine.execViota d p n s
  | .vredadd d a p n w => Sys2Proof.Machine.execVredadd d a p n w s
  | .vredmax d a p n w => Sys2Proof.Machine.execVredmax d a p n w s
  | .vredmin d a p n w => Sys2Proof.Machine.execVredmin d a p n w s
  | .vtrip d a b => Sys2Proof.Machine.execVtrip d a b s
  | .vld d a o c => Sys2Proof.Machine.execVld d a o c s
  | .vst d a o c => Sys2Proof.Machine.execVst d a o c s
  | .vlds d a b p n => Sys2Proof.Machine.execVlds d a b p n s
  | .vgath d a b p n => Sys2Proof.Machine.execVgath d a b p n s
  | .vscat d a b p n => Sys2Proof.Machine.execVscat d a b p n s
  | .vldl d a o t c => Sys2Proof.Machine.execVldl d a o t c s
  | .vstg d a o c => Sys2Proof.Machine.execVstg d a o c s
  | .vlda d a h r e => Sys2Proof.Machine.execVlda d a h r e s
  | .vsta d a x h r e => Sys2Proof.Machine.execVsta d a x h r e s
  | .mand d a b p n => Sys2Proof.Machine.execMand d a b p n s
  | .mor d a b p n => Sys2Proof.Machine.execMor d a b p n s
  | .mnot d a p n => Sys2Proof.Machine.execMnot d a p n s
  | .mpopc d a p n => Sys2Proof.Machine.execMpopc d a p n s
  | .mma e a b o f g x y => Sys2Proof.Machine.execMma e a b o f g x y s
  | .mtile e a b z o f g x y => Sys2Proof.Machine.execMtile e a b z o f g x y s
  | .mzero e m => Sys2Proof.Machine.execMzero e m s
  | .mdrain e a d z => Sys2Proof.Machine.execMdrain e a d z s
  | .mring o z => Sys2Proof.Machine.execMring o z s
  | .acalloc e m a => Sys2Proof.Machine.execAcalloc e m a s
  | .acfree e => Sys2Proof.Machine.execAcfree e s
  | .acown e b k => Sys2Proof.Machine.execAcown e b k s
  | .cpset a z w => Sys2Proof.Machine.execCpset a z w s
  | .cpy a g k r o c x => Sys2Proof.Machine.execCpy a g k r o c x s
  | .cpym a g k r o c x => Sys2Proof.Machine.execCpym a g k r o c x s
  | .cpyr a g k r o c x => Sys2Proof.Machine.execCpyr a g k r o c x s
  | .cpyx a g k r o c x => Sys2Proof.Machine.execCpyx a g k r o c x s
  | .cpf a g k r o c x => Sys2Proof.Machine.execCpf a g k r o c x s
  | .cpwb a g k r o c x => Sys2Proof.Machine.execCpwb a g k r o c x s
  | .rinit g c => Sys2Proof.Machine.execRinit g c s
  | .xexp d z n x => Sys2Proof.Machine.execXexp d z n x s
  | .xtrn d z n x => Sys2Proof.Machine.execXtrn d z n x s
  | .xcvt d z n b a => Sys2Proof.Machine.execXcvt d z n b a s
  | .xzvc d z n l => Sys2Proof.Machine.execXzvc d z n l s
  | .xfill d z n x => Sys2Proof.Machine.execXfill d z n x s
  | .fmtw a => Sys2Proof.Machine.execFmtw a s
  | .sclld a n => Sys2Proof.Machine.execSclld a n s
  | .dfrm a f r => Sys2Proof.Machine.execDfrm a f r s
  | .dfrmAdd a f r => Sys2Proof.Machine.execDfrmAdd a f r s
  | .fence m z => Sys2Proof.Machine.execFence m z s
  | .fencex z f t => Sys2Proof.Machine.execFencex z f t s
  | .dsyncWord => Sys2Proof.Machine.execDsyncWord s
  | .dsyncPhrase => Sys2Proof.Machine.execDsyncPhrase s
  | .dsyncClause => Sys2Proof.Machine.execDsyncClause s
  | .dsyncSentence => Sys2Proof.Machine.execDsyncSentence s
  | .dsyncParagraph => Sys2Proof.Machine.execDsyncParagraph s
  | .fladd c v w => Sys2Proof.Machine.execFladd c v w s
  | .flset v m t w => Sys2Proof.Machine.execFlset v m t w s
  | .flwait d v c w => Sys2Proof.Machine.execFlwait d v c w s
  | .await g n => Sys2Proof.Machine.execAwait g n s
  | .release g n => Sys2Proof.Machine.execRelease g n s
  | .wnext w p t => Sys2Proof.Machine.execWnext w p t s
  | .wrot d k => Sys2Proof.Machine.execWrot d k s
  | .lnew p a e g h => Sys2Proof.Machine.execLnew p a e g h s
  | .lbind a e g h => Sys2Proof.Machine.execLbind a e g h s
  | .lappend o e g h => Sys2Proof.Machine.execLappend o e g h s
  | .lcarry b e g h => Sys2Proof.Machine.execLcarry b e g h s
  | .lfork x e g h => Sys2Proof.Machine.execLfork x e g h s
  | .ltrunc t e g h => Sys2Proof.Machine.execLtrunc t e g h s
  | .ldrop e g h => Sys2Proof.Machine.execLdrop e g h s
  | .lread r q e g h => Sys2Proof.Machine.execLread r q e g h s
  | .lwalk l e g h => Sys2Proof.Machine.execLwalk l e g h s
  | .lkeep m e g h => Sys2Proof.Machine.execLkeep m e g h s
  | .lcnt d h t => Sys2Proof.Machine.execLcnt d h t s
  | .mcinit f c e g => Sys2Proof.Machine.execMcinit f c e g s
  | .mcdep r c e g z => Sys2Proof.Machine.execMcdep r c e g z s
  | .mcget r c e g => Sys2Proof.Machine.execMcget r c e g s
  | .tspawn a e g => Sys2Proof.Machine.execTspawn a e g s
  | .tbegin c d u q => Sys2Proof.Machine.execTbegin c d u q s
  | .tcommit => Sys2Proof.Machine.execTcommit s
  | .tcommitOrd => Sys2Proof.Machine.execTcommitOrd s
  | .tabort w => Sys2Proof.Machine.execTabort w s
  | .vcall o k => Sys2Proof.Machine.execVcall o k s
  | .vinv f n => Sys2Proof.Machine.execVinv f n s
  | .vret => Sys2Proof.Machine.execVret s
  | .gload d a e g n => Sys2Proof.Machine.execGload d a e g n s
  | .vtab d a e g => Sys2Proof.Machine.execVtab d a e g s
  | .tstat d z => Sys2Proof.Machine.execTstat d z s
  | .transformBeat k => Sys2Proof.Machine.execTransformBeat k s
  | .domainBarrierRelease j l u => Sys2Proof.Machine.execDomainBarrierRelease j l u s
  | .flagWriteArrives c q => Sys2Proof.Machine.execFlagWriteArrives c q s
  | .wnextServe z p => Sys2Proof.Machine.execWnextServe z p s
  | .thermalHoldTimeout k => Sys2Proof.Machine.execThermalHoldTimeout k s
  | .holdRequest k => Sys2Proof.Machine.execHoldRequest k s
  | .abortDelivery k => Sys2Proof.Machine.execAbortDelivery k s
  | .resultLands k => Sys2Proof.Machine.execResultLands k s
  | .landingDataArrives c q => Sys2Proof.Machine.execLandingDataArrives c q s
  | .quantExpiry c => Sys2Proof.Machine.execQuantExpiry c s
  | .contextPromotion c => Sys2Proof.Machine.execContextPromotion c s
  | .deferredRefusal c q => Sys2Proof.Machine.execDeferredRefusal c q s
  | .amoPerform c q => Sys2Proof.Machine.execAmoPerform c q s
  | .copyComplete c q => Sys2Proof.Machine.execCopyComplete c q s
  | .drenIncrement k => Sys2Proof.Machine.execDrenIncrement k s
  | .decoderWatchdog c q => Sys2Proof.Machine.execDecoderWatchdog c q s
  | .mmaStepRetire c => Sys2Proof.Machine.execMmaStepRetire c s
  | .drainComplete c q => Sys2Proof.Machine.execDrainComplete c q s
  | .ladderOpComplete c q => Sys2Proof.Machine.execLadderOpComplete c q s
  | .thermalSample => Sys2Proof.Machine.execThermalSample s
  | .sliceExpiry c => Sys2Proof.Machine.execSliceExpiry c s
  | .coreRestore c => Sys2Proof.Machine.execCoreRestore c s
  | .grantFloorMet c => Sys2Proof.Machine.execGrantFloorMet c s
  | .jobAdmit j => Sys2Proof.Machine.execJobAdmit j s
  | .shadowSave c => Sys2Proof.Machine.execShadowSave c s
  | .budgetPeriod => Sys2Proof.Machine.execBudgetPeriod s
  | .patrolScrubVisit u => Sys2Proof.Machine.execPatrolScrubVisit u s
  | .busTest c b f => Sys2Proof.Machine.execBusTest c b f s
  | .rollback c => Sys2Proof.Machine.execRollback c s
  | .rollbackPassTimeout c => Sys2Proof.Machine.execRollbackPassTimeout c s
  | .hostRead m t a l => Sys2Proof.Machine.execHostRead m t a l s
  | .hostWrite m t a l x => Sys2Proof.Machine.execHostWrite m t a l x s
  | .rdata m t x => Sys2Proof.Machine.execRdata m t x s
  | .ack m t l => Sys2Proof.Machine.execAck m t l s
  | .start m t j x => Sys2Proof.Machine.execStart m t j x s
  | .tlbinv m t j a l => Sys2Proof.Machine.execTlbinv m t j a l s
  | .mread m t a => Sys2Proof.Machine.execMread m t a s
  | .mwrite m t a x => Sys2Proof.Machine.execMwrite m t a x s
  | .attest m t x => Sys2Proof.Machine.execAttest m t x s
  | .reservedHostType m t y => Sys2Proof.Machine.execReservedHostType m t y s
  | .hostAnswerTimeout c q => Sys2Proof.Machine.execHostAnswerTimeout c q s
  | .remoteWrite p z n j a x => Sys2Proof.Machine.execRemoteWrite p z n j a x s
  | .writeAcknowledgement p z n c q r => Sys2Proof.Machine.execWriteAcknowledgement p z n c q r s
  | .flag p z n j a v o => Sys2Proof.Machine.execFlag p z n j a v o s
  | .barrierArrival p z n j k => Sys2Proof.Machine.execBarrierArrival p z n j k s
  | .barrierRelease p z n j k => Sys2Proof.Machine.execBarrierRelease p z n j k s
  | .svethAckTimeout p => Sys2Proof.Machine.execSvethAckTimeout p s
  | .svethCrcMismatch p => Sys2Proof.Machine.execSvethCrcMismatch p s
  | .ucieModuleRetrainFail m => Sys2Proof.Machine.execUcieModuleRetrainFail m s
  | .ucieRetrainingSucceeds m => Sys2Proof.Machine.execUcieRetrainingSucceeds m s
  | .powerOn f m b c p => Sys2Proof.Machine.execPowerOn f m b c p s
  | .engineFault c q => Sys2Proof.Machine.execEngineFault c q s
  | .haltedEngineResult k => Sys2Proof.Machine.execHaltedEngineResult k s

end Sys2Proof.Machine
end

