-- ==== Sys2Proof/Machine/Issue.lean ====
section
/-! DEFINITION. Issuing a bundle (R52 to R64, R375): the fetch checks, the checks of its slots, its effects in order, what issues
next; a core's turn of a cycle, the agenda, and how an instruction is put where the next step fetches. -/

namespace Sys2Proof.Machine

/-- Goes on from an outcome that is a state. -/
def bindOut (o : Host.Outcome State Fault Refusal) (f : State → Host.Outcome State Fault Refusal) :
    Host.Outcome State Fault Refusal :=
  match o with
  | .next s => f s
  | .fault r => .fault r
  | .refused r => .refused r

/-! ### The bundle next to issue -/

/-- The machine as an operation of context `k` in slot `n` finds it; `base` is the bundle's first issue number. -/
def atSlot (k : Fin 1024) (base : Nat) (ph : Phase) (n : Fin 8) (s : State) : State :=
  { s with cur := k, slot := n, seq := base + n.val, phase := ph }

/-- The bundle at a context's program counter; `none` when no bundle of the section starts there (R131). -/
def bundleAt (s : State) (k : Fin 1024) : Option (Except Reject Bundle) :=
  let c := coreOf k
  let pc := (ctxAt s k).arch.pc.toNat
  if bundleStart s c pc then some (decodeBundle (syllablesFrom s c pc)) else none

/-- TARGET (R371): no bundle starts at the target that was reached from the bundle issued last. -/
def targetFault (s : State) (k : Fin 1024) : FaultRec :=
  mkFault 0x0A 0 none (ctxAt s k).lastBun (ctxAt s k).arch.pc 0

/-- ILLEGAL (R371, R375): the header, or a slot's syllable. -/
def illegalFault (s : State) (k : Fin 1024) : Reject → FaultRec
  | .header => mkFault 0x02 0 none (BitVec.ofNat 64 (syllableAt s (coreOf k) (ctxAt s k).arch.pc.toNat)) 0 0
  | .slot n w =>
    mkFault 0x02 (1 + n.val) (some n) (BitVec.ofNat 64 (syllableAt s (coreOf k) (ctxAt s k).arch.pc.toNat)) (BitVec.ofNat 64 w) 0

/-! ### Checks and effects (R375, R60) -/

/-- The checks of a bundle's operations, in slot order; nothing is changed but the list of what they ask for. -/
def checkOps (k : Fin 1024) (base : Nat) : List (Fin 8 × Instr) → State → Host.Outcome State Fault Refusal
  | [], s => .next s
  | (n, i) :: r, s => bindOut (exec i (atSlot k base .check n s)) (checkOps k base r)

/-- What a bundle's operations ask for; the operations whose check does not answer count nothing here. -/
def probesOf (s : State) (k : Fin 1024) (ops : List (Fin 8 × Instr)) : List Probe :=
  match checkOps k s.seq ops { s with probes := [] } with
  | .next s => s.probes
  | .fault _ => []
  | .refused _ => []

/-- Slot stores, which come after the other accesses of their bundle (R64, R281). -/
def isSlotStore : Instr → Bool
  | .stB _ _ _ _ => true
  | .stH _ _ _ _ => true
  | .stW _ _ _ _ => true
  | .stD _ _ _ _ => true
  | .vst _ _ _ _ => true
  | .vscat _ _ _ _ _ => true
  | _ => false

/-- Operations that end what the context is doing, after every other slot of their bundle (R133 to R135). -/
def isLast : Instr → Bool
  | .trap _ => true
  | .eret _ _ => true
  | .halt _ _ => true
  | _ => false

/-- The order in which a bundle's operations take effect: slot stores after the other accesses, then the M slot, which reads tiles as
they stand at the end of the cycle (R172), then an operation that leaves the program or the handler. -/
def effectOrder (ops : List (Fin 8 × Instr)) : List (Fin 8 × Instr) :=
  let m (q : Fin 8 × Instr) : Bool := q.1 == 3
  let most := ops.filter fun q => !m q && !isLast q.2
  most.filter (fun q => !isSlotStore q.2) ++ most.filter (fun q => isSlotStore q.2) ++ ops.filter m ++
    ops.filter fun q => !m q && isLast q.2

/-- The effects of a bundle's operations. -/
def effectOps (k : Fin 1024) (base : Nat) : List (Fin 8 × Instr) → State → Host.Outcome State Fault Refusal
  | [], s => .next s
  | (n, i) :: r, s => bindOut (exec i (atSlot k base .effect n s)) (effectOps k base r)

/-- A bundle of several operations, or of one with `CAIRN`: all checks first, then the shadow copy, then the effects. -/
def runMany (k : Fin 1024) (b : Bundle) (s : State) : Host.Outcome State Fault Refusal :=
  let base := s.seq
  bindOut (checkOps k base b.ops { s with probes := [] }) fun s =>
    let ps := s.probes
    let s := issue ps id { s with probes := [], cur := k }
    if s.flow = .issued then effectOps k base (effectOrder b.ops) (if b.cairn then takeCairn s else s) else .next s

/-- A decoded bundle of context `k`. One operation alone is one `exec`. -/
def runBundle (k : Fin 1024) (b : Bundle) (s : State) : Host.Outcome State Fault Refusal :=
  match b.ops, b.cairn with
  | [(n, i)], false => exec i (atSlot k s.seq .whole n s)
  | [(_, .nop c)], _ => exec (.nop c) (atSlot k s.seq .whole 0 s)
  | _, _ => runMany k b s

/-! ### What issues next (R24, R61, R63) -/

/-- The context after a bundle that issued: `old` is how it stood before, `next` the index after the bundle. The schedule clock
advances; a pending transfer takes place after its second delay bundle; else loops are tested. -/
def advance (k : Fin 1024) (old : Arch) (next : Word) (s : State) : State :=
  modCtx s k fun c =>
    let a := { c.arch with sched := c.arch.sched + 1 }
    let c := { c with standing := none }
    match s.flow with
    | .jumped t => { c with arch := { a with pc := t }, lastBun := old.pc }
    | .waiting => c
    | .diverted => c
    | .issued =>
      match old.xfer with
      | some x =>
        if x.left ≤ 1 then { c with arch := { a with pc := x.target, xfer := none }, lastBun := x.origin }
        else { c with arch := { a with pc := next, xfer := some { x with left := x.left - 1 } }, lastBun := old.pc }
      | none =>
        if a.xfer.isSome then { c with arch := { a with pc := next }, lastBun := old.pc }
        else
          let n := loopNext next a.loops
          { c with arch := { a with pc := n.1, loops := n.2 }, lastBun := old.pc }

/-- What follows a bundle's operations: the width used, the counts, and the next bundle. -/
def finishBundle (k : Fin 1024) (old : Arch) (next : Word) (base : Nat) (s : State) : State :=
  let s := { s with phase := .whole, probes := [], seq := base + 8 }
  match s.flow with
  | .waiting => s
  | .diverted => useWidth s k
  | .issued => earn (countEvent (useWidth (advance k old next s) k) (coreOf k) 0x0001 1) (coreOf k)
  | .jumped _ => earn (countEvent (useWidth (advance k old next s) k) (coreOf k) 0x0001 1) (coreOf k)

/-- While its core rolls back, a bundle that would set the repeat flag does not issue: its context stops there (R398). -/
def stopsRollback (s : State) (k : Fin 1024) (o : Host.Outcome State Fault Refusal) : Bool :=
  (coreAt s (coreOf k)).rolling.isSome && (match o with
    | .next t => (ctxAt t k).repeatFlag
    | .fault _ => false
    | .refused _ => false)

/-- The bundle at a context's program counter issues, or its fault is taken. -/
def issueNext (k : Fin 1024) (s : State) : Host.Outcome State Fault Refusal :=
  let a := (ctxAt s k).arch
  let next := BitVec.ofNat 64 (afterBundle s (coreOf k) a.pc.toNat)
  let base := s.seq
  match bundleAt s k with
  | none => .next (finishBundle k a next base (trapEnter k (targetFault s k) a.pc s))
  | some (.error e) => .next (finishBundle k a next base (trapEnter k (illegalFault s k e) a.pc s))
  | some (.ok b) =>
    let o := runBundle k b s
    if stopsRollback s k o then .next (rollStop s k)
    else bindOut o fun s => .next (finishBundle k a next base s)

/-- What a selected context does: it enters its handler for a fault that stands (R375, R377, R379), or issues. -/
def runContext (k : Fin 1024) (s : State) : Host.Outcome State Fault Refusal :=
  let c := ctxAt s k
  if faultStands c then .next (useWidth (takeFault k s) k)
  else
    match standingFault c with
    | some f => .next (useWidth (trapEnter k f c.arch.pc s) k)
    | none => issueNext k s

/-! ### A core's turn -/

/-- The fault of the bundle next to issue (R375). -/
def bundleCheck (s : State) (k : Fin 1024) : Option FaultRec :=
  match bundleAt s k with
  | none => some (targetFault s k)
  | some (.error e) => some (illegalFault s k e)
  | some (.ok b) => bundleFault { s with cur := k } (probesOf s k b.ops)

/-- What the bundle next to issue waits for. -/
def bundleNeeds (s : State) (k : Fin 1024) : List Wait :=
  match bundleAt s k with
  | some (.ok b) => bundleWaits (probesOf s k b.ops)
  | _ => []

/-- Whether the bundle next to issue of a context is to be checked: it has come to it, and no fault of it is known; one that waits is
checked again when a ring fails that it waits on (R375, R432). -/
def checksBundle (s : State) (k : Fin 1024) : Bool :=
  let c := ctxAt s k
  decide (c.run = .started) && !frozen s k && rollReady s k && !mustEnter c && !retracting s k && !asking s k && (c.sync.isNone || c.arch.hm) &&
    (c.waits.isEmpty || c.waits.any (ringFailed s k))

/-- The bundle that has become next to issue is checked (R375): its fault stands from this cycle on; without one, where a condition is not
met, the context waits from this cycle on (R31, R298). -/
def lookAhead (s : State) (k : Fin 1024) : State :=
  if checksBundle s k then
    match bundleCheck s k with
    | some f => modCtx s k fun c => { c with standing := some (c.arch.pc, f) }
    | none =>
      let ws := bundleNeeds s k
      if waitsMet { s with cur := k } k [] [] ws then s else modCtx s k fun c => { c with waits := ws }
  else s

/-- The words that a context's next fetch reads are read, and those with an uncorrectable error fetched again (R392). -/
def readBundle (s : State) (k : Fin 1024) : State :=
  if s.bad.isEmpty || (ctxAt s k).run ≠ .started then s else refetch s (coreOf k) (ctxAt s k).arch.pc.toNat 16

/-- The contexts of a core come to their boundaries. -/
def prepare (s : State) (c : Fin 256) : State :=
  let ks := (List.finRange 4).map (ctxId c)
  ks.foldl lookAhead (ks.foldl readBundle (ks.foldl settleCtx s))

/-- A core's turn of a cycle (R32). -/
def coreTurn (c : Fin 256) (s : State) : Host.Outcome State Fault Refusal :=
  if coreRuns s c then
    let s := prepare s c
    if !coreRuns s c then .next s
    else
      match choose s c with
      | (.idle, s) => .next s
      | (.switch, s) => .next s
      | (.issues i, s) => runContext (ctxId c i) s
  else .next s

/-! ### Events -/

/-- Runs events in order. -/
def runActs : List Act → State → Host.Outcome State Fault Refusal
  | [], s => .next s
  | f :: r, s => bindOut (f s) (runActs r)

/-- After a core's turn comes the next core's; after the last the cycle ends, and what is due by itself happens. -/
def endTurn (s : State) : Host.Outcome State Fault Refusal :=
  if s.turn.val < 255 then .next { s with turn := s.turn + 1 }
  else
    let s := endCycle s
    if s.auto then bindOut (runActs (autoEvents s) s) fun s => .next (flushWant (runCellAdds s)) else .next s

/-- Whether an event writes a flag word that has been written in this cycle: it then waits for the next (R288). -/
def flagTaken (s : State) : Instr → Bool
  | .flag _ _ _ j a _ _ => s.flagged.contains (flagKey s j (Fin.ofNat 256 (a.toNat / 64)) (a.toNat % 64))
  | _ => false

/-- Whether an item of the agenda is due: before the first turn of a cycle, so after every access that the slots made in the cycle
before (R64). -/
def isDue (s : State) (d : Due) : Bool := s.turn == 0 && decide (d.cycle ≤ s.cycle) && !flagTaken s d.event

/-- The next event of the agenda that is due, taken off it. -/
def takeDue (s : State) : Option (Instr × State) :=
  match s.agenda.find? (isDue s) with
  | some d => some (d.event, { s with agenda := s.agenda.erase d })
  | none => none

/-- An event of the agenda happens; an operation of a bundle is no event, and does nothing there. -/
def happen (i : Instr) (s : State) : Host.Outcome State Fault Refusal :=
  if (encode i).isNone then bindOut (exec i s) fun s => .next (flushWant s) else .next s

/-! ### Placing one instruction -/

/-- The words of the instruction that a table word stands for; a word that decodes to none is a header of its own. -/
def wordsOf (nbits w : Nat) : List Nat :=
  if nbits = 32 then
    match firstDecoded (tableBundles w) with
    | some (ws, _) => ws
    | none => [w]
  else [w]

/-- The job of a program that is placed by hand: one context, context 0. -/
def placedJob : Job :=
  { id := 1, phase := .running, jpri := 0, slice := 0, sppages := 0, pooltab := 0, snapbase := 0, root := 0, image := 0,
    notify := 0, answer := none, recs := [⟨0, 0, 0, 0, Vector.replicate 8 0⟩],
    pools := Vector.replicate 64 ⟨0, 0, 0, 0, 0, 0, true, 0, 0, 0⟩, domains := [], parArrived := 0, parReleased := 0 }

/-- Puts the words of a bundle at the start of the code section of core 0, and context 0 there, so that the next step issues
them. -/
def placeBundle (ws : List Nat) (s : State) : State :=
  let k : Fin 1024 := 0
  let s := { s with
    turn := 0, agenda := [], jobs := [placedJob],
    mem := memWrite s.mem (codeKey 0 0) (ws.flatMap (leBytes 4)),
    bad := s.bad.filter fun w => !(decide (codeKey 0 0 ≤ w) && decide (w < codeKey 0 16)) }
  let s := modCore s 0 fun x =>
    { x with job := some placedJob.id, codeLen := ws.length, retired := false, rolling := none, busyUntil := 0, holder := none,
             last := none }
  let s := ([1, 2, 3] : List (Fin 1024)).foldl (fun s j => modCtx s j fun c => { c with run := .unstarted }) s
  modCtx s k fun c =>
    { c with run := .started, flight := [], xops := [], deferred := [], waits := [], sync := none, standing := none,
             arch := { c.arch with pc := 0, xfer := none, loops := [], tsk := { c.arch.tsk with retr := false, apend := false } } }

end Sys2Proof.Machine
end

