-- ==== Sys2Proof/Machine/Step.lean ====
section
/-! DEFINITION. One step of the device: an event of the agenda that is due, or the turn of one core of the current cycle. -/

namespace Sys2Proof.Machine

/-- One step. In a cycle every core has one turn, in order; an event of the agenda that is due comes before the turn. -/
def step (s : State) : Host.Outcome State Fault Refusal :=
  match takeDue s with
  | some (i, s) => happen i s
  | none => bindOut (coreTurn s.turn s) endTurn

/-- The state with one instruction of the opcode table placed where the next step fetches. -/
def State.withFetchWord (s : State) (nbits w : Nat) : State := placeBundle (wordsOf nbits w) s

end Sys2Proof.Machine
end

