-- ==== Sys2Proof/Safety.lean ====
section
/-! DEFINITION. The terms in which claims are stated: what it is for an operation to issue alone, what the machine is at its issue,
what it is for a run to go on, and the invariant that every step keeps. -/

namespace Sys2Proof.Safety

open Sys2Proof.Machine

/-- `s` is about to run one operation as a bundle of its own, and the context has room for `n` more results in flight (R29). -/
def Alone (n : Nat) (s : State) : Prop := s.phase = .whole ∧ inFlight (curCtx s) + n ≤ 32

/-- The machine when a bundle issues that no check stops and nothing holds: its waits are over. The operation's own effect comes
on top of it. -/
def issued (s : State) : State := { modCtx s s.cur (fun c => { c with waits := [] }) with flow := .issued }

/-- Every access that the issuing context has issued to [off, off + n) of its core's scratchpad has performed, and its buffered
writes to them are served (R281, R283): a slot access to those bytes finds them as they stand, and need not wait. -/
def Untouched (s : State) (off n : Nat) : Prop := earlierDone s s.cur (spadKey (coreOf s.cur) off) n = true

/-- A slot may store to [off, off + n) of its core's scratchpad: what it comes after has performed, no step's tile and no chunk that a
beat is still to read lies there (R211, R222, R281). -/
def Storable (s : State) (off n : Nat) : Prop :=
  Untouched s off n ∧ meets (claimedTiles (curCore s)) off n = false ∧ pendingSource s off n = none

/-- The outcome of an operation that faults at issue (R375): the exception is taken, with TBUN the bundle itself. -/
def taken (f : FaultRec) (s : State) : Host.Outcome State Fault Refusal := .next (trapEnter s.cur f (curArch s).pc s)

/-- An outcome that is a next state. -/
def GoesOn (o : Host.Outcome State Fault Refusal) : Prop := ∃ t, o = .next t

/-- A run never stops: every step from every state answers a next state. -/
def NeverStops : Prop := ∀ s : State, GoesOn (step s)

/-- The invariant that every step keeps: memory is in its canonical form, so that equal memories are equal data. -/
def Inv (s : State) : Prop := memWf s.mem = true

/-- The byte of memory at a key. -/
def byteAt (s : State) (a : Nat) : Byte := memGet s.mem a

/-- Core `c` has one piece of work outstanding, `w` with issue number `q`; it may perform now, and waits for nobody's acknowledgement. -/
def OnlyWork (s : State) (c : Fin 256) (q : Nat) (w : Work) : Prop :=
  findWork s c q = some w ∧ mayPerform s w = true ∧ coreOf w.ctx = c ∧ (coreAt s c).work = [w] ∧ w.acks = 0

/-- Core `x` runs job `j`. -/
def Held (s : State) (j : BitVec 32) (x : Fin 256) : Prop :=
  (coreAt s x).retired = false ∧ holdsCore s j x = true ∧ (coreAt s x).job = some j

/-- Core `c` reaches the `n` addresses from `lo` on, for job `j`, through its own TLB and with leave to write, in the device's own memory:
`place` gives the physical address of each (R169, R171). -/
def Reaches (s : State) (c : Fin 256) (j : BitVec 32) (place : Nat → Nat) (lo n : Nat) : Prop :=
  lo + n ≤ 2 ^ 48 ∧ ∀ a, lo ≤ a → a < lo + n → place a < 2 ^ 47 ∧
    ∃ e, tlbFind (coreAt s c).tlb j a = some e ∧ e.w = true ∧ place a = e.base + a % 2 ^ pageBits e.level.val

/-- Ranges of addresses, given by start and length, that lie apart, and that `place` keeps apart. -/
def Apart (place : Nat → Nat) (l : List (Nat × Nat)) : Prop :=
  l.Pairwise (fun x y => x.1 + x.2 ≤ y.1 ∨ y.1 + y.2 ≤ x.1) ∧
    ∀ x ∈ l, ∀ y ∈ l, ∀ a b, x.1 ≤ a → a < x.1 + x.2 → y.1 ≤ b → b < y.1 + y.2 → place a = place b → a = b

/-- The `n` bytes from address `a` on, little-endian, where `place` puts them. -/
def numAt (s : State) (place : Nat → Nat) (a n : Nat) : Nat := leVal ((List.range n).map fun i => memGet s.mem (place (a + i)))

end Sys2Proof.Safety
end

