-- ==== Sys2Proof/Certificates/Slice0/Obligations.lean ====
section
/-! DEFINITION. The statements for the provers: what the rules of the spec say of the model. -/

open Sys2Proof Sys2Proof.Machine Sys2Proof.Safety

/-! ### Scalar results (R114 to R122) -/

/-- Integer arithmetic, logic, shifts, rotates, counts, minima and maxima under their predicate: each lands its one value in
`d` after its latency, with nothing else changed; division corners give the values of R117. (R116, R117, R77, R57) -/
def Obligations.IntegerResults : Prop :=
  (∀ (s : State) (d a b : Fin 64) (p : Fin 16) (n : Bool), Alone 1 s → guarded (curArch s) p n = true →
      let x := rS (curArch s) a
      let y := rS (curArch s) b
      let x' : BitVec 32 := x.setWidth 32
      let y' : BitVec 32 := y.setWidth 32
      let gives (lat : Nat) (i : Instr) (v : Word) : Prop := exec i s = .next (land lat (.sreg d v) 0 (issued s))
      gives 1 (.add d a b p n false) (x + y) ∧ gives 1 (.add d a b p n true) ((x' + y').signExtend 64) ∧
      gives 1 (.sub d a b p n false) (x - y) ∧ gives 1 (.sub d a b p n true) ((x' - y').signExtend 64) ∧
      gives 3 (.mul d a b p n false) (x * y) ∧ gives 3 (.mul d a b p n true) ((x' * y').signExtend 64) ∧
      gives 3 (.mulhS d a b p n false) ((x.signExtend 128 * y.signExtend 128).extractLsb' 64 64) ∧
      gives 3 (.mulhS d a b p n true) (((x'.signExtend 64 * y'.signExtend 64).extractLsb' 32 32).signExtend 64) ∧
      gives 3 (.mulhU d a b p n false) ((x.setWidth 128 * y.setWidth 128).extractLsb' 64 64) ∧
      gives 3 (.mulhU d a b p n true) (((x'.setWidth 64 * y'.setWidth 64).extractLsb' 32 32).signExtend 64) ∧
      gives 12 (.divS d a b p n false) (if y = 0 then -1 else x.sdiv y) ∧
      gives 12 (.divS d a b p n true) (if y' = 0 then -1 else (x'.sdiv y').signExtend 64) ∧
      gives 12 (.divU d a b p n false) (if y = 0 then -1 else x / y) ∧
      gives 12 (.divU d a b p n true) (if y' = 0 then -1 else (x' / y').signExtend 64) ∧
      gives 12 (.remS d a b p n false) (if y = 0 then x else x.srem y) ∧
      gives 12 (.remS d a b p n true) (if y' = 0 then x'.signExtend 64 else (x'.srem y').signExtend 64) ∧
      gives 12 (.remU d a b p n false) (if y = 0 then x else x % y) ∧
      gives 12 (.remU d a b p n true) (if y' = 0 then x'.signExtend 64 else (x' % y').signExtend 64)) ∧
  (∀ (s : State) (d a b : Fin 64) (p : Fin 16) (n : Bool), Alone 1 s → guarded (curArch s) p n = true →
      let x := rS (curArch s) a
      let y := rS (curArch s) b
      let x' : BitVec 32 := x.setWidth 32
      let y' : BitVec 32 := y.setWidth 32
      let gives (i : Instr) (v : Word) : Prop := exec i s = .next (land 1 (.sreg d v) 0 (issued s))
      gives (.and d a b p n false) (x &&& y) ∧ gives (.and d a b p n true) ((x' &&& y').signExtend 64) ∧
      gives (.or d a b p n false) (x ||| y) ∧ gives (.or d a b p n true) ((x' ||| y').signExtend 64) ∧
      gives (.xor d a b p n false) (x ^^^ y) ∧ gives (.xor d a b p n true) ((x' ^^^ y').signExtend 64) ∧
      gives (.andn d a b p n false) (x &&& ~~~y) ∧ gives (.andn d a b p n true) ((x' &&& ~~~y').signExtend 64) ∧
      gives (.shl d a b p n false) (x <<< (y.toNat % 64)) ∧
      gives (.shl d a b p n true) ((x' <<< (y'.toNat % 32)).signExtend 64) ∧
      gives (.shr d a b p n false) (x >>> (y.toNat % 64)) ∧
      gives (.shr d a b p n true) ((x' >>> (y'.toNat % 32)).signExtend 64) ∧
      gives (.sra d a b p n false) (x.sshiftRight (y.toNat % 64)) ∧
      gives (.sra d a b p n true) ((x'.sshiftRight (y'.toNat % 32)).signExtend 64) ∧
      gives (.rotl d a b p n false) ((x <<< (y.toNat % 64)) ||| (x >>> (64 - y.toNat % 64))) ∧
      gives (.rotl d a b p n true) (((x' <<< (y'.toNat % 32)) ||| (x' >>> (32 - y'.toNat % 32))).signExtend 64) ∧
      gives (.clz d a p n false) x.clz ∧ gives (.clz d a p n true) (x'.clz.signExtend 64) ∧
      gives (.ctz d a p n false) x.ctz ∧ gives (.ctz d a p n true) (x'.ctz.signExtend 64) ∧
      gives (.popc d a p n false) x.cpop ∧ gives (.popc d a p n true) (x'.cpop.signExtend 64) ∧
      gives (.minS d a b p n false) (if x.toInt ≤ y.toInt then x else y) ∧
      gives (.minS d a b p n true) ((if x'.toInt ≤ y'.toInt then x' else y').signExtend 64) ∧
      gives (.minU d a b p n false) (if x.toNat ≤ y.toNat then x else y) ∧
      gives (.minU d a b p n true) ((if x'.toNat ≤ y'.toNat then x' else y').signExtend 64) ∧
      gives (.maxS d a b p n false) (if x.toInt ≤ y.toInt then y else x) ∧
      gives (.maxS d a b p n true) ((if x'.toInt ≤ y'.toInt then y' else x').signExtend 64) ∧
      gives (.maxU d a b p n false) (if x.toNat ≤ y.toNat then y else x) ∧
      gives (.maxU d a b p n true) ((if x'.toNat ≤ y'.toNat then y' else x').signExtend 64))

/-- Immediates, bit fields, select: unconditional, at t + 1. BFI replaces one field of the destination and keeps its other
bits. (R118, R119, R77) -/
def Obligations.ImmediateResults : Prop :=
  (∀ (s : State) (d a b l m k : Fin 64) (c : Fin 16) (i : BitVec 32), Alone 1 s → l.val + m.val < 64 →
      let x := rS (curArch s) a
      let gives (i : Instr) (v : Word) : Prop := exec i s = .next (land 1 (.sreg d v) 0 (issued s))
      gives (.addi d a i) (x + i.signExtend 64) ∧
      gives (.andi d a i) (x &&& i.signExtend 64) ∧
      gives (.ori d a i) (x ||| i.signExtend 64) ∧
      gives (.xori d a i) (x ^^^ i.signExtend 64) ∧
      gives (.shli d a k) (x <<< k.val) ∧
      gives (.shri d a k) (x >>> k.val) ∧
      gives (.srai d a k) (x.sshiftRight k.val) ∧
      gives (.lui d a i) ((i ++ x.extractLsb' 0 32 : BitVec 64)) ∧
      gives (.movi d i) (i.signExtend 64) ∧
      gives (.sext d a k) ((x.extractLsb' 0 (k.val + 1)).signExtend 64) ∧
      gives (.zext d a k) ((x.extractLsb' 0 (k.val + 1)).setWidth 64) ∧
      gives (.bfxS d a l m) ((x.extractLsb' l.val (m.val + 1)).signExtend 64) ∧
      gives (.bfxU d a l m) ((x.extractLsb' l.val (m.val + 1)).setWidth 64) ∧
      gives (.sel d a b c) (if rP (curArch s) c then x else rS (curArch s) b)) ∧
  (∀ (s : State) (d a l m : Fin 64), Alone 1 s → l.val + m.val < 64 →
      ∃ v : Word, exec (.bfi d a l m) s = .next (land 1 (.sreg d v) 0 (issued s)) ∧
        ∀ j : Nat, j < 64 → v.getLsbD j =
          if l.val ≤ j ∧ j ≤ l.val + m.val then (rS (curArch s) a).getLsbD (j - l.val) else (rS (curArch s) d).getLsbD j)

/-- Compares and predicate logic, under a predicate. A predicated operation whose predicate fails issues and has no effect at
all. (R119, R57, R60) -/
def Obligations.PredicateResults : Prop :=
  (∀ (s : State) (d e f p : Fin 16) (a b : Fin 64) (n : Bool), Alone 1 s → guarded (curArch s) p n = true →
      let x := rS (curArch s) a
      let y := rS (curArch s) b
      let x' : BitVec 32 := x.setWidth 32
      let y' : BitVec 32 := y.setWidth 32
      let gives (i : Instr) (v : Bool) : Prop := exec i s = .next (land 1 (.preg d v) 0 (issued s))
      gives (.cmpEq d a b p n false) (decide (x = y)) ∧ gives (.cmpEq d a b p n true) (decide (x' = y')) ∧
      gives (.cmpNe d a b p n false) (decide (x ≠ y)) ∧ gives (.cmpNe d a b p n true) (decide (x' ≠ y')) ∧
      gives (.cmpLt d a b p n false) (decide (x.toInt < y.toInt)) ∧
      gives (.cmpLt d a b p n true) (decide (x'.toInt < y'.toInt)) ∧
      gives (.cmpGe d a b p n false) (decide (y.toInt ≤ x.toInt)) ∧
      gives (.cmpGe d a b p n true) (decide (y'.toInt ≤ x'.toInt)) ∧
      gives (.cmpLtu d a b p n false) (decide (x.toNat < y.toNat)) ∧
      gives (.cmpLtu d a b p n true) (decide (x'.toNat < y'.toNat)) ∧
      gives (.cmpGeu d a b p n false) (decide (y.toNat ≤ x.toNat)) ∧
      gives (.cmpGeu d a b p n true) (decide (y'.toNat ≤ x'.toNat)) ∧
      gives (.cmpTst d a b p n false) (decide (x &&& y ≠ 0)) ∧ gives (.cmpTst d a b p n true) (decide (x' &&& y' ≠ 0)) ∧
      gives (.cmpTstn d a b p n false) (decide (x &&& y = 0)) ∧ gives (.cmpTstn d a b p n true) (decide (x' &&& y' = 0)) ∧
      gives (.pand d e f p n) (rP (curArch s) e && rP (curArch s) f) ∧
      gives (.por d e f p n) (rP (curArch s) e || rP (curArch s) f) ∧
      gives (.pxor d e f p n) (rP (curArch s) e != rP (curArch s) f) ∧
      gives (.pnot d e p n) (!rP (curArch s) e)) ∧
  (∀ (s : State) (d a b : Fin 64) (q e f p : Fin 16) (n w : Bool), Alone 0 s → guarded (curArch s) p n = false →
      ∀ i ∈ ([.add d a b p n w, .sub d a b p n w, .mul d a b p n w, .mulhS d a b p n w, .mulhU d a b p n w, .divS d a b p n w,
          .divU d a b p n w, .remS d a b p n w, .remU d a b p n w, .and d a b p n w, .or d a b p n w, .xor d a b p n w,
          .andn d a b p n w, .shl d a b p n w, .shr d a b p n w, .sra d a b p n w, .rotl d a b p n w, .clz d a p n w,
          .ctz d a p n w, .popc d a p n w, .minS d a b p n w, .minU d a b p n w, .maxS d a b p n w, .maxU d a b p n w,
          .cmpEq q a b p n w, .cmpNe q a b p n w, .cmpLt q a b p n w, .cmpGe q a b p n w, .cmpLtu q a b p n w,
          .cmpGeu q a b p n w, .cmpTst q a b p n w, .cmpTstn q a b p n w, .pand q e f p n, .por q e f p n, .pxor q e f p n,
          .pnot q e p n, .fadd d a b p n, .fmul d a b p n, .fcmpEq q a b p n, .fcmpLt q a b p n, .fcmpLe q a b p n,
          .fcmpUn q a b p n, .fminmaxMin d a b p n, .fminmaxMax d a b p n, .l1inv a b p n, .l1wb a b p n, .amopop d p n,
          .halt p n, .yield p n] : List Instr),
        exec i s = .next (issued s))

/-- Scalar floating point: the exact result rounded once, its flags with it, at the latencies of R77. the invalid cases give
the canonical NaN and NV, and an exact zero sum has the sign of the rounding mode. (R115, R120, R121, R122, R86, R90, R77) -/
def Obligations.ScalarFloatResults : Prop :=
  (∀ (s : State) (d a b c : Fin 64) (q p : Fin 16) (n l : Bool) (t f : Fin 16), Alone 1 s →
      let r := curArch s
      let m := rmodeOf r.fmt
      let x := num32 ((rS r a).setWidth 32)
      let y := num32 ((rS r b).setWidth 32)
      let z := num32 ((rS r c).setWidth 32)
      let nan2 := flagIf (x.isNan || y.isNan) fNV
      let lands (lat : Nat) (i : Instr) (v : Word) (g : BitVec 6) : Prop :=
        exec i s = .next (land lat (.sreg d v) g (issued s))
      let landsP (i : Instr) (v : Bool) (g : BitVec 6) : Prop := exec i s = .next (land 1 (.preg q v) g (issued s))
      lands 4 (.ffma d a b c) (BitVec.ofNat 64 (fpFma m x y z).bits) (fpFma m x y z).flags ∧
      (∀ y, y = convert f.val t.val l m (fmtSat r.fmt)
          ((rS r a).toNat % 2 ^ (if f.val = 8 ∧ l then 64 else codeWidth f.val)) →
        lands 2 (.fcvt d a l t f)
          (if t.val = 8 ∧ !l then (BitVec.ofNat 32 y.bits).signExtend 64 else BitVec.ofNat 64 y.bits) y.flags) ∧
      (guarded r p n = true →
        lands 4 (.fadd d a b p n) (BitVec.ofNat 64 (fpAdd m x y).bits) (fpAdd m x y).flags ∧
        lands 4 (.fmul d a b p n) (BitVec.ofNat 64 (fpMul m x y).bits) (fpMul m x y).flags ∧
        landsP (.fcmpEq q a b p n) (numEq x y) 0 ∧
        landsP (.fcmpLt q a b p n) (numLt x y) nan2 ∧
        landsP (.fcmpLe q a b p n) (numLt x y || numEq x y) nan2 ∧
        landsP (.fcmpUn q a b p n) (x.isNan || y.isNan) 0 ∧
        lands 1 (.fminmaxMin d a b p n) ((fpMinMax false ((rS r a).setWidth 32) ((rS r b).setWidth 32)).setWidth 64) 0 ∧
        lands 1 (.fminmaxMax d a b p n) ((fpMinMax true ((rS r a).setWidth 32) ((rS r b).setWidth 32)).setWidth 64) 0)) ∧
  ((∀ (r : RMode) (n : Bool), fpAdd r (.inf n) (.inf !n) = ⟨0x7FC00000, fNV⟩) ∧
    (∀ (r : RMode) (a b : Bool) (e : Int), fpMul r (.fin a 0 e) (.inf b) = ⟨0x7FC00000, fNV⟩ ∧
      fpMul r (.inf b) (.fin a 0 e) = ⟨0x7FC00000, fNV⟩ ∧
      ∀ c : Sys2Proof.Machine.Num, fpFma r (.fin a 0 e) (.inf b) c = ⟨0x7FC00000, fNV⟩ ∧ fpFma r (.inf b) (.fin a 0 e) c = ⟨0x7FC00000, fNV⟩) ∧
    (∀ (r : RMode) (n : Bool) (m : Nat) (e : Int), m ≠ 0 →
      fpAdd r (.fin n m e) (.fin (!n) m e) = ⟨if r = .rdn then 0x80000000 else 0, 0⟩) ∧
    (∀ (r : RMode) (n : Bool) (e : Int), fpAdd r (.fin n 0 e) (.fin n 0 e) = ⟨if n then 0x80000000 else 0, 0⟩))

/-! ### Control flow and exceptions (R57 to R63, R131 to R136, R369 to R376) -/

/-- A taken branch sets its target behind two delay bundles; BR, JMP and JMPR close the loops whose body the target leaves;
CALL lands the index of the bundle after its second delay bundle in s63; taken in the last three bundles of an open body, each
faults with LOOP 3; predicated off, none has an effect. After the branch bundle come two bundles in memory order, then the
target; the schedule clock advances at each. The model's choice, no words of a rule: that a taken branch closes the loops whose
body it leaves as it issues (log entry 14), and that `LOOP` 3 binds every taken transfer (log entry 13). (R131, R61, R63, R24)
-/
def Obligations.Transfers : Prop :=
  ((∀ (s : State) (a : Fin 64) (p : Fin 16) (n : Bool) (o : BitVec 35), Alone 0 s → guarded (curArch s) p n = false →
      (curArch s).xfer = none → ∀ x ∈ ([.br p n o, .jmp p n o, .jmpr a p n, .call p n o, .ret a p n] : List Instr),
        exec x s = .next (issued s)) ∧
    (∀ (s : State) (a : Fin 64) (p : Fin 16) (n : Bool) (o : BitVec 35), Alone 1 s → guarded (curArch s) p n = true →
      (curArch s).xfer = none → lastThree s = true →
      ∀ x ∈ ([.br p n o, .jmp p n o, .jmpr a p n, .call p n o, .ret a p n] : List Instr),
        exec x s = taken (mkFault 0x0B 3 (some s.slot) 0 0 0) s) ∧
    ∀ (s : State) (a : Fin 64) (p : Fin 16) (n : Bool) (o : BitVec 35), Alone 1 s → guarded (curArch s) p n = true →
      (curArch s).xfer = none → lastThree s = false →
      let pc := (curArch s).pc
      let reg := (rS (curArch s) a) &&& 0xFFFFFFFF
      let inside (t : Word) : List Loop := (curArch s).loops.filter fun l => decide (l.first ≤ t) && decide (t < l.stop)
      let goes (t : Word) (ls : List Loop) (u : State) : State :=
        modArch u s.cur fun r => { r with xfer := some ⟨t, 2, pc⟩, loops := ls }
      let len (i : Nat) : Nat := bundleLen (syllableAt s (coreOf s.cur) i)
      let i1 := pc.toNat + len pc.toNat
      let i2 := i1 + len i1
      let back := i2 + len i2
      exec (.br p n o) s = .next (goes (pc + o.signExtend 64) (inside (pc + o.signExtend 64)) (issued s)) ∧
      exec (.jmp p n o) s = .next (goes (o.setWidth 64) (inside (o.setWidth 64)) (issued s)) ∧
      exec (.jmpr a p n) s = .next (goes reg (inside reg) (issued s)) ∧
      exec (.call p n o) s =
        .next (goes (pc + o.signExtend 64) (curArch s).loops (land 1 (.sreg 63 (BitVec.ofNat 64 back)) 0 (issued s))) ∧
      exec (.ret a p n) s = .next (countEvent (goes reg (curArch s).loops (issued s)) (coreOf s.cur) 0x000B 1)) ∧
  (∀ (k : Fin 1024) (s : State) (old : Arch) (n t o : Word), s.flow = .issued →
      let a := (ctxAt s k).arch
      let r := (ctxAt (advance k old n s) k).arch
      r.sched = a.sched + 1 ∧
      (old.xfer = none → a.xfer = some ⟨t, 2, o⟩ → r.pc = n ∧ r.xfer = some ⟨t, 2, o⟩ ∧ r.loops = a.loops) ∧
      (old.xfer = some ⟨t, 2, o⟩ → r.pc = n ∧ r.xfer = some ⟨t, 1, o⟩ ∧ r.loops = a.loops) ∧
      (old.xfer = some ⟨t, 1, o⟩ → r.pc = t ∧ r.xfer = none ∧ r.loops = a.loops) ∧
      (old.xfer = none → a.xfer = none → r.pc = (loopNext n a.loops).1 ∧ r.loops = (loopNext n a.loops).2 ∧ r.xfer = none))

/-- LOOP with count 0 goes on at `end`; with another count it opens a body from the next bundle to `end`; a fifth open loop
faults with LOOP 1, an end beyond that of the innermost open body with LOOP 2. a body with count c issues c times: at its end
the first c − 1 passes lead back to its first bundle, and the last closes the loop and tests the one outside it; at the end of
another body the loop stays as it is, and the loops outside it are tested. The model's choice, no words of a rule: the order of
`LOOP` 1 before 2, and the bundle after a count of 0 (log entry 14). (R132, R63) -/
def Obligations.Loops : Prop :=
  (∀ (s : State) (a : Fin 64) (i : BitVec 32), Alone 0 s → (curArch s).xfer = none →
      let c : BitVec 32 := (rS (curArch s) a).setWidth 32
      let stop := nextBundle s + i.setWidth 64
      let ls := (curArch s).loops
      (4 ≤ ls.length → exec (.loop a i) s = taken (mkFault 0x0B 1 (some s.slot) 0 0 0) s) ∧
      (ls.length < 4 → (∃ l r, ls = l :: r ∧ l.stop.toNat < stop.toNat) →
        exec (.loop a i) s = taken (mkFault 0x0B 2 (some s.slot) 0 0 0) s) ∧
      (ls.length < 4 → (∀ l r, ls = l :: r → stop.toNat ≤ l.stop.toNat) → exec (.loop a i) s = .next (if c = 0 then { issued s with flow := .jumped stop }
        else modArch (issued s) s.cur fun r => { r with loops := ⟨nextBundle s, stop, c⟩ :: r.loops }))) ∧
  (∀ (first stop : Word) (c : BitVec 32) (outer : List Loop) (k : Nat), k < c.toNat →
      let after := (fun ls : List Loop => (loopNext stop ls).2)^[k] (⟨first, stop, c⟩ :: outer)
      after = ⟨first, stop, c - BitVec.ofNat 32 k⟩ :: outer ∧
      (k + 1 < c.toNat → (loopNext stop after).1 = first) ∧
      (k + 1 = c.toNat → loopNext stop after = loopNext stop outer) ∧
      (∀ n : Word, n ≠ stop → loopNext n after =
        ((loopNext n outer).1, ⟨first, stop, c - BitVec.ofNat 32 k⟩ :: (loopNext n outer).2)) ∧
      (∀ n : Word, loopNext n [] = (n, [])))

/-- TRAP with traps enabled and outside handler mode enters the handler: the registers of R133. What an earlier run of the
handler has in flight counts as not issued by this one. A fault with traps enabled, outside handler mode, enters the handler;
with traps disabled, or in handler mode, it ends the job. transfers, loops, traps and returns in a delay bundle fault with
DELAY, whatever their predicate. The model's choice, no words of a rule: that `DELAY` is reported whatever the predicate (log
entry 25), and the bundle in `TBUN` (log entry 28). (R133, R370, R371, R373, R375) -/
def Obligations.TrapEntry : Prop :=
  (∀ (s : State) (i : BitVec 16), Alone 0 s → (curArch s).xfer = none → (curArch s).tvec.getLsbD 32 = true →
      (curArch s).hm = false →
      let next := loopNext (nextBundle s) (curArch s).loops
      ∃ t, exec (.trap i) s = .next t ∧ t.flow = .jumped ((curArch s).tvec &&& 0xFFFFFFFF) ∧ t.mem = s.mem ∧
        curArch t = { curArch s with
          loops := next.2, tcause := BitVec.ofNat 64 (i.toNat * 2 ^ 16 + 1), tbun := next.1, tslot := 16, tval0 := 0, tval1 := 0,
          tval2 := 0, hm := true } ∧
        (curCtx t).pending = none ∧ (curCtx t).flight = (curCtx s).flight.map (fun f => { f with handler := false }) ∧
        (∀ k, k ≠ s.cur → ctxAt t k = ctxAt s k)) ∧
  (∀ (k : Fin 1024) (f : FaultRec) (bun : Word) (s : State),
      let a := (ctxAt s k).arch
      let t := trapEnter k f bun s
      (a.tvec.getLsbD 32 = true → a.hm = false →
        (ctxAt t k).arch = { a with
          tcause := BitVec.ofNat 64 (f.sub.toNat * 2 ^ 16 + f.code.toNat), tbun := bun,
          tslot := (match f.slot with
            | some n => BitVec.ofNat 64 (16 + n.val)
            | none => 0),
          tval0 := f.v0, tval1 := f.v1, tval2 := f.v2, hm := true, xfer := none, pc := a.tvec &&& 0xFFFFFFFF } ∧
        (ctxAt t k).pending = a.xfer ∧ (ctxAt t k).flight = (ctxAt s k).flight.map (fun f => { f with handler := false }) ∧ t.flow = .diverted ∧ t.mem = s.mem ∧
        (∀ j, j ≠ k → ctxAt t j = ctxAt s j)) ∧
      (a.tvec.getLsbD 32 = false ∨ a.hm = true → ∀ j, findJob s (jobOf s k) = some j → j.phase = .running →
        ∃ u, findJob t (jobOf s k) = some u ∧
          u.phase = .ending ⟨if a.hm then 2 else 1, k.val, a.sched, BitVec.ofNat 64 (f.sub.toNat * 2 ^ 16 + f.code.toNat), bun,
            slotWord f, f.v0, f.v1, f.v2⟩ ∧ (∀ j, ctxAt t j = ctxAt s j) ∧ t.mem = s.mem)) ∧
  (∀ (s : State) (a : Fin 64) (p : Fin 16) (n : Bool) (o : BitVec 35) (i : BitVec 16) (b : BitVec 32), s.phase = .whole →
      (curArch s).xfer ≠ none →
      ∀ x ∈ ([.br p n o, .jmp p n o, .jmpr a p n, .call p n o, .ret a p n, .loop a b, .trap i, .eret p n] : List Instr),
        exec x s = taken (mkFault 0x03 s.slot.val (some s.slot) 0 0 0) s)

/-- ERET ends handler mode and goes to the bundle at TBUN without delay bundles; the pending transfer comes back only when the
handler left TBUN unchanged. Outside handler mode it faults with PRIV, in a delay bundle with DELAY. The model's choice, no
words of a rule: that only an `ERET` predicated on faults with PRIV (log entry 25), and that `TBUN` counts as unchanged when it
equals its value at the entry (log entry 26). (R134, R376, R371) -/
def Obligations.TrapReturn : Prop :=
  ∀ (s : State) (p : Fin 16) (n : Bool), Alone 0 s → guarded (curArch s) p n = true →
    ((curArch s).xfer = none → (curArch s).hm = true →
      ∃ t, exec (.eret p n) s = .next t ∧ t.flow = .jumped (curArch s).tbun ∧ t.mem = s.mem ∧
        curArch t = { curArch s with
          hm := false, xfer := if (curArch s).tbun = (curCtx s).entryBun then (curCtx s).pending else none } ∧
        (curCtx t).pending = none ∧ (∀ k, k ≠ s.cur → ctxAt t k = ctxAt s k)) ∧
    ((curArch s).xfer = none → (curArch s).hm = false → exec (.eret p n) s = taken (mkFault 0x06 2 (some s.slot) 0 0 0) s) ∧
    ((curArch s).xfer ≠ none → exec (.eret p n) s = taken (mkFault 0x03 s.slot.val (some s.slot) 0 0 0) s)

/-- NOP does nothing, and takes the shadow copy when it bears CAIRN and nothing is in flight; HALT ends the context and drops
its register results and unpopped values; YIELD gives up the issue width. The model's choice, no words of a rule: that a
rollback pass takes no shadow copy (log entry 31), and that `YIELD` lasts until the next selection (log entry 23). (R135, R136,
R396) -/
def Obligations.PlainControl : Prop :=
  ∀ (s : State) (p : Fin 16) (n : Bool), Alone 0 s →
    exec (.nop false) s = .next (issued s) ∧
    exec (.nop true) s = .next (if nothingInFlight s s.cur = true ∧ (curCore s).rolling = none then
      modCtx (issued s) s.cur fun c =>
        { c with shadow := ⟨c.arch, c.pending, c.entryBun, c.hidden⟩, shadowBad := false, repeatFlag := false } else issued s) ∧
    (guarded (curArch s) p n = true →
      exec (.yield p n) s = .next (modCore (issued s) (coreOf s.cur) fun c => { c with yielded := [subOf s.cur] }) ∧
      ∃ t, exec (.halt p n) s = .next t ∧ (curCtx t).run = .halted ∧ (curCtx t).amoq = [] ∧ (curCtx t).deferred = [] ∧
        (curCtx t).arch = curArch s ∧ t.mem = s.mem ∧ t.cores = s.cores ∧ (∀ k, k ≠ s.cur → ctxAt t k = ctxAt s k) ∧
        (∀ f, f ∈ (curCtx t).flight ↔ f ∈ (curCtx s).flight ∧ (f.counts = true → (∃ c, f.act = .matrix c) ∨
          (∃ e r h a x, f.act = .rowStore e r h a x) ∨ ∃ e b, f.act = .zeroBands e b)))

/-! ### CSRs and the handler (R25, R68 to R76, R137 to R139) -/

/-- SCHED reads as the context's own schedule clock. (R25) -/
def Obligations.SchedReadsClock : Prop :=
  ∀ (s : State) (d : Fin 64), Alone 1 s →
    exec (.csrr d 0x005) s = .next (land 1 (.sreg d (ctxAt s s.cur).arch.sched) 0 (issued s))

/-- A CSR access lands the old value at t + 1; the writing forms send the value that R137 forms, at once for PRIO and QUANT, at
t + 1 for every other CSR with writable fields. A CSR write changes its RW fields to the new value and clears the W1C fields it
names; every other field and every other CSR keeps its value, and so do memory and the other contexts. Which fields a program
may write: PRIO, QUANT, TVEC, the handler's registers, the event counters; ASTAT and FSTAT by writing ones; no other CSR has
any. (R137, R68, R70, R71, R73, R74, R75, R76) -/
def Obligations.CsrAccess : Prop :=
  (∀ (s : State) (d a : Fin 64) (i : BitVec 12), Alone 1 s → (handlerCsr i = true → (curArch s).hm = true) →
      let old := csrRead s s.cur i
      let x := rS (curArch s) a
      let reads := land 1 (.sreg d old) 0 (issued s)
      let sends (x c : Word) : State :=
        if rwFields i = 0 ∧ w1cFields i = 0 then reads
        else if i = 0x003 ∨ i = 0x004 then csrWrite reads s.cur i x c true
        else landFree 1 (.csr i x c true) reads
      exec (.csrr d i) s = .next reads ∧
      exec (.csrw d a i) s = .next (sends x x) ∧
      exec (.csrs d a i) s = .next (sends (old ||| x) 0) ∧
      exec (.csrc d a i) s = .next (sends (old &&& ~~~x) x)) ∧
  (∀ (s : State) (k : Fin 1024) (i : BitVec 12) (x c : Word),
      let t := csrWrite s k i x c true
      csrRead t k i = ((csrRead s k i &&& ~~~rwFields i) ||| (x &&& rwFields i)) &&& ~~~(c &&& w1cFields i) ∧
      (∀ j, j ≠ i → csrRead t k j = csrRead s k j) ∧
      t.mem = s.mem ∧ (∀ j, j ≠ k → ctxAt t j = ctxAt s j) ∧ (ctxAt t k).arch.s = (ctxAt s k).arch.s ∧
      (ctxAt t k).flight = (ctxAt s k).flight) ∧
  (rwFields 0x003 = 0x3 ∧ rwFields 0x004 = 0xFFFF ∧ rwFields 0x010 = 0x1FFFFFFFF ∧ rwFields 0x011 = 0xFFFFFFFF ∧
    rwFields 0x012 = BitVec.allOnes 64 ∧ rwFields 0x013 = 0x17 ∧ rwFields 0x014 = BitVec.allOnes 64 ∧
    rwFields 0x015 = BitVec.allOnes 64 ∧ rwFields 0x016 = BitVec.allOnes 64 ∧ w1cFields 0x020 = 0xFF000003 ∧ w1cFields 0x021 = 0x3F ∧
    (∀ i : BitVec 12, 0x040 ≤ i.toNat → i.toNat < 0x050 → rwFields i = 0x1FFFF) ∧
    (∀ i : BitVec 12, 0x050 ≤ i.toNat → i.toNat < 0x060 → rwFields i = BitVec.allOnes 64) ∧
    (∀ i : BitVec 12, i.toNat ≤ 0x002 ∨ (0x005 ≤ i.toNat ∧ i.toNat ≤ 0x00F) ∨ (0x017 ≤ i.toNat ∧ i.toNat < 0x020) ∨
      (0x022 ≤ i.toNat ∧ i.toNat < 0x040) ∨ 0x060 ≤ i.toNat → rwFields i = 0 ∧ w1cFields i = 0))

/-- After a landing fault of a load, RLAND.SET supplies its value from s[a] and RLAND.REDO issues it again at the address in
TVAL0; the result is due at the first bundle after ERET, which gives it its landing cycle. An access that an earlier RLAND has
sent, and that has not performed, is withdrawn. PRIV: a handler's CSR written outside handler mode (SUB 1), ERET outside it
(SUB 2), RLAND with nothing to supply (SUB 3); the instruction has no other effect. The model's choice, no words of a rule:
which result `RLAND` supplies, and that a replay takes the operands from the trap registers (log entry 27), and that only an
operation predicated on faults (log entry 25). (R138, R139, R378, R371, R68, R134) -/
def Obligations.HandlerInstructions : Prop :=
  (∀ (s : State) (a d : Fin 64) (x0 : Word) (p : Fin 16) (n : Bool) (r : LoadReq) (cls : Fin 16) (q : Nat), Alone 1 s →
      guarded (curArch s) p n = true → (curArch s).hm = true → (curCtx s).hidden = some ⟨.load r, .sreg d x0, cls, q⟩ →
      0x18 ≤ (curArch s).tcause.toNat % 2 ^ 16 → (curArch s).tcause.toNat % 2 ^ 16 ≤ 0x1C →
      let old := (curCtx s).flight.filter fun f => decide (f.due ≠ afterReturn)
      let sent := if (findWork s (coreOf s.cur) q).all fun x => x.performed then (curCore s).work
        else (curCore s).work.filter fun x => decide (x.seq ≠ q)
      (∃ t, exec (.rlandSet a p n) s = .next t ∧ t.mem = s.mem ∧
        (curCtx t).flight = old ++ [⟨afterReturn, s.seq, true,
          .sreg d (extendTo r.size r.signed ((rS (curArch s) a).toNat % 2 ^ (8 * r.size))), 0, 0, true, 0, none, false⟩]) ∧
      (∃ t w, exec (.rlandRedo p n) s = .next t ∧ t.mem = s.mem ∧
        (curCtx t).flight = old ++ [⟨afterReturn, s.seq, true, .sreg d x0, 0, 0, false, s.seq, none, false⟩] ∧
        (curCore t).work = sent ++ [w] ∧ (curCtx t).hidden = some ⟨.load r, .sreg d x0, cls, s.seq⟩ ∧
        w.kind = .load { r with addr := (curArch s).tval0 } ∧ w.cls = cls ∧
        w.seq = s.seq ∧ w.ctx = s.cur ∧ w.handler = false) ∧
      (∀ u : State, (ctxAt u s.cur).flight = (ctxAt s s.cur).flight →
        (ctxAt (trapReturn s.cur u) s.cur).flight = (curCtx s).flight.map fun f =>
          if f.due = afterReturn then { f with due := (ctxAt u s.cur).arch.sched.toNat + 1 } else f)) ∧
  (∀ (s : State) (d a : Fin 64) (i : BitVec 12) (p : Fin 16) (n : Bool), Alone 1 s →
      let priv (sub : Nat) : FaultRec := mkFault 0x06 sub (some s.slot) 0 0 0
      ((curArch s).hm = false → 0x011 ≤ i.toNat → i.toNat ≤ 0x016 →
        exec (.csrw d a i) s = taken (priv 1) s ∧ exec (.csrs d a i) s = taken (priv 1) s ∧ exec (.csrc d a i) s = taken (priv 1) s) ∧
      ((curArch s).hm = false → (curArch s).xfer = none → guarded (curArch s) p n = true →
        exec (.eret p n) s = taken (priv 2) s) ∧
      (guarded (curArch s) p n = true → (curArch s).hm = false ∨ (curCtx s).hidden = none →
        exec (.rlandSet a p n) s = taken (priv 3) s ∧ exec (.rlandRedo p n) s = taken (priv 3) s))

/-! ### Issue and landing (R26 to R31, R60, R375) -/

/-- Every operation of a bundle's slots issues alike: its check has no effect; alone in its bundle it takes the first fault, of
the order of R375, that its check finds, and has no other effect; or waits, for what its check asks, and has none; or issues,
with the very effect that it has as one slot of a bundle of several. The model's choice, no words of a rule: that every slot is
checked before any acts (log entry 19). (R375, R31, R60) -/
def Obligations.SlotIssue : Prop :=
  ∀ (i : Instr) (s : State), (encode i).isSome = true → s.phase = .whole →
    ∃ p : Probe, exec i { s with phase := .check } = .next { s with phase := .check, probes := s.probes ++ [p] } ∧
      (∀ f, bundleFault s [p] = some f → exec i s = taken f s) ∧
      (bundleFault s [p] = none → waitsMet s s.cur [] [] p.waits = false → exec i s = .next (goWaiting p.waits s)) ∧
      (bundleFault s [p] = none → waitsMet s s.cur [] [] p.waits = true → ∃ t, exec i s = .next t ∧
        exec i { issued s with phase := .effect } = .next { t with phase := .effect })

/-- A bundle of several operations that faults takes that fault with no effect of any of its slots. The model's choice, no
words of a rule: that every slot is checked before any acts (log entry 19), and which of several faults of one code is reported
(log entry 29). (R375) -/
def Obligations.BundleFaultsFirst : Prop :=
  ∀ (k : Fin 1024) (b : Bundle) (s : State) (f : FaultRec), 2 ≤ b.ops.length → (∀ q ∈ b.ops, (encode q.2).isSome = true) →
    bundleFault { s with cur := k } (probesOf s k b.ops) = some f →
    ∃ t, runBundle k b s = .next t ∧ t.mem = s.mem ∧ t.slices = s.slices ∧
      (∀ j, ctxAt t j = ctxAt (trapEnter k f (ctxAt s k).arch.pc s) j) ∧
      (∀ c, coreAt t c = coreAt (trapEnter k f (ctxAt s k).arch.pc s) c) ∧
      t.jobs = (trapEnter k f (ctxAt s k).arch.pc s).jobs

/-- The results that are due land in the order of their landing cycles, those of one cycle in the issue order of their
operations, so that of two that land in one register the value of the later one remains; those not yet due stay in flight.
Every register and CSR result that is due lands, with the FSTAT and the ASTAT bits of its operation, each after those of an
earlier landing cycle and, in one cycle, after those of operations issued before its own; the registers and the CSRs of the
context, and the CSRs of its core, are what the landings make of them one after another. No memory and no other context
changes. What each kind of register result writes: a scalar, predicate or work register whole (with the task that comes with
it), the named lanes of a vector or mask register, one word of a pattern, one field of a frame, a ring whole or its CONS, a
scale, FMT, the window base, a handle; and no other register. `s0`, `p0` and `m0` keep their constants. A CSR result writes as
the CSR instructions have it. Before its landing cycle a result changes nothing, and a landing that is due without its data
freezes the context: it is not ready, and nothing of it lands. (R26, R27, R30, R90, R95, R56, R67) -/
def Obligations.LandingOrder : Prop :=
  (∀ (s : State) (k : Fin 1024), (ctxAt s k).run = .started → (ctxAt s k).xops = [] → (coreAt s (coreOf k)).rolling = none →
      (ctxAt s k).flight.Pairwise (fun f g => f.seq ≠ g.seq) →
      let T := (ctxAt s k).arch.sched.toNat
      (∀ f ∈ (ctxAt s k).flight, f.due ≤ T → f.ready = true ∧ f.fault = none ∧ ∃ d x, f.act = .sreg d x) →
      ∃ t, exec (.resultLands k) s = .next t ∧ t.mem = s.mem ∧
        (ctxAt t k).flight = (ctxAt s k).flight.filter (fun f => decide (T < f.due)) ∧
        (∀ d : Fin 64, d ≠ 0 →
          (∀ f ∈ (ctxAt s k).flight, ∀ x, f.due ≤ T → f.act = .sreg d x →
            (∀ g ∈ (ctxAt s k).flight, ∀ y, g.due ≤ T → g.act = .sreg d y → g.due < f.due ∨ (g.due = f.due ∧ g.seq ≤ f.seq)) →
            rS (ctxAt t k).arch d = x) ∧
          ((∀ f ∈ (ctxAt s k).flight, ∀ x, f.due ≤ T → f.act ≠ .sreg d x) → rS (ctxAt t k).arch d = rS (ctxAt s k).arch d)) ∧
        rS (ctxAt t k).arch 0 = 0 ∧ (∀ i, rV (ctxAt t k).arch i = rV (ctxAt s k).arch i) ∧
        (∀ i, rP (ctxAt t k).arch i = rP (ctxAt s k).arch i) ∧ (∀ i, rM (ctxAt t k).arch i = rM (ctxAt s k).arch i) ∧
        (ctxAt t k).arch.pc = (ctxAt s k).arch.pc ∧ (∀ j, j ≠ k → ctxAt t j = ctxAt s j)) ∧
  (∀ (s : State) (k : Fin 1024), (ctxAt s k).run = .started → (ctxAt s k).xops = [] → (coreAt s (coreOf k)).rolling = none →
      let a := (ctxAt s k).arch
      let due := (ctxAt s k).flight.filter fun f => decide (f.due ≤ a.sched.toNat)
      let writes (f : Flight) : Option (BitVec 12) := match f.act with
        | .csr i _ _ _ => some i
        | _ => none
      (∀ f ∈ due, f.ready = true ∧ f.fault = none ∧ (match f.act with
        | .rowStore _ _ _ _ _ => False
        | .zeroBands _ _ => False
        | .matrix _ => False
        | .fence _ _ _ _ => False
        | _ => True)) →
      ∃ (t : State) (l : List Flight), exec (.resultLands k) s = .next t ∧ l.Perm due ∧
        l.Pairwise (fun f g => f.due < g.due ∨ (f.due = g.due ∧ f.seq ≤ g.seq)) ∧
        (∀ d q, l.filter (fun f => decide (f.due = d) && decide (f.seq = q)) =
          due.filter (fun f => decide (f.due = d) && decide (f.seq = q))) ∧
        let u := l.foldl (fun u f => modArch (landAct k f.act u) k fun a => raiseAstat f.aflags (raiseFlags f.flags a)) s
        (ctxAt t k).arch = (ctxAt u k).arch ∧ (∀ c, coreAt t c = coreAt u c) ∧ t.mem = s.mem ∧ (∀ j, j ≠ k → ctxAt t j = ctxAt s j) ∧
        (ctxAt t k).flight = (ctxAt s k).flight.filter (fun f => !decide (f.due ≤ a.sched.toNat)) ∧
        ((∀ f ∈ due, writes f ≠ some 0x021) → (ctxAt t k).arch.fstat = due.foldl (fun x f => x ||| f.flags.setWidth 64) a.fstat) ∧
        ((∀ f ∈ due, writes f ≠ some 0x020) → (ctxAt t k).arch.astat = due.foldl (fun x f => x ||| f.aflags) a.astat) ∧
        (∀ d : Fin 64, (∀ f ∈ due, ∀ x y, f.act ≠ .vreg d x y) → rV (ctxAt t k).arch d = rV a d) ∧
        (∀ d : Fin 16, (∀ f ∈ due, ∀ x, f.act ≠ .preg d x) → rP (ctxAt t k).arch d = rP a d) ∧
        (∀ d : Fin 16, (∀ f ∈ due, ∀ x y, f.act ≠ .mreg d x y) → rM (ctxAt t k).arch d = rM a d) ∧
        (∀ d : Fin 8, (∀ f ∈ due, ∀ x y, f.act ≠ .wreg d x y) → (ctxAt t k).arch.w[d] = a.w[d])) ∧
  ((∀ (s : State) (k : Fin 1024) (x : Landing), (match x with
        | .csr _ _ _ _ => False
        | .rowStore _ _ _ _ _ => False
        | .zeroBands _ _ => False
        | .matrix _ => False
        | _ => True) → landAct k x s = modArch s k (landReg x)) ∧
    (∀ (s : State) (k : Fin 1024) (i : BitVec 12) (x c : Word) (w : Bool), landAct k (.csr i x c w) s = csrWrite s k i x c w) ∧
    ∀ (a : Arch),
      (∀ (d : Fin 64) (x : Word), (landReg (.sreg d x) a).v = a.v ∧ (landReg (.sreg d x) a).fstat = a.fstat ∧
        rS (landReg (.sreg d x) a) 0 = 0 ∧ (d ≠ 0 → rS (landReg (.sreg d x) a) d = x) ∧
        ∀ i, i ≠ d → rS (landReg (.sreg d x) a) i = rS a i) ∧
      (∀ (d : Fin 64) (x : VReg) (lanes : Word), (landReg (.vreg d x lanes) a).s = a.s ∧
        (∀ i, i ≠ d → rV (landReg (.vreg d x lanes) a) i = rV a i) ∧
        ∀ j < 64, elem (rV (landReg (.vreg d x lanes) a) d) 32 j = if lanes.getLsbD j then elem x 32 j else elem (rV a d) 32 j) ∧
      (∀ (d : Fin 16) (x lanes : Word), (landReg (.mreg d x lanes) a).v = a.v ∧
        (∀ i, i ≠ d → rM (landReg (.mreg d x lanes) a) i = rM a i) ∧ rM (landReg (.mreg 0 x lanes) a) 0 = BitVec.allOnes 64 ∧
        (d ≠ 0 → ∀ j < 64, (rM (landReg (.mreg d x lanes) a) d).getLsbD j =
          if lanes.getLsbD j then x.getLsbD j else (rM a d).getLsbD j)) ∧
      (∀ (d : Fin 16) (x : Bool), (∀ i, i ≠ d → rP (landReg (.preg d x) a) i = rP a i) ∧ rP (landReg (.preg 0 x) a) 0 = true ∧
        (d ≠ 0 → rP (landReg (.preg d x) a) d = x)) ∧
      (∀ (d : Fin 8) (x : Word),
        landReg (.wreg d x none) a = { a with w := a.w.set d x } ∧
        ∀ q dom, landReg (.wreg d x (some (q, dom))) a = { a with
          w := a.w.set d x, tsk := { a.tsk with delivered := a.tsk.delivered ++ [⟨x &&& 0xFFFFFFFFFFFF, q, dom, false⟩] } }) ∧
      (∀ (i : Fin 8) (k : Fin 24) (x : Word), ((landReg (.pattern i k x) a).a[i]).words = (a.a[i]).words.set k x ∧
        ∀ j : Fin 8, j ≠ i → (landReg (.pattern i k x) a).a[j] = a.a[j]) ∧
      (∀ (r : Fin 8) (x : BitVec 32),
        (landReg (.frame r 0 x false) a).d[r] = { a.d[r] with seed := x } ∧
        (landReg (.frame r 1 x false) a).d[r] = { a.d[r] with rowo := x } ∧
        (landReg (.frame r 1 x true) a).d[r] = { a.d[r] with rowo := (a.d[r]).rowo + x } ∧
        (landReg (.frame r 2 x false) a).d[r] = { a.d[r] with colo := x } ∧
        (landReg (.frame r 2 x true) a).d[r] = { a.d[r] with colo := (a.d[r]).colo + x } ∧
        (landReg (.frame r 3 x false) a).d[r] = { a.d[r] with cfmt := x.setWidth 4, tr := x.getLsbD 4 } ∧
        ∀ fld b, ∀ q : Fin 8, q ≠ r → (landReg (.frame r fld x b) a).d[q] = a.d[q]) ∧
      (∀ (g : Fin 8) (n : BitVec 32), (landReg (.ringCons g n) a).g[g] = { a.g[g] with cons := (a.g[g]).cons + n } ∧
        ∀ h : Fin 8, h ≠ g → (landReg (.ringCons g n) a).g[h] = a.g[h]) ∧
      (∀ (g : Fin 8) (n : BitVec 12), (landReg (.ringInit g n) a).g[g] = { Ring.reset with cap := n } ∧
        ∀ h : Fin 8, h ≠ g → (landReg (.ringInit g n) a).g[h] = a.g[h]) ∧
      (∀ x : Word, landReg (.fmt x) a = { a with fmt := x }) ∧
      (∀ (n : Fin 16) (x : BitVec 32), landReg (.scale n x) a = { a with scl := a.scl.set n x }) ∧
      (∀ (h : Fin 16) (x : Handle), landReg (.handle h x) a = { a with h := a.h.set h x }) ∧
      (∀ k : Fin 8, landReg (.wbase k) a = { a with wbase := a.wbase + k })) ∧
  (∀ (s : State) (k : Fin 1024),
      ((ctxAt s k).xops = [] → (∀ f ∈ (ctxAt s k).flight, (ctxAt s k).arch.sched.toNat < f.due) →
        exec (.resultLands k) s = .next s) ∧
      ((∃ f ∈ (ctxAt s k).flight, f.due ≤ (ctxAt s k).arch.sched.toNat ∧ f.ready = false ∧ ∃ d x, f.act = .sreg d x) →
        exec (.resultLands k) s = .next s ∧ ctxReady s k = false))

/-! ### Scalar memory (R123 to R130, R275 to R281) -/

/-- A scratchpad load lands at t + 3 the little-endian value of the bytes it names, sign- or zero-extended; while an earlier
access of its context to them has still to perform, the context waits instead; an uncorrectable word among them lands SPDATA. a
slot access outside the scratchpad, or not aligned to its size, faults with SPADDR; a store into a claimed tile faults with
CLAIM 1, one into the source of an X operation under way with XORDER 2; none of them has any other effect. The model's choice,
no words of a rule: that a slot access stands as a wait for earlier work on its bytes (log entry 35). (R123, R124, R375, R221,
R211) -/
def Obligations.ScratchpadLoads : Prop :=
  (∀ (s : State) (d a : Fin 64) (o : BitVec 32) (c : Fin 16), Alone 1 s →
      let loads (n : Nat) (i : Instr) (v : Nat → Word) : Prop :=
        let addr := rS (curArch s) a + BitVec.ofInt 64 (o.toInt * n)
        let key := spadKey (coreOf s.cur) addr.toNat
        addr.toNat + n ≤ 0x60000 → addr.toNat % n = 0 →
        (Untouched s addr.toNat n → badAt s key n = false →
          exec i s = .next (land 3 (.sreg d (v (memVal s.mem key n))) 0 (issued s))) ∧
        (¬ Untouched s addr.toNat n → exec i s = .next (goWaiting [.earlier key n] s)) ∧
        (Untouched s addr.toNat n → badAt s key n = true → ∃ f, exec i s = .next (landFault 3 (.sreg d 0) f (issued s)) ∧
          f.code = 0x80 ∧ f.sub = 0 ∧ f.v0 = addr)
      loads 1 (.ldB d a o c) (fun x => (BitVec.ofNat 8 x).signExtend 64) ∧
      loads 2 (.ldH d a o c) (fun x => (BitVec.ofNat 16 x).signExtend 64) ∧
      loads 4 (.ldW d a o c) (fun x => (BitVec.ofNat 32 x).signExtend 64) ∧
      loads 8 (.ldD d a o c) (fun x => BitVec.ofNat 64 x) ∧
      loads 1 (.ldBz d a o c) (fun x => (BitVec.ofNat 8 x).setWidth 64) ∧
      loads 2 (.ldHz d a o c) (fun x => (BitVec.ofNat 16 x).setWidth 64) ∧
      loads 4 (.ldWz d a o c) (fun x => (BitVec.ofNat 32 x).setWidth 64)) ∧
  (∀ (s : State) (d a : Fin 64) (o : BitVec 32) (c : Fin 16), Alone 1 s →
      let at_ (n : Nat) : Word := rS (curArch s) a + BitVec.ofInt 64 (o.toInt * n)
      let outside (n m : Nat) (i : Instr) : Prop := 0x60000 < (at_ n).toNat + n ∨ (at_ n).toNat % m ≠ 0 →
        exec i s = taken (mkFault 0x08 s.slot.val (some s.slot) (at_ n) 0 0) s
      let busy (n m : Nat) (i : Instr) : Prop := (at_ n).toNat + n ≤ 0x60000 → (at_ n).toNat % m = 0 →
        (∀ x, pendingSource s (at_ n).toNat n = some x → exec i s = taken (mkFault 0x10 2 (some s.slot) (BitVec.ofNat 64 x) 0 0) s) ∧
        (pendingSource s (at_ n).toNat n = none → meets (claimedTiles (curCore s)) (at_ n).toNat n = true →
          exec i s = taken (mkFault 0x11 1 (some s.slot) (at_ n) 0 0) s)
      outside 2 2 (.ldH d a o c) ∧ outside 2 2 (.ldHz d a o c) ∧ outside 1 1 (.ldB d a o c) ∧ outside 1 1 (.ldBz d a o c) ∧
      outside 4 4 (.ldW d a o c) ∧ outside 4 4 (.ldWz d a o c) ∧ outside 8 8 (.ldD d a o c) ∧ outside 1 1 (.stB d a o c) ∧
      outside 2 2 (.stH d a o c) ∧ outside 4 4 (.stW d a o c) ∧ outside 8 8 (.stD d a o c) ∧ outside 256 64 (.vld d a o c) ∧
      outside 256 64 (.vst d a o c) ∧ busy 1 1 (.stB d a o c) ∧ busy 2 2 (.stH d a o c) ∧ busy 4 4 (.stW d a o c) ∧
      busy 8 8 (.stD d a o c) ∧ busy 256 64 (.vst d a o c))

/-- A scratchpad store writes the low bytes of s[d], least significant first, in its issue cycle, and changes no other byte, no
register, no result in flight and no other core; a word in error of which it covers a part stays as it is; while an earlier
access of its context to its bytes has still to perform, the context waits instead. The model's choice, no words of a rule:
that a slot access stands as a wait for earlier work on its bytes (log entry 35). (R123, R281, R393) -/
def Obligations.ScratchpadStores : Prop :=
  ∀ (s : State) (d a : Fin 64) (o : BitVec 32) (c : Fin 16), Alone 0 s →
    let stores (n : Nat) (i : Instr) : Prop :=
      let addr := rS (curArch s) a + BitVec.ofInt 64 (o.toInt * n)
      let key := spadKey (coreOf s.cur) addr.toNat
      addr.toNat + n ≤ 0x60000 → addr.toNat % n = 0 →
      (Storable s addr.toNat n →
        ∃ t, exec i s = .next t ∧
          (∀ j < n, byteAt t (key + j) = if ∃ b ∈ badParts s key n, b ≤ key + j ∧ key + j < b + codeWord b then byteAt s (key + j)
            else (rS (curArch s) d).extractLsb' (8 * j) 8) ∧
          (∀ b, b < key ∨ key + n ≤ b → byteAt t b = byteAt s b) ∧ (∀ k, (ctxAt t k).arch = (ctxAt s k).arch) ∧
          (∀ k, (ctxAt t k).flight = (ctxAt s k).flight) ∧ t.cores = s.cores ∧ t.slices = s.slices) ∧
      (¬ Untouched s addr.toNat n → meets (claimedTiles (curCore s)) addr.toNat n = false → pendingSource s addr.toNat n = none →
        exec i s = .next (goWaiting [.earlier key n] s))
    stores 1 (.stB d a o c) ∧ stores 2 (.stH d a o c) ∧ stores 4 (.stW d a o c) ∧ stores 8 (.stD d a o c)

/-- A landing load goes out at issue and its result waits for the data, due at t + the distance it names; VSTG goes out with
the register's value and no result; an address outside the memories they reach, or not aligned, faults with ADDRESS. (R125,
R160, R161, R59) -/
def Obligations.LandingLoadsIssue : Prop :=
  ∀ (s : State) (d a : Fin 64) (o : BitVec 24) (o32 : BitVec 32) (t : BitVec 16) (c : Fin 16), Alone 1 s →
    let ok (x : Word) (n : Nat) : Prop := x.toNat % n = 0 ∧ (x.toNat < 2 ^ 48 ∨
      (x.toNat / 2 ^ 56 = 0xF0 ∧ x.toNat % 2 ^ 48 + n ≤ 0x60000) ∨ (x.toNat / 2 ^ 56 = 0xF2 ∧ x.toNat % 2 ^ 48 + n ≤ 0x1000000))
    let sends (x : Word) (n : Nat) (i : Instr) (kind : WorkKind) (fl : List Flight) : Prop :=
      (ok x n → ∃ u w, exec i s = .next u ∧ (curCore u).work = (curCore s).work ++ [w] ∧ w.kind = kind ∧ w.cls = c ∧
        w.seq = s.seq ∧ w.ctx = s.cur ∧ w.performed = false ∧ w.path = 0 ∧ w.foot = [(x.toNat, x.toNat + n)] ∧
        (curCtx u).flight = (curCtx s).flight ++ fl ∧ curArch u = curArch s ∧ u.mem = s.mem) ∧
      (¬ ok x n → exec i s = taken (mkFault 0x09 s.slot.val (some s.slot) x 0 0) s)
    let x (n : Nat) : Word := rS (curArch s) a + BitVec.ofInt 64 (o.toInt * n)
    let y : Word := rS (curArch s) a + BitVec.ofInt 64 (o32.toInt * (256 : Nat))
    let f (l : Landing) : List Flight := [⟨(curArch s).sched.toNat + t.toNat, s.seq, true, l, 0, 0, false, s.seq, none, (curArch s).hm⟩]
    sends (x 4) 4 (.ldlW d a o t c) (.load ⟨x 4, 4, true⟩) (f (.sreg d 0)) ∧
    sends (x 4) 4 (.ldlWz d a o t c) (.load ⟨x 4, 4, false⟩) (f (.sreg d 0)) ∧
    sends (x 8) 8 (.ldlD d a o t c) (.load ⟨x 8, 8, true⟩) (f (.sreg d 0)) ∧
    sends (x 256) 256 (.vldl d a o t c) (.load ⟨x 256, 256, false⟩) (f (.vreg d 0 (BitVec.allOnes 64))) ∧
    sends y 256 (.vstg d a o32 c) (.vstg y (rV (curArch s) d)) []

/-- L1INV and L1WB go out over [s[a], s[a] + s[b]) with a result due at t + 1; a range outside the global addresses faults with
OPERAND. SPART goes out to the slice in s[a] with its ways, its result due at t + 1; a slice above 255 faults with OPERAND.
(R126, R130, R371) -/
def Obligations.RangeAndSliceRequests : Prop :=
  (∀ (s : State) (a b : Fin 64) (p : Fin 16) (n : Bool), Alone 1 s → guarded (curArch s) p n = true →
      let x := rS (curArch s) a
      let y := rS (curArch s) b
      let goes (i : Instr) (inv : Bool) : Prop :=
        (x.toNat < 2 ^ 48 → x.toNat + y.toNat ≤ 2 ^ 48 → ∃ u w, exec i s = .next u ∧ (curCore u).work = (curCore s).work ++ [w] ∧
          w.kind = .l1op x y inv ∧ w.seq = s.seq ∧ w.ctx = s.cur ∧ w.path = 0 ∧ w.foot = [(x.toNat, x.toNat + y.toNat)] ∧
          (curCtx u).flight = (curCtx s).flight ++
            [⟨(curArch s).sched.toNat + 1, s.seq, true, .nothing, 0, 0, false, s.seq, none, (curArch s).hm⟩] ∧
          curArch u = curArch s ∧ u.mem = s.mem) ∧
        (2 ^ 48 ≤ x.toNat ∨ 2 ^ 48 < x.toNat + y.toNat → exec i s = taken (mkFault 0x0D s.slot.val (some s.slot) x 0 0) s)
      goes (.l1inv a b p n) true ∧ goes (.l1wb a b p n) false) ∧
  (∀ (s : State) (d a : Fin 64) (i : Fin 17), Alone 1 s →
      let x := rS (curArch s) a
      (x.toNat ≤ 255 → ∃ u w, exec (.spart d a i) s = .next u ∧ (curCore u).work = (curCore s).work ++ [w] ∧
        w.kind = .spart x.toNat i.val ∧ w.seq = s.seq ∧ w.ctx = s.cur ∧ (curCtx u).repeatFlag = true ∧
        (curCtx u).flight = (curCtx s).flight ++
          [⟨(curArch s).sched.toNat + 1, s.seq, true, .sreg d 0, 0, 0, false, s.seq, none, (curArch s).hm⟩] ∧
        curArch u = curArch s ∧ u.mem = s.mem) ∧
      (255 < x.toNat → exec (.spart d a i) s = taken (mkFault 0x0D s.slot.val (some s.slot) x 0 0) s))

/-- An AMO or RED goes out with its operands as read at issue; an AMO takes the last place of the return queue, which holds 16;
its issue leaves no valid sector of the address in the core's L1, a dirty one having been written to memory whole, and does
nothing to an L1 without the line; a full queue faults with AMOQ 1, an address that is not global or not aligned with ADDRESS.
AMOPOP takes the oldest place; its value lands at t + 3 when it is there, and is waited for when not; an empty queue faults
with AMOQ 2. The model's choice, no words of a rule: that the sector of the issuing core is dropped at the issue too (log entry
98). (R127, R128, R129, R371) -/
def Obligations.Atomics : Prop :=
  (∀ (s : State) (z : Bool) (c : Fin 16) (a b m : Fin 64), Alone 0 s →
      let r := curArch s
      let x := rS r a
      let n := if z then 8 else 4
      let place (ret : Bool) : List AmoPlace := if ret then [⟨s.seq, z, none, none⟩] else []
      let atIssue (s : State) (pa : Nat) (u t : State) : Prop :=
        (∀ m, l1Sector (curCore t) pa m = none) ∧ (l1Find (curCore s) pa = none → t = u) ∧
        ∀ l i, (curCore s).l1.filter (fun y => decide (y.line = pa / 1024)) = [l] → i = Fin.ofNat 4 (pa / 256) →
          l.dirty.getLsbD i.val = true → l.badIn i.val = [] → pa < 2 ^ 47 →
          memVal t.mem (pa / 256 * 256) 256 = l.data[i].toNat
      ∀ q ∈ ([(0x70, .amoAdd z c a b, rS r 0, true), (0x71, .amoAnd z c a b, rS r 0, true), (0x72, .amoOr z c a b, rS r 0, true),
          (0x73, .amoXor z c a b, rS r 0, true), (0x74, .amoMin z c a b, rS r 0, true), (0x75, .amoMax z c a b, rS r 0, true),
          (0x76, .amoSwap z c a b, rS r 0, true), (0x77, .amoCas z c a b m, rS r m, true), (0x78, .redAdd z c a b, rS r 0, false),
          (0x79, .redAnd z c a b, rS r 0, false), (0x7A, .redOr z c a b, rS r 0, false), (0x7B, .redMin z c a b, rS r 0, false),
          (0x7C, .redMax z c a b, rS r 0, false)] : List (BitVec 8 × Instr × Word × Bool)),
        (x.toNat < 2 ^ 48 → x.toNat % n = 0 → (q.2.2.2 = true → (curCtx s).amoq.length < 16) →
          ∃ u w, exec q.2.1 s = .next (invalidateSector x u) ∧ (curCore u).work = (curCore s).work ++ [w] ∧
            (∀ pa, (xlate u (coreOf s.cur) (jobOf s s.cur) x.toNat false).1 = .ok pa → atIssue s pa u (invalidateSector x u)) ∧
            w.kind = .amo ⟨q.1, x, z, rS r b, q.2.2.1⟩ q.2.2.2 ∧ w.cls = c ∧ w.seq = s.seq ∧ w.ctx = s.cur ∧
            (curCtx u).amoq = (curCtx s).amoq ++ place q.2.2.2 ∧ (curCtx u).repeatFlag = true ∧ curArch u = curArch s ∧
            (curCtx u).flight = (curCtx s).flight ∧ u.mem = s.mem) ∧
        (q.2.2.2 = true → 16 ≤ (curCtx s).amoq.length → exec q.2.1 s = taken (mkFault 0x0C 1 (some s.slot) 0 0 0) s) ∧
        ((q.2.2.2 = true → (curCtx s).amoq.length < 16) → 2 ^ 48 ≤ x.toNat ∨ x.toNat % n ≠ 0 →
          exec q.2.1 s = taken (mkFault 0x09 s.slot.val (some s.slot) x 0 0) s)) ∧
  (∀ (s : State) (d : Fin 64) (p : Fin 16) (n : Bool) (q : Nat) (z : Bool) (v : Word) (f : Option FaultRec) (rest : List AmoPlace),
      Alone 1 s → guarded (curArch s) p n = true →
      let u := modCtx (issued s) s.cur fun c => { c with amoq := rest }
      ((curCtx s).amoq = ⟨q, z, some v, f⟩ :: rest →
        exec (.amopop d p n) s = .next (land 3 (.sreg d (if z then v else (v.setWidth 32 : BitVec 32).signExtend 64)) 0 u)) ∧
      ((curCtx s).amoq = ⟨q, z, none, f⟩ :: rest → exec (.amopop d p n) s = .next (landLate 3 (.sreg d 0) q u)) ∧
      ((curCtx s).amoq = [] → exec (.amopop d p n) s = taken (mkFault 0x0C 2 (some s.slot) 0 0 0) s))

/-- Each event of outstanding work performs the piece it names when that piece is of its kind and may perform, and else changes
nothing; a copy is charged to its engine's budget, and the watchdog's event cuts a stream off at a block. A CPY or CPYM whose
blocks lie in scratchpads that its job holds, with sources apart from destinations, moves every block of its walk: at each
destination core a byte then reads, through the arbitrated port, as the source byte that the last block to write it put there,
and every other byte as before; the ring's FILL rises by INC, and the command is gone. A CPYR of one block from a scratchpad
applies its words at the accumulator write port, by the bank's mode: FP32 as it stands, INT32 overwritten or added modulo 2^32,
anchored rounded half to even to the grid and overwritten or added modulo 2^64, where a NaN or an infinity changes nothing and
sets NV of the issuer; no other byte of memory changes. A CPYX of one block whose source is a chunk of the compressed sectors
of some bytes, with its header before and the closing header after it, writes those bytes; compressed, a sector of 256 bytes
has the length its presence mask gives, a multiple of 16. The model's choice, no words of a rule: that a copy performs whole at
its event (log entries 1 and 43), how the arbitrated ports take turns (log entry 36), what the watchdog of a decoder names (log
entry 44), and what the budget of a copy engine is charged (log entry 95). (R278, R280, R281, R385, R184, R189, R196, R204,
R205, R206) -/
def Obligations.WorkEvents : Prop :=
  (∀ (s : State) (c : Fin 256) (q : Nat) (w : Work), findWork s c q = some w →
      let runs (i : Instr) : Prop := exec i s = .next (if mayPerform s w then chargeCopy (perform s w) w else s)
      (∀ r, w.kind = .load r → runs (.landingDataArrives c q)) ∧
      (∀ a n v, w.kind = .l1op a n v → runs (.landingDataArrives c q)) ∧
      (∀ u n, w.kind = .spart u n → runs (.landingDataArrives c q) ∧ runs (.deferredRefusal c q)) ∧
      (∀ r v, w.kind = .amo r v → runs (.amoPerform c q) ∧ runs (.deferredRefusal c q) ∧ exec (.landingDataArrives c q) s = .next s) ∧
      (∀ a x, w.kind = .vstg a x → runs (.deferredRefusal c q) ∧ exec (.amoPerform c q) s = .next s) ∧
      (∀ cs t k f x v r, w.kind = .flagw cs t k f x v r → runs (.flagWriteArrives c q) ∧ exec (.copyComplete c q) s = .next s) ∧
      (∀ x, w.kind = .copy x → runs (.copyComplete c q) ∧ runs (.engineFault c q) ∧ exec (.flagWriteArrives c q) s = .next s) ∧
      (∀ x, w.kind = .drain x → runs (.drainComplete c q) ∧ runs (.engineFault c q) ∧ exec (.copyComplete c q) s = .next s) ∧
      (∀ x, w.kind = .ladder x → runs (.ladderOpComplete c q) ∧ runs (.engineFault c q) ∧ exec (.drainComplete c q) s = .next s) ∧
      (∀ x, w.kind = .spawn x → runs (.ladderOpComplete c q) ∧ runs (.engineFault c q)) ∧
      (∀ d a n, w.kind = .gload d a n → runs (.ladderOpComplete c q)) ∧ (∀ d a, w.kind = .vtab d a → runs (.ladderOpComplete c q)) ∧
      ((∀ x, w.kind ≠ .copy x) → chargeCopy (perform s w) w = perform s w) ∧
      (∀ x b, w.kind = .copy x → exec (.decoderWatchdog c ⟨q, b⟩) s =
        .next (if x.op = 4 ∧ mayPerform s w = true then chargeCopy (perform s w (some b)) w else s))) ∧
  (∀ (s : State) (c u d0 : Fin 256) (q : Nat) (w : Work) (cmd : CopyCmd) (g : Fin 8) (src dst : Nat → Nat), OnlyWork s c q w →
      let p := cmd.pat
      let op := cmd.op.toNat
      let n := patBlk p
      let blocks := patBlocks p
      let blk := blockAt op p fun _ => 0
      let dests : List (Fin 256) := if op = 2 then dstCores 2 p else [d0]
      w.kind = .copy cmd → w.ring = some g → ((ctxAt s w.ctx).arch.g[g]).fcode = 0 → op = 1 ∨ op = 2 → cmd.oring = none →
      idxUsed op p = false → patRemote op p = false → patDren p = false → 0 < n → n ≤ 4096 →
      (∀ k < blocks, (blk k).1.toNat = localKey 0 u.val (src k) ∧ src k + n ≤ 0x60000 ∧
        (blk k).2.toNat = localKey 0 d0.val (dst k) ∧ dst k + n ≤ 0x60000) →
      (u ∈ dests → ∃ m, (∀ k < blocks, src k + n ≤ m ∧ m ≤ dst k) ∨ (∀ k < blocks, dst k + n ≤ m ∧ m ≤ src k)) →
      Held s w.job u → (∀ v ∈ dests, Held s w.job v) → (∀ k < blocks, badAt s (localKey 0 u.val (src k)) n = false) →
      (∀ v ∈ dests, ∀ k < blocks, badAt s (localKey 0 v.val (dst k)) n = false ∧ meets (claimedTiles (coreAt s v)) (dst k) n = false) →
      ∃ t, exec (.copyComplete c q) s = .next t ∧ t.mem = s.mem ∧ (coreAt t c).work = [] ∧
        (∀ v ∈ dests,
          (∀ k < blocks, ∀ j < n, (∀ h, k < h → h < blocks → dst k + j < dst h ∨ dst h + n ≤ dst k + j) →
            arbRead t v (dst k + j) 1 = arbRead s u (src k + j) 1) ∧
          ∀ z, (∀ k < blocks, z < dst k ∨ dst k + n ≤ z) → arbRead t v z 1 = arbRead s v z 1) ∧
        (∀ v, v ∉ dests → ∀ z, arbRead t v z 1 = arbRead s v z 1) ∧
        (ctxAt t w.ctx).arch.g[g] = { (ctxAt s w.ctx).arch.g[g] with
          fill := ((ctxAt s w.ctx).arch.g[g]).fill + BitVec.ofNat 32 w.inc }) ∧
  (∀ (s : State) (c u v : Fin 256) (q : Nat) (w : Work) (cmd : CopyCmd) (g e : Fin 8) (src off : Nat), OnlyWork s c q w →
      let p := cmd.pat
      let n := patBlk p
      let b := ((coreAt s v).e[e] : Bank)
      let z := if b.mode = 2 then 8 else 4
      let key (i : Nat) : Nat := localKey 1 v.val (e.val * 0x10000 + off + z * i)
      w.kind = .copy cmd → w.ring = some g → ((ctxAt s w.ctx).arch.g[g]).fcode = 0 → cmd.op = 3 → cmd.oring = none →
      patBlocks p = 1 → idxUsed 3 p = false → n % 64 = 0 → 0 < n → n ≤ 4096 → src % 4 = 0 → src + n ≤ 0x60000 → off % z = 0 →
      off + z * (n / 4) ≤ 0x10000 → (patWord p 0).toNat = localKey 0 u.val src →
      (patWord p 1).toNat = localKey 1 v.val (e.val * 0x10000 + off) → b.al = true → b.mode = 0 ∨ b.mode = 1 ∨ b.mode = 2 →
      (b.mode = 0 → cmd.opt = false) → Held s w.job u → Held s w.job v → badAt s (localKey 0 u.val src) n = false →
      badAt s (key 0) (z * (n / 4)) = false →
      let x (i : Nat) : BitVec 32 := BitVec.ofNat 32 (leVal (arbRead s u (src + 4 * i) 4))
      let grid (i : Nat) : Option Int := gridOf b.anc.toInt (num32 (x i))
      ∃ t, exec (.copyComplete c q) s = .next t ∧ (coreAt t c).work = [] ∧
        (∀ i < n / 4,
          (b.mode = 0 → BitVec.ofNat 32 (memVal t.mem (key i) 4) = x i) ∧
          (b.mode = 1 → BitVec.ofNat 32 (memVal t.mem (key i) 4) =
            (if cmd.opt then BitVec.ofNat 32 (memVal s.mem (key i) 4) else 0) + x i) ∧
          (b.mode = 2 → BitVec.ofNat 64 (memVal t.mem (key i) 8) = match grid i with
            | some y => (if cmd.opt then BitVec.ofNat 64 (memVal s.mem (key i) 8) else 0) + BitVec.ofInt 64 y
            | none => BitVec.ofNat 64 (memVal s.mem (key i) 8))) ∧
        (∀ y, y < key 0 ∨ key 0 + z * (n / 4) ≤ y → byteAt t y = byteAt s y) ∧
        (b.mode = 2 → (∃ i < n / 4, grid i = none) →
          (ctxAt t w.ctx).arch.fstat = (ctxAt s w.ctx).arch.fstat ||| fNV.setWidth 64) ∧
        ((b.mode = 2 → ∀ i < n / 4, grid i ≠ none) → (ctxAt t w.ctx).arch.fstat = (ctxAt s w.ctx).arch.fstat) ∧
        (ctxAt t w.ctx).arch.g[g] = { (ctxAt s w.ctx).arch.g[g] with
          fill := ((ctxAt s w.ctx).arch.g[g]).fill + BitVec.ofNat 32 w.inc }) ∧
  ((∀ bs : List Byte, bs.length = 256 →
      let z := compressSector bs
      let mask := leVal (z.take 32)
      z.length = sectorLength mask ∧ z.length % 16 = 0 ∧ expandSector mask 256 0 (z.drop 32) = bs ∧
        ∀ j < 256, mask.testBit j = true ↔ bs.getD j 0 ≠ 0) ∧
    ∀ (s : State) (c u v : Fin 256) (q : Nat) (w : Work) (cmd : CopyCmd) (g : Fin 8) (src dst : Nat) (sectors : List (List Byte)),
      OnlyWork s c q w →
      let p := cmd.pat
      let n := sectors.length
      let chunk := sectors.flatMap compressSector
      w.kind = .copy cmd → w.ring = some g → ((ctxAt s w.ctx).arch.g[g]).fcode = 0 → cmd.op = 4 → cmd.oring = none →
      patBlocks p = 1 → idxUsed 4 p = false → patDren p = false → patBlk p = 256 * n → 0 < n → n ≤ 16 →
      (∀ bs ∈ sectors, bs.length = 256) → (patWord p 0).toNat = localKey 0 u.val src → src + chunk.length + 8 ≤ 0x60000 →
      arbRead s u src (chunk.length + 8) = leBytes 4 (n * 2 ^ 24 + chunk.length) ++ chunk ++ leBytes 4 0 →
      (patWord p 1).toNat = localKey 0 v.val dst → dst + 256 * n ≤ 0x60000 →
      (u = v → src + chunk.length + 8 ≤ dst ∨ dst + 256 * n ≤ src) → Held s w.job u → Held s w.job v →
      badAt s (localKey 0 u.val src) (chunk.length + 8) = false → badAt s (localKey 0 v.val dst) (256 * n) = false →
      meets (claimedTiles (coreAt s v)) dst (256 * n) = false →
      ∃ t, exec (.copyComplete c q) s = .next t ∧ t.mem = s.mem ∧ (coreAt t c).work = [] ∧
        arbRead t v dst (256 * n) = sectors.flatten ∧
        (∀ y z, y ≠ v ∨ z < dst ∨ dst + 256 * n ≤ z → arbRead t y z 1 = arbRead s y z 1) ∧
        (ctxAt t w.ctx).arch.g[g] = { (ctxAt s w.ctx).arch.g[g] with
          fill := ((ctxAt s w.ctx).arch.g[g]).fill + BitVec.ofNat 32 w.inc })

/-- Two accesses of one context on one path with the same class perform in issue order: the later one may not perform, and no
event performs it, while the earlier one has not. (R280) -/
def Obligations.AccessOrder : Prop :=
  ∀ (s : State) (w x : Work) (b : Nat), x ∈ (coreAt s (coreOf w.ctx)).work → isAccess x = true → x.ctx = w.ctx → x.path = w.path →
    x.cls = w.cls → x.seq < w.seq → x.performed = false →
    mayPerform s w = false ∧
    (findWork s (coreOf w.ctx) w.seq = some w →
      ∀ i ∈ ([.landingDataArrives (coreOf w.ctx) w.seq, .amoPerform (coreOf w.ctx) w.seq, .deferredRefusal (coreOf w.ctx) w.seq,
          .flagWriteArrives (coreOf w.ctx) w.seq, .copyComplete (coreOf w.ctx) w.seq, .drainComplete (coreOf w.ctx) w.seq,
          .ladderOpComplete (coreOf w.ctx) w.seq, .engineFault (coreOf w.ctx) w.seq, .decoderWatchdog (coreOf w.ctx) ⟨w.seq, b⟩] :
          List Instr), exec i s = .next s)

/-- The data of a landing load: of the named bytes of a scratchpad that the job holds, or of global memory that no L1 line
covers, read where a translation leads that asks the host for no table; it reaches only the results that wait for it, and
memory keeps its bytes. (R125, R28, R278) -/
def Obligations.LoadDataArrives : Prop :=
  ∀ (s : State) (c : Fin 256) (q : Nat) (w : Work) (r : LoadReq), findWork s c q = some w → mayPerform s w = true →
    w.kind = .load r → coreOf w.ctx = c → (r.size = 4 ∨ r.size = 8 ∨ r.size = 256) → r.addr.toNat % r.size = 0 →
    let walked := xlate { s with want := [] } c w.job r.addr.toNat false
    let gives (m : Nat) : Prop := ∃ t, exec (.landingDataArrives c q) s = .next t ∧ t.mem = s.mem ∧
      (ctxAt t w.ctx).flight = (ctxAt s w.ctx).flight.map fun f => if f.ready = false ∧ f.src = w.seq then
        { f with ready := true, act := (match f.act with
          | .sreg d _ => .sreg d (if r.signed then
              (BitVec.ofNat 64 m <<< (64 - 8 * r.size)).sshiftRight (64 - 8 * r.size) else BitVec.ofNat 64 m)
          | .vreg d _ lanes => .vreg d (BitVec.ofNat 2048 m) lanes
          | x => x) } else f
    (∀ (u : Fin 256) (off : Nat), r.addr.toNat = 0xF000000000000000 + u.val * 2 ^ 48 + off → off + r.size ≤ 0x60000 →
      (coreAt s u).retired = false → holdsCore s w.job u = true → (coreAt s u).job = some w.job → (coreAt s u).buf = [] →
      badAt s (localKey 0 u.val off) r.size = false → gives (memVal s.mem (localKey 0 u.val off) r.size)) ∧
    (∀ pa : Nat, r.addr.toNat < 2 ^ 48 → walked.1 = .ok pa → walked.2.want = [] → pa % r.size = 0 → pa < 2 ^ 47 →
      (coreAt s c).l1 = [] → badAt s pa r.size = false → gives (memVal s.mem pa r.size))

/-- An atomic performs on one word of memory, after its core's L1 has written back what it holds of the sector: the word takes
the new value, every other byte keeps its own, and the old value reaches its place of the return queue, sign-extended when it
has 32 bits. The model's choice, no words of a rule: that the sector of the issuing core is dropped, and written back once
more, when the atomic performs (log entry 98). (R127, R128) -/
def Obligations.AtomicPerforms : Prop :=
  ∀ (s : State) (c : Fin 256) (q : Nat) (w : Work) (r : AmoReq) (ret : Bool) (pa : Nat), findWork s c q = some w →
    mayPerform s w = true → w.kind = .amo r ret → coreOf w.ctx = c → r.addr.toNat < 2 ^ 48 →
    let walked := xlate { s with want := [] } c w.job r.addr.toNat true
    let u := dropL1 putSector walked.2 c pa
    walked.1 = .ok pa → walked.2.want = [] → pa < 2 ^ 47 →
    let n := if r.wide then 8 else 4
    badAt u pa n = false →
    let old := memVal u.mem pa n
    let narrow (f : (m : Nat) → BitVec m → BitVec m → BitVec m → BitVec m) : Nat :=
      if r.wide then (f 64 (BitVec.ofNat 64 old) r.x r.cmp).toNat
      else (f 32 (BitVec.ofNat 32 old) (r.x.setWidth 32) (r.cmp.setWidth 32)).toNat
    let makes (new : Nat) : Prop := ∃ t, exec (.amoPerform c q) s = .next t ∧ memVal t.mem pa n = new ∧
      (∀ b, b < pa ∨ pa + n ≤ b → byteAt t b = byteAt u b) ∧ (l1Find (coreAt s c) pa = none → u.mem = s.mem) ∧
      (ret = true → (ctxAt t w.ctx).amoq = (ctxAt s w.ctx).amoq.map fun p => if p.seq = w.seq then { p with
        value := some (if r.wide then BitVec.ofNat 64 old else (BitVec.ofNat 32 old).signExtend 64) } else p) ∧
      (ret = false → (ctxAt t w.ctx).amoq = (ctxAt s w.ctx).amoq ∧ (ctxAt t w.ctx).flight = (ctxAt s w.ctx).flight)
    (r.op = 0x70 ∨ r.op = 0x78 → makes (narrow fun _ o b _ => o + b)) ∧
    (r.op = 0x71 ∨ r.op = 0x79 → makes (narrow fun _ o b _ => o &&& b)) ∧
    (r.op = 0x72 ∨ r.op = 0x7A → makes (narrow fun _ o b _ => o ||| b)) ∧
    (r.op = 0x73 → makes (narrow fun _ o b _ => o ^^^ b)) ∧
    (r.op = 0x74 ∨ r.op = 0x7B → makes (narrow fun _ o b _ => if o.toInt ≤ b.toInt then o else b)) ∧
    (r.op = 0x75 ∨ r.op = 0x7C → makes (narrow fun _ o b _ => if o.toInt ≤ b.toInt then b else o)) ∧
    (r.op = 0x76 → makes (narrow fun _ _ b _ => b)) ∧
    (r.op = 0x77 → makes (narrow fun _ o b k => if o = k then b else o))

/-! ### The vector slots (R140 to R165) -/

/-- Lane-wise arithmetic: each active lane lands the operation's value, FP32 rounded once or INT32 modulo 2^32, and the flags
of the active lanes alone are raised. The model's choice, no words of a rule: how the value of `EXP2` and `LOG2` is computed
(log entry 16). (R142, R143, R145, R90, R77) -/
def Obligations.VectorArithmetic : Prop :=
  ∀ (s : State) (d a b : Fin 64) (p : Fin 16) (n : Bool), Alone 1 s →
    let r := curArch s
    let m := rmodeOf r.fmt
    let on (j : Nat) : Prop := (laneMask r p n).getLsbD j = true
    let x (j : Nat) : BitVec 32 := elem (rV r a) 32 j
    let y (j : Nat) : BitVec 32 := elem (rV r b) 32 j
    let z (j : Nat) : BitVec 32 := elem (rV r d) 32 j
    let ints (lat : Nat) (i : Instr) (f : Nat → BitVec 32) : Prop :=
      ∃ v, exec i s = .next (land lat (.vreg d v (laneMask r p n)) 0 (issued s)) ∧ ∀ j < 64, on j → elem v 32 j = f j
    let floats (lat : Nat) (i : Instr) (f : Nat → Res) : Prop :=
      ∃ v g, exec i s = .next (land lat (.vreg d v (laneMask r p n)) g (issued s)) ∧
        (∀ j < 64, on j → elem v 32 j = BitVec.ofNat 32 (f j).bits) ∧
        ∀ k < 6, g.getLsbD k = true ↔ ∃ j < 64, on j ∧ (f j).flags.getLsbD k = true
    ints 4 (.vadd d a b p n true) (fun j => x j + y j) ∧ ints 4 (.vsub d a b p n true) (fun j => x j - y j) ∧
    ints 4 (.vmul d a b p n true) (fun j => x j * y j) ∧
    ints 2 (.vmin d a b p n true) (fun j => if (x j).toInt ≤ (y j).toInt then x j else y j) ∧
    ints 2 (.vmax d a b p n true) (fun j => if (x j).toInt ≤ (y j).toInt then y j else x j) ∧
    ints 2 (.vabs d a p n true) (fun j => if (x j).toInt < 0 then -x j else x j) ∧
    ints 2 (.vneg d a p n true) (fun j => -x j) ∧
    floats 4 (.vadd d a b p n false) (fun j => fpAdd m (num32 (x j)) (num32 (y j))) ∧
    floats 4 (.vsub d a b p n false) (fun j => fpAdd m (num32 (x j)) (num32 (y j)).flip) ∧
    floats 4 (.vmul d a b p n false) (fun j => fpMul m (num32 (x j)) (num32 (y j))) ∧
    floats 4 (.vfma d a b p n) (fun j => fpFma m (num32 (x j)) (num32 (y j)) (num32 (z j))) ∧
    floats 4 (.vfms d a b p n) (fun j => fpFma m (num32 (x j)).flip (num32 (y j)) (num32 (z j))) ∧
    ints 2 (.vmin d a b p n false) (fun j => fpMinMax false (x j) (y j)) ∧
    ints 2 (.vmax d a b p n false) (fun j => fpMinMax true (x j) (y j)) ∧
    ints 2 (.vabs d a p n false) (fun j => if (num32 (x j)).isNan then 0x7FC00000 else x j &&& 0x7FFFFFFF) ∧
    ints 2 (.vneg d a p n false) (fun j => if (num32 (x j)).isNan then 0x7FC00000 else x j ^^^ 0x80000000) ∧
    floats 8 (.vexp2 d a p n) (fun j => fpExp2 m (num32 (x j))) ∧ floats 8 (.vlog2 d a p n) (fun j => fpLog2 m (num32 (x j))) ∧
    floats 8 (.vrcp d a p n) (fun j => fpRcp m (num32 (x j))) ∧ floats 8 (.vrsq d a p n) (fun j => fpRsq m (num32 (x j)))

/-- Lane-wise logic, shifts, selection, broadcasts, permutes and extraction. (R142, R144, R154) -/
def Obligations.VectorMoves : Prop :=
  ∀ (s : State) (d a b : Fin 64) (p : Fin 16) (n : Bool), Alone 1 s →
    let r := curArch s
    let on (j : Nat) : Prop := (laneMask r p n).getLsbD j = true
    let x (j : Nat) : BitVec 32 := elem (rV r a) 32 j
    let y (j : Nat) : BitVec 32 := elem (rV r b) 32 j
    let gives (i : Instr) (f : Nat → BitVec 32) : Prop :=
      ∃ v, exec i s = .next (land 2 (.vreg d v (laneMask r p n)) 0 (issued s)) ∧ ∀ j < 64, on j → elem v 32 j = f j
    gives (.vand d a b p n) (fun j => x j &&& y j) ∧ gives (.vor d a b p n) (fun j => x j ||| y j) ∧
    gives (.vxor d a b p n) (fun j => x j ^^^ y j) ∧ gives (.vshl d a b p n) (fun j => x j <<< ((y j).toNat % 32)) ∧
    gives (.vshr d a b p n) (fun j => x j >>> ((y j).toNat % 32)) ∧
    gives (.vsra d a b p n) (fun j => (x j).sshiftRight ((y j).toNat % 32)) ∧
    gives (.vbcast d a p n) (fun _ => (rS r a).setWidth 32) ∧ gives (.viota d p n) (fun j => BitVec.ofNat 32 j) ∧
    gives (.vpermw d a b p n) (fun j => x ((y j).toNat % 64)) ∧
    (∃ v, exec (.vpermb d a b p n) s = .next (land 2 (.vreg d v (laneMask r p n)) 0 (issued s)) ∧
      ∀ j < 256, elem v 8 j = elem (rV r a) 8 (elem (rV r b) 8 j).toNat) ∧
    (∃ v, exec (.vsel d a b p n) s = .next (land 2 (.vreg d v (BitVec.allOnes 64)) 0 (issued s)) ∧
      ∀ j < 64, (on j → elem v 32 j = x j) ∧ (¬ on j → elem v 32 j = y j)) ∧
    exec (.vextr d a b) s = .next (land 2 (.sreg d ((x b.val).setWidth 64)) 0 (issued s))

/-- Compares write the condition of each lane into its bit; an ordered FP32 compare of a NaN lane is false and raises NV. mask
logic under a mask keeps the destination's other bits as they stood at issue; MPOPC counts active set bits. The model's choice,
no words of a rule: the other bits of a mask are those at issue (log entry 49). (R146, R147, R77) -/
def Obligations.VectorComparesAndMasks : Prop :=
  (∀ (s : State) (d : Fin 16) (a b : Fin 64) (p : Fin 16) (n : Bool), Alone 1 s →
      let r := curArch s
      let on (j : Nat) : Prop := (laneMask r p n).getLsbD j = true
      let x (j : Nat) : BitVec 32 := elem (rV r a) 32 j
      let y (j : Nat) : BitVec 32 := elem (rV r b) 32 j
      let nan (j : Nat) : Bool := (num32 (x j)).isNan || (num32 (y j)).isNan
      let lt (j : Nat) : Bool := numLt (num32 (x j)) (num32 (y j))
      let gt (j : Nat) : Bool := numLt (num32 (y j)) (num32 (x j))
      let eq (j : Nat) : Bool := numEq (num32 (x j)) (num32 (y j))
      let gives (i : Instr) (f : Nat → Bool) : Prop :=
        ∃ v, exec i s = .next (land 2 (.mreg d v (laneMask r p n)) 0 (issued s)) ∧ ∀ j < 64, on j → v.getLsbD j = f j
      let signals (i : Instr) (f : Nat → Bool) : Prop :=
        ∃ v g, exec i s = .next (land 2 (.mreg d v (laneMask r p n)) g (issued s)) ∧ (∀ j < 64, on j → v.getLsbD j = f j) ∧
          (g = fNV ∨ g = 0) ∧ (g = fNV ↔ ∃ j < 64, on j ∧ nan j = true)
      gives (.vcmpEq d a b p n true) (fun j => decide (x j = y j)) ∧ gives (.vcmpNe d a b p n true) (fun j => decide (x j ≠ y j)) ∧
      gives (.vcmpLt d a b p n true) (fun j => decide ((x j).toInt < (y j).toInt)) ∧
      gives (.vcmpLe d a b p n true) (fun j => decide ((x j).toInt ≤ (y j).toInt)) ∧
      gives (.vcmpGt d a b p n true) (fun j => decide ((y j).toInt < (x j).toInt)) ∧
      gives (.vcmpGe d a b p n true) (fun j => decide ((y j).toInt ≤ (x j).toInt)) ∧
      gives (.vcmpLtu d a b p n) (fun j => decide ((x j).toNat < (y j).toNat)) ∧
      gives (.vcmpGeu d a b p n) (fun j => decide ((y j).toNat ≤ (x j).toNat)) ∧
      gives (.vcmpEq d a b p n false) eq ∧ gives (.vcmpNe d a b p n false) (fun j => !eq j) ∧
      gives (.vcmpUn d a b p n) nan ∧ gives (.vcmpOrd d a b p n) (fun j => !nan j) ∧
      signals (.vcmpLt d a b p n false) lt ∧ signals (.vcmpLe d a b p n false) (fun j => lt j || eq j) ∧
      signals (.vcmpGt d a b p n false) gt ∧ signals (.vcmpGe d a b p n false) (fun j => gt j || eq j)) ∧
  (∀ (s : State) (d a b p : Fin 16) (e : Fin 64) (n : Bool), Alone 1 s →
      let r := curArch s
      let g := laneMask r p n
      let gives (i : Instr) (x : Word) : Prop :=
        exec i s = .next (land 1 (.mreg d ((x &&& g) ||| (rM r d &&& ~~~g)) (BitVec.allOnes 64)) 0 (issued s))
      gives (.mand d a b p n) (rM r a &&& rM r b) ∧ gives (.mor d a b p n) (rM r a ||| rM r b) ∧
      gives (.mnot d a p n) (~~~(rM r a)) ∧
      exec (.mpopc e a p n) s = .next (land 1 (.sreg e (rM r a &&& g).cpop) 0 (issued s)))

/-- VCVT converts 64 elements into the destination's part K, or into all 64 lanes for a 32-bit format, and keeps the
destination's other elements. VQNT quantises 64 lanes into part K of the destination and keeps the rest of it: to INT4 or INT8
lane by lane, to DXB4 or DXB8 as two blocks of 32. With FMT.DITH each lane takes the offset of its place in the frame. A frame
of another code format faults with FRAME when dithering, a scale that is not positive, normal and finite with SCALE. VDQ lands
the exact value of each code, rounded to nearest even, with the flags of the roundings: (s − d) × u for an integer code, (s −
d) × 2^(E − 127) × SCL for an element of a DXB block, NaN where the block's EH is 0xFF, +0 for a zero of a block. d is the
offset of the lane's place where the frame has the operand's format, else 0; a frame of another code format faults with FRAME.
the offset of a dithered element is that of its frame coordinates, rows and columns exchanged under TR: an odd number of 32nds
between −15 and 15, the function of R101; over an aligned run of sixteen columns of a row it takes each of the sixteen values
once, so that they sum to 0. the block that a DXB quantiser makes of 32 finite values, by R85: its exponents, the selector and
the code of each element, nearest to x / u plus the offset with ties to even and clamped, and NX; an exponent past 254 gives
the NaN block and OF, or the largest codes under SAT; a NaN, or an infinity without SAT, gives the NaN block. The model's
choice, no words of a rule: the other bits of a narrow result are those at issue (log entry 49), the sign of a zero that an INT
code decodes to (log entry 81), and that a block with a NaN takes the row of the NaN (log entry 101). (R148, R150, R152, R153,
R84, R85, R98, R101, R102, R104, R105, R106) -/
def Obligations.VectorConversions : Prop :=
  (∀ (s : State) (d a : Fin 64) (k : Fin 8) (t f : Fin 16), Alone 1 s → t.val ≤ 10 → f.val ≤ 10 →
      let r := curArch s
      let ws := codeWidth f.val
      let wd := codeWidth t.val
      64 * (k.val + 1) * ws ≤ 2048 ∨ ws = 32 → 64 * (k.val + 1) * wd ≤ 2048 ∨ wd = 32 →
      let y (j : Nat) : Res := convert f.val t.val false (rmodeOf r.fmt) (fmtSat r.fmt)
        (elem (rV r a) ws (if ws = 32 then j else 64 * k.val + j)).toNat
      ∃ v g, exec (.vcvt d a k t f) s = .next (land 4 (.vreg d v (BitVec.allOnes 64)) g (issued s)) ∧
        (∀ j < 64, elem v wd (if wd = 32 then j else 64 * k.val + j) = BitVec.ofNat wd (y j).bits) ∧
        (wd ≠ 32 → ∀ j < 2048 / wd, j < 64 * k.val ∨ 64 * k.val + 64 ≤ j → elem v wd j = elem (rV r d) wd j) ∧
        ∀ b < 6, g.getLsbD b = true ↔ ∃ j < 64, (y j).flags.getLsbD b = true) ∧
  (∀ (s : State) (d a : Fin 64) (f : Fin 4) (k : Fin 8) (si : Fin 16) (fr : Fin 8) (v : BitVec 20), Alone 1 s →
      let r := curArch s
      let c := (r.scl[si] : BitVec 32)
      let cf := if f.val ≤ 1 then 6 + f.val else 7 + f.val
      let fm := (r.d[fr] : Frame)
      let clash : Prop := fmtDith r.fmt = true ∧ isCodeFormat fm.cfmt.toNat = true ∧ fm.cfmt.toNat ≠ cf
      let ok : Prop := 0x00800000 ≤ c.toNat ∧ c.toNat < 0x7F800000
      let off (j : Nat) : Int := if fmtDith r.fmt then offsetAt fm v.toInt ((64 * k.val + j : Nat) : Int) else 0
      let x (j : Nat) : Sys2Proof.Machine.Num := num32 (elem (rV r a) 32 j)
      let w := codeWidth cf
      let z := if f.val = 2 then 18 else 34
      let block (h : Nat) : Block := quantDxb cf si.val c (fmtSat r.fmt) ((List.range 32).map fun i => x (32 * h + i))
        ((List.range 32).map fun i => off (32 * h + i))
      (¬ clash → ok → ∃ u g, exec (.vqnt d a f k si fr v) s = .next (land 4 (.vreg d u (BitVec.allOnes 64)) g (issued s)) ∧
        (f.val ≤ 1 → 64 * (k.val + 1) * w ≤ 2048 → ∀ mu eu, num32 c = .fin false mu eu →
          (∀ j < 64, elem u w (64 * k.val + j) = BitVec.ofInt _ (quantInt cf mu eu (x j) (off j)).1) ∧
          (∀ j < 2048 / w, j < 64 * k.val ∨ 64 * k.val + 64 ≤ j → elem u w j = elem (rV r d) w j) ∧
          ∀ b < 6, g.getLsbD b = true ↔ ∃ j < 64, (quantInt cf mu eu (x j) (off j)).2.getLsbD b = true) ∧
        (2 ≤ f.val → (2 * k.val + 2) * z ≤ 256 →
          (∀ h < 2, ∀ i < z, elem u 8 ((2 * k.val + h) * z + i) = (blockBytes cf (block h)).getD i 0) ∧
          (∀ i < 256, i < 2 * k.val * z ∨ (2 * k.val + 2) * z ≤ i → elem u 8 i = elem (rV r d) 8 i) ∧
          g = (block 0).flags ||| (block 1).flags)) ∧
      (clash → ok → exec (.vqnt d a f k si fr v) s = taken (mkFault 0x45 fr.val (some s.slot) (fm.cfmt.setWidth 64) (BitVec.ofNat 64 cf) 0) s) ∧
      (¬ clash → ¬ ok → exec (.vqnt d a f k si fr v) s = taken (mkFault 0x46 si.val (some s.slot) (c.setWidth 64) 0 0) s)) ∧
  (∀ (s : State) (d a : Fin 64) (f : Fin 4) (k : Fin 8) (si : Fin 16) (fr : Fin 8) (v : BitVec 20), Alone 1 s →
      let r := curArch s
      let cf := if f.val ≤ 1 then 6 + f.val else 7 + f.val
      let w := codeWidth cf
      let fm := (r.d[fr] : Frame)
      let clash : Prop := isCodeFormat fm.cfmt.toNat = true ∧ fm.cfmt.toNat ≠ cf
      let off (j : Nat) : Int := if fm.cfmt.toNat = cf then offsetAt fm v.toInt ((64 * k.val + j : Nat) : Int) else 0
      let code (i : Int) (j : Nat) : Sys2Proof.Machine.Num := .fin (decide (32 * i - off j < 0)) (32 * i - off j).natAbs (-5)
      let plain (j : Nat) : Res := fpMul .rne (code (elem (rV r a) w (64 * k.val + j)).toInt j) (num32 r.scl[si])
      let at_ (j : Nat) : Nat := (if f.val = 2 then 18 else 34) * (2 * k.val + j / 32)
      let hdr (j : Nat) : Nat := (elem (rV r a) 16 (at_ j / 2)).toNat
      let raw (j : Nat) : Nat := if f.val = 2 then (elem (rV r a) 4 (2 * at_ j + 4 + j % 32)).toNat else (elem (rV r a) 8 (at_ j + 2 + j % 32)).toNat
      let big := if f.val = 2 then 3 else 63
      let blocked (j : Nat) : Res :=
        let mag : Int := ((raw j % (big + 1) : Nat) : Int)
        let e : Int := if raw j / (2 * (big + 1)) % 2 = 1 then ((hdr j / 16 % 256 : Nat) : Int)
          else ((hdr j / 16 % 256 : Nat) : Int) - 1 - ((hdr j % 16 : Nat) : Int)
        let y := mulNum (mulNum (code (if raw j / (big + 1) % 2 = 1 then -mag else mag) j) (.fin false 1 (e - 127))).1
          (num32 r.scl[hdr j / 4096 % 16])
        if hdr j / 16 % 256 = 255 then ⟨0x7FC00000, 0⟩ else if numEq y.1 (.fin false 0 0) then ⟨0, 0⟩ else deliver .rne y
      let lane (j : Nat) : Res := if f.val ≤ 1 then plain j else blocked j
      (¬ clash → (if f.val ≤ 1 then 64 * (k.val + 1) * w ≤ 2048 else (2 * k.val + 2) * (if f.val = 2 then 18 else 34) ≤ 256) →
        ∃ u g, exec (.vdq d a f k si fr v) s = .next (land 4 (.vreg d u (BitVec.allOnes 64)) g (issued s)) ∧
          (∀ j < 64, elem u 32 j = BitVec.ofNat 32 (lane j).bits) ∧
          ∀ b < 6, g.getLsbD b = true ↔ ∃ j < 64, (lane j).flags.getLsbD b = true) ∧
      (clash → exec (.vdq d a f k si fr v) s =
        taken (mkFault 0x45 fr.val (some s.slot) (fm.cfmt.setWidth 64) (BitVec.ofNat 64 cf) 0) s)) ∧
  ((∀ (f : Frame) (i j : Int), offsetAt f i j =
      ditherOffset f.seed (f.rowo + BitVec.ofInt 32 (if f.tr then j else i)) (f.colo + BitVec.ofInt 32 (if f.tr then i else j))) ∧
    (∀ seed row col : BitVec 32,
      let w : Nat := 2 ^ 32
      let x0 := seed ^^^ BitVec.ofNat 32 (row.toNat * 0x9E3779B1 % w) ^^^ BitVec.ofNat 32 (col.toNat / 16 * 0x85EBCA77 % w)
      let x1 := x0 ^^^ BitVec.ofNat 32 (x0.toNat / 2 ^ 15)
      let x2 := BitVec.ofNat 32 (x1.toNat * 0x2C1B3C6D % w)
      let x3 := x2.toNat ^^^ (x2.toNat / 2 ^ 12)
      ditherOffset seed row col = 2 * ((((2 * (x3 % 8) + 1) * (col.toNat % 16) + x3 / 8 % 16) % 16 : Nat) : Int) - 15) ∧
    ∀ (seed row : BitVec 32) (g : Nat), g < 2 ^ 28 →
      let run := (List.range 16).map fun c => ditherOffset seed row (BitVec.ofNat 32 (16 * g + c))
      (∀ n < 16, (run.filter fun y => decide (y = 2 * (n : Int) - 15)).length = 1) ∧ run.sum = 0) ∧
  (∀ (c si : Nat) (scale : BitVec 32) (sat : Bool) (mu : Nat) (eu : Int), c = 9 ∨ c = 10 → num32 scale = .fin false mu eu → mu ≠ 0 →
      let big := if c = 9 then 3 else 63
      let none_ (f : BitVec 6) : Block := ⟨si * 4096 + 255 * 16, List.replicate 32 0, f⟩
      (∀ (xs : List Sys2Proof.Machine.Num) (ds : List Int),
        (.nan ∈ xs → quantDxb c si scale sat xs ds = none_ fNV) ∧
        (.nan ∉ xs → (∃ g, .inf g ∈ xs) → sat = false → quantDxb c si scale sat xs ds = none_ fOF)) ∧
      ∀ (neg : Nat → Bool) (m : Nat → Nat) (ex d e : Nat → Int) (top rank : Int),
        let b := quantDxb c si scale sat ((List.range 32).map fun i => .fin (neg i) (m i) (ex i)) ((List.range 32).map d)
        let within (i : Nat) (k : Int) : Prop :=
          let q := min (ex i) (k - 127 + eu)
          m i * 2 ^ (ex i - q).toNat ≤ big * mu * 2 ^ (k - 127 + eu - q).toNat
        let atLeast (k : Int) : Nat := ((List.range 32).filter fun i => decide (k ≤ e i)).length
        (∀ i < 32, m i = 0 → e i = 0) → (∀ i < 32, m i ≠ 0 → within i (e i) ∧ ¬ within i (e i - 1)) →
        16 ≤ top → (∀ i < 32, e i ≤ top) → (top = 16 ∨ ∃ i < 32, e i = top) → atLeast (rank + 1) < 16 → 16 ≤ atLeast rank →
        let el := max (top - 16) (min (top - 1) rank)
        (254 < top → sat = false → b = none_ fOF) ∧
        (254 < top → sat = true → b.hdr / 16 % 256 = 254 ∧ b.flags = (fSATF ||| fOF ||| fNX) ∧
          ∀ i < 32, 254 < e i → b.codes[i]? = some (2 * (big + 1) + (if neg i then big + 1 else 0) + big)) ∧
        (top ≤ 254 → b.hdr = si * 4096 + top.toNat * 16 + (top - 1 - el).toNat ∧ b.codes.length = 32 ∧
          ∃ sel : Nat → Bool, (∀ i < 32, sel i = true ↔ ¬ within i el) ∧
            let f (i : Nat) : Int × Nat := gridFraction (neg i) (m i) (ex i) mu (eu + ((if sel i then top else el) - 127)) (d i)
            ∃ q : Nat → Int, (∀ i < 32, 2 * ((f i).1 - q i * (f i).2) ≤ (f i).2 ∧ 2 * (q i * (f i).2 - (f i).1) ≤ (f i).2 ∧
                (2 * ((f i).1 - q i * (f i).2) = (f i).2 ∨ 2 * (q i * (f i).2 - (f i).1) = (f i).2 → q i % 2 = 0)) ∧
              let z (i : Nat) : Int := max (-(big : Int)) (min big (q i))
              (∀ i < 32, b.codes[i]? = some ((if sel i then 2 * (big + 1) else 0) + (if z i < 0 then big + 1 else 0) + (z i).natAbs)) ∧
              ((∀ i < 32, z i * (f i).2 = (f i).1) → b.flags = 0) ∧ ((∃ i < 32, z i * (f i).2 ≠ (f i).1) → b.flags = fNX)))

/-- Reductions give every lane one value: INT32 the sum modulo 2^32, the largest or the smallest of the active lanes; FP32 the
tree of R97 over the lanes with the operation's identity where they are off. The tree of R97 adds 64 values pairwise:
neighbours first, then neighbouring sums. (R97, R155) -/
def Obligations.VectorReductions : Prop :=
  (∀ (s : State) (d a : Fin 64) (p : Fin 16) (n : Bool), Alone 1 s →
      let r := curArch s
      let on (j : Nat) : Prop := (laneMask r p n).getLsbD j = true
      let x (j : Nat) : BitVec 32 := elem (rV r a) 32 j
      let act := (List.range 64).filter fun j => (laneMask r p n).getLsbD j
      let gives (i : Instr) (v : BitVec 32) (g : BitVec 6) : Prop :=
        ∃ u, exec i s = .next (land 6 (.vreg d u (BitVec.allOnes 64)) g (issued s)) ∧ ∀ j < 64, elem u 32 j = v
      let tree (f : BitVec 32 → BitVec 32 → BitVec 32 × BitVec 6) (one : BitVec 32) : BitVec 32 × BitVec 6 :=
        treeReduce f 6 ((List.range 64).map fun j => if (laneMask r p n).getLsbD j then x j else one)
      let add := tree (fun y z => let q := fpAdd (rmodeOf r.fmt) (num32 y) (num32 z); (BitVec.ofNat 32 q.bits, q.flags)) 0x80000000
      gives (.vredadd d a p n true) (act.map x).sum 0 ∧
      (∃ v, gives (.vredmax d a p n true) v 0 ∧ (∀ j < 64, on j → (x j).toInt ≤ v.toInt) ∧
        ((∃ j < 64, on j ∧ v = x j) ∨ v = 0x80000000)) ∧
      (∃ v, gives (.vredmin d a p n true) v 0 ∧ (∀ j < 64, on j → v.toInt ≤ (x j).toInt) ∧
        ((∃ j < 64, on j ∧ v = x j) ∨ v = 0x7FFFFFFF)) ∧
      gives (.vredadd d a p n false) add.1 add.2 ∧
      gives (.vredmax d a p n false) (tree (fun y z => (fpMinMax true y z, 0)) 0xFF800000).1 0 ∧
      gives (.vredmin d a p n false) (tree (fun y z => (fpMinMax false y z, 0)) 0x7F800000).1 0) ∧
  (∀ (f : BitVec 32 → BitVec 32 → BitVec 32 × BitVec 6) (n : Nat) (x y : List (BitVec 32)), x.length = 2 ^ n → y.length = 2 ^ n →
      (treeReduce f (n + 1) (x ++ y)).1 = (f (treeReduce f n x).1 (treeReduce f n y).1).1 ∧
      (∀ z : BitVec 32, (treeReduce f 0 [z]).1 = z))

/-- VTRIP lands maximum, sum and accumulator together at t + 12: a lane with a NaN lands three NaNs with NV, a lane whose two
maxima are −∞ keeps its values, and every other lane takes the new maximum, Round(cl × α + β) and Round(u × β + Round(co × α)),
with the flags of each rounding. (R156) -/
def Obligations.SoftmaxTriple : Prop :=
  ∀ (s : State) (d a b : Fin 64), Alone 3 s → d.val < 62 →
    let r := curArch s
    let rm := rmodeOf r.fmt
    let val (x : Res) : Sys2Proof.Machine.Num := num32 (BitVec.ofNat 32 x.bits)
    let lane (y : Fin 64) (j : Nat) : BitVec 32 := elem (rV r y) 32 j
    let cm := lane d
    let cl := lane (d + 1)
    let co := lane (d + 2)
    let sc := lane a
    let u := lane b
    let nan (j : Nat) : Prop := (num32 (cm j)).isNan = true ∨ (num32 (cl j)).isNan = true ∨ (num32 (co j)).isNan = true ∨
      (num32 (sc j)).isNan = true ∨ (num32 (u j)).isNan = true
    let nm (j : Nat) : BitVec 32 := fpMinMax true (cm j) (sc j)
    let minus (x : BitVec 32) (j : Nat) : Res := fpAdd rm (num32 x) (num32 (nm j)).flip
    let scaled (x : BitVec 32) (j : Nat) : Res := fpMul rm (val (minus x j)) (num32 0x3FB8AA3B)
    let power (x : BitVec 32) (j : Nat) : Res := fpExp2 rm (val (scaled x j))
    let weight (x : BitVec 32) (j : Nat) : Res :=
      if nm j = 0x7F800000 then ⟨if x = 0x7F800000 then 0x3F800000 else 0, 0⟩
      else ⟨(power x j).bits, (minus x j).flags ||| (scaled x j).flags ||| (power x j).flags⟩
    let alpha (j : Nat) : Res := weight (cm j) j
    let beta (j : Nat) : Res := weight (sc j) j
    let sum (j : Nat) : Res := fpFma rm (num32 (cl j)) (val (alpha j)) (val (beta j))
    let kept (j : Nat) : Res := fpMul rm (num32 (co j)) (val (alpha j))
    let acc (j : Nat) : Res := fpFma rm (num32 (u j)) (val (beta j)) (val (kept j))
    ∃ m l o g, exec (.vtrip d a b) s = .next (land 12 (.vreg (d + 2) o (BitVec.allOnes 64)) 0
        (land 12 (.vreg (d + 1) l (BitVec.allOnes 64)) 0 (land 12 (.vreg d m (BitVec.allOnes 64)) g (issued s)))) ∧
      (∀ j < 64,
        (nan j → elem m 32 j = 0x7FC00000 ∧ elem l 32 j = 0x7FC00000 ∧ elem o 32 j = 0x7FC00000) ∧
        (¬ nan j → elem m 32 j = nm j) ∧
        (¬ nan j → nm j = 0xFF800000 → elem l 32 j = cl j ∧ elem o 32 j = co j) ∧
        (¬ nan j → nm j ≠ 0xFF800000 → elem l 32 j = BitVec.ofNat 32 (sum j).bits ∧ elem o 32 j = BitVec.ofNat 32 (acc j).bits)) ∧
      ∀ n < 6, g.getLsbD n = true ↔ ∃ j < 64, (nan j ∧ fNV.getLsbD n = true) ∨ (¬ nan j ∧ nm j ≠ 0xFF800000 ∧
        ((alpha j).flags ||| (beta j).flags ||| (sum j).flags ||| (kept j).flags ||| (acc j).flags).getLsbD n = true)

/-- VLD lands the 256 bytes it names at t + 3; VST stores the register's 256 bytes and changes no other byte, nor a word in
error of which it covers a part; both wait for earlier accesses of their context to these bytes; an uncorrectable word lands
SPDATA. VLDS and VGATH land one word in each active lane at t + 6, from s[a] + i × s[b] or s[a] + v[b][i]; VSCAT stores one
word of each active lane, the highest of several lanes at one address remaining, and changes no other byte; the first active
lane whose address is outside or not aligned faults with SPADDR; while an earlier access of the context to the bytes of an
active lane has still to perform, the context waits. The model's choice, no words of a rule: that a slot access stands as a
wait for earlier work on its bytes (log entry 35). (R157, R158, R159) -/
def Obligations.VectorMemory : Prop :=
  (∀ (s : State) (d a : Fin 64) (o : BitVec 32) (c : Fin 16), Alone 1 s →
      let addr := rS (curArch s) a + BitVec.ofInt 64 (o.toInt * (256 : Nat))
      let key := spadKey (coreOf s.cur) addr.toNat
      addr.toNat + 256 ≤ 0x60000 → addr.toNat % 64 = 0 →
      (Untouched s addr.toNat 256 → badAt s key 256 = false →
        exec (.vld d a o c) s =
          .next (land 3 (.vreg d (BitVec.ofNat 2048 (memVal s.mem key 256)) (BitVec.allOnes 64)) 0 (issued s))) ∧
      (Untouched s addr.toNat 256 → badAt s key 256 = true → ∃ f,
        exec (.vld d a o c) s = .next (landFault 3 (.vreg d 0 (BitVec.allOnes 64)) f (issued s)) ∧ f.code = 0x80 ∧ f.sub = 0 ∧ f.v0 = addr) ∧
      (¬ Untouched s addr.toNat 256 → exec (.vld d a o c) s = .next (goWaiting [.earlier key 256] s)) ∧
      (¬ Untouched s addr.toNat 256 → meets (claimedTiles (curCore s)) addr.toNat 256 = false → pendingSource s addr.toNat 256 = none →
        exec (.vst d a o c) s = .next (goWaiting [.earlier key 256] s)) ∧
      (Storable s addr.toNat 256 →
        ∃ t, exec (.vst d a o c) s = .next t ∧
          (∀ j < 256, byteAt t (key + j) = if ∃ b ∈ badParts s key 256, b ≤ key + j ∧ key + j < b + codeWord b then byteAt s (key + j)
            else elem (rV (curArch s) d) 8 j) ∧
          (∀ b, b < key ∨ key + 256 ≤ b → byteAt t b = byteAt s b) ∧ (∀ k, (ctxAt t k).arch = (ctxAt s k).arch) ∧
          (∀ k, (ctxAt t k).flight = (ctxAt s k).flight) ∧ t.cores = s.cores ∧ t.slices = s.slices)) ∧
  (∀ (s : State) (d a b : Fin 64) (p : Fin 16) (n : Bool), Alone 1 s →
      let r := curArch s
      let on (j : Nat) : Prop := j < 64 ∧ (laneMask r p n).getLsbD j = true
      let stride (j : Nat) : Word := rS r a + BitVec.ofNat 64 j * rS r b
      let index (j : Nat) : Word := rS r a + (elem (rV r b) 32 j).setWidth 64
      let fine (x : Word) : Prop := x.toNat + 4 ≤ 0x60000 ∧ x.toNat % 4 = 0
      let key (x : Word) : Nat := spadKey (coreOf s.cur) x.toNat
      let loads (i : Instr) (f : Nat → Word) : Prop :=
        ((∀ j, on j → fine (f j) ∧ Untouched s (f j).toNat 4 ∧ badAt s (key (f j)) 4 = false) →
          ∃ v, exec i s = .next (land 6 (.vreg d v (laneMask r p n)) 0 (issued s)) ∧
            ∀ j, on j → elem v 32 j = BitVec.ofNat 32 (memVal s.mem (key (f j)) 4))
      let waits (i : Instr) (f : Nat → Word) : Prop :=
        (∀ j, on j → fine (f j)) → (∃ j, on j ∧ ¬ Untouched s (f j).toNat 4) →
          exec i s = .next (goWaiting (((List.range 64).filter fun j => (laneMask r p n).getLsbD j).map fun j => .earlier (key (f j)) 4) s)
      let faults (i : Instr) (f : Nat → Word) : Prop :=
        ∀ j, on j → ¬ fine (f j) → (∀ k < j, on k → fine (f k)) →
          exec i s = taken (mkFault 0x08 s.slot.val (some s.slot) (f j) 0 0) s
      loads (.vlds d a b p n) stride ∧ loads (.vgath d a b p n) index ∧ waits (.vlds d a b p n) stride ∧
      waits (.vgath d a b p n) index ∧ faults (.vlds d a b p n) stride ∧
      faults (.vgath d a b p n) index ∧ faults (.vscat d a b p n) index ∧
      ((∀ j, on j → fine (index j) ∧ Storable s (index j).toNat 4 ∧ badPart s (key (index j)) 4 = false) →
        ∃ t, exec (.vscat d a b p n) s = .next t ∧
          (∀ j, on j → (∀ k, j < k → on k → index k ≠ index j) →
            memVal t.mem (key (index j)) 4 = (elem (rV r d) 32 j).toNat) ∧
          (∀ x, (∀ j, on j → x < key (index j) ∨ key (index j) + 4 ≤ x) → byteAt t x = byteAt s x) ∧
          (∀ k, (ctxAt t k).arch = (ctxAt s k).arch) ∧ t.cores = s.cores ∧ t.slices = s.slices))

/-! ### Accumulator banks and the matrix unit (R163 to R165, R217 to R235) -/

/-- VLDA lands 64 entries of a bank's row at t + 6 as they stand at issue, those of an anchored bank rounded to FP32 with the
flags of the rounding, and with ARANGE where one may have wrapped; an unallocated bank gives zeros and UNALLOC; half 1 of an
anchored bank faults with ACSTATE 5; an uncorrectable entry lands SPDATA; the context waits for its earlier accesses to the
bank. VSTA and MZERO land in an allocated bank at t + 1, a VSTA with the record of the SPDATA fault that a word in error would
make; an unallocated one faults with BANKMODE 3, a float band that another context owns with BANDOWN. Both wait for their
context's earlier accesses to the bank. The landing of a VSTA in an integer bank writes or adds 64 entries modulo 2^32; the
landing of MZERO clears its bands; no other byte changes. The model's choice, no words of a rule: that a bank access stands as
a wait for earlier work on the bank (log entry 35), and the flags of `VLDA` and `VSTA` (log entry 102). (R162, R163, R164,
R228, R419) -/
def Obligations.BankRows : Prop :=
  (∀ (s : State) (d a : Fin 64) (h : Bool) (r : Fin 128) (e : Fin 8), Alone 1 s →
      let c := coreOf s.cur
      let b := ((curCore s).e[e] : Bank)
      let row := ((rS (curArch s) a).toNat + r.val) % 128
      let key := localKey 1 c.val (e.val * 0x10000 + row * 512 + (if h then 256 else 0))
      let entry (j : Nat) : Sys2Proof.Machine.Num := (anchoredNum b.anc.toInt (memVal s.mem (key + 8 * j) 8)).1
      let gives (v : VReg) (fs : BitVec 6) (fl : Word) : Prop := exec (.vlda d a h r e) s = .next (pushFlight (issued s)
        ⟨(curArch s).sched.toNat + 6, s.seq, true, .vreg d v (BitVec.allOnes 64), fs, fl, true, 0, none, (curArch s).hm⟩)
      let quiet : Prop := earlierDone s s.cur (localKey 1 c.val (e.val * 0x10000)) 0x10000 = true
      (¬ quiet → (b.al = true → b.mode = 2 → h = false) →
        exec (.vlda d a h r e) s = .next (goWaiting [.earlier (localKey 1 c.val (e.val * 0x10000)) 0x10000] s)) ∧
      (quiet → b.al = false → gives 0 0 1) ∧
      (quiet → b.al = true → b.mode ≠ 2 → badAt s key 256 = false → gives (BitVec.ofNat 2048 (memVal s.mem key 256)) 0 0) ∧
      (quiet → b.al = true → b.mode ≠ 2 → badAt s key 256 = true → ∃ f,
        exec (.vlda d a h r e) s = .next (landFault 6 (.vreg d 0 (BitVec.allOnes 64)) f (issued s)) ∧ f.code = 0x80 ∧ f.sub = 1) ∧
      (quiet → b.al = true → b.mode = 2 → h = false → badAt s key 512 = false → ∃ v fl,
        gives v (allFlags ((List.range 64).map fun j => (toFp32 .rne (entry j)).flags)) fl ∧
        ((∀ j < 64, memVal s.mem (key + 8 * j) 8 / 2 ^ 55 ∈ [0, 511]) → fl = 0) ∧
        ((∃ j < 64, memVal s.mem (key + 8 * j) 8 / 2 ^ 55 ∉ [0, 511]) → fl = aRange e.val) ∧
        ∀ j < 64, elem v 32 j = BitVec.ofNat 32 (toFp32 .rne (entry j)).bits) ∧
      (b.al = true → b.mode = 2 → h = true →
        exec (.vlda d a h r e) s = taken (mkFault 0x44 (5 * 256 + e.val) (some s.slot) (bankWord b) 0 0) s)) ∧
  (∀ (s : State) (d a : Fin 64) (x : Bool) (r : Fin 128) (e : Fin 8) (m : BitVec 8), Alone 1 s →
      let b := ((curCore s).e[e] : Bank)
      let row := ((rS (curArch s) a).toNat + r.val) % 128
      let foreign (band : Nat) : Prop := b.own.toNat / 4 ^ band % 4 ≠ (subOf s.cur).val
      let bank := localKey 1 (coreOf s.cur).val (e.val * 0x10000)
      let quiet : Prop := earlierDone s s.cur bank 0x10000 = true
      let waits (i : Instr) : Prop := ¬ quiet → exec i s = .next (goWaiting [.earlier bank 0x10000] s)
      let lands (i : Instr) (act : Landing) : Prop :=
        (quiet → ∃ f, exec i s = .next (landFault 1 act f (issued s)) ∧ f.code = 0x80 ∧ f.sub = 1) ∧ waits i
      (b.al = true → (b.mode = 0 → ¬ foreign (row / 16)) →
        lands (.vsta d a x false r e) (.rowStore e (Fin.ofNat 128 row) false x (rV (curArch s) d))) ∧
      (b.al = true → b.mode ≠ 2 → (b.mode = 0 → ¬ foreign (row / 16)) →
        lands (.vsta d a x true r e) (.rowStore e (Fin.ofNat 128 row) true x (rV (curArch s) d))) ∧
      (b.al = true → (b.mode = 0 → ∀ i < 8, m.getLsbD i = true → ¬ foreign i) →
        (quiet → exec (.mzero e m) s = .next (land 1 (.zeroBands e m) 0 (issued s))) ∧ waits (.mzero e m)) ∧
      (b.al = false → exec (.mzero e m) s = taken (mkFault 0x42 (3 * 256 + e.val) (some s.slot) (bankWord b) 0 0) s ∧
        exec (.vsta d a x false r e) s = taken (mkFault 0x42 (3 * 256 + e.val) (some s.slot) (bankWord b) 0 0) s) ∧
      (b.al = true → b.mode = 0 → foreign (row / 16) →
        exec (.vsta d a x false r e) s = taken (mkFault 0x43 e.val (some s.slot) (BitVec.ofNat 64 (2 ^ (row / 16))) 0 0) s)) ∧
  (∀ (s : State) (k : Fin 1024) (e : Fin 8) (row : Fin 128) (half add : Bool) (x : VReg) (m : BitVec 8),
      let c := coreOf k
      let b := ((coreAt s c).e[e] : Bank)
      let key := localKey 1 c.val (e.val * 0x10000 + row.val * 512 + (if half then 256 else 0))
      let bank := localKey 1 c.val (e.val * 0x10000)
      (b.al = true → b.mode = 1 → badAt s key 256 = false →
        let t := landAct k (.rowStore e row half add x) s
        (∀ j < 64, memVal t.mem (key + 4 * j) 4 =
          if add then (memVal s.mem (key + 4 * j) 4 + (elem x 32 j).toNat) % 2 ^ 32 else (elem x 32 j).toNat) ∧
        (∀ y, y < key ∨ key + 256 ≤ y → byteAt t y = byteAt s y) ∧ t.cores = s.cores) ∧
      ((∀ i < 8, badPart s (bank + i * 0x2000) 0x2000 = false) → let t := landAct k (.zeroBands e m) s
       ∀ y, byteAt t y = if bank ≤ y ∧ y < bank + 0x10000 ∧ m.getLsbD ((y - bank) / 0x2000) = true then 0 else byteAt s y))

/-- ACALLOC gives every band of a free bank to the issuer and zeroes it; ACFREE frees a bank with nothing under way and zeroes
it; ACOWN hands the named float bands over; each faults with ACSTATE where its condition does not hold. No bad word straddles
the bank. (R224, R225, R233, R419) -/
def Obligations.BankAllocation : Prop :=
  ∀ (s : State) (e : Fin 8) (m : Fin 4) (a bands : BitVec 8) (to_ : Fin 4), Alone 0 s →
    let c := coreOf s.cur
    let b := ((curCore s).e[e] : Bank)
    let bank := localKey 1 c.val (e.val * 0x10000)
    let state (n : Nat) : FaultRec := mkFault 0x44 (n * 256 + e.val) (some s.slot) (bankWord b) 0 0
    let zeroed (t : State) : Prop := (∀ y, bank ≤ y → y < bank + 0x10000 → byteAt t y = 0) ∧
      (∀ y, y < bank ∨ bank + 0x10000 ≤ y → byteAt t y = byteAt s y)
    let others (t : State) : Prop := (∀ f : Fin 8, f ≠ e → (curCore t).e[f] = (curCore s).e[f]) ∧ curArch t = curArch s ∧
      (curCtx t).flight = (curCtx s).flight ∧ (curCore t).o = (curCore s).o
    badPart s bank 0x10000 = false →
    (b.al = false → ∃ t, exec (.acalloc e m a) s = .next t ∧ zeroed t ∧ others t ∧ (curCore t).e[e].al = true ∧
      (curCore t).e[e].mode = BitVec.ofNat 2 m.val ∧ (curCore t).e[e].anc = a ∧
      ∀ i < 8, (curCore t).e[e].own.toNat / 4 ^ i % 4 = (subOf s.cur).val) ∧
    (b.al = true → exec (.acalloc e m a) s = taken (state 1) s) ∧
    (bankBusy s c e = false → ∃ t, exec (.acfree e) s = .next t ∧ zeroed t ∧ others t ∧ (curCore t).e[e].al = false) ∧
    (bankBusy s c e = true → exec (.acfree e) s = taken (state 2) s) ∧
    (b.al = true → b.mode = 0 → (∀ i < 8, bands.getLsbD i = true → b.own.toNat / 4 ^ i % 4 = (subOf s.cur).val) →
      (∀ f ∈ (curCtx s).flight, ∀ q, landingBank f.act = some q → q.1 ≠ e) →
      ∃ t, exec (.acown e bands to_) s = .next t ∧ others t ∧ t.mem = s.mem ∧ (curCore t).e[e].al = true ∧
        ∀ i < 8, (curCore t).e[e].own.toNat / 4 ^ i % 4 = if bands.getLsbD i then to_.val else b.own.toNat / 4 ^ i % 4) ∧
    (b.al = true → b.mode = 0 → (∀ i < 8, bands.getLsbD i = true → b.own.toNat / 4 ^ i % 4 = (subOf s.cur).val) →
      (∃ f ∈ (curCtx s).flight, ∃ q, landingBank f.act = some q ∧ q.1 = e ∧ q.2 &&& bands.toNat ≠ 0) →
      exec (.acown e bands to_) s = taken (state 4) s) ∧
    (b.al = false ∨ b.mode ≠ 0 → exec (.acown e bands to_) s = taken (state 3) s)

/-- MRING describes an operand ring and resets its counts; a reserved bit, a tile size of 0, a ring past the scratchpad, or
claimed tiles fault with OPERAND. a step claims the next tile of each operand ring, captures both as they stand and lands its
rectangle after the latency of its width class; it waits while the array is busy or a tile is missing, and for its context's
earlier accesses to the tiles and the bank. MMA runs the full step, MTILE the shape in s[h]. a step retires once its cycle has
come: its tiles are popped and the array is free; before, nothing changes. The landing of a step writes every entry of its
rectangle as R223 has it, by the mode of the bank, from the step's sums, and no other byte; NV of the issuer rises where an
anchored entry takes no number. A sum of the float path is that of R93: NaN, an infinity, or the sum of the products truncated
below 2^(E − 48). an undithered INT8 step into an integer bank adds the exact sum of its products to every entry of its
rectangle, modulo 2^32, and changes no other byte. (R217, R220, R221, R222, R223, R226, R227, R232, R92, R93, R94, R95) -/
def Obligations.MatrixSteps : Prop :=
  (∀ (s : State) (o : Fin 8) (a : Fin 64), Alone 0 s →
      let x := rS (curArch s) a
      let v := x.toNat
      let ok : Prop := v < 2 ^ 30 ∧ v / 2 ^ 11 % 32 = 0 ∧ v / 2 ^ 16 % 256 ≠ 0 ∧
        256 * (v % 2 ^ 11 + (v / 2 ^ 24 % 64 + 1) * (v / 2 ^ 16 % 256)) ≤ 0x60000 ∧ ((curCore s).o[o]).clm = 0 ∧
        ringCopied s (coreOf s.cur) o = false
      (ok → ∃ t, exec (.mring o a) s = .next t ∧ t.mem = s.mem ∧ curArch t = curArch s ∧
        (curCore t).o[o] = ⟨BitVec.ofNat 6 (v / 2 ^ 24), BitVec.ofNat 8 (v / 2 ^ 16), BitVec.ofNat 11 v, 0, 0, 0⟩ ∧
        (∀ q : Fin 8, q ≠ o → (curCore t).o[q] = (curCore s).o[q]) ∧ (curCore t).e = (curCore s).e) ∧
      (¬ ok → exec (.mring o a) s = taken (mkFault 0x0D s.slot.val (some s.slot) x 0 0) s)) ∧
  (∀ (s : State) (e a b : Fin 8) (h : Fin 64) (o : Bool) (f g : Fin 8), Alone 1 s → a ≠ b →
      let r := curArch s
      let core := curCore s
      let c := coreOf s.cur
      let bank := (core.e[e] : Bank)
      let fa := (fmtA r.fmt).toNat
      let fb := (fmtB r.fmt).toNat
      let k := stepDepth fa
      let lat := if k = 32 then 63 else if k = 64 then 47 else 39
      let sized (q : Fin 8) (t : Nat) : Prop := core.o[q].tsz ≠ 0 ∧ 128 * lineBytes t ≤ 256 * core.o[q].tsz.toNat
      let full : Shape := ⟨128, 128, k, 0, 0⟩
      let shape := shapeOf (rS r h)
      k ≠ 0 → stepDepth fb = k → sized a fa → sized b fb → bank.al = true → bank.mode = 0 → core.buf = [] →
      (∀ i < 8, bank.own.toNat / 4 ^ i % 4 = (subOf s.cur).val) → r.d[f].cfmt = 0 → r.d[g].cfmt = 0 →
      (∀ q : Fin 8, badAt s (spadKey c (tileOffset core.o[q] ((core.o[q].head.toNat + core.o[q].clm.toNat) % 2 ^ 32))) 9216 = false) →
      let tile (q : Fin 8) : Nat := spadKey c (tileOffset core.o[q] ((core.o[q].head.toNat + core.o[q].clm.toNat) % 2 ^ 32))
      let accum := localKey 1 c.val (e.val * 0x10000)
      let quiet : Prop := earlierDone s s.cur (tile a) (128 * lineBytes fa) = true ∧ earlierDone s s.cur (tile b) (128 * lineBytes fb) = true ∧
        earlierDone s s.cur accum 0x10000 = true
      let free := core.array.isNone = true ∧ 1 ≤ freeTiles core.o[a] ∧ 1 ≤ freeTiles core.o[b] ∧ quiet
      let runs (i : Instr) (z : Shape) : Prop :=
        (free → ∃ t st, exec i s = .next t ∧ t.mem = s.mem ∧ curArch t = curArch s ∧
          (curCtx t).flight.length = (curCtx s).flight.length + 1 ∧
          (∃ fl ∈ (curCtx t).flight, fl.due = r.sched.toNat + lat ∧ fl.seq = s.seq ∧ fl.act = .matrix st ∧ fl.counts = true) ∧
          st.bank = e ∧ st.ovr = o ∧ st.fa = fmtA r.fmt ∧ st.fb = fmtB r.fmt ∧ st.rows = z.m ∧ st.cols = z.n ∧ st.kv = z.kv ∧
          st.rb = z.rb ∧ st.cb = z.cb ∧
          (∀ y < 128 * lineBytes fa, memGet st.tileA y = byteAt s (tile a + y)) ∧
          (∀ y < 128 * lineBytes fb, memGet st.tileB y = byteAt s (tile b + y)) ∧
          (curCore t).o[a] = { core.o[a] with clm := core.o[a].clm + 1 } ∧
          (curCore t).o[b] = { core.o[b] with clm := core.o[b].clm + 1 } ∧ ∃ l, (curCore t).array = some (s.cycle + 32, l)) ∧
        (¬ free → exec i s = .next (goWaiting [.array a b, .earlier (tile a) (128 * lineBytes fa), .earlier (tile b) (128 * lineBytes fb),
          .earlier accum 0x10000] s))
      runs (.mma e a b o f g false false) full ∧
      (shapeLegal (rS r h) k bank = true → runs (.mtile e a b h o f g false false) shape) ∧
      (shapeLegal (rS r h) k bank = false →
        exec (.mtile e a b h o f g false false) s = taken (mkFault 0x0D s.slot.val (some s.slot) (rS r h) 0 0) s)) ∧
  (∀ (s : State) (c : Fin 256) (n i j : Nat) (a b : Fin 8), a ≠ b →
      (coreAt s c).array = some (n, [(a, i), (b, j)]) →
      (s.cycle < n → exec (.mmaStepRetire c) s = .next s) ∧
      (n ≤ s.cycle → ∃ t, exec (.mmaStepRetire c) s = .next t ∧ t.mem = s.mem ∧ t.ctxs = s.ctxs ∧ (coreAt t c).array = none ∧
        (∀ q ∈ [a, b], (coreAt t c).o[q] = { (coreAt s c).o[q] with
          head := ((coreAt s c).o[q]).head + 1, clm := ((coreAt s c).o[q]).clm - 1 }) ∧
        (∀ q : Fin 8, q ≠ a → q ≠ b → (coreAt t c).o[q] = (coreAt s c).o[q]))) ∧
  (∀ (s : State) (k : Fin 1024) (c : StepCmd),
      let u := coreOf k
      let b := ((coreAt s u).e[c.bank] : Bank)
      let z := if b.mode = 2 then 8 else 4
      let n := min c.cols ((if b.mode = 2 then 64 else 128) - c.cb)
      let key (i j : Nat) : Nat := localKey 1 u.val (c.bank.val * 0x10000 + (c.rb + i) * 512 + (c.cb + j) * z)
      let float := !intPath c.fa.toNat c.fb.toNat
      let sum (i j : Nat) : BitVec 32 := BitVec.ofNat 32 (toFp32 .rne (stepSum c i j)).bits
      let grid (i j : Nat) : Option Int := gridOf b.anc.toInt (if float then num32 (sum i j) else stepSum c i j)
      let old (i j : Nat) : Nat := memVal s.mem (key i j) z
      let t := landAct k (.matrix c) s
      (b.al = false → t = s) ∧
      (b.al = true → c.rb + c.rows ≤ 128 → (∀ i < c.rows, badAt s (key i 0) (n * z) = false) →
        (∀ i < c.rows, ∀ j < n,
          (b.mode = 0 → BitVec.ofNat 32 (memVal t.mem (key i j) 4) =
            if c.ovr then sum i j else BitVec.ofNat 32 (fpAdd .rne (num32 (BitVec.ofNat 32 (old i j))) (num32 (sum i j))).bits) ∧
          (b.mode = 1 → float = false → ∀ m, stepSum c i j = .fin false m 0 ∨ stepSum c i j = .fin true m 0 →
            BitVec.ofNat 32 (memVal t.mem (key i j) 4) = (if c.ovr then 0 else BitVec.ofNat 32 (old i j)) +
              BitVec.ofInt 32 (if stepSum c i j = .fin true m 0 then -(m : Int) else m)) ∧
          (b.mode = 2 → BitVec.ofNat 64 (memVal t.mem (key i j) 8) = match grid i j with
            | some g => (if c.ovr then 0 else BitVec.ofNat 64 (old i j)) + BitVec.ofInt 64 g
            | none => BitVec.ofNat 64 (old i j))) ∧
        (∀ y, (∀ i < c.rows, ∀ j < n, y < key i j ∨ key i j + z ≤ y) → byteAt t y = byteAt s y) ∧
        (b.mode = 0 ∨ b.mode = 1 → (ctxAt t k).arch = (ctxAt s k).arch) ∧
        (b.mode = 2 → (∀ i < c.rows, ∀ j < n, grid i j ≠ none) → (ctxAt t k).arch = (ctxAt s k).arch) ∧
        (b.mode = 2 → (∃ i < c.rows, ∃ j < n, grid i j = none) →
          (ctxAt t k).arch = { (ctxAt s k).arch with fstat := (ctxAt s k).arch.fstat ||| fNV.setWidth 64 })) ∧
      (float = true → ∀ i j,
        let x (q : Nat) : Sys2Proof.Machine.Num × Bool :=
          tileElem c.tileA c.fa.toNat c.sa (fun r => c.scl[Fin.ofNat 16 r]) i q (consumerOffset c.da c.fa.toNat (i : Int) (q : Int))
        let y (q : Nat) : Sys2Proof.Machine.Num × Bool :=
          tileElem c.tileB c.fb.toNat c.sb (fun r => c.scl[Fin.ofNat 16 r]) j q (consumerOffset c.db c.fb.toNat (q : Int) (j : Int))
        let p (q : Nat) : Sys2Proof.Machine.Num × Bool := mulNum (x q).1 (y q).1
        ((∃ q < c.kv, (p q).1 = .nan ∨ (x q).2 = true ∨ (y q).2 = true ∨ (p q).2 = true) → stepSum c i j = .nan) ∧
        ((∃ q < c.kv, (p q).1 = .inf true) → (∃ q < c.kv, (p q).1 = .inf false) → stepSum c i j = .nan) ∧
        ((∀ q < c.kv, (p q).1 ≠ .nan ∧ (x q).2 = false ∧ (y q).2 = false ∧ (p q).2 = false) → ∀ g : Bool,
          (∃ q < c.kv, (p q).1 = .inf g) → (∀ q < c.kv, (p q).1 ≠ .inf (!g)) → stepSum c i j = .inf g) ∧
        ((∀ q < c.kv, ∃ g e, (p q).1 = .fin g 0 e ∧ (x q).2 = false ∧ (y q).2 = false ∧ (p q).2 = false) →
          ∃ g, stepSum c i j = .fin g 0 0 ∧ (g = true ↔ ∀ q < c.kv, ∃ e, (p q).1 = .fin true 0 e)) ∧
        ∀ (neg : Nat → Bool) (m : Nat → Nat) (e : Nat → Int) (top : Int),
          (∀ q < c.kv, (p q).1 = .fin (neg q) (m q) (e q) ∧ (x q).2 = false ∧ (y q).2 = false ∧ (p q).2 = false) →
          (∃ q < c.kv, m q ≠ 0 ∧ (Nat.log2 (m q) : Int) + e q = top) → (∀ q < c.kv, m q ≠ 0 → (Nat.log2 (m q) : Int) + e q ≤ top) →
          let cut (q : Nat) : Int := ((if top - 48 ≤ e q then m q * 2 ^ (e q - (top - 48)).toNat
            else m q / 2 ^ ((top - 48) - e q).toNat : Nat) : Int)
          let total : Int := ((List.range c.kv).map fun q => if neg q then -cut q else cut q).sum
          (total ≠ 0 → stepSum c i j = .fin (decide (total < 0)) total.natAbs (top - 48)) ∧
          (total = 0 → stepSum c i j = .fin false 0 0))) ∧
  (∀ (s : State) (k : Fin 1024) (c : StepCmd), c.fa = 7 → c.fb = 7 → c.da.cfmt = 0 → c.db.cfmt = 0 →
      let u := coreOf k
      let b := ((coreAt s u).e[c.bank] : Bank)
      b.al = true → b.mode = 1 → c.rb + c.rows ≤ 128 → c.cb + c.cols ≤ 128 →
      (∀ i < c.rows, badAt s (localKey 1 u.val (c.bank.val * 0x10000 + (c.rb + i) * 512 + c.cb * 4)) (4 * c.cols) = false) →
      let key (i j : Nat) : Nat := localKey 1 u.val (c.bank.val * 0x10000 + (c.rb + i) * 512 + (c.cb + j) * 4)
      let x (i q : Nat) : Int := (memGet c.tileA (64 * i + q)).toInt
      let y (j q : Nat) : Int := (memGet c.tileB (64 * j + q)).toInt
      let t := landMatrix s k c
      (∀ i < c.rows, ∀ j < c.cols, BitVec.ofNat 32 (memVal t.mem (key i j) 4) =
        (if c.ovr then 0 else BitVec.ofNat 32 (memVal s.mem (key i j) 4)) +
          BitVec.ofInt 32 ((List.range c.kv).map fun q => x i q * y j q).sum) ∧
      (∀ z, (∀ i < c.rows, ∀ j < c.cols, z < key i j ∨ key i j + 4 ≤ z) → byteAt t z = byteAt s z))

/-- MDRAIN goes out with the bank as it stands, its ring's RSV raised by INC, when the ring has room and its context's earlier
accesses to the bank have performed; it waits otherwise. A drain without `.Z` to a scratchpad that its job holds writes the
rows of its bands one after another: each entry of the bank as it stood at issue, exact, times its prescale, converted once to
a float or integer format, or rounded to FP32 and quantised with the offset of its row and column; a row of a float bank to
FP32 without prescale bit for bit, of a bank not allocated as zeros. The flags of every entry rise in FSTAT, UNALLOC and ARANGE
in ASTAT. The model's choice, no words of a rule: that a drain stands as a wait for earlier work on its bank (log entry 35),
that its rows are captured at issue and delivered whole (log entry 48), which `RMODE` rounds an anchored bank (log entry 83),
and that reserved bits of the descriptor are ignored (log entry 104). (R229, R230, R231, R95, R176, R421) -/
def Obligations.DrainIssues : Prop :=
  (∀ (s : State) (e : Fin 8) (a d : Fin 64), Alone 0 s →
      let r := curArch s
      let x := (rS r d).toNat
      let g : Fin 8 := Fin.ofNat 8 (x / 2 ^ 20)
      let inc := x / 2 ^ 23 % 64
      let ring := (r.g[g] : Ring)
      let b := ((curCore s).e[e] : Bank)
      let bank := localKey 1 (coreOf s.cur).val (e.val * 0x10000)
      (fmtO r.fmt).toNat ≤ 5 ∨ (fmtO r.fmt).toNat = 8 → ring.fcode = 0 →
      (b.al = true → b.mode = 0 → ∀ i < 8, x / 2 ^ i % 2 = 1 → b.own.toNat / 4 ^ i % 4 = (subOf s.cur).val) →
      ((curCore s).work.filter isDrain = []) →
      let quiet : Prop := earlierDone s s.cur bank 0x10000 = true
      (quiet → inc = 0 ∨ (ring.rsv - ring.cons).toNat + inc ≤ ring.cap.toNat →
        ∃ t w c, exec (.mdrain e a d false) s = .next t ∧ t.mem = s.mem ∧ (curCore t).work = (curCore s).work ++ [w] ∧
          w.kind = .drain c ∧ w.ring = some g ∧ w.inc = inc ∧ w.path = 2 ∧ c.bank = e ∧ c.dst = rS r a ∧ c.fmt = r.fmt ∧
          (∀ y < 0x10000, memGet c.cells y = byteAt s (bank + y)) ∧
          (curArch t).g[g] = { ring with rsv := ring.rsv + BitVec.ofNat 32 inc } ∧
          (∀ h : Fin 8, h ≠ g → (curArch t).g[h] = r.g[h]) ∧ (curArch t).s = r.s) ∧
      (¬ quiet ∨ (inc ≠ 0 ∧ ring.cap.toNat < (ring.rsv - ring.cons).toNat + inc) →
        exec (.mdrain e a d false) s = .next (goWaiting [.ringRoom g inc, .drainRoom, .earlier bank 0x10000] s))) ∧
  (∀ (s : State) (c v : Fin 256) (q : Nat) (w : Work) (d : DrainCmd) (g : Fin 8) (dst : Nat), OnlyWork s c q w →
      let b := drainBank d
      let fo := (fmtO d.fmt).toNat
      let width := if b.al = true ∧ b.mode = 2 then 64 else 128
      let rows := (List.range 128).filter fun r => d.desc.getLsbD (r / 16)
      let size := if fo = 9 ∨ fo = 10 then width / 32 * blockSize fo else width * codeWidth fo / 8
      let pse := d.desc.getLsbD 12
      let word (r j : Nat) : Nat := memVal d.cells (512 * r + 4 * j) 4
      let entry (r j : Nat) : Int := (BitVec.ofNat 64 (memVal d.cells (512 * r + 8 * j) 8)).toInt
      let exact (r j : Nat) : Sys2Proof.Machine.Num :=
        if b.al = false then .fin false 0 0
        else if b.mode = 0 then num32 (BitVec.ofNat 32 (word r j))
        else if b.mode = 1 then
          let x := (BitVec.ofNat 32 (word r j)).toInt
          .fin (decide (x < 0)) x.natAbs 0
        else .fin (decide (entry r j < 0)) (entry r j).natAbs (b.anc.toInt - 48)
      let scaled (r j : Nat) : Sys2Proof.Machine.Num × Bool :=
        if pse then mulNum (exact r j) (num32 d.scl[d.desc.toNat / 2 ^ 8 % 16]) else (exact r j, false)
      let rounded (r j : Nat) : Sys2Proof.Machine.Num := num32 (BitVec.ofNat 32 (toFp32 .rne (scaled r j).1).bits)
      let offset (r j : Nat) : Int := if fmtDith d.fmt then offsetAt d.fr (r : Int) (j : Int) else 0
      let si := d.desc.toNat / 2 ^ 16 % 16
      let invalid (r : Nat) : Prop := ∃ j < width, (scaled r j).2 = true
      let packed (r : Nat) (out : List Byte) (fl : BitVec 6) (one : Nat → Res) : Prop :=
        (∀ j < width, leVal out / 2 ^ (codeWidth fo * j) % 2 ^ codeWidth fo = (one j).bits % 2 ^ codeWidth fo) ∧
        ∀ y < 6, fl.getLsbD y = true ↔ (fNV.getLsbD y = true ∧ invalid r) ∨ ∃ j < width, (one j).flags.getLsbD y = true
      let content (r : Nat) (out : List Byte) (fl : BitVec 6) : Prop := out.length = size ∧
        (fo ≤ 5 → fo = 0 ∧ b.al = true ∧ b.mode = 0 ∧ pse = false → packed r out fl fun j => ⟨word r j, 0⟩) ∧
        (fo ≤ 5 → ¬ (fo = 0 ∧ b.al = true ∧ b.mode = 0 ∧ pse = false) →
          packed r out fl fun j => roundNum (fpOf fo) (rmodeOf d.fmt) (fmtSat d.fmt && fo != 0) (scaled r j).1) ∧
        (fo = 8 → packed r out fl fun j =>
          let k := toInteger (rmodeOf d.fmt) (-(2 ^ 31)) (2 ^ 31 - 1) (scaled r j).1
          ⟨(BitVec.ofInt 32 k.1).toNat, k.2⟩) ∧
        (fo = 6 ∨ fo = 7 → ∀ mu eu, num32 d.scl[si] = .fin false mu eu → packed r out fl fun j =>
          let k := quantInt fo mu eu (rounded r j) (offset r j)
          ⟨(BitVec.ofInt (codeWidth fo) k.1).toNat, k.2⟩) ∧
        (fo = 9 ∨ fo = 10 →
          let blk (i : Nat) : Block := quantDxb fo si d.scl[si] (fmtSat d.fmt)
            ((List.range 32).map fun j => rounded r (32 * i + j)) ((List.range 32).map fun j => offset r (32 * i + j))
          out = (List.range (width / 32)).flatMap (fun i => blockBytes fo (blk i)) ∧
          ∀ y < 6, fl.getLsbD y = true ↔
            (fNV.getLsbD y = true ∧ invalid r) ∨ ∃ i < width / 32, ((blk i).flags).getLsbD y = true)
      w.kind = .drain d → w.ring = some g → ((ctxAt s w.ctx).arch.g[g]).fcode = 0 → d.z = false → d.bad = [] →
      d.dst.toNat = localKey 0 v.val dst → dst + rows.length * size ≤ 0x60000 → Held s w.job v →
      badAt s (localKey 0 v.val dst) (rows.length * size) = false →
      meets (claimedTiles (coreAt s v)) dst (rows.length * size) = false →
      ∃ (t : State) (fl : Nat → BitVec 6), exec (.drainComplete c q) s = .next t ∧ t.mem = s.mem ∧ (coreAt t c).work = [] ∧
        (∀ i r, rows[i]? = some r → content r (arbRead t v (dst + i * size) size) (fl r)) ∧
        (∀ y z, y ≠ v ∨ z < dst ∨ dst + rows.length * size ≤ z → arbRead t y z 1 = arbRead s y z 1) ∧
        (ctxAt t w.ctx).arch.fstat = rows.foldl (fun x r => x ||| (fl r).setWidth 64) (ctxAt s w.ctx).arch.fstat ∧
        (b.al = true → b.mode ≠ 2 → (ctxAt t w.ctx).arch.astat = (ctxAt s w.ctx).arch.astat) ∧
        (b.al = false → rows ≠ [] → (ctxAt t w.ctx).arch.astat = (ctxAt s w.ctx).arch.astat ||| 1) ∧
        (b.al = true → b.mode = 2 → (∃ r ∈ rows, ∃ j < 64, ¬ (-(2 ^ 55) ≤ entry r j ∧ entry r j < 2 ^ 55)) →
          (ctxAt t w.ctx).arch.astat = (ctxAt s w.ctx).arch.astat ||| aRange d.bank.val) ∧
        (ctxAt t w.ctx).arch.g[g] = { (ctxAt s w.ctx).arch.g[g] with
          fill := ((ctxAt s w.ctx).arch.g[g]).fill + BitVec.ofNat 32 w.inc })

/-! ### Copies, rings and transforms (R186 to R216, R299) -/

/-- A copy command with a legal pattern goes out with that pattern and its ring's RSV raised by INC, when ring and queue have
room; without, the context waits; a failed ring faults with RINGFAIL, a block size that is no multiple of 64 up to 4096 with
OPERAND. block number k of a walk without an index table lies at the base plus, for each of the six levels, its digit of k
times the level's stride. The model's choice, no words of a rule: which of several faults is reported (log entry 29), and the
`TVAL0` of faults that no rule gives one (log entry 30). (R186, R189, R191, R192, R195, R202, R385) -/
def Obligations.CopyIssue : Prop :=
  (∀ (s : State) (a g : Fin 8) (i : BitVec 6) (r : Bool) (o : Fin 8) (c x : Fin 16), Alone 0 s →
      let p := ((curArch s).a[a] : Pattern)
      let ring := ((curArch s).g[g] : Ring)
      let queue := (curCore s).work.filter fun w => (match w.kind with
        | .copy _ => true
        | _ => false) && w.slot.val == 4 + s.slot.val % 2 && !w.done
      ∀ q ∈ ([(1, .cpy a g i r o c x), (2, .cpym a g i r o c x), (3, .cpyr a g i r o c x), (4, .cpyx a g i r o c x),
          (5, .cpf a g i r o c x), (6, .cpwb a g i r o c x)] : List (Nat × Instr)),
        let tiles := ownTiles q.1 a o s
        let ringOk : Prop := i = 0 ∨ (ring.rsv - ring.cons).toNat + i.toNat ≤ ring.cap.toNat
        let tilesOk : Prop := r = false ∨ (dstCores q.1 p).contains (coreOf s.cur) = false ∨
          (((curCore s).o[o]).tail - ((curCore s).o[o]).head).toNat + tiles ≤ ((curCore s).o[o]).slm.toNat + 1
        (copyFaults q.1 a r o x s = [] → ring.fcode = 0 →
          (ringOk → tilesOk → queue.length < 16 →
            ∃ t w cmd, exec q.2 s = .next t ∧ t.mem = s.mem ∧ (curCore t).work = (curCore s).work ++ [w] ∧ w.kind = .copy cmd ∧
              cmd.op = BitVec.ofNat 8 q.1 ∧ cmd.pat = p ∧ cmd.oring = (if r then some o else none) ∧ cmd.tiles = tiles ∧
              w.ring = some g ∧ w.inc = i.toNat ∧ w.cls = c ∧ w.path = 1 ∧ w.seq = s.seq ∧ w.ctx = s.cur ∧
              (curArch t).g[g] = { ring with rsv := ring.rsv + BitVec.ofNat 32 i.toNat } ∧
              (∀ h : Fin 8, h ≠ g → (curArch t).g[h] = (curArch s).g[h]) ∧ (curArch t).s = (curArch s).s ∧
              (curArch t).a = (curArch s).a ∧ (curCtx t).flight = (curCtx s).flight) ∧
          (¬ ringOk ∨ ¬ tilesOk ∨ 16 ≤ queue.length → ∃ ws, exec q.2 s = .next (goWaiting ws s))) ∧
        (copyFaults q.1 a r o x s = [] → ring.fcode ≠ 0 → exec q.2 s = taken ⟨0x0E, ring.fcode, some s.slot, ring.faddr,
          BitVec.ofNat 64 (ring.fbun.toNat + ring.fslot.toNat * 2 ^ 20), BitVec.ofNat 64 g.val, none⟩ s) ∧
        ((∀ l < 6, (patWord p (2 + l)).toNat < 2 ^ 32) → (patWord p 20).toNat % 64 ≠ 0 ∨ 4096 < (patWord p 20).toNat →
          exec q.2 s = taken (mkFault 0x0D s.slot.val (some s.slot) 20 0 0) s)) ∧
  (∀ (op : Nat) (p : Pattern) (tbl : Nat → Nat) (i : Nat → Nat), idxOn p = false → (∀ l < 6, i l < patCount p l) →
      let c := patCount p
      let k := i 0 + c 0 * (i 1 + c 1 * (i 2 + c 2 * (i 3 + c 3 * (i 4 + c 4 * i 5))))
      let side (base : Word) (z : Nat) : Word := base + BitVec.ofNat 64 (i 0) * patWord p z + BitVec.ofNat 64 (i 1) * patWord p (z + 1) +
        BitVec.ofNat 64 (i 2) * patWord p (z + 2) + BitVec.ofNat 64 (i 3) * patWord p (z + 3) +
        BitVec.ofNat 64 (i 4) * patWord p (z + 4) + BitVec.ofNat 64 (i 5) * patWord p (z + 5)
      k < patBlocks p ∧ blockAt op p tbl k = (side (patWord p 0) 8, side (patWord p 1) 14))

/-- The ring operations: AWAIT issues once FILL − CONS reaches n and else waits; RELEASE lowers it by n at t + 1 and faults
with RINGCOUNT beyond it; RINIT waits for the ring's commands and resets the ring at t + 1; a failed ring faults with RINGFAIL.
CPSET lands one pattern word. An increment of another core's ring arrives when none of its issuer comes before it: FILL and RSV
rise by INC when the ring has room. (R194, R195, R197, R199, R299) -/
def Obligations.RingOperations : Prop :=
  (∀ (s : State) (g a : Fin 8) (n : BitVec 22) (c : BitVec 12) (x w : Fin 64), Alone 1 s →
      let ring := ((curArch s).g[g] : Ring)
      let full := (ring.fill - ring.cons).toNat
      let failed : FaultRec := ⟨0x0E, ring.fcode, some s.slot, ring.faddr,
        BitVec.ofNat 64 (ring.fbun.toNat + ring.fslot.toNat * 2 ^ 20), BitVec.ofNat 64 g.val, none⟩
      (ring.fcode = 0 → n.toNat ≤ full → exec (.await g n) s = .next (issued s)) ∧
      (ring.fcode = 0 → full < n.toNat → exec (.await g n) s = .next (goWaiting [.ringFill g (n.setWidth 32)] s)) ∧
      (ring.fcode ≠ 0 → exec (.await g n) s = taken failed s ∧ exec (.release g n) s = taken failed s) ∧
      (ring.fcode = 0 → n.toNat ≤ full → exec (.release g n) s = .next (landFree 1 (.ringCons g (n.setWidth 32)) (issued s))) ∧
      (ring.fcode = 0 → full < n.toNat → exec (.release g n) s =
        taken (mkFault 0x0F g.val (some s.slot) (ring.fill.setWidth 64) (ring.cons.setWidth 64) 0) s) ∧
      ((∀ y ∈ (curCore s).work, y.ctx = s.cur → y.ring ≠ some g) → exec (.rinit g c) s = .next (land 1 (.ringInit g c) 0 (issued s))) ∧
      (∀ y ∈ (curCore s).work, y.ctx = s.cur → y.ring = some g → ring.fcode = 0 →
        exec (.rinit g c) s = .next (goWaiting [.ringEnd g] s)) ∧
      (w.val < 24 → exec (.cpset a x w) s = .next (land 1 (.pattern a (Fin.ofNat 24 w.val) (rS (curArch s) x)) 0 (issued s)))) ∧
  (∀ (s : State) (i : Nat) (d : Dren), s.dren[i]? = some d → drenFirst s d = true →
      (coreAt s (coreOf d.dst)).retired = false → (coreAt s (coreOf d.dst)).job = some d.job → (ctxAt s d.dst).run = .started →
      coreOf d.src ≠ coreOf d.dst → (∀ w ∈ (coreAt s (coreOf d.src)).work, coreOf w.ctx = coreOf d.src) →
      let r := ((ctxAt s d.dst).arch.g[d.ring] : Ring)
      r.fcode = 0 → (r.rsv + BitVec.ofNat 32 d.inc - r.cons).toNat ≤ r.cap.toNat →
      ∃ t, exec (.drenIncrement i) s = .next t ∧ t.mem = s.mem ∧ t.dren = s.dren.erase d ∧
        (ctxAt t d.dst).arch.g[d.ring] = { r with fill := r.fill + BitVec.ofNat 32 d.inc, rsv := r.rsv + BitVec.ofNat 32 d.inc } ∧
        (∀ h : Fin 8, h ≠ d.ring → (ctxAt t d.dst).arch.g[h] = (ctxAt s d.dst).arch.g[h]))

/-- An X operation with legal operands issues after the beats of the one before it, with N in s[n]: for N = 0 it does nothing
(XZVC lands length 0), else its first chunk is read at issue and its beats are to come; an operand that is not legal faults
with OPERAND, an operation that comes before the last beat of the one before it with XORDER 1. What its first beat is to write
is what R209 to R216 make of the first chunk: the register's value 32 times, the sector that is compressed there, a row, the
sector compressed, or 64 elements converted, re-encoded, or quantised with their offsets. A beat that is due writes its chunk:
256 bytes in a row for XFILL and XEXP, the converted elements in a row for XCVT, a packed sector for XZVC with the header and
the length at its last beat, one element into each row of the destination for XTRN, of 4 bits too, whose byte keeps its other
half; no other byte changes. Before its cycle a beat changes no byte. No word is in error, and no tile is claimed. A chunk
whose source held a word in error writes nothing: it lands SPDATA, and the beats after it are off. The model's choice, no words
of a rule: the `TVAL0` of an OPERAND fault for `XF`, which is 0 (log entry 30), the moment of the checks of data (log entry
47), the exact quantising of INT32 (log entry 82), and what a word in error does to a chunk (log entry 109). (R209, R211, R212,
R213, R214) -/
def Obligations.Transforms : Prop :=
  (∀ (s : State) (d a n x l : Fin 64) (b f : Fin 8), Alone 1 s →
      let r := curArch s
      let N := (rS r n).toNat % 2 ^ 16
      let fa := (fmtA r.fmt).toNat
      let fo := (fmtO r.fmt).toNat
      let free : Prop := (curCtx s).lastX.1 + (curCtx s).lastX.2 ≤ r.sched.toNat
      let fault (code sub : Nat) (v : Word) : FaultRec := mkFault code sub (some s.slot) v 0 0
      let src (n : Nat) : List Byte := arbRead s (coreOf s.cur) (rS r a).toNat n
      let byte (j : Nat) : Byte := (src 512).getD j 0
      let present (j : Nat) : Bool := (leVal (src 32)).testBit j
      let raw (j : Nat) : Nat := leVal (src (cvtChunk fa)) / 2 ^ (codeWidth fa * j) % 2 ^ codeWidth fa
      let block (j : Nat) : Nat := 8 * (blockSize fa * (j / 32))
      let floats (c : Nat) : Bool := !isCodeFormat c
      let rw : Nat := (rS r n).toNat / 2 ^ 24 % 2 ^ 16
      let place (j : Nat) : Int × Int := (((j / rw : Nat) : Int), ((j % rw : Nat) : Int))
      let value (j : Nat) : Sys2Proof.Machine.Num × Bool :=
        if fa = 6 ∨ fa = 7 then
          intElem fa (raw j) (consumerOffset r.d[f] fa (place j).1 (place j).2) (num32 r.scl[(rS r n).toNat / 2 ^ 16 % 16])
        else if floats fa then (convSource fa false (raw j), false)
        else dxbElem fa (leVal (src (cvtChunk fa)) / 2 ^ block j % 65536)
          (leVal (src (cvtChunk fa)) / 2 ^ (block j + 16 + codeWidth fa * (j % 32)) % 2 ^ codeWidth fa)
          (consumerOffset r.d[f] fa (place j).1 (place j).2) (fun q => r.scl[q % 16])
      let offset (j : Nat) : Int := if fmtDith r.fmt then offsetAt r.d[b] (place j).1 (place j).2 else 0
      let scale : BitVec 32 := r.scl[(rS r n).toNat / 2 ^ 20 % 16]
      let packed (out : List Byte) (g : BitVec 6) (one : Nat → Res) : Prop :=
        (∀ j < 64, leVal out / 2 ^ (codeWidth fo * j) % 2 ^ codeWidth fo = (one j).bits % 2 ^ codeWidth fo) ∧
        out.length = 8 * codeWidth fo ∧ ∀ q < 6, g.getLsbD q = true ↔ ∃ j < 64, (one j).flags.getLsbD q = true
      let content (kind : XKind) (out : List Byte) (g : BitVec 6) : Prop := match kind with
        | .fill => out = (List.replicate 32 (leBytes 8 (rS r a).toNat)).flatten ∧ g = 0
        | .exp => g = 0 ∧ out.length = 256 ∧ ∀ j < 256, out.getD j 0 =
            if present j then byte (32 + ((List.range j).filter present).length) else 0
        | .trn => out = src 256 ∧ g = 0
        | .zvc => g = 0 ∧ out.length = sectorLength (leVal (out.take 32)) ∧ expandSector (leVal (out.take 32)) 256 0 (out.drop 32) = src 256 ∧
            ∀ j < 256, (leVal (out.take 32)).testBit j = true ↔ (src 256).getD j 0 ≠ 0
        | .cvt =>
          (floats fa = true → floats fo = true → fa ≠ fo → packed out g fun j => convert fa fo false (rmodeOf r.fmt) (fmtSat r.fmt) (raw j)) ∧
          (floats fa = true → fa = fo → packed out g fun j => reencode fa (rmodeOf r.fmt) (fmtSat r.fmt) (raw j)) ∧
          (isCodeFormat fa = true → fo = 0 → packed out g fun j => deliver .rne (value j)) ∧
          (isCodeFormat fa = true → floats fo = true → fo ≠ 0 → packed out g fun j =>
            let y := deliver .rne (value j)
            let q := convert 0 fo false (rmodeOf r.fmt) (fmtSat r.fmt) y.bits
            ⟨q.bits, y.flags ||| q.flags⟩) ∧
          (fo = 6 ∨ fo = 7 → ∀ mu eu, num32 scale = .fin false mu eu → packed out g fun j =>
            let q := quantInt fo mu eu (value j).1 (offset j)
            ⟨(BitVec.ofInt (codeWidth fo) q.1).toNat, q.2 ||| (if (value j).2 then fNV else 0)⟩) ∧
          (fo = 9 ∨ fo = 10 →
            let z (h : Nat) : Block := quantDxb fo ((rS r n).toNat / 2 ^ 20 % 16) scale (fmtSat r.fmt)
              ((List.range 32).map fun i => (value (32 * h + i)).1) ((List.range 32).map fun i => offset (32 * h + i))
            out = blockBytes fo (z 0) ++ blockBytes fo (z 1) ∧ ∀ q < 6, g.getLsbD q = true ↔
              ((z 0).flags ||| (z 1).flags).getLsbD q = true ∨ (fNV.getLsbD q = true ∧ ∃ j < 64, (value j).2 = true))
      let runs (kind : XKind) (i : Instr) (first : Word) (bad : Option Word) : Prop :=
        (bad = none → free → 0 < N → ∃ t y, exec i s = .next t ∧ t.mem = s.mem ∧ curArch t = r ∧
          (curCtx t).xops = (curCtx s).xops ++ [y] ∧
          (curCtx t).lastX = (r.sched.toNat, N) ∧ (curCtx t).flight = (curCtx s).flight ∧ y.kind = kind ∧ y.t = r.sched.toNat ∧
          y.beats = N ∧ y.dst = (rS r d).toNat ∧ y.src = (rS r a).toNat ∧ y.nread = 1 ∧ y.nland = 0 ∧ y.seq = s.seq ∧
          (∃ out fl, y.pend = [(out, fl)] ∧ content kind out fl) ∧
          y.bad = ((sourceChunks s (coreOf s.cur) { y with nread := 0, pend := [], srcUsed := 0 } 1 0 0).find? fun q =>
            badAt s (spadKey (coreOf s.cur) q.1) q.2).map fun q => (0, q.1)) ∧
        (bad = none → free → N = 0 → exec i s = .next (
          let t := modCtx (issued s) s.cur fun k => { k with lastX := (r.sched.toNat, 0) }
          if kind = .zvc then land 4 (.sreg l 0) 0 t else t)) ∧
        (bad = none → ¬ free → exec i s = taken (fault 0x10 1 first) s) ∧
        (∀ v, bad = some v → exec i s = taken (fault 0x0D s.slot.val v) s)
      let inside (o m : Nat) : Prop := N = 0 ∨ o + m ≤ 0x60000
      runs .fill (.xfill d a n x) (rS r d) (xBad .fill (rS r d) (rS r a) (rS r n) x.val s) ∧
      runs .exp (.xexp d a n x) (rS r a) (xBad .exp (rS r d) (rS r a) (rS r n) x.val s) ∧
      runs .trn (.xtrn d a n x) (rS r a) (xBad .trn (rS r d) (rS r a) (rS r n) x.val s) ∧
      runs .zvc (.xzvc d a n l) (rS r a) (xBad .zvc (rS r d) (rS r a) (rS r n) 0 s) ∧
      (fa ≤ 10 → fo ≤ 10 → (isCodeFormat fa = true → frameFault s f (rD r f) fa = []) →
        (isCodeFormat fo = true → scaleFault s (cvtDI (rS r n)) = [] ∧ (fmtDith r.fmt = true → frameFault s b (rD r b) fo = [])) →
        runs .cvt (.xcvt d a n b f) (rS r a) (xBad .cvt (rS r d) (rS r a) (rS r n) 0 s)) ∧
      (10 < fa ∨ 10 < fo → exec (.xcvt d a n b f) s = taken (fault 0x12 s.slot.val r.fmt) s) ∧
      ((x = 0 ∧ (rS r n).toNat ≤ 1536 ∧ inside (rS r d).toNat (256 * N)) → xBad .fill (rS r d) (rS r a) (rS r n) x.val s = none) ∧
      ((x = 0 ∧ 1536 < (rS r n).toNat) → xBad .fill (rS r d) (rS r a) (rS r n) x.val s = some (rS r n)) ∧
      (x ≠ 0 → xBad .fill (rS r d) (rS r a) (rS r n) x.val s = some 0 ∧ xBad .exp (rS r d) (rS r a) (rS r n) x.val s = some 0)) ∧
  (∀ (s : State) (k : Fin 1024) (x : XOp) (out : List Byte) (fl : BitVec 6) (rest : List (List Byte × BitVec 6)),
      (ctxAt s k).run = .started → (ctxAt s k).xops = [x] → x.pend = (out, fl) :: rest → x.nland < x.nread →
      x.nread ≤ x.beats → (coreAt s (coreOf k)).array = none → s.bad = [] →
      ((ctxAt s k).arch.sched.toNat = x.t + x.nland + xLatency x.kind → (∃ off, x.bad = some (x.nland, off)) →
        ∃ t q, exec (.transformBeat k) s = .next t ∧ t.mem = s.mem ∧ (ctxAt t k).xops = [] ∧
          (ctxAt t k).flight = (ctxAt s k).flight ++ [q] ∧ q.due = (ctxAt s k).arch.sched.toNat ∧ q.seq = x.seq ∧ q.act = .nothing ∧
          ∃ g, q.fault = some g ∧ g.code = 0x80 ∧ g.sub = 0) ∧ ((∀ off, x.bad ≠ some (x.nland, off)) →
      let key := spadKey (coreOf k) x.dst
      let at_ := x.t + x.nland + xLatency x.kind
      let now := (ctxAt s k).arch.sched.toNat
      let z := 2 ^ (x.width.val - 1)
      let dp := trnDP x.counts
      let row (lo n : Nat) : Prop := ∃ t, exec (.transformBeat k) s = .next t ∧ (∀ j < n, byteAt t (key + lo + j) = out.getD j 0) ∧
        (∀ y, y < key + lo ∨ key + lo + n ≤ y → byteAt t y = byteAt s y)
      (now < at_ → ∃ t, exec (.transformBeat k) s = .next t ∧ t.mem = s.mem) ∧
      (now = at_ → x.kind = .fill ∨ x.kind = .exp → out.length = 256 → x.dst + 256 * (x.nland + 1) ≤ 0x60000 → row (256 * x.nland) 256) ∧
      (now = at_ → x.kind = .cvt → ∀ n, n = cvtChunk (fmtO x.fmt).toNat → out.length = n → x.dst + n * (x.nland + 1) ≤ 0x60000 →
        row (n * x.nland) n) ∧
      (now = at_ → x.kind = .zvc → x.dst + 4 + x.dstUsed + out.length ≤ 0x60000 →
        (x.nland + 1 < x.beats → row (4 + x.dstUsed) out.length) ∧
        (x.nland + 1 = x.beats → ∃ t, exec (.transformBeat k) s = .next t ∧
          memVal t.mem key 4 = (x.beats * 2 ^ 24 + x.dstUsed + out.length) % 2 ^ 32 ∧
          (∀ j < out.length, byteAt t (key + 4 + x.dstUsed + j) = out.getD j 0) ∧
          (∀ y, y < key ∨ (key + 4 ≤ y ∧ y < key + 4 + x.dstUsed) ∨ key + 4 + x.dstUsed + out.length ≤ y → byteAt t y = byteAt s y) ∧
          rS (ctxAt t k).arch x.lreg = if x.lreg = 0 then 0 else BitVec.ofNat 64 (4 + x.dstUsed + out.length))) ∧
      (now = at_ → x.kind = .trn → 1 ≤ x.width.val → out.length = 256 → (256 / z) * dp + x.dst + x.beats * z ≤ 0x60000 →
        (x.nland + 1) * z ≤ dp → ∃ t, exec (.transformBeat k) s = .next t ∧
          (∀ i < 256 / z, ∀ j < z, byteAt t (key + i * dp + x.nland * z + j) = out.getD (i * z + j) 0) ∧
          (∀ y, (∀ i < 256 / z, y < key + i * dp + x.nland * z ∨ key + i * dp + x.nland * z + z ≤ y) → byteAt t y = byteAt s y)) ∧
      (now = at_ → x.kind = .trn → x.width.val = 0 → out.length = 256 → 512 * dp + x.dst + x.beats ≤ 0x60000 →
        x.nland / 2 < dp → ∃ t, exec (.transformBeat k) s = .next t ∧
          (∀ i < 512, let y := key + i * dp + x.nland / 2
            let nib := (out.getD (i / 2) 0).toNat / 16 ^ (i % 2) % 16
            (byteAt t y).toNat = if x.nland % 2 = 0 then (byteAt s y).toNat / 16 * 16 + nib else (byteAt s y).toNat % 16 + 16 * nib) ∧
          (∀ y, (∀ i < 512, y ≠ key + i * dp + x.nland / 2) → byteAt t y = byteAt s y))))

/-! ### Ordering and synchronisation (R284 to R300, R44 to R46) -/

/-- FMTW and SCLLD are in force five bundles later, frame writes one; WROT lands w0 as named at issue and moves the window base
at t + 1. (R294, R295, R300) -/
def Obligations.SettingsLand : Prop :=
  ∀ (s : State) (a d : Fin 64) (n : Fin 16) (f : Fin 4) (r k : Fin 8), Alone 1 s →
    let x := rS (curArch s) a
    exec (.fmtw a) s = .next (landFree 5 (.fmt (x &&& 0xFFFF)) (issued s)) ∧
    exec (.sclld a n) s = .next (landFree 5 (.scale n (x.setWidth 32)) (issued s)) ∧
    exec (.dfrm a f r) s = .next (land 1 (.frame r f (x.setWidth 32) false) 0 (issued s)) ∧
    exec (.dfrmAdd a f r) s = .next (land 1 (.frame r f (x.setWidth 32) true) 0 (issued s)) ∧
    exec (.wrot d k) s = .next (landFree 1 (.wbase k) (land 1 (.sreg d (curArch s).w[(curArch s).wbase]) 0 (issued s)))

/-- A fence is a result due at t + 1 that has no data until every covered earlier access of its context has performed: it
freezes the context until then, and no other access holds it. To a `FENCEX` with the matrix path on its left, the bank writes
still in flight are such accesses. The model's choice, no words of a rule: that a fence waits whatever its scope (log entry
61). (R284, R285, R296) -/
def Obligations.FencesHold : Prop :=
  ∀ (s : State) (m : BitVec 16) (c : Fin 8) (f t : BitVec 6), Alone 1 s →
    exec (.fence m c) s = .next (landLate 1 (.fence false 0 m c) s.seq (issued s)) ∧
    exec (.fencex c f t) s = .next (landLate 1 (.fence true f 0 c) s.seq (issued s)) ∧
    (∀ (u : State) (k : Fin 1024) (x : Flight), x ∈ (ctxAt u k).flight → x.due ≤ (ctxAt u k).arch.sched.toNat →
      (∀ core : Fin 256, (coreAt u core).buf = []) →
      (x.act = .fence false 0 m c →
        ((∃ w ∈ (coreAt u (coreOf k)).work, w.ctx = k ∧ w.seq < x.seq ∧ w.performed = false ∧ isAccess w = true ∧
          m.getLsbD w.cls.val = true) → ctxReady u k = false) ∧
        ((∀ w ∈ (coreAt u (coreOf k)).work, w.ctx = k → w.seq < x.seq → w.performed = false → isAccess w = true →
          m.getLsbD w.cls.val = false) → flightReady u k x = true)) ∧
      (x.act = .fence true f 0 c →
        ((∃ w ∈ (coreAt u (coreOf k)).work, w.ctx = k ∧ w.seq < x.seq ∧ w.performed = false ∧ isAccess w = true ∧
          f.getLsbD w.path.val = true) → ctxReady u k = false) ∧
        (f.getLsbD 2 = true → (∃ y ∈ (ctxAt u k).flight, y.seq < x.seq ∧ isBankWrite y = true) → ctxReady u k = false) ∧
        ((f.getLsbD 2 = true → ∀ y ∈ (ctxAt u k).flight, y.seq < x.seq → isBankWrite y = false) →
          (∀ w ∈ (coreAt u (coreOf k)).work, w.ctx = k → w.seq < x.seq → w.performed = false → isAccess w = true →
            f.getLsbD w.path.val = false) → flightReady u k x = true)))

/-- DSYNC stands its context at the barrier of its level, at which it waits; a level at which it is no member, and DSYNC in a
task, fault with OPERAND. the barrier of a domain: with every member standing at it, it releases them all; while some started
member has not come, it releases none. The model's choice, no words of a rule: a `DSYNC` of a handler (log entry 63); that bank
writes in flight hold no arrival is read from the last sentences of R291 (log entry 90). (R291, R297, R46, R44) -/
def Obligations.DomainBarriers : Prop :=
  (∀ (s : State), Alone 0 s → (curCtx s).sync = none →
      let fault := taken (mkFault 0x0D s.slot.val (some s.slot) 0 0 0) s
      ∀ q ∈ ([(0, .dsyncWord), (1, .dsyncPhrase), (2, .dsyncClause), (3, .dsyncSentence), (4, .dsyncParagraph)] :
          List (Fin 5 × Instr)),
        ((curArch s).dmemb.getLsbD q.1.val = true → (curArch s).task = false →
          ∃ t, exec q.2 s = .next t ∧ (curCtx t).sync = some (q.1, false) ∧ (curCtx t).waits = [.barrier q.1] ∧
            (curCtx t).repeatFlag = true ∧ curArch t = curArch s ∧ t.mem = s.mem ∧ t.cores = s.cores ∧
            (mustEnter (curCtx s) = false → (curArch s).hm = false → ctxReady t s.cur = false)) ∧
        ((curArch s).dmemb.getLsbD q.1.val = false ∨ (curArch s).task = true → exec q.2 s = fault)) ∧
  (∀ (s : State) (j : BitVec 32) (l : Fin 4) (n : Nat) (x : Job) (k0 : Fin 1024), findJob s j = some x →
      let level : Fin 5 := ⟨l.val, by omega⟩
      let ms := members x level n
      (∀ k ∈ ms, (coreAt s (coreOf k)).job = some j ∧ (ctxAt s k).run = .started) →
      ((∀ k ∈ ms, (ctxAt s k).sync = some (level, true)) → ms ≠ [] →
        ∃ u, exec (.domainBarrierRelease j level n) s = .next u ∧ ∀ k ∈ ms, (ctxAt u k).sync = none ∧
          (ctxAt u k).waits = (ctxAt s k).waits.filter fun w => w ≠ .barrier level) ∧
      (k0 ∈ ms → (ctxAt s k0).sync = none → ∃ u, exec (.domainBarrierRelease j level n) s = .next u ∧
        ∀ k ∈ ms, ((ctxAt u k).sync = none ↔ (ctxAt s k).sync = none) ∧ (ctxAt u k).waits = (ctxAt s k).waits))

/-- Flag writes go out with their value and targets and perform later, with release; FLWAIT issues once its core's word meets
its condition, unsigned, and lands the value it read; a word in error that it reads ends the job. A target outside the
paragraph, an empty mask, and a core of this device that the job does not name fault with OPERAND. a flag write performs as one
addition or one store on the flag word of each core it names, and changes no other byte; an addition to a word in error ends
the job with LOSTDATA. The model's choice, no words of a rule: the order of the faults, and that a flag write with `REM` 1
leaves as a flit whatever device it names (log entry 62). (R298, R288, R289) -/
def Obligations.FlagOperations : Prop :=
  (∀ (s : State) (c v m t d w : Fin 64) (cc : Fin 4), Alone 1 s →
      let r := curArch s
      let core := (rS r c).toNat % 256
      let stack := (rS r t).toNat % 4
      let names (n : Nat) : Prop := jobNames s (jobOf s s.cur) (Fin.ofNat 256 n) = true
      let sends (i : Instr) (k : WorkKind) : Prop := ∃ u y, exec i s = .next u ∧ (curCore u).work = (curCore s).work ++ [y] ∧
        y.kind = k ∧ y.seq = s.seq ∧ y.ctx = s.cur ∧ (curCtx u).repeatFlag = true ∧ curArch u = r ∧ u.mem = s.mem ∧
        (curCtx u).flight = (curCtx s).flight
      let value := flagWord s (coreOf s.cur) w.val
      let x : BitVec 32 := (rS r v).setWidth 32
      let meets : Prop := if cc = 0 then x.toNat ≤ value.toNat else if cc = 1 then value = x else value ≠ x
      let bad : Prop := badAt s (localKey 3 (coreOf s.cur).val (4 * w.val)) 4 = true
      let own (a : Fin 64) : Prop := targetRem (rS r a) = false ∨ targetDev (rS r a) = s.devid
      let there (a : Fin 64) : Prop := targetRem (rS r a) = false ∨ (targetDev (rS r a)).toNat < s.psize.toNat
      let rem (a : Fin 64) : Option (BitVec 13) := if targetRem (rS r a) = true then some (targetDev (rS r a)) else none
      let fault (y : Word) : Host.Outcome State Fault Refusal := taken (mkFault 0x0D s.slot.val (some s.slot) y 0 0) s
      (there c → (own c → names core) → sends (.fladd c v w) (.flagw 0 0 core w x true (rem c))) ∧
      (there t → rS r m ≠ 0 → (own t → ∀ i < 64, (rS r m).getLsbD i = true → names (stack * 64 + i)) →
        sends (.flset v m t w) (.flagw (rS r m) stack 0 w x false (rem t))) ∧
      (¬ there c → exec (.fladd c v w) s = fault (rS r c)) ∧
      (there c → own c → ¬ names core → exec (.fladd c v w) s = fault (rS r c)) ∧
      (¬ there t → exec (.flset v m t w) s = fault (rS r t)) ∧
      (there t → rS r m = 0 → exec (.flset v m t w) s = fault 0) ∧
      (there t → own t → (∃ i < 64, (rS r m).getLsbD i = true ∧ ¬ names (stack * 64 + i)) →
        exec (.flset v m t w) s = fault (rS r m)) ∧
      ((curCtx s).flagSeen = none →
        (¬ bad → meets → exec (.flwait d v cc w) s = .next (land 1 (.sreg d (value.setWidth 64)) 0 (issued s))) ∧
        (bad → exec (.flwait d v cc w) s = .next (lostData (issued s) (coreOf s.cur) 2)) ∧
        (¬ bad → ¬ meets → exec (.flwait d v cc w) s = .next (goWaiting [.flag w cc x] s)))) ∧
  (∀ (s : State) (c : Fin 256) (q : Nat) (w : Work) (core : Fin 256) (word : Fin 64) (x : BitVec 32), findWork s c q = some w →
      mayPerform s w = true → coreOf w.ctx = c → (coreAt s core).retired = false → holdsCore s w.job core = true →
      (coreAt s core).job = some w.job →
      let key := localKey 3 core.val (4 * word.val)
      let makes (new : BitVec 32) : Prop := ∃ t, exec (.flagWriteArrives c q) s = .next t ∧ memVal t.mem key 4 = new.toNat ∧
        (∀ b, b < key ∨ key + 4 ≤ b → byteAt t b = byteAt s b) ∧
        (∀ k, (ctxAt t k).arch.s = (ctxAt s k).arch.s ∧ (ctxAt t k).arch.pc = (ctxAt s k).arch.pc)
      (∀ cs st, w.kind = .flagw cs st core.val word x true none →
        (badAt s key 4 = false → makes (BitVec.ofNat 32 (memVal s.mem key 4) + x)) ∧
        (badAt s key 4 = true → ∀ j, findJob s w.job = some j → j.phase = .running → ∃ t u e, exec (.flagWriteArrives c q) s = .next t ∧
          t.mem = s.mem ∧ findJob t w.job = some u ∧ u.phase = .ending e ∧ e.state = 3 ∧ e.tcause = 0x20090)) ∧
      (∀ k, w.kind = .flagw ((1 : Word) <<< (core.val % 64)) (core.val / 64) k word x false none → badPart s key 4 = false → makes x))

/-! ### Ladders, merge cells and boosted tasks (R257 to R274, R301 to R332) -/

/-- A ladder or merge-cell operation on bound handles with legal operands goes to the ladder unit's queue as its command, when
ring and queue have room and, as a verb of a task, its hold is granted and its undo entries fit; LNEW, LBIND, LDROP and LFORK
bind their handle at t + 1; a full queue is waited for, and an unbound handle faults with HANDLE. As they perform outside any
task, with the descriptor and the headers of the present blocks in order and reached: LKEEP writes `KEEP`; LWALK writes an
entry for each present block, and one of zeros, into the scratchpad; LCNT's value arrives; LFORK into an empty ladder raises
`REFC` of every present block and copies the descriptor with `TASKSEQ` 0; LNEW writes every word of the descriptor from its
record, forms the power rows, and hands `GEOM` to the handles bound by it. LAPPEND of a token in FP32 or BF16, performing
outside any task on a ladder in order without a carry: where slot 0 is empty, the block on top of the pool's free stack takes
the token's summary and stands in slot 0; where slot 0 holds a block that nothing shares or keeps, the budget is not 0, and
slot 1 is empty, the two merge in that block's storage, each element rounded once, and it stands in slot 1. `COUNT` rises by
one, and nothing else changes. Merge-cell operations, as they perform on a cell that is reached: MCINIT writes `CFG` and clears
the rest of the header and the output record; MCDEP copies a record into its slot and sets its bit, and at the last one writes
the combination of the slots, in slot order, and `STAT`; a slot beyond `N`, one already filled, or a configuration that R271
forbids is ENGFAIL with the cell as it was; MCGET copies the output record into the scratchpad. The model's choice, no words of
a rule: which of several unbound handles is reported (log entry 55), that an operation performs whole at its event (log entries
1 and 50), and the `TVAL` values that no rule names (log entry 30). (R257, R258, R260, R263, R265, R243, R244, R245, R250,
R261, R272, R273) -/
def Obligations.LadderOperations : Prop :=
  (∀ (s : State) (a b : Fin 64) (h x : Fin 16) (e : Bool) (g : Fin 8) (i : Fin 64) (d : BitVec 16), Alone 1 s →
      let r := curArch s
      let ring := (r.g[g] : Ring)
      let hd := (r.h[h] : Handle)
      let hx := (r.h[x] : Handle)
      let held : Nat := ((curCore s).work.filter fun w => (match w.kind with
          | .ladder _ => true
          | _ => false) && !w.done).length
      let room : Prop := (e = true → ring.fcode = 0 ∧ (ring.rsv - ring.cons).toNat + 1 ≤ ring.cap.toNat) ∧ held < 8
      let may (n : Nat) : Prop := r.task = true → r.tsk.retr = false → (curCtx s).granted = true ∧ (curCtx s).holdFault = none ∧
        (n = 0 ∨ r.tsk.utop.toNat + r.tsk.reserved + n ≤ r.tsk.usize.toNat)
      let queues (j : Instr) (op : BitVec 8) (hd hd2 : Handle) (x y : Word) (binds : Option Handle) : Prop :=
        ∃ t w c, exec j s = .next t ∧ t.mem = s.mem ∧ (curCore t).work = (curCore s).work ++ [w] ∧ w.kind = .ladder c ∧ w.path = 4 ∧
          w.cls = 0 ∧ w.seq = s.seq ∧ w.ctx = s.cur ∧ w.ring = (if e then some g else none) ∧ c.op = op ∧ c.hd = hd ∧ c.hd2 = hd2 ∧
          c.x = x ∧ c.y = y ∧ c.scl = r.scl ∧ (curCtx t).granted = false ∧ (curArch t).s = r.s ∧ (curArch t).h = r.h ∧
          (curCtx t).flight = (curCtx s).flight ++ (match binds with
            | none => []
            | some z => [⟨r.sched.toNat + 1, s.seq, false, .handle h z, 0, 0, true, 0, none, r.hm⟩]) ∧
          (curArch t).g[g] = (if e then { ring with rsv := ring.rsv + 1 } else ring)
      let none_ := Handle.reset
      let A := rS r a
      let B := rS r b
      (room → (r.task = true → r.tsk.retr = false → (curCtx s).holdFault = none) →
        (B.toNat % 512 = 0 → A.toNat % 64 = 0 → A.toNat ≤ 0x5FFC0 →
          queues (.lnew a b e g h) 0x40 ⟨true, B, 0, s.seq⟩ none_ A 0 (some ⟨true, B, 0, s.seq⟩)) ∧
        (B.toNat % 512 = 0 → queues (.lbind b e g h) 0x41 ⟨true, B, 0, s.seq⟩ none_ 0 0 (some ⟨true, B, 0, s.seq⟩))) ∧
      (room → may 0 → hd.bound = true →
        (queryBad hd A = false → rangeBad hd B = false → queues (.lread b a e g h) 0x47 hd none_ A B none) ∧
        (A.toNat % 16 = 0 → A.toNat + 800 ≤ 0x60000 → queues (.lwalk a e g h) 0x48 hd none_ A 0 none)) ∧
      (room → A.toNat % 64 = 0 →
        (cellBad B.toNat = false → queues (.mcinit b a e g) 0x50 none_ none_ A B none) ∧
        (B.toNat % 2 ^ 19 % 64 = 0 → B.toNat % 2 ^ 19 + 64 ≤ 0x60000 →
          queues (.mcdep b a e g i) 0x51 none_ none_ A B none ∧ queues (.mcget b a e g) 0x52 none_ none_ A B none)) ∧
      (room → may 1 → hd.bound = true → appendBad hd A = false →
        (appPre A = true → (r.h[appHandle A] : Handle).bound = true) →
        (appPre A = false → isCodeFormat (appFmt A) = true →
          frameClash (rD r (appKfr A)) (appFmt A) = false ∧ frameClash (rD r (appVfr A)) (appFmt A) = false) →
        queues (.lappend a e g h) 0x42 hd (r.h[appHandle A]) A 0 none) ∧
      (room → may 9 → hd.bound = true →
        (A.toNat ≤ 63 → queues (.lcarry a e g h) 0x43 hd none_ A 0 none) ∧ queues (.ltrunc a e g h) 0x45 hd none_ A 0 none ∧
        (A.getLsbD 0 = false → A.toNat < 2 ^ 48 → queues (.lkeep a e g h) 0x49 hd none_ A 0 none) ∧
        queues (.ldrop e g h) 0x46 hd none_ 0 0 (some none_) ∧
        (hx.bound = true → queues (.lfork x e g h) 0x44 hx hd 0 0 (some { hd with geom := hx.geom, bind := hx.bind }))) ∧
      (hd.bound = true → held < 8 → ∃ t w c, exec (.lcnt a h d) s = .next t ∧ t.mem = s.mem ∧ (curCore t).work = (curCore s).work ++ [w] ∧
        w.kind = .ladder c ∧ c.op = 0x4A ∧ c.hd = hd ∧ w.seq = s.seq ∧ curArch t = r ∧
        (curCtx t).flight = (curCtx s).flight ++ [⟨r.sched.toNat + d.toNat, s.seq, true, .sreg a 0, 0, 0, false, s.seq, none, r.hm⟩]) ∧
      (hd.bound = true → 8 ≤ held → exec (.lcnt a h d) s = .next (goWaiting [.ladderRoom] s)) ∧
      (e = false → B.toNat % 512 = 0 → 8 ≤ held → r.task = false → exec (.lbind b e g h) s = .next (goWaiting [.ladderRoom] s)) ∧
      (hd.bound = false → e = false → (curCtx s).holdFault = none →
        let fault := taken (mkFault 0x40 h.val (some s.slot) 0 0 0) s
        exec (.lappend a e g h) s = fault ∧ exec (.lcarry a e g h) s = fault ∧ exec (.ltrunc a e g h) s = fault ∧
        exec (.ldrop e g h) s = fault ∧ exec (.lread b a e g h) s = fault ∧ exec (.lwalk a e g h) s = fault ∧
        exec (.lkeep a e g h) s = fault ∧ exec (.lfork x e g h) s = fault ∧ exec (.lcnt a h d) s = fault)) ∧
  (∀ (s : State) (c : Fin 256) (q : Nat) (w : Work) (l : LadderCmd) (place : Nat → Nat), OnlyWork s c q w →
      w.kind = .ladder l → w.ring = none → s.bad = [] → l.idx = 0 → l.inTask = false →
      let desc := l.hd.desc.toNat
      let word (a i : Nat) : Nat := numAt s place (a + 8 * i) 8
      let held (a : Nat) : Desc := (List.range 64).map (word a)
      let blocks := (held desc).present
      let reach := Reaches s c w.job place
      let header (b : Nat × Nat × Bool) : Prop := reach b.2.1 64 ∧ word b.2.1 0 / 256 % 64 = b.1 ∧ word b.2.1 0 % 2 = 0 ∧
        word b.2.1 0 / 4 % 64 = 0 ∧ word b.2.1 0 / 2 ^ 14 % 4 = 0 ∧ 0 < word b.2.1 1 ∧ word b.2.1 1 + 1 < 2 ^ 32 ∧
        word b.2.1 6 = 0 ∧ word b.2.1 7 = 0
      let same (t : State) (r : List (Nat × Nat)) : Prop :=
        ∀ y, (∀ x ∈ r, ∀ a, x.1 ≤ a → a < x.1 + x.2 → y ≠ place a) → byteAt t y = byteAt s y
      let runs (post : State → Prop) : Prop := ∃ t, exec (.ladderOpComplete c q) s = .next t ∧ (coreAt t c).work = [] ∧ post t
      reach desc 512 →
      ((held desc).bad = false → (∀ b ∈ blocks, header b) → Apart place ((desc, 512) :: blocks.map fun b => (b.2.1, 64)) →
        (l.op = 0x49 → runs fun t =>
          (∀ i < 64, numAt t place (desc + 8 * i) 8 = if i = 53 then l.x.toNat else word desc i) ∧ same t [(desc, 512)]) ∧
        (l.op = 0x48 → l.x.toNat + 16 * (blocks.length + 1) ≤ 0x60000 →
          meets (claimedTiles (coreAt s c)) l.x.toNat (16 * (blocks.length + 1)) = false → runs fun t => t.mem = s.mem ∧
            (∀ i b, blocks[i]? = some b →
              leVal (arbRead t c (l.x.toNat + 16 * i) 8) = b.2.1 ∧
              leVal (arbRead t c (l.x.toNat + 16 * i + 8) 8) =
                ((blocks.take i).map fun y => 2 ^ y.1).sum + b.1 * 2 ^ 48 + if b.2.2 then 2 ^ 63 else 0) ∧
            arbRead t c (l.x.toNat + 16 * blocks.length) 16 = List.replicate 16 0 ∧
            ∀ z, z < l.x.toNat ∨ l.x.toNat + 16 * (blocks.length + 1) ≤ z → arbRead t c z 1 = arbRead s c z 1) ∧
        (l.op = 0x44 →
          let into := l.hd2.desc.toNat
          reach into 512 → (held into).bad = false → (held into).present = [] →
          Apart place ((desc, 512) :: (into, 512) :: blocks.map fun b => (b.2.1, 64)) → runs fun t =>
            (∀ b ∈ blocks, numAt t place (b.2.1 + 8) 8 = word b.2.1 1 + 1) ∧
            (∀ i < 64, numAt t place (into + 8 * i) 8 = if i = 55 then 0 else word desc i) ∧
            same t ((into, 512) :: blocks.map fun b => (b.2.1 + 8, 8)))) ∧
      ((held desc).bad = false → l.op = 0x4A → ∃ t, exec (.landingDataArrives c q) s = .next t ∧ t.mem = s.mem ∧ (coreAt t c).work = [] ∧
        ∀ f ∈ (ctxAt s w.ctx).flight, f.src = w.seq → f.ready = false → ∀ r v, f.act = .sreg r v →
          { f with ready := true, act := .sreg r (BitVec.ofNat 64 (if word desc 48 < 256 then word desc 49
            else 2 ^ 63 + word desc 48 % 64 * 2 ^ 56 + word desc 49)) } ∈ (ctxAt t w.ctx).flight) ∧
      (l.op = 0x40 →
        let off := l.x.toNat
        let rec_ (i : Nat) : Nat := leVal (arbRead s c (off + 8 * i) 8)
        let dk := 2 ^ (rec_ 0 % 16)
        let power (t : State) (k i : Nat) : BitVec 32 := BitVec.ofNat 32 (numAt t place (rec_ 1 + 4 * (k * dk + i)) 4)
        off + 64 ≤ 0x60000 → rec_ 5 = 0 ∧ rec_ 6 = 0 ∧ rec_ 7 = 0 → 1 ≤ rec_ 0 % 16 ∧ rec_ 0 % 16 ≤ 8 →
        1 ≤ rec_ 0 / 16 % 16 ∧ rec_ 0 / 16 % 16 ≤ 8 → rec_ 0 < 2 ^ 9 → rec_ 4 % 2 = 0 ∧ rec_ 4 < 2 ^ 48 → reach (rec_ 1) (192 * dk) →
        Apart place [(desc, 512), (rec_ 1, 192 * dk)] → runs fun t =>
          (∀ i < 64, numAt t place (desc + 8 * i) 8 = if i = 50 then rec_ 0 else if i = 51 then rec_ 1 else if i = 52 then rec_ 2
            else if i = 53 then rec_ 4 else if i = 54 then rec_ 3 else 0) ∧
          (∀ i < dk, power t 0 i = power s 0 i ∧ ∀ k < 47,
            power t (k + 1) i = BitVec.ofNat 32 (fpMul .rne (num32 (power t k i)) (num32 (power t k i))).bits) ∧
          same t [(desc, 512), (rec_ 1, 192 * dk)] ∧
          (w.seq ≠ 0 → ∀ h : Fin 16, (((ctxAt s w.ctx).arch.h[h] : Handle)).bind = w.seq →
            (ctxAt t w.ctx).arch.h[h] = { ((ctxAt s w.ctx).arch.h[h] : Handle) with geom := BitVec.ofNat 9 (rec_ 0), bind := 0 }))) ∧
  (∀ (s : State) (c : Fin 256) (q : Nat) (w : Work) (l : LadderCmd) (place : Nat → Nat), OnlyWork s c q w →
      w.kind = .ladder l → w.ring = none → s.bad = [] → l.idx = 0 → l.inTask = false → l.op = 0x42 →
      let desc := l.hd.desc.toNat
      let word (a i : Nat) : Nat := numAt s place (a + 8 * i) 8
      let held : Desc := (List.range 64).map (word desc)
      let blocks := held.present
      let reach := Reaches s c w.job place
      let header (b : Nat × Nat × Bool) : Prop := reach b.2.1 64 ∧ word b.2.1 0 / 256 % 64 = b.1 ∧ word b.2.1 0 % 2 = 0 ∧
        word b.2.1 0 / 4 % 64 = 0 ∧ word b.2.1 0 / 2 ^ 14 % 4 = 0 ∧ 0 < word b.2.1 1 ∧ word b.2.1 1 < 2 ^ 32 ∧
        word b.2.1 6 = 0 ∧ word b.2.1 7 = 0
      let same (t : State) (r : List (Nat × Nat)) : Prop :=
        ∀ y, (∀ x ∈ r, ∀ a, x.1 ≤ a → a < x.1 + x.2 → y ≠ place a) → byteAt t y = byteAt s y
      let runs (post : State → Prop) : Prop := ∃ t, exec (.ladderOpComplete c q) s = .next t ∧ (coreAt t c).work = [] ∧ post t
      let g := l.hd.geom.toNat
      let dk := 2 ^ (g % 16)
      let dv := 2 ^ (g / 16 % 16)
      let sf := if l.hd.geom.getLsbD 8 then 2 else 0
      let e := if l.hd.geom.getLsbD 8 then 2 else 4
      let zb := (dk * e + 63) / 64 * 64
      let size := 64 + zb + dk * dv * e
      let fi := l.x.toNat / 2 ^ 44 % 16
      let input (off i : Nat) : Sys2Proof.Machine.Num :=
        decodeFp (fpOf fi) (leVal (arbRead s c (off + codeWidth fi / 8 * i) (codeWidth fi / 8)))
      let key := input (l.x.toNat % 2 ^ 19)
      let val := input (l.x.toNat / 2 ^ 19 % 2 ^ 19)
      let rnd (x : Sys2Proof.Machine.Num) : Nat := (roundNum (fpOf sf) .rne false x).bits
      let n := word desc 49
      l.x.getLsbD 62 = false → fi = 0 ∨ fi = 2 → l.x.toNat % 2 ^ 19 + codeWidth fi / 8 * dk ≤ 0x60000 →
      l.x.toNat / 2 ^ 19 % 2 ^ 19 + codeWidth fi / 8 * dv ≤ 0x60000 →
      reach desc 512 → held.bad = false → word desc 48 = 0 → n < 2 ^ 48 - 1 → (∀ b ∈ blocks, header b) →
      (let pool := word desc 54
        let top := word pool 3
        let at_ := word pool 2 + 4 * (top - 1)
        let x := numAt s place at_ 4
        let a := word pool 0 + x * (word pool 1 % 2 ^ 32)
        word desc 0 = 0 → reach pool 64 → size ≤ word pool 1 % 2 ^ 32 → 0 < top → top ≤ word pool 1 / 2 ^ 32 → word pool 0 % 256 = 0 →
        word pool 2 % 4 = 0 → (∀ i < 8, 4 ≤ i → word pool i = 0) → reach at_ 4 → x < word pool 1 / 2 ^ 32 → reach a size →
        Apart place ((desc, 512) :: (pool, 64) :: (at_, 4) :: (a, size) :: blocks.map fun b => (b.2.1, 64)) → runs fun t =>
          (∀ i < 64, numAt t place (desc + 8 * i) 8 = if i = 0 then a else if i = 49 then n + 1 else word desc i) ∧
          numAt t place (pool + 24) 8 = top - 1 ∧
          (∀ i < 8, numAt t place (a + 8 * i) 8 =
            if i = 0 then n * 2 ^ 16 else if i = 1 then 1 else if i = 4 then g else if i = 5 then pool else 0) ∧
          (∀ i < dk, numAt t place (a + 64 + e * i) e = rnd (key i) ∧ ∀ j < dv,
            numAt t place (a + 64 + zb + e * (i * dv + j)) e = rnd (mulNum (key i) (val j)).1) ∧
          same t [(desc, 512), (pool + 24, 8), (a, size)]) ∧
      (let a := word desc 0
        let p (i : Nat) : Sys2Proof.Machine.Num := num32 (BitVec.ofNat 32 (numAt s place (word desc 51 + 4 * i) 4))
        let old (o : Nat) : Sys2Proof.Machine.Num := decodeFp (fpOf sf) (numAt s place (a + o) e)
        let new (x : Sys2Proof.Machine.Num) : Sys2Proof.Machine.Num := decodeFp (fpOf sf) (rnd x)
        let merged (i : Nat) (x y : Sys2Proof.Machine.Num) : Nat := rnd (addNum .rne (mulNum (p i) x).1 y).1
        a ≠ 0 → word desc 1 = 0 → 0 < n → 0 < l.x.toNat / 2 ^ 38 % 64 → word desc 53 / 2 % 2 = 0 → word a 1 = 1 → word a 2 = 0 →
        word a 3 = 0 → reach a size → reach (word desc 51) (4 * dk) →
        Apart place ((desc, 512) :: (word desc 51, 4 * dk) :: (a, size) :: (blocks.filter fun b => b.1 ≠ 0).map fun b => (b.2.1, 64)) →
        runs fun t =>
          (∀ i < 64, numAt t place (desc + 8 * i) 8 =
            if i = 0 then 0 else if i = 1 then a else if i = 49 then n + 1 else word desc i) ∧
          (∀ i < 8, numAt t place (a + 8 * i) 8 = if i = 0 then (n - 1) * 2 ^ 16 + 256 else word a i) ∧
          (∀ i < dk, numAt t place (a + 64 + e * i) e = merged i (old (64 + e * i)) (new (key i)) ∧ ∀ j < dv,
            numAt t place (a + 64 + zb + e * (i * dv + j)) e =
              merged i (old (64 + zb + e * (i * dv + j))) (new (mulNum (key i) (val j)).1)) ∧
          same t [(desc, 512), (a, size)])) ∧
  (∀ (s : State) (c : Fin 256) (q : Nat) (w : Work) (l : LadderCmd) (place : Nat → Nat), OnlyWork s c q w →
      w.kind = .ladder l → w.ring = none → s.bad = [] →
      let cell := l.x.toNat
      let word (i : Nat) : Nat := numAt s place (cell + 8 * i) 8
      let reach := Reaches s c w.job place
      let same (t : State) (r : List (Nat × Nat)) : Prop :=
        ∀ y, (∀ x ∈ r, ∀ a, x.1 ≤ a → a < x.1 + x.2 → y ≠ place a) → byteAt t y = byteAt s y
      let runs (post : State → Prop) : Prop := ∃ t, exec (.ladderOpComplete c q) s = .next t ∧ (coreAt t c).work = [] ∧ post t
      let width := word 0 % 2 ^ 9
      let n := word 0 / 2 ^ 16 % 2 ^ 7
      let pitch := (64 + 4 * width + 63) / 64 * 64
      let off := l.y.toNat % 2 ^ 19
      let len := 64 + 4 * width
      let good : Prop := 1 ≤ n ∧ n ≤ 64 ∧ 1 ≤ width ∧ width ≤ 256 ∧ word 0 / 2 ^ 9 % 2 ^ 7 = 0 ∧ word 0 / 2 ^ 23 % 2 = 0 ∧
        word 0 < 2 ^ 38 ∧ word 2 < 4 ∧ ∀ i < 8, 3 ≤ i → word i = 0
      let fails (code : BitVec 16) : Prop := (ctxAt s w.ctx).run ≠ .halted → runs fun t => t.mem = s.mem ∧
        (ctxAt t w.ctx).deferred = (ctxAt s w.ctx).deferred ++ [⟨w.seq, w.handler, ⟨0x4D, code, some w.slot, l.x, commandWord w, 0, none⟩⟩]
      (l.op = 0x50 →
        let wide := l.y.toNat % 2 ^ 9
        reach cell (128 + 4 * wide) → Apart place [(cell, 128 + 4 * wide)] → runs fun t =>
          numAt t place cell 8 = l.y.toNat ∧ (∀ i < 120 + 4 * wide, memGet t.mem (place (cell + 8 + i)) = 0) ∧
          same t [(cell, 128 + 4 * wide)]) ∧
      (l.op = 0x51 → reach cell 64 →
        let slot (i : Nat) : Nat := cell + 64 + (i + 1) * pitch
        let filled := word 1 + 2 ^ l.idx
        let record := arbRead s c off len
        (good → l.idx < n → word 1 / 2 ^ l.idx % 2 = 0 → off + len ≤ 0x60000 → reach (slot l.idx) len →
          (filled % 2 ^ n ≠ 2 ^ n - 1 → Apart place [(cell, 64), (slot l.idx, len)] → runs fun t =>
            (∀ j < len, j < 8 ∨ 64 ≤ j → memGet t.mem (place (slot l.idx + j)) = record.getD j 0) ∧ numAt t place (cell + 8) 8 = filled ∧
            same t [(cell + 8, 8), (slot l.idx, 8), (slot l.idx + 64, 4 * width)]) ∧
          (filled % 2 ^ n = 2 ^ n - 1 → reach cell (64 + (n + 1) * pitch) → Apart place [(cell, 64 + (n + 1) * pitch)] →
            let part (i j : Nat) : BitVec 32 := BitVec.ofNat 32 (if i = l.idx then leVal ((record.drop j).take 4)
              else numAt s place (slot i + j) 4)
            let m (i : Nat) : BitVec 32 := part i 0
            let nan : Prop := ∃ i < n, (num32 (m i)).isNan = true ∨ (num32 (part i 4)).isNan = true
            let top : BitVec 32 := (List.range n).foldl (fun x i => fpMinMax true x (m i)) 0xFF800000
            let alpha (i : Nat) : Sys2Proof.Machine.Num := num32 (BitVec.ofNat 32 (tripWeight .rne (m i) top).bits)
            let total (f : Nat → BitVec 32) : BitVec 32 := (List.range n).foldl (fun x i =>
              BitVec.ofNat 32 (fpFma .rne (num32 (f i)) (alpha i) (num32 x)).bits) 0
            let sum := total fun i => part i 4
            let out (t : State) (j : Nat) : BitVec 32 := BitVec.ofNat 32 (numAt t place (cell + 64 + j) 4)
            let empty : Prop := ¬ nan ∧ (top = 0xFF800000 ∨ sum.toNat % 2 ^ 31 = 0)
            runs fun t => numAt t place (cell + 8) 8 = filled ∧ out t 8 = BitVec.ofNat 32 n ∧
              (nan → out t 0 = 0x7FC00000 ∧ out t 4 = 0x7FC00000 ∧ ∀ j < width, out t (64 + 4 * j) = 0x7FC00000) ∧
              (¬ nan → out t 0 = top ∧ out t 4 = if top = 0xFF800000 then 0 else sum) ∧
              (empty → ∀ j < width, out t (64 + 4 * j) = 0) ∧
              (¬ nan → ¬ empty → ∀ j < width, out t (64 + 4 * j) =
                BitVec.ofNat 32 (toFp32 .rne (divNum (num32 (total fun i => part i (64 + 4 * j))) (num32 sum))).bits) ∧
              (empty → numAt t place (cell + 16) 8 = 3 ∧ out t 12 = 3) ∧ (¬ empty → numAt t place (cell + 16) 8 = 1 ∧ out t 12 = 1) ∧
              same t [(cell + 8, 16), (cell + 64, len), (slot l.idx, 8), (slot l.idx + 64, 4 * width)])) ∧
        (good → n ≤ l.idx → fails 0x0211) ∧ (good → l.idx < n → word 1 / 2 ^ l.idx % 2 = 1 → fails 0x0212) ∧
        (n = 0 ∨ 64 < n ∨ width = 0 ∨ 256 < width ∨ 4 ≤ word 2 → fails 0x0210)) ∧
      (l.op = 0x52 →
        let size := 64 + 4 * min width 256
        reach cell (64 + size) → off + size ≤ 0x60000 → meets (claimedTiles (coreAt s c)) off size = false → runs fun t =>
          t.mem = s.mem ∧ (∀ j < size, arbRead t c (off + j) 1 = [memGet s.mem (place (cell + 64 + j))]) ∧
          ∀ z, z < off ∨ off + size ≤ z → arbRead t c z 1 = arbRead s c z 1))

/-- The commands of the task unit go out with their operands; TBEGIN opens the delivered task that it names, with its number
from word 7 of the descriptor; VINV copies the inverse's arguments; TSTAT lands what it selects, and zeros outside any task.
The model's choice, no words of a rule: the number of a task whose word 7 cannot be read (log entry 59), and that an address is
used as it stands (log entry 60). (R323, R324, R325, R329, R331, R332) -/
def Obligations.TaskInstructions : Prop :=
  ∀ (s : State) (a b d : Fin 64) (e q : Bool) (g : Fin 8) (n : Fin 64) (z : Fin 4) (x : Delivered), Alone 1 s →
    let r := curArch s
    let ring := (r.g[g] : Ring)
    let sends (i : Instr) (k : WorkKind) : Prop := ∃ t w, exec i s = .next t ∧ t.mem = s.mem ∧
      (curCore t).work = (curCore s).work ++ [w] ∧ w.kind = k ∧ w.path = 5 ∧ w.seq = s.seq ∧ w.ctx = s.cur ∧
      w.ring = (if e then some g else none) ∧ (curCtx t).flight = (curCtx s).flight ∧ (curArch t).s = r.s ∧
      (curArch t).tsk = r.tsk ∧ (curArch t).g[g] = (if e then { ring with rsv := ring.rsv + 1 } else ring)
    ((e = true → ring.fcode = 0 ∧ (ring.rsv - ring.cons).toNat + 1 ≤ ring.cap.toNat) →
      sends (.tspawn a e g) (.spawn (rS r a)) ∧ sends (.gload d a e g n) (.gload (rS r d) (rS r a) (n.val + 1)) ∧
      sends (.vtab d a e g) (.vtab (rS r d) (rS r a))) ∧
    (r.task = false → r.verb = false → r.tsk.retr = false →
      r.tsk.delivered.find? (fun y => y.desc = rS r d && !y.begun) = some x →
      (∃ bs, (readAt s ⟨coreOf s.cur, s.cur, jobOf s s.cur, none, 4⟩ (rS r d) 8).1 = .ok bs ∧ leVal bs / 2 ^ 40 % 2 = 1) →
      (rS r b).toNat / 2 ^ 48 ≠ 0 → (rS r b).toNat % 64 = 0 →
      undoWritable s ((rS r b).toNat % 2 ^ 48) ((rS r b).toNat / 2 ^ 48) = true →
      ∃ t, exec (.tbegin a d b q) s = .next t ∧ t.mem = s.mem ∧ (curArch t).task = true ∧ (curArch t).s = r.s ∧
        (curArch t).tsk.seq = (match (readAt s ⟨coreOf s.cur, s.cur, jobOf s s.cur, none, 4⟩ (rS r d + 56) 8).1 with
          | .ok bs => BitVec.ofNat 64 (leVal bs)
          | .error _ => x.seq) ∧ (curArch t).tsk.dom = x.dom ∧ (curArch t).tsk.desc = rS r d ∧
        (curArch t).tsk.ubase.toNat = (rS r b).toNat % 2 ^ 48 ∧ (curArch t).tsk.usize.toNat = (rS r b).toNat / 2 ^ 48 ∧
        (curArch t).tsk.utop = 0 ∧ (curArch t).tsk.cont = (rS r a).setWidth 32 ∧ (curArch t).tsk.req = q ∧
        (curArch t).tsk.retr = false ∧ (curArch t).tsk.apend = false) ∧
    (r.verb = true → r.tsk.retr = false → r.tsk.icnt = false →
      n.val = verbArgc (verbEntry s (jobOf s s.cur) r.tsk.dom (verbInv (verbEntry s (jobOf s s.cur) r.tsk.dom r.tsk.kind))) →
      a.val + n.val ≤ 64 →
      exec (.vinv a n) s = .next (modTask (issued s) s.cur fun t =>
        { t with icnt := true, args := (List.range n.val).map fun i => rS r (Fin.ofNat 64 (a.val + i)) })) ∧
    (let v : Word := match currentTask r with
        | none => 0
        | some y =>
          if z = 0 then y.seq else if z = 1 then y.desc else if r.task = false then 0
          else if z = 2 then r.tsk.utop.setWidth 64
          else ((BitVec.ofBool r.tsk.req ++ BitVec.ofBool r.tsk.apend ++ BitVec.ofBool r.tsk.retr ++ BitVec.ofBool r.verb ++
            BitVec.ofBool r.task : BitVec 5).setWidth 64)
      exec (.tstat d z) s = .next (land 1 (.sreg d v) 0 (issued s)))

/-- Verbs and the ends of tasks. VCALL issues at the grant of its hold, lands the object and the return index, and passes
control to its routine; VRET ends a verb and goes on at s63, or, during retraction, hands control back; TABORT begins the
retraction of its task; TCOMMIT, once everything issued before has performed, ends the task, and where it reads host memory for
that it does so when the answers are there, its context standing still till then. The model's choice, no words of a rule: that
`TABORT` acts at once (log entry 56), what a retraction discards (log entry 57), that `VRET` clears `ICNT` (log entry 59), and
that a commit waits for what the host has to answer (log entry 94). (R326, R327, R328, R330, R422) -/
def Obligations.TaskVerbs : Prop :=
  ∀ (s : State) (o k w : Fin 64), Alone 2 s →
    let r := curArch s
    let entry := verbEntry s (jobOf s s.cur) r.tsk.dom (BitVec.ofNat 6 k.val)
    (r.task = true → r.verb = false → r.tsk.retr = false → r.xfer = none → verbValid entry = true →
      (curCtx s).holdFault = none →
      ((curCtx s).granted = true → ∃ t, exec (.vcall o k) s = .next t ∧ t.mem = s.mem ∧ t.flow = .jumped (verbRout entry) ∧
        (curArch t).verb = true ∧ (curArch t).s = r.s ∧ (curArch t).tsk.icnt = false ∧ (curArch t).tsk.kind = BitVec.ofNat 6 k.val ∧
        (curArch t).tsk.obj = rS r o ∧ (curCtx t).granted = false ∧
        (curCtx t).flight = (curCtx s).flight ++
          [⟨r.sched.toNat + 1, s.seq, true, .sreg 47 (rS r o), 0, 0, true, 0, none, r.hm⟩,
           ⟨r.sched.toNat + 1, s.seq, true, .sreg 63 (nextBundle s), 0, 0, true, 0, none, r.hm⟩]) ∧
      ((curCtx s).granted = false →
        exec (.vcall o k) s = .next (goWaiting [.hold (BitVec.ofNat 6 k.val) (rS r o) 0x65] s))) ∧
    (r.tsk.retr = false → r.xfer = none → r.tsk.icnt = true → r.tsk.utop.toNat + r.tsk.reserved + 1 ≤ r.tsk.usize.toNat →
      ∃ t, exec .vret s = .next t ∧ t.flow = .jumped (rS r 63 &&& 0xFFFFFFFF) ∧ (curArch t).verb = false ∧
        (curArch t).tsk.icnt = false ∧ (curArch t).s = r.s) ∧
    (r.tsk.retr = true → r.xfer = none → ∃ t, exec .vret s = .next t ∧ t.mem = s.mem ∧
      t.flow = .jumped (r.tsk.cont.setWidth 64) ∧ (curArch t).tsk.routine = false ∧
      (curArch t).tsk.utop = (if r.tsk.routine then r.tsk.utop - 1 else r.tsk.utop) ∧ (curArch t).s = r.s) ∧
    (r.task = true → r.verb = false → r.tsk.retr = false → ∃ t, exec (.tabort w) s = .next t ∧
      t.flow = .jumped (r.tsk.cont.setWidth 64) ∧ (curArch t).tsk.retr = true ∧ (curArch t).tsk.why = 3 ∧
      (curArch t).tsk.apend = false ∧ (curArch t).s = r.s) ∧
    (r.verb = false → r.tsk.retr = false → currentTask r ≠ none →
      (released s s.cur s.seq = true →
        let ends (t : State) : Prop := (curArch t).s = r.s ∧ t.cur = s.cur ∧
          if asking t s.cur = true then ctxReady t s.cur = false else (curArch t).task = false
        (∃ t, exec .tcommit s = .next t ∧ ends t) ∧
        (∀ y, currentTask r = some y → olderTask s (jobOf s s.cur) y.dom y.seq = false →
          ∃ t, exec .tcommitOrd s = .next t ∧ ends t) ∧
        (∀ y, currentTask r = some y → olderTask s (jobOf s s.cur) y.dom y.seq = true →
          exec .tcommitOrd s = .next (goWaiting [.released, .oldest] s))) ∧
      (released s s.cur s.seq = false → exec .tcommit s = .next (goWaiting [.released] s) ∧
        exec .tcommitOrd s = .next (goWaiting [.released, .oldest] s))) ∧
    (r.task = false → r.verb = false → r.tsk.retr = false → r.xfer = none → (curCtx s).holdFault = none →
      exec (.tabort w) s = taken (mkFault 0x48 1 (some s.slot) (statusWord r) 0 0) s ∧
      exec (.vcall o k) s = taken (mkFault 0x48 1 (some s.slot) (statusWord r) 0 0) s)

/-- A hold request of a waiting bundle ends in its grant, a wait, its fault, the requester's own abort, or, where the budget of
the period is spent, nothing; an abort is delivered at a boundary outside verbs and handlers, and there it begins the
retraction; what a halted context's engines still owe it lands. The model's choice, no words of a rule: that an abort is
delivered at the boundary of its event (log entry 56), when a request is judged again and what the host may refuse of it (log
entry 58), and what lands while the clock stands (log entry 89). (R310, R311, R319, R320, R135) -/
def Obligations.TaskEvents : Prop :=
  ∀ (s : State) (k : Fin 1024),
    let c := ctxAt s k
    (c.run = .started → abortDue c = true →
      ∃ t, exec (.abortDelivery k) s = .next t ∧ (ctxAt t k).arch.tsk.retr = true ∧ (ctxAt t k).arch.tsk.apend = false ∧
        (ctxAt t k).arch.tsk.why = c.arch.tsk.why ∧ (ctxAt t k).arch.pc = c.arch.tsk.cont.setWidth 64 ∧
        (ctxAt t k).arch.verb = false ∧ (ctxAt t k).waits = [] ∧ (ctxAt t k).arch.s = c.arch.s) ∧
    (abortDue c = false → exec (.abortDelivery k) s = .next s) ∧
    (∀ j kind obj opc u, (coreAt s (coreOf k)).job = some j → (∀ x ∈ s.saved, x.core ≠ coreOf k) → asksHold c = true →
      wantedHolds c = [(kind, obj, opc)] → c.asked = false →
      (askHold j k kind obj opc s = (.granted, u) → exec (.holdRequest k) s =
        .next (modTarget (modTarget u j k fun c => { c with asked := false, waits := c.waits.erase (.hold kind obj opc) }) j k
          fun c => { c with granted := true, asked := false })) ∧
      (askHold j k kind obj opc s = (.waits, u) → exec (.holdRequest k) s = .next (modTarget u j k fun c => { c with asked := true })) ∧
      (∀ f, askHold j k kind obj opc s = (.fault f, u) → exec (.holdRequest k) s =
        .next (modTarget u j k fun c => { c with holdFault := some f, asked := false })) ∧
      (askHold j k kind obj opc s = (.later, u) → exec (.holdRequest k) s = .next u) ∧
      (askHold j k kind obj opc s = (.own, u) → liveAt u j (coreOf k) = true → (ctxAt u k).arch.hm = false →
        exec (.holdRequest k) s = .next (beginRetract k 1 0 u))) ∧
    (c.run = .halted → exec (.haltedEngineResult k) s = .next (landUpTo k (beatClock s k) s)) ∧
    (c.run ≠ .halted → exec (.haltedEngineResult k) s = .next s)

/-! ### The host, jobs, cores and links (R21 to R50, R291, R356 to R368, R391 to R410) -/

/-- How the device answers each host message: bytes of HBM in RDATA messages of at most 192, writes with ACK 0, and the status
of R407 where a check fails. A home slice that gives up a dirty sector of host memory for what it reads or writes sends it off
first, in WRITEs. A TLBINV is answered when no access that used a removed translation waits for the host. The model's choice,
no words of a rule: the addresses in the answers to `MREAD` and `ATTEST` (log entry 70). (R357, R358, R360, R364, R365, R407)
-/
def Obligations.HostMessages : Prop :=
  ∀ (s : State) (m : Fin 8) (t : BitVec 16) (a x : Word) (l : BitVec 32) (j : BitVec 32) (bs : List Byte) (y : Fin 7),
    s.modules.getLsbD m.val = true →
    let ack (n : Nat) : State := { s with outbox := s.outbox ++ [⟨3, t, 0, BitVec.ofNat 32 n, []⟩] }
    (s.fwOk = true →
      (l = 0 ∨ 4096 < l.toNat → exec (.hostRead m t a l) s = .next (ack 0x11)) ∧
      (l = 0 ∨ 192 < l.toNat → exec (.hostWrite m t a l bs) s = .next (ack 0x11)) ∧
      (0 < l.toNat → 2 ^ 39 < a.toNat + l.toNat → (l.toNat ≤ 4096 → exec (.hostRead m t a l) s = .next (ack 0x12)) ∧
        (l.toNat ≤ 192 → exec (.hostWrite m t a l bs) s = .next (ack 0x12))) ∧
      (0 < l.toNat → l.toNat ≤ 4096 → a.toNat + l.toNat ≤ 2 ^ 39 → ∃ u ws ms, exec (.hostRead m t a l) s = .next u ∧
        u.mem = s.mem ∧ u.ctxs = s.ctxs ∧ u.cores = s.cores ∧ u.outbox = s.outbox ++ ws ++ ms ∧ (∀ q ∈ ws, q.type = 1) ∧
        (badAt s a.toNat l.toNat = true → ms = [⟨3, t, 0, 0x13, []⟩]) ∧
        (badAt s a.toNat l.toNat = false → (∀ q ∈ ms, q.type = 2 ∧ q.tag = t ∧ q.data.length ≤ 192) ∧
          ms.flatMap (·.data) = memRead s.mem a.toNat l.toNat)) ∧
      (0 < l.toNat → l.toNat ≤ 192 → a.toNat + l.toNat ≤ 2 ^ 39 → bs.length = l.toNat →
        ∃ u ws, exec (.hostWrite m t a l bs) s = .next u ∧ u.outbox = s.outbox ++ ws ++ [⟨3, t, 0, 0, []⟩] ∧
          (∀ q ∈ ws, q.type = 1) ∧ u.ctxs = s.ctxs ∧ u.cores = s.cores ∧
          (badPart s a.toNat l.toNat = false → memRead u.mem a.toNat l.toNat = bs) ∧
          ∀ z, z < a.toNat ∨ a.toNat + l.toNat ≤ z → byteAt u z = byteAt s z) ∧
      (3 < l.toNat → exec (.tlbinv m t j a l) s = .next (ack 0x11)) ∧
      (l.toNat ≤ 3 → ∃ u, exec (.tlbinv m t j a l) s = .next u ∧ u.mem = s.mem ∧ u.ctxs = s.ctxs ∧
        (inFlightOf s j = [] → u.outbox = (ack 0).outbox ∧ u.invals = s.invals) ∧
        (inFlightOf s j ≠ [] → u.outbox = s.outbox ∧ u.invals = s.invals ++ [⟨t, inFlightOf s j⟩]) ∧
        ∀ c : Fin 256, (coreAt u c).tlb = (coreAt s c).tlb.filter fun e =>
          !decide (e.job = j ∧ (l.toNat = 3 ∨ (e.level.val = l.toNat ∧ e.page = a.toNat / 2 ^ (16 + (if l.toNat = 1 then 5 else
            if l.toNat = 2 then 14 else 0)))))) ∧
      exec (.reservedHostType m t y) s = .next (ack 0x10) ∧
      (l ≠ 8 → exec (.mwrite m t ⟨a, l⟩ x) s = .next (ack 0x11)) ∧
      (a.toNat % 8 ≠ 0 → exec (.mwrite m t ⟨a, 8⟩ x) s = .next (ack 0x12)) ∧
      (a.toNat % 8 = 0 → ∃ u, exec (.mwrite m t ⟨a, 8⟩ x) s = .next u ∧ u.outbox = (ack 0).outbox ∧ u.mem = s.mem ∧ u.ctxs = s.ctxs ∧
        (a = 0 → u.devid = x.setWidth 13) ∧ (a = 8 → u.psize = x.setWidth 14) ∧
        (∀ i : Fin 4, a.toNat = 0x100 + 8 * i.val → u.thresh[i] = x.setWidth 16) ∧
        (∀ i : Fin 5, a.toNat = 0x1000 + 8 * i.val → u.budget[i] = x.setWidth 16))) ∧
    (l ≠ 8 → exec (.mread m t ⟨a, l⟩) s = .next (ack 0x11)) ∧
    (a.toNat % 8 ≠ 0 → exec (.mread m t ⟨a, 8⟩) s = .next (ack 0x12)) ∧
    (a.toNat % 8 = 0 → ∃ v : Word, exec (.mread m t ⟨a, 8⟩) s =
        .next { s with outbox := s.outbox ++ [⟨2, t, a, 8, leBytes 8 v.toNat⟩] } ∧
      (a = 0 → v = s.devid.setWidth 64) ∧ (a = 8 → v = s.psize.setWidth 64) ∧
      (∀ i : Fin 4, a.toNat = 0x100 + 8 * i.val → v = (s.thresh[i]).setWidth 64) ∧
      (∀ i : Fin 5, a.toNat = 0x1000 + 8 * i.val → v = (s.budget[i]).setWidth 64) ∧
      (∀ i : Fin 256, a.toNat = 0x200 + 8 * i.val → v = if s.sampled then sampleWord s i else 0) ∧
      (0x20000 ≤ a.toNat → v = 0)) ∧
    ∃ p q, exec (.attest m t bs) s = .next { s with outbox := s.outbox ++ [p, q] } ∧ p.type = 2 ∧ q.type = 2 ∧ p.tag = t ∧
      q.tag = t ∧ p.data.length = 192 ∧ q.data.length = 148

/-- An RDATA or ACK that answers no message outstanding, or the wrong kind of one, changes nothing; the answer to a message of
a piece of work counts for it, data entering with the last byte of a read, and a status other than 0, or no answer for 2^24
cycles, refuses the access with that status, or with 0xFFFF. power-on resets the device: with firmware that does not verify it
does nothing more; with firmware that does, the modules, memories, cores and ports that failed are out of use, and the device
is not ready until its report is answered. The model's choice, no words of a rule: the tags of the device's own messages (log
entry 72), when the data of a read enter the device (log entry 71), and the values at reset that the spec does not give (log
entry 4). (R358, R401, R368, R410) -/
def Obligations.HostAnswersAndPowerOn : Prop :=
  (∀ (s : State) (m : Fin 8) (t : BitVec 16) (l : BitVec 32) (bs : List Byte) (w : Work) (c : Fin 256) (n h : Nat) (q : HostMsg),
      s.modules.getLsbD m.val = true →
      let report : Prop := t = reportTag ∧ s.fwOk = true ∧ s.ready = false
      (messageOfTag s t = none → exec (.rdata m t bs) s = .next s ∧ (¬ report → exec (.ack m t l) s = .next s)) ∧
      (messageOfTag s t = some q → q.type = 1 → exec (.rdata m t bs) s = .next s) ∧
      (messageOfTag s t = some q → q.type = 0 → (¬ report → exec (.ack m t 0) s = .next s) ∧
        let d := (q.data ++ bs).take q.len.toNat
        (d.length ≠ q.len.toNat → ∃ u, exec (.rdata m t bs) s = .next u ∧ u.mem = s.mem ∧ u.cores = s.cores ∧ u.ctxs = s.ctxs ∧
          messageOfTag u t = some { q with data := d }) ∧
        (d.length = q.len.toNat → workOfTag s t = some w → exec (.rdata m t bs) s =
          .next (modWorkAny (takeHostBytes (dropMessage s t) q.addr.toNat d) (coreOf w.ctx) w.seq fun x =>
            { x with tags := x.tags.erase t, seen := x.seen ++ [(q.addr.toNat, q.len.toNat)] }))) ∧
      (¬ report → messageOfTag s t = some q → workOfTag s t = some w →
        (l ≠ 0 → exec (.ack m t l) s = .next (refuseHost s w (l.setWidth 16))) ∧
        (q.type = 1 → exec (.ack m t 0) s =
          .next (modWorkAny (dropMessage s t) (coreOf w.ctx) w.seq fun x => { x with tags := x.tags.erase t }))) ∧
      (report → ∃ u, exec (.ack m t l) s = .next u ∧ u.ready = true ∧ u.ctxs = s.ctxs ∧ u.jobs = s.jobs) ∧
      (workAny s c n = some w → w.performed = false → w.tags ≠ [] → w.heldSince = some h →
        exec (.hostAnswerTimeout c n) s = .next (if h + 2 ^ 24 ≤ s.cycle then refuseHost s w 0xFFFF else s))) ∧
  (∀ (s : State) (f b : Bool) (m : BitVec 8) (c : BitVec 256) (p : BitVec 16),
      ∃ u, exec (.powerOn f m b c p) s = .next u ∧ u.fwOk = f ∧ u.ready = false ∧ u.jobs = [] ∧ u.saved = [] ∧ u.cycle = 0 ∧
        u.ctxs = State.reset.ctxs ∧ u.agenda = s.agenda ∧ (f = false → u.mem = State.reset.mem ∧ u.outbox = State.reset.outbox) ∧
        (f = true → u.modules = ~~~m ∧ u.hbmFail = b ∧ (∀ i : Fin 256, (coreAt u i).retired = c.getLsbD i.val) ∧
          ∀ i : Fin 16, (u.ports[i]).up = !p.getLsbD i.val))

/-- START: a launch that fails a check is answered with the status of R391 and starts nothing, no image being taken before
bring-up is complete; one that passes waits for its cores; while its checks need bytes of host memory it does nothing but read
them. A waiting job that may start on free cores starts there: every named core is the job's, every context with a record is
started at its entry with its arguments in s1 to s8 and its clock at 0, all the cores issue from one cycle on, and the START is
answered with 0. The model's choice, no words of a rule: the order of the checks (log entry 68), that an event which the rules
do not allow does nothing (log entry 67), when a `START` waits for the host (log entry 94), what words in error do to it (log
entry 110), and how the first turn on a shared core begins (log entry 87). (R35, R36, R37, R359, R391) -/
def Obligations.JobLaunch : Prop :=
  ∀ (s : State) (m : Fin 8) (t : BitVec 16) (id : BitVec 32) (x : List Byte) (j : Job),
    let v (i : Nat) : Nat := leVal ((x.drop (8 * i)).take 8)
    let firmware : Bool := inHbm (v 1) && v 1 % 256 == 0 && !imageBad s (v 1) && imgFlags s (v 1) / 2 % 2 == 1
    let named := BitVec.ofNat 32 (vecBits s (v 0) 0 32)
    let status := startStatus s named (v 0) (v 1) (v 2) (v 3)
    let reads : Bool := (startNow m t x none { s with want := [] }).want.any fun q => q.type = 0
    let answers (n : Nat) : Prop := reads = false → ∃ u ws, exec (.start m t id x) s = .next u ∧
      u.outbox = s.outbox ++ ws ++ [⟨3, t, 0, BitVec.ofNat 32 n, []⟩] ∧ (∀ q ∈ ws, q.type = 1) ∧ u.mem = s.mem ∧ u.ctxs = s.ctxs ∧
      u.jobs = s.jobs
    (s.modules.getLsbD m.val = true → s.fwOk = true →
      (s.hbmFail = true → answers 6) ∧
      (s.hbmFail = false → firmware = true → s.ready = false → answers 6) ∧
      (s.hbmFail = false → firmware = false → status ≠ 0 → answers status) ∧
      (reads = true → ∃ u a ms, exec (.start m t id x) s = .next u ∧ u.asks = s.asks ++ [a] ∧ a.what = .start m t x ∧
        u.outbox = s.outbox ++ ms ∧ (∀ q ∈ ms, q.type = 0) ∧ ms ≠ [] ∧ u.mem = s.mem ∧ u.ctxs = s.ctxs ∧ u.jobs = s.jobs) ∧
      (s.hbmFail = false → firmware = false → status = 0 → reads = false → ∃ u job, exec (.start m t id x) s = .next u ∧ u.jobs = s.jobs ++ [job] ∧
        job.id = named ∧ job.phase = .waiting ∧ job.recs = recsOf s (v 0) ∧ job.answer = some (m, t) ∧ u.ctxs = s.ctxs)) ∧
    (findJob s id = some j → admissible s j = false → exec (.jobAdmit id) s = .next s) ∧
    (findJob s id = some j → admissible s j = true → takeCores s j (namedCores j.recs) = none → exec (.jobAdmit id) s = .next s) ∧
    (findJob s id = some j → admissible s j = true → s.par = [] → (∀ c ∈ namedCores j.recs, (coreAt s c).job = none) →
      ∃ u, exec (.jobAdmit id) s = .next u ∧ (∃ k, findJob u id = some k ∧ k.phase = .running ∧ k.recs = j.recs) ∧
        (∀ a, j.answer = some (m, a) → ∃ ws, u.outbox = s.outbox ++ ws ++ [⟨3, a, 0, 0, []⟩] ∧ ∀ q ∈ ws, q.type = 1) ∧
        (∀ c ∈ namedCores j.recs, ∀ d ∈ namedCores j.recs, (coreAt u c).busyUntil = (coreAt u d).busyUntil) ∧
        (∀ c ∈ namedCores j.recs, (coreAt u c).job = some id) ∧ (∀ c, c ∉ namedCores j.recs → coreAt u c = coreAt s c) ∧
        ∀ r ∈ j.recs, (∀ q ∈ j.recs, q.ctx = r.ctx → q = r) →
          (ctxAt u r.ctx).run = .started ∧ (ctxAt u r.ctx).arch.pc = r.entry.setWidth 64 ∧ (ctxAt u r.ctx).arch.sched = 0 ∧
            (ctxAt u r.ctx).arch.prio = r.prio ∧
            ∀ i : Fin 8, (ctxAt u r.ctx).arch.s[i.val + 1]'(by omega) = r.args[i])

/-- A core whose turn is over is saved, its registers in the image, and goes to the saved job whose turn it is; a free core is
given to one. The restored core has the registers, the flags, the scratchpad pages and the banks that its image holds, its
contexts as far on as they were; it issues again when the time of a restore has passed, and a grant floor of 4096 credits
begins, which ends when it is met. A core waits for the writes of its saves to host memory, and for the reads of an image
there; an image that cannot be read back whole ends its job. The model's choice, no words of a rule: that an event which the
rules do not allow does nothing (log entry 67), the order within a save image (log entry 65), when a turn begins (log entry
86), when a restore waits for the host (log entry 94), and what follows when the image cannot be read (log entry 111). (R39,
R40, R43, R36) -/
def Obligations.CoreScheduling : Prop :=
  ∀ (s : State) (c : Fin 256) (x : SavedCore) (j : Job) (u : State), s.want = [] →
    let image (o n : Nat) : List Byte := (readImage j c o n s).1
    let asWritten (o n : Nat) : Prop := image o n = memRead x.kept o n
    let registers (a : Arch) (g : List Byte) : Prop :=
      (∀ i : Fin 64, a.s[i] = BitVec.ofNat 64 (byteField g (8 * i.val) 8)) ∧
      (∀ i : Fin 64, a.v[i] = BitVec.ofNat 2048 (byteField g (0x400 + 0x100 * i.val) 256)) ∧
      (∀ i : Fin 16, a.p[i] = (byteField g 0x200 2).testBit i.val ∧ a.m[i] = BitVec.ofNat 64 (byteField g (0x208 + 8 * i.val) 8)) ∧
      (∀ i : Fin 8, a.w[i] = BitVec.ofNat 64 (byteField g (0x4400 + 8 * i.val) 8)) ∧
      a.fmt = BitVec.ofNat 64 (byteField g 0x4448 8) ∧ a.sched = BitVec.ofNat 64 (byteField g 0x4450 8) ∧
      a.pc = BitVec.ofNat 64 (byteField g 0x4458 8) ∧ a.fstat = BitVec.ofNat 64 (byteField g 0x44C8 8)
    let restores (t : State) : Prop := (coreAt t c).job = some j.id ∧ (coreAt t c).floor = 4097 ∧
      (coreAt t c).busyUntil = max s.cycle (coreAt s c).busyUntil + (3072 + 16 * j.sppages.toNat) ∧ (coreAt t c).turnStart = s.cycle ∧
      (asWritten 0x300 200 → (coreAt t c).e = x.e ∧ (coreAt t c).o = x.o) ∧
      memRead t.mem (localKey 3 c.val 0) 256 = image 0xC0 256 ∧
      (∀ p < j.sppages.toNat, memRead t.mem (localKey 0 c.val (4096 * p)) 4096 = image (0x300C0 + 4096 * p) 4096) ∧
      (∀ a, 4096 * j.sppages.toNat ≤ a → a < 0x60000 → byteAt t (localKey 0 c.val a) = 0) ∧
      (∀ e : Fin 8, ((coreAt t c).e[e]).al = true →
        memRead t.mem (localKey 1 c.val (0x10000 * e.val)) 0x10000 = image (0x900C0 + 0x10000 * e.val) 0x10000) ∧
      ∀ (i : Fin 4) (y : Ctx), x.ctxs[i.val]? = some y →
        ((memRead x.kept (contextBase i.val) 0x4E00).take 0x4D00 = (archBytes y.arch).take 0x4D00 →
          registers (ctxAt t (ctxId c i)).arch (image (contextBase i.val) 0x4E00)) ∧
        (asWritten (contextBase i.val) 0x4E00 → ∀ k : Fin 64, (ctxAt t (ctxId c i)).arch.s[k] = y.arch.s[k] ∧
          (ctxAt t (ctxId c i)).arch.v[k] = y.arch.v[k]) ∧
        (asWritten (controlBase i.val) 0x1000 → (ctxAt t (ctxId c i)).run = y.run ∧ (ctxAt t (ctxId c i)).sync = y.sync ∧
          (ctxAt t (ctxId c i)).repeatFlag = y.repeatFlag)
    let reads : Bool := (restoreNow j.id c none s).want.any fun q => q.type = 0
    let busy : Prop := restoring s c = true ∨ settledFor s (.core c) = false
    (turnOver s c = false → exec (.sliceExpiry c) s = .next s) ∧
    (turnOver s c = true → saveCore s c = none → exec (.sliceExpiry c) s = .next s) ∧
    (turnOver s c = true → saveCore s c = some u → exec (.sliceExpiry c) s = exec (.coreRestore c) u ∧ (coreAt u c).job = none ∧
      (∃ l y, u.saved = l ++ [y] ∧ y.core = c ∧ (coreAt s c).job = some y.job ∧ y.ctxs.length = 4 ∧
        ∀ i z, y.ctxs[i]? = some z → memRead y.kept (contextBase i) 0x4E00 = archBytes z.arch) ∧
      ∀ i : Fin 4, ctxAt u (ctxId c i) = Ctx.reset) ∧
    ((coreAt s c).job = none → (coreAt s c).retired = false → nextSaved s c = some (x, j) → ¬ busy →
      findSaved s j.id c = some x → findJob s j.id = some j →
      (reads = true → ∃ t a ms, exec (.coreRestore c) s = .next t ∧ t.asks = s.asks ++ [a] ∧ a.what = .restore j.id c ∧
        t.outbox = s.outbox ++ ms ∧ ms ≠ [] ∧ (∀ q ∈ ms, q.type = 0) ∧ t.mem = s.mem ∧ t.cores = s.cores ∧ t.saved = s.saved) ∧
      (reads = false → restoreFails none s j x = false → ∃ t, exec (.coreRestore c) s = .next t ∧ restores t) ∧
      (reads = false → restoreFails none s j x = true → ∃ t k e, exec (.coreRestore c) s = .next t ∧ (coreAt t c).job = none ∧
        findJob t j.id = some k ∧ k.phase = .ending e ∧ e.state = 3 ∧ e.tcause = 0x90)) ∧
    ((coreAt s c).job ≠ none ∨ (coreAt s c).retired = true ∨ busy ∨ nextSaved s c = none → exec (.coreRestore c) s = .next s) ∧
    exec (.grantFloorMet c) s = .next (if (coreAt s c).floor = 1 then modCore s c fun y => { y with floor := 0 } else s)

/-- The selector of R32: a promoted context goes first, one to which the issue width has just been handed before the others;
the holder keeps the width while it is ready, until QUANT bundles have issued and a rival is ready; else the ready context of
the highest priority is selected. The model's choice, no words of a rule: how long the context that was handed the issue width
keeps it (log entry 99). (R31, R32, R34) -/
def Obligations.Selection : Prop :=
  ∀ (s : State) (c : Fin 256) (i h : Fin 4),
    let prio (i : Fin 4) : Nat := (ctxAt s (ctxId c i)).arch.prio.toNat
    let ready (i : Fin 4) : Bool := ctxReady s (ctxId c i)
    let x := coreAt s c
    let dropped := modCore s c fun x => { x with holder := none, streak := 0, yielded := [] }
    (selected s c = some i → ready i = true) ∧
    (selected s c = none → ∀ k, ready k = false) ∧
    (x.holder = some h → x.streak = 0 → ready h = true → 1024 ≤ (ctxAt s (ctxId c h)).waitCount → selected s c = some h) ∧
    (x.streak ≠ 0 → handedOver s c = none) ∧
    (handedOver s c = none → ∀ k, ready k = true → 1024 ≤ (ctxAt s (ctxId c k)).waitCount → ∃ y, selected s c = some y ∧
      (ctxAt s (ctxId c k)).waitCount ≤ (ctxAt s (ctxId c y)).waitCount) ∧
    ((∀ k, ready k = true → (ctxAt s (ctxId c k)).waitCount < 1024) →
      (x.holder = some h → ready h = true → selected s c = some h) ∧
      ((∀ k, x.holder = some k → ready k = false) → selected s c = some i → ∀ k, ready k = true → prio k ≤ prio i)) ∧
    (x.holder = some h →
      exec (.quantExpiry c) s = .next (if x.quant ≠ 0 ∧ x.quant.toNat ≤ x.streak ∧
        (∃ k, k ≠ h ∧ ready k = true ∧ prio h ≤ prio k) then dropped else s)) ∧
    (x.holder = none → exec (.quantExpiry c) s = .next s) ∧
    ((∀ k, ready k = true → (ctxAt s (ctxId c k)).waitCount < 1024) → exec (.contextPromotion c) s = .next s) ∧
    (bestPromoted s c = some i → exec (.contextPromotion c) s =
      .next (if x.holder = some i ∨ (∃ k, x.holder = some k ∧ x.streak = 0 ∧ ready k = true ∧
        1024 ≤ (ctxAt s (ctxId c k)).waitCount) then s else dropped))

/-- WNEXT sends its request to the pool it names when the clause has that pool, its value due in the physical work register
named at issue; a pool of another kind faults with OPERAND. The distributor serves an open tile space in order; a hot column's
request is held while a cooler one of its queue waits, for 2048 cycles at most, and then goes on in the ordinary order; the
sensors are sampled every 1024 cycles, within their range. The model's choice, no words of a rule: which requests are the
cooler ones (log entry 84), and the phase of the samples (log entry 85). (R21, R22, R23, R47, R48, R49) -/
def Obligations.WorkDistribution : Prop :=
  ∀ (s : State) (r : Fin 8) (t : Fin 4) (p : Fin 16) (k : Fin 1024) (d : BitVec 16) (w : Work) (j : Job),
    (Alone 1 s → findJob s (jobOf s s.cur) = some j →
      let kind := (j.pools[(stackOf (coreOf s.cur)).val * 16 + p.val]'(by omega)).kind
      let phys := r + (curArch s).wbase
      (kind = 1 ∨ kind = 2 → ∃ u y, exec (.wnext r p d) s = .next u ∧ (curCore u).work = (curCore s).work ++ [y] ∧
        y.kind = .wnext p ∧ y.seq = s.seq ∧ y.ctx = s.cur ∧ (curCtx u).repeatFlag = true ∧ curArch u = curArch s ∧ u.mem = s.mem ∧
        (curCtx u).flight = (curCtx s).flight ++ [⟨(curArch s).sched.toNat + d.toNat, s.seq, true, .wreg phys 0 none, 0, 0, false,
          s.seq, none, (curArch s).hm⟩]) ∧
      (kind = 0 ∨ kind = 3 → exec (.wnext r p d) s = taken (mkFault 0x0D s.slot.val (some s.slot) 0 0 0) s)) ∧
    (requestsOf s t p = [] → exec (.wnextServe t p) s = .next s) ∧
    (requestsOf s t p = [w] → w ∈ (coreAt s (coreOf w.ctx)).work → w.kind = .wnext p → findJob s w.job = some j →
      (coreAt s (coreOf w.ctx)).job = some w.job →
      let pool := (j.pools[t.val * 16 + p.val]'(by omega))
      pool.kind = 1 → pool.isOpen = true → pool.next < pool.x * pool.y * pool.z → j.domains = [] →
      ∃ u y, exec (.wnextServe t p) s = .next u ∧ findJob u w.job = some y ∧
        (y.pools[t.val * 16 + p.val]'(by omega)).next = pool.next + 1 ∧
        (ctxAt u w.ctx).flight = (ctxAt s w.ctx).flight.map fun f =>
          if f.ready = false ∧ f.src = w.seq then
            { f with ready := true, act := match f.act with
                | .wreg d _ _ => .wreg d (tileItem pool pool.next) none
                | a => a } else f) ∧
    (∀ y, requestsOf s t p = [w, y] → w ∈ (coreAt s (coreOf w.ctx)).work → w.job = y.job → w.hostStage = 0 →
      hot s (coreOf w.ctx) = true → hot s (coreOf y.ctx) = false →
      (y.hostStage = 2 → y.heldSince = none) →
      (coreAt s (coreOf w.ctx)).job = some w.job → (coreAt s (coreOf y.ctx)).job = some y.job →
      ∃ u, exec (.wnextServe t p) s = .next u ∧ ∃ z ∈ (coreAt u (coreOf w.ctx)).work, z.seq = w.seq ∧ z.ctx = w.ctx ∧
        z.hostStage = 1 ∧ z.heldSince = some s.cycle) ∧
    ((∀ y ∈ requestsWith s (fun x _ => x.ctx == k), heldOut s y = false) → exec (.thermalHoldTimeout k) s = .next s) ∧
    ((requestsWith s fun x _ => x.ctx == k).filter (heldOut s) = [w] →
      exec (.thermalHoldTimeout k) s = .next (changeRequest release s w)) ∧
    (s.cycle % 1024 ≠ 0 → exec .thermalSample s = .next s) ∧
    (s.cycle % 1024 = 0 → ∃ u, exec .thermalSample s = .next u ∧ u.threshNow = s.thresh ∧ u.sample = s.sample + 1 ∧ u.sampled = true ∧ u.mem = s.mem ∧
      u.ctxs = s.ctxs ∧ ∀ c : Fin 256, -160 ≤ (u.temps[c]).toInt ∧ (u.temps[c]).toInt ≤ 600)

/-- The background classes keep to their budgets, renewed every 4096 cycles; a scrub visit corrects the words of its sector;
the shadow save writes a dirty unit that the budget allows; a failing bus lane takes a spare, and with none left the core is
retired; a rollback-class error starts a rollback, or retires a core that is in one; a pass that does not end within 2^28
cycles ends the job. A retired core never runs. The model's choice, no words of a rule: the order of visits and units (log
entry 77), how a dirty unit is told (log entry 92), that a period takes its budget from what an engine has moved (log entry
95), that errors are inputs (log entry 32), that a pass takes no shadow copy (log entry 31), and that the core of a bus is
retired when its last spare is taken, a reading of R406 (log entry 115). (R367, R395, R397, R398, R400, R406, R42) -/
def Obligations.BackgroundAndRollback : Prop :=
  ∀ (s : State) (c u : Fin 256) (b f : Bool) (r : Rolling) (id : BitVec 32),
    let x := coreAt s c
    (s.cycle % 4096 ≠ 0 → exec .budgetPeriod s = .next s) ∧
    (s.cycle % 4096 = 0 → ∃ t, exec .budgetPeriod s = .next t ∧ t.mem = s.mem ∧ t.ctxs = s.ctxs ∧ t.cores = s.cores ∧
      t.spent1 = Vector.replicate 256 0 ∧ t.spent2 = Vector.replicate 256 0 ∧ t.spent4 = Vector.replicate 256 (0, 0) ∧
      (∀ i : Fin 256, t.moved4[i] = (carryEngine s i false, carryEngine s i true)) ∧
      ∀ i : Fin 256, (sliceAt t i).spent0 = 0 ∧ (sliceAt t i).spent3 = 0) ∧
    ((s.budget[0]).toNat ≤ (sliceAt s u).spent0 → exec (.patrolScrubVisit u) s = .next s) ∧
    ((sliceAt s u).spent0 < (s.budget[0]).toNat → ∃ t, exec (.patrolScrubVisit u) s = .next t ∧ t.mem = s.mem ∧ t.ctxs = s.ctxs ∧
      t.cores = s.cores ∧ (sliceAt t u).spent0 = (sliceAt s u).spent0 + 1 ∧ (sliceAt t u).patrol = ((sliceAt s u).patrol + 1) % 65536 ∧
      ∀ a, patrolKey s u (sliceAt s u).patrol = some a → ∀ y ∈ t.soft, a + 256 ≤ y ∨ y + codeWord y ≤ a) ∧
    (x.job.bind (findJob s) = none → exec (.shadowSave c) s = .next s) ∧
    (∀ j, x.job.bind (findJob s) = some j →
      let fits (q : SaveUnit) : Bool := decide (s.spent2[c] + (q.2.2.length + 255) / 256 ≤ (s.budget[2]).toNat)
      ((dirtyUnits s j c).find? fits = none → exec (.shadowSave c) s = .next s) ∧
      (∀ q, (dirtyUnits s j c).find? fits = some q → ∃ t, exec (.shadowSave c) s = .next t ∧ t.ctxs = s.ctxs ∧
        t.spent2[c] = s.spent2[c] + (q.2.2.length + 255) / 256 ∧ cleanUnit t c q = true)) ∧
    (x.retired = true ∨ (s.budget[1]).toNat ≤ s.spent1[c] → exec (.busTest c b f) s = .next s) ∧
    (x.retired = false → s.spent1[c] < (s.budget[1]).toNat →
      let n := if b then x.spares.2 else x.spares.1
      ∃ t, exec (.busTest c b f) s = .next t ∧ t.spent1[c] = s.spent1[c] + 1 ∧
        (f = false → t.cores = s.cores ∧ t.mem = s.mem) ∧
        (f = true → 1 < n → (coreAt t c).spares = (if b then (x.spares.1, n - 1) else (n - 1, x.spares.2)) ∧
          (coreAt t c).retired = false ∧ t.mem = s.mem) ∧
        (f = true → n ≤ 1 → (coreAt t c).retired = true ∧ coreRuns t c = false)) ∧
    (x.job = none ∨ x.retired = true → exec (.rollback c) s = .next s) ∧
    (x.job ≠ none → x.retired = false → x.rolling = some r →
      (r.pass = 0 → exec (.rollback c) s = .next s) ∧
      (r.pass ≠ 0 → ∃ t, exec (.rollback c) s = .next t ∧ (coreAt t c).retired = true ∧ coreRuns t c = false)) ∧
    (x.job ≠ none → x.retired = false → x.rolling = none → x.work = [] → (∀ i : Fin 256, (coreAt s i).buf = []) →
      (∀ d ∈ s.dren, coreOf d.src ≠ c) → (∀ a ∈ s.asks, a.ctx.any (fun k => coreOf k = c) = false) →
      (∀ i : Fin 4, (ctxAt s (ctxId c i)).repeatFlag = false ∧ (ctxAt s (ctxId c i)).shadowBad = false) →
      ∃ t y, exec (.rollback c) s = .next t ∧ t.mem = s.mem ∧ (coreAt t c).rolling = some y ∧ y.pass = 1 ∧
        (coreAt t c).busyUntil = s.cycle + 65 ∧
        ∀ i : Fin 4, (ctxAt s (ctxId c i)).run = .started → (ctxAt t (ctxId c i)).arch = (ctxAt s (ctxId c i)).shadow.arch ∧
          (ctxAt t (ctxId c i)).flight = []) ∧
    (x.job = some id → x.retired = false → x.rolling = none → x.work = [] → (∀ i : Fin 256, (coreAt s i).buf = []) →
      (∀ d ∈ s.dren, coreOf d.src ≠ c) → (∀ a ∈ s.asks, a.ctx.any (fun k => coreOf k = c) = false) →
      let parts (i : Fin 4) : Prop := (ctxAt s (ctxId c i)).run = .started
      let ends (sub : Nat) : Prop := ∃ t, exec (.rollback c) s = .next t ∧ t.mem = s.mem ∧ (coreAt t c).rolling = none ∧
        ∀ j, findJob s id = some j → j.phase = .running → ∃ k e, findJob t id = some k ∧ k.phase = .ending e ∧ e.state = 3 ∧
          e.tcause = BitVec.ofNat 64 (sub * 2 ^ 16 + 0x91)
      ((∃ i, parts i ∧ (ctxAt s (ctxId c i)).repeatFlag = true) → ends 0) ∧
      ((∀ i, parts i → (ctxAt s (ctxId c i)).repeatFlag = false) → (∃ i, parts i ∧ (ctxAt s (ctxId c i)).shadowBad = true) → ends 1)) ∧
    (x.rolling = some r → x.job = some id → r.pass ≠ 0 →
      (s.cycle < r.since + 2 ^ 28 → exec (.rollbackPassTimeout c) s = .next s) ∧
      (r.since + 2 ^ 28 ≤ s.cycle → ∃ t, exec (.rollbackPassTimeout c) s = .next t ∧ (coreAt t c).rolling = none ∧ t.mem = s.mem ∧
        ∀ j, findJob s id = some j → j.phase = .running → ∃ k e, findJob t id = some k ∧ k.phase = .ending e ∧ e.state = 3 ∧
          e.tcause = 0x20091)) ∧
    (x.retired = true → coreRuns s c = false)

/-- Flits and modules: a flit on a port that is down changes nothing; one out of sequence only acknowledges; in sequence it is
taken, and goes on when it is for another device, or its effect happens: remote bytes are written where the job translates them
writable, a flag is written, a barrier counted, heard of or released, an acknowledgement counted for the work that it answers,
which ends with the last one, and a copy with a failure; flits not acknowledged for 4096 cycles, or mismatched, are resent from
that one on, up to 16 times, and then the port is down. A module that fails to retrain is out of use until it succeeds. The
model's choice, no words of a rule: how flits are acknowledged, and the payload of an acknowledgement (log entry 73), and when
an idle device arrives (log entry 74). (R361, R362, R363, R408, R409) -/
def Obligations.LinksAndModules : Prop :=
  ∀ (s : State) (p : Fin 16) (d dev : BitVec 13) (n ak : BitVec 24) (j k v : BitVec 32) (a : Word) (x : List Byte) (c : Fin 256) (q : Nat)
    (r : BitVec 16) (o : Bool) (m : Fin 8),
    let heard := ackFlits s p ak
    let port := (heard.ports[p] : Port)
    let took : State := { heard with ports := heard.ports.set p { port with rx := port.rx + 1 } }
    let wordOf : Word := BitVec.ofNat 64 (k.toNat % 2 ^ 32 * 2 ^ 32 + j.toNat)
    let each (y : Host.Outcome State Fault Refusal) : Prop :=
      exec (.remoteWrite p ⟨d, dev⟩ ⟨n, ak⟩ j a x) s = y ∧ exec (.writeAcknowledgement p ⟨d, dev⟩ ⟨n, ak⟩ c q r) s = y ∧
      exec (.flag p ⟨d, dev⟩ ⟨n, ak⟩ j a v o) s = y ∧ exec (.barrierArrival p ⟨d, dev⟩ ⟨n, ak⟩ j k) s = y ∧
      exec (.barrierRelease p ⟨d, dev⟩ ⟨n, ak⟩ j k) s = y
    ((s.ports[p]).up = false → each (.next s)) ∧
    ((s.ports[p]).up = true → port.rx ≠ n → each (.next heard)) ∧
    ((s.ports[p]).up = true → port.rx = n → d ≠ s.devid →
      exec (.remoteWrite p ⟨d, dev⟩ ⟨n, ak⟩ j a x) s = .next (sendOn took (arriving d dev 0 n a x j)) ∧
      (let on := sendOn took (arriving d dev 3 n wordOf [] j);
        exec (.barrierArrival p ⟨d, dev⟩ ⟨n, ak⟩ j k) s = .next (if s.devid = 0 then on else hearArrival on j k dev)) ∧
      exec (.barrierRelease p ⟨d, dev⟩ ⟨n, ak⟩ j k) s = .next (sendOn took (arriving d dev 4 n wordOf [] j))) ∧
    ((s.ports[p]).up = true → port.rx = n → d = s.devid →
      (∀ y, findJob s j = some y →
        let owner : Owner := .remote p n dev a j
        let wrote := rootWrite owner (touchPages took y.root.toNat a.toNat x.length true) y.root.toNat a x
        exec (.remoteWrite p ⟨d, dev⟩ ⟨n, ak⟩ j a x) s = .next (match remoteRefusal took y.root.toNat a.toNat x.length with
          | some z => sendWriteAck took dev a (engineCode z).toNat j
          | none => if settledFor wrote owner then sendWriteAck wrote dev a 0 j else wrote)) ∧
      (findJob s j = none → exec (.remoteWrite p ⟨d, dev⟩ ⟨n, ak⟩ j a x) s = .next (sendWriteAck took dev a 0x0103 j)) ∧
      (let answers (y : State) : Prop := exec (.writeAcknowledgement p ⟨d, dev⟩ ⟨n, ak⟩ c q r) s = .next y;
        (workAny s c q = none → answers took) ∧
        (∀ w, workAny s c q = some w → w.performed = true ∨ w.acks = 0 ∨ workDevice w = none → answers took) ∧
        (∀ w, workAny s c q = some w → coreOf w.ctx = c → w.performed = false → 0 < w.acks → (workDevice w).isSome = true →
          (findWork s c q = none →
            answers (modWorkAny took c q fun y => { y with acks := y.acks - 1, performed := y.acks == 1, done := y.acks == 1 })) ∧
          (findWork s c q = some w → r = 0 ∨ isCopy w = false →
            (1 < w.acks → answers (modWork took c q fun y => { y with acks := y.acks - 1 })) ∧
            (w.acks = 1 → answers (settle (modWork took c q fun y => { y with acks := 0, performed := true, done := true }) c)) ∧
            (w.acks = 1 → (coreAt s c).work = [w] → ∃ u, answers u ∧ (coreAt u c).work = [] ∧ u.mem = s.mem ∧
              (w.ring = none → (ctxAt u w.ctx).arch = (ctxAt s w.ctx).arch) ∧
              ∀ g, w.ring = some g → ((ctxAt s w.ctx).arch.g[g]).fcode = 0 →
                (ctxAt u w.ctx).arch.g[g] = { ((ctxAt s w.ctx).arch.g[g] : Ring) with
                  fill := ((ctxAt s w.ctx).arch.g[g]).fill + BitVec.ofNat 32 w.inc })) ∧
          (∀ y g, findWork s c q = some w → w.kind = .copy y → r ≠ 0 → (coreAt s c).work = [w] → w.ring = some g →
            ((ctxAt s w.ctx).arch.g[g]).fcode = 0 → ∃ u, answers u ∧ (coreAt u c).work = [] ∧ u.mem = s.mem ∧
              ((ctxAt u w.ctx).arch.g[g]).fcode = r ∧ ((ctxAt u w.ctx).arch.g[g]).faddr = patWord y.pat 1))) ∧
      (took.want = [] →
        let at_ : Fin 256 := Fin.ofNat 256 (a.toNat / 64)
        let wrote := sendWriteAck (if (coreAt s at_).retired = true ∨ holdsCore s j at_ = false then took
          else writeFlag took j at_ (a.toNat % 64) v o) dev a 0 j
        (wrote.want = [] → exec (.flag p ⟨d, dev⟩ ⟨n, ak⟩ j a v o) s = .next wrote) ∧
        ((wrote.want.any fun y => y.type = 0) = true → ∃ u b, exec (.flag p ⟨d, dev⟩ ⟨n, ak⟩ j a v o) s = .next u ∧
          u.asks = s.asks ++ [b] ∧ b.what = .flag j at_ (a.toNat % 64) v o dev a ∧ u.mem = s.mem ∧ u.ctxs = s.ctxs)) ∧
      exec (.barrierArrival p ⟨d, dev⟩ ⟨n, ak⟩ j k) s =
        .next (if s.devid = 0 then countArrival took j k dev else hearArrival took j k dev) ∧
      exec (.barrierRelease p ⟨d, dev⟩ ⟨n, ak⟩ j k) s = .next (releaseDevice took j k)) ∧
    (overdueFlit s p = none → exec (.svethAckTimeout p) s = .next s) ∧
    (∀ f, overdueFlit s p = some f → f.sent + 4096 ≤ s.cycle ∧ exec (.svethAckTimeout p) s = exec (.svethCrcMismatch ⟨p, f.seq⟩) s) ∧
    ((s.ports[p]).up = false ∨ (∀ f ∈ (s.ports[p]).unacked, f.seq ≠ n) → exec (.svethCrcMismatch ⟨p, n⟩) s = .next s) ∧
    (∀ i, (s.ports[p]).up = true → (s.ports[p]).unacked.findIdx? (fun f => f.seq = n) = some i →
      let late := (s.ports[p]).unacked.drop i
      ((∀ f ∈ late, f.resent < 16) → exec (.svethCrcMismatch ⟨p, n⟩) s = .next { s with
        ports := s.ports.set p { (s.ports[p] : Port) with
          unacked := (s.ports[p]).unacked.take i ++ late.map fun f => { f with resent := f.resent + 1, sent := s.cycle } } }) ∧
      ((∃ f ∈ late, 16 ≤ f.resent) → ∃ t, exec (.svethCrcMismatch ⟨p, n⟩) s = .next t ∧ (t.ports[p]).up = false ∧ t.ctxs = s.ctxs ∧
        ∀ y ∈ s.jobs, y.phase = .running → (∃ f ∈ (s.ports[p]).unacked, f.job = y.id) → findJob s y.id = some y →
          ∃ z e, findJob t y.id = some z ∧ z.phase = .ending e ∧ e.state = 4 ∧ e.tcause = BitVec.ofNat 64 (p.val * 2 ^ 16 + 0x93))) ∧
    (∃ t, exec (.ucieModuleRetrainFail m) s = .next t ∧ t.modules = s.modules &&& ~~~(1#8 <<< m.val) ∧ t.ctxs = s.ctxs ∧
      (t.modules = 0 → ∀ y ∈ t.jobs, y.phase ≠ .running) ∧ (t.modules ≠ 0 → t.jobs = s.jobs)) ∧
    exec (.ucieRetrainingSucceeds m) s = .next { s with modules := s.modules ||| (1#8 <<< m.val) }

/-! ### Encoding, the step, reset -/

/-- Words written out from the encoding tables decode to the instructions they stand for; a header with a reserved bit, and an
opcode that no map assigns, do not decode. (R53, R54, R55, R58, R78, R299) -/
def Obligations.DecodeWords : Prop :=
  decodeBundle [0x00000000] = .ok ⟨false, 1, [(0, .nop false)]⟩ ∧
  decodeBundle [0x01000000, 0x1B000041] = .ok ⟨false, 2, [(7, .await 1 1)]⟩ ∧
  decodeBundle [0x01000000, 0x1B000084] = .ok ⟨false, 2, [(7, .await 2 4)]⟩ ∧
  decodeBundle [0x01000000, 0x1C000084] = .ok ⟨false, 2, [(7, .release 2 4)]⟩ ∧
  decodeBundle [0x00010000] = .error .header ∧
  decodeBundle [0x01000000, 0xFF000000] = .error (.slot 7 0xFF000000) ∧
  decodeBundle [] = .error .header

/-- Every well-formed operation of a slot, encoded with all its operands, decodes to itself. (R53, R55, R58, R59, R78) -/
def Obligations.RoundTrip : Prop :=
  ∀ (i : Instr) (ws : List Nat), i.wf = true → encode i = some ws →
    ∃ (n : Fin 8) (c : Bool), decodeBundle ws = .ok ⟨c, ws.length, [(n, i)]⟩ ∧ (c = true → i = .nop true)

/-- A step is one event of the agenda that is due, else the turn of one core; the selected context of a core takes the fault
that its next bundle has been found to have; when it has no fault to take and the bundle at its program counter decodes to one
operation, the step runs exactly it, as a bundle of its own, and what follows a bundle: without a transfer or loop the program
counter moves past the bundle's words and the schedule clock by one. The model's choice, no words of a rule: the agenda and
when its events happen (log entry 1), and that a step is one core's turn (log entry 2). (R24, R31, R52) -/
def Obligations.StepRunsDecoded : Prop :=
  ∀ (s u : State) (i : Instr) (n : Fin 4) (m : Fin 8) (len : Nat),
    (takeDue s = some (i, u) → step s = (if (encode i).isNone then bindOut (exec i u) (fun t => .next (flushWant t)) else .next u)) ∧
    (takeDue s = none → coreRuns s s.turn = false → step s = endTurn s) ∧
    (takeDue s = none → coreRuns s s.turn = true → coreRuns (prepare s s.turn) s.turn = true →
      choose (prepare s s.turn) s.turn = (.issues n, u) →
      let k := ctxId s.turn n
      faultStands (ctxAt u k) = false →
      (∀ f, standingFault (ctxAt u k) = some f →
        step s = endTurn (useWidth (trapEnter k f (ctxAt u k).arch.pc u) k)) ∧
      (standingFault (ctxAt u k) = none → (coreAt u (coreOf k)).rolling = none →
      bundleAt u k = some (.ok ⟨false, len, [(m, i)]⟩) →
      let next := BitVec.ofNat 64 (afterBundle u (coreOf k) (ctxAt u k).arch.pc.toNat)
      step s = bindOut (exec i (atSlot k u.seq .whole m u))
        (fun t => endTurn (finishBundle k (ctxAt u k).arch next u.seq t)) ∧
      ∀ t : State, t.flow = .issued → (ctxAt u k).arch.xfer = none → (ctxAt t k).arch.xfer = none → (ctxAt t k).arch.loops = [] →
        let z := finishBundle k (ctxAt u k).arch next u.seq t
        (ctxAt z k).arch = { (ctxAt t k).arch with pc := next, sched := (ctxAt t k).arch.sched + 1 } ∧ z.mem = t.mem))

/-- Every step from every state answers a next state: no instruction and no event stops the machine. The model's choice, no
words of a rule: that no use of an instruction and no event stops the machine is read from R2 (log entry 10). (R2) -/
def Obligations.NeverStops : Prop :=
  Sys2Proof.Safety.NeverStops

/-- Every step keeps memory in its canonical form. The model's choice, no words of a rule: that the memories are one list in
rising order with no entry equal to what an unlisted byte reads as (log entries 5 and 6). (R168, R166) -/
def Obligations.StepKeepsInv : Prop :=
  ∀ s t : State, Inv s → step s = .next t → Inv t

/-- The state after reset: memory in its canonical form with nothing listed, no job, no context started, every context's clock,
status and trap registers 0, and the registers of management space at their reset values. The model's choice, no words of a
rule: that memory reads 0 where nothing has written (log entry 5), and the zero of `FMT`, `s` to `w` and the like where the
spec gives no reset value (log entry 4). (R7, R365, R36) -/
def Obligations.ResetState : Prop :=
  Inv State.reset ∧ (∀ a, byteAt State.reset a = 0) ∧ State.reset.jobs = [] ∧ State.reset.cycle = 0 ∧
    (∀ k : Fin 1024, (ctxAt State.reset k).run = .unstarted ∧ (ctxAt State.reset k).arch.sched = 0 ∧
      statusWord (ctxAt State.reset k).arch = 0 ∧ (ctxAt State.reset k).arch.tvec = 0 ∧ (ctxAt State.reset k).arch.fmt = 0 ∧
      (ctxAt State.reset k).arch.astat = 0 ∧ (ctxAt State.reset k).arch.fstat = 0 ∧ (ctxAt State.reset k).flight = []) ∧
    (∀ c : Fin 256, (coreAt State.reset c).quant = 0 ∧ (coreAt State.reset c).job = none ∧
      ∀ e : Fin 8, ((coreAt State.reset c).e[e]).al = false) ∧
    State.reset.devid = 0 ∧ State.reset.psize = 1 ∧ (∀ i : Fin 4, State.reset.thresh[i] = 0x0154) ∧
    State.reset.budget = #v[16, 64, 128, 2048, 0]
end

