-- ==== Sys2Proof/Laws/State.lean ====
section
/-! SUPPORT. Laws of State: what each update of a part of the machine leaves alone, field by field, and what it makes the part
read as. -/

namespace Sys2Proof.Machine

/-! ### setCtx -/

@[simp] theorem setCtx_cycle (s : State) (k : Fin 1024) (c : Ctx) : (setCtx s k c).cycle = s.cycle := rfl
@[simp] theorem setCtx_turn (s : State) (k : Fin 1024) (c : Ctx) : (setCtx s k c).turn = s.turn := rfl
@[simp] theorem setCtx_agenda (s : State) (k : Fin 1024) (c : Ctx) : (setCtx s k c).agenda = s.agenda := rfl
@[simp] theorem setCtx_auto (s : State) (k : Fin 1024) (c : Ctx) : (setCtx s k c).auto = s.auto := rfl
@[simp] theorem setCtx_cur (s : State) (k : Fin 1024) (c : Ctx) : (setCtx s k c).cur = s.cur := rfl
@[simp] theorem setCtx_slot (s : State) (k : Fin 1024) (c : Ctx) : (setCtx s k c).slot = s.slot := rfl
@[simp] theorem setCtx_phase (s : State) (k : Fin 1024) (c : Ctx) : (setCtx s k c).phase = s.phase := rfl
@[simp] theorem setCtx_probes (s : State) (k : Fin 1024) (c : Ctx) : (setCtx s k c).probes = s.probes := rfl
@[simp] theorem setCtx_flow (s : State) (k : Fin 1024) (c : Ctx) : (setCtx s k c).flow = s.flow := rfl
@[simp] theorem setCtx_seq (s : State) (k : Fin 1024) (c : Ctx) : (setCtx s k c).seq = s.seq := rfl
@[simp] theorem setCtx_mem (s : State) (k : Fin 1024) (c : Ctx) : (setCtx s k c).mem = s.mem := rfl
@[simp] theorem setCtx_bad (s : State) (k : Fin 1024) (c : Ctx) : (setCtx s k c).bad = s.bad := rfl
@[simp] theorem setCtx_cores (s : State) (k : Fin 1024) (c : Ctx) : (setCtx s k c).cores = s.cores := rfl
@[simp] theorem setCtx_slices (s : State) (k : Fin 1024) (c : Ctx) : (setCtx s k c).slices = s.slices := rfl
@[simp] theorem setCtx_tlb2 (s : State) (k : Fin 1024) (c : Ctx) : (setCtx s k c).tlb2 = s.tlb2 := rfl
@[simp] theorem setCtx_jobs (s : State) (k : Fin 1024) (c : Ctx) : (setCtx s k c).jobs = s.jobs := rfl
@[simp] theorem setCtx_saved (s : State) (k : Fin 1024) (c : Ctx) : (setCtx s k c).saved = s.saved := rfl
@[simp] theorem setCtx_ended (s : State) (k : Fin 1024) (c : Ctx) : (setCtx s k c).ended = s.ended := rfl
@[simp] theorem setCtx_invals (s : State) (k : Fin 1024) (c : Ctx) : (setCtx s k c).invals = s.invals := rfl
@[simp] theorem setCtx_dren (s : State) (k : Fin 1024) (c : Ctx) : (setCtx s k c).dren = s.dren := rfl
@[simp] theorem setCtx_par (s : State) (k : Fin 1024) (c : Ctx) : (setCtx s k c).par = s.par := rfl
@[simp] theorem setCtx_temps (s : State) (k : Fin 1024) (c : Ctx) : (setCtx s k c).temps = s.temps := rfl
@[simp] theorem setCtx_threshNow (s : State) (k : Fin 1024) (c : Ctx) : (setCtx s k c).threshNow = s.threshNow := rfl
@[simp] theorem setCtx_sample (s : State) (k : Fin 1024) (c : Ctx) : (setCtx s k c).sample = s.sample := rfl
@[simp] theorem setCtx_sampled (s : State) (k : Fin 1024) (c : Ctx) : (setCtx s k c).sampled = s.sampled := rfl
@[simp] theorem setCtx_devid (s : State) (k : Fin 1024) (c : Ctx) : (setCtx s k c).devid = s.devid := rfl
@[simp] theorem setCtx_psize (s : State) (k : Fin 1024) (c : Ctx) : (setCtx s k c).psize = s.psize := rfl
@[simp] theorem setCtx_thresh (s : State) (k : Fin 1024) (c : Ctx) : (setCtx s k c).thresh = s.thresh := rfl
@[simp] theorem setCtx_budget (s : State) (k : Fin 1024) (c : Ctx) : (setCtx s k c).budget = s.budget := rfl
@[simp] theorem setCtx_route (s : State) (k : Fin 1024) (c : Ctx) : (setCtx s k c).route = s.route := rfl
@[simp] theorem setCtx_spent1 (s : State) (k : Fin 1024) (c : Ctx) : (setCtx s k c).spent1 = s.spent1 := rfl
@[simp] theorem setCtx_spent2 (s : State) (k : Fin 1024) (c : Ctx) : (setCtx s k c).spent2 = s.spent2 := rfl
@[simp] theorem setCtx_spent4 (s : State) (k : Fin 1024) (c : Ctx) : (setCtx s k c).spent4 = s.spent4 := rfl
@[simp] theorem setCtx_moved4 (s : State) (k : Fin 1024) (c : Ctx) : (setCtx s k c).moved4 = s.moved4 := rfl
@[simp] theorem setCtx_ports (s : State) (k : Fin 1024) (c : Ctx) : (setCtx s k c).ports = s.ports := rfl
@[simp] theorem setCtx_modules (s : State) (k : Fin 1024) (c : Ctx) : (setCtx s k c).modules = s.modules := rfl
@[simp] theorem setCtx_outbox (s : State) (k : Fin 1024) (c : Ctx) : (setCtx s k c).outbox = s.outbox := rfl
@[simp] theorem setCtx_want (s : State) (k : Fin 1024) (c : Ctx) : (setCtx s k c).want = s.want := rfl
@[simp] theorem setCtx_txTag (s : State) (k : Fin 1024) (c : Ctx) : (setCtx s k c).txTag = s.txTag := rfl
@[simp] theorem setCtx_posts (s : State) (k : Fin 1024) (c : Ctx) : (setCtx s k c).posts = s.posts := rfl
@[simp] theorem setCtx_asks (s : State) (k : Fin 1024) (c : Ctx) : (setCtx s k c).asks = s.asks := rfl
@[simp] theorem setCtx_flagged (s : State) (k : Fin 1024) (c : Ctx) : (setCtx s k c).flagged = s.flagged := rfl
@[simp] theorem setCtx_cellAdds (s : State) (k : Fin 1024) (c : Ctx) : (setCtx s k c).cellAdds = s.cellAdds := rfl
@[simp] theorem setCtx_soft (s : State) (k : Fin 1024) (c : Ctx) : (setCtx s k c).soft = s.soft := rfl
@[simp] theorem setCtx_dirty (s : State) (k : Fin 1024) (c : Ctx) : (setCtx s k c).dirty = s.dirty := rfl
@[simp] theorem setCtx_ready (s : State) (k : Fin 1024) (c : Ctx) : (setCtx s k c).ready = s.ready := rfl
@[simp] theorem setCtx_fwOk (s : State) (k : Fin 1024) (c : Ctx) : (setCtx s k c).fwOk = s.fwOk := rfl
@[simp] theorem setCtx_hbmFail (s : State) (k : Fin 1024) (c : Ctx) : (setCtx s k c).hbmFail = s.hbmFail := rfl
@[simp] theorem setCtx_fwDigest (s : State) (k : Fin 1024) (c : Ctx) : (setCtx s k c).fwDigest = s.fwDigest := rfl
@[simp] theorem setCtx_lastDigest (s : State) (k : Fin 1024) (c : Ctx) : (setCtx s k c).lastDigest = s.lastDigest := rfl
@[simp] theorem setCtx_lastJob (s : State) (k : Fin 1024) (c : Ctx) : (setCtx s k c).lastJob = s.lastJob := rfl
@[simp] theorem setCtx_free (s : State) (k : Fin 1024) (c : Ctx) : (setCtx s k c).free = s.free := rfl

/-! ### modCtx -/

@[simp] theorem modCtx_cycle (s : State) (k : Fin 1024) (f : Ctx → Ctx) : (modCtx s k f).cycle = s.cycle := rfl
@[simp] theorem modCtx_turn (s : State) (k : Fin 1024) (f : Ctx → Ctx) : (modCtx s k f).turn = s.turn := rfl
@[simp] theorem modCtx_agenda (s : State) (k : Fin 1024) (f : Ctx → Ctx) : (modCtx s k f).agenda = s.agenda := rfl
@[simp] theorem modCtx_auto (s : State) (k : Fin 1024) (f : Ctx → Ctx) : (modCtx s k f).auto = s.auto := rfl
@[simp] theorem modCtx_cur (s : State) (k : Fin 1024) (f : Ctx → Ctx) : (modCtx s k f).cur = s.cur := rfl
@[simp] theorem modCtx_slot (s : State) (k : Fin 1024) (f : Ctx → Ctx) : (modCtx s k f).slot = s.slot := rfl
@[simp] theorem modCtx_phase (s : State) (k : Fin 1024) (f : Ctx → Ctx) : (modCtx s k f).phase = s.phase := rfl
@[simp] theorem modCtx_probes (s : State) (k : Fin 1024) (f : Ctx → Ctx) : (modCtx s k f).probes = s.probes := rfl
@[simp] theorem modCtx_flow (s : State) (k : Fin 1024) (f : Ctx → Ctx) : (modCtx s k f).flow = s.flow := rfl
@[simp] theorem modCtx_seq (s : State) (k : Fin 1024) (f : Ctx → Ctx) : (modCtx s k f).seq = s.seq := rfl
@[simp] theorem modCtx_mem (s : State) (k : Fin 1024) (f : Ctx → Ctx) : (modCtx s k f).mem = s.mem := rfl
@[simp] theorem modCtx_bad (s : State) (k : Fin 1024) (f : Ctx → Ctx) : (modCtx s k f).bad = s.bad := rfl
@[simp] theorem modCtx_cores (s : State) (k : Fin 1024) (f : Ctx → Ctx) : (modCtx s k f).cores = s.cores := rfl
@[simp] theorem modCtx_slices (s : State) (k : Fin 1024) (f : Ctx → Ctx) : (modCtx s k f).slices = s.slices := rfl
@[simp] theorem modCtx_tlb2 (s : State) (k : Fin 1024) (f : Ctx → Ctx) : (modCtx s k f).tlb2 = s.tlb2 := rfl
@[simp] theorem modCtx_jobs (s : State) (k : Fin 1024) (f : Ctx → Ctx) : (modCtx s k f).jobs = s.jobs := rfl
@[simp] theorem modCtx_saved (s : State) (k : Fin 1024) (f : Ctx → Ctx) : (modCtx s k f).saved = s.saved := rfl
@[simp] theorem modCtx_ended (s : State) (k : Fin 1024) (f : Ctx → Ctx) : (modCtx s k f).ended = s.ended := rfl
@[simp] theorem modCtx_invals (s : State) (k : Fin 1024) (f : Ctx → Ctx) : (modCtx s k f).invals = s.invals := rfl
@[simp] theorem modCtx_dren (s : State) (k : Fin 1024) (f : Ctx → Ctx) : (modCtx s k f).dren = s.dren := rfl
@[simp] theorem modCtx_par (s : State) (k : Fin 1024) (f : Ctx → Ctx) : (modCtx s k f).par = s.par := rfl
@[simp] theorem modCtx_temps (s : State) (k : Fin 1024) (f : Ctx → Ctx) : (modCtx s k f).temps = s.temps := rfl
@[simp] theorem modCtx_threshNow (s : State) (k : Fin 1024) (f : Ctx → Ctx) : (modCtx s k f).threshNow = s.threshNow := rfl
@[simp] theorem modCtx_sample (s : State) (k : Fin 1024) (f : Ctx → Ctx) : (modCtx s k f).sample = s.sample := rfl
@[simp] theorem modCtx_sampled (s : State) (k : Fin 1024) (f : Ctx → Ctx) : (modCtx s k f).sampled = s.sampled := rfl
@[simp] theorem modCtx_devid (s : State) (k : Fin 1024) (f : Ctx → Ctx) : (modCtx s k f).devid = s.devid := rfl
@[simp] theorem modCtx_psize (s : State) (k : Fin 1024) (f : Ctx → Ctx) : (modCtx s k f).psize = s.psize := rfl
@[simp] theorem modCtx_thresh (s : State) (k : Fin 1024) (f : Ctx → Ctx) : (modCtx s k f).thresh = s.thresh := rfl
@[simp] theorem modCtx_budget (s : State) (k : Fin 1024) (f : Ctx → Ctx) : (modCtx s k f).budget = s.budget := rfl
@[simp] theorem modCtx_route (s : State) (k : Fin 1024) (f : Ctx → Ctx) : (modCtx s k f).route = s.route := rfl
@[simp] theorem modCtx_spent1 (s : State) (k : Fin 1024) (f : Ctx → Ctx) : (modCtx s k f).spent1 = s.spent1 := rfl
@[simp] theorem modCtx_spent2 (s : State) (k : Fin 1024) (f : Ctx → Ctx) : (modCtx s k f).spent2 = s.spent2 := rfl
@[simp] theorem modCtx_spent4 (s : State) (k : Fin 1024) (f : Ctx → Ctx) : (modCtx s k f).spent4 = s.spent4 := rfl
@[simp] theorem modCtx_moved4 (s : State) (k : Fin 1024) (f : Ctx → Ctx) : (modCtx s k f).moved4 = s.moved4 := rfl
@[simp] theorem modCtx_ports (s : State) (k : Fin 1024) (f : Ctx → Ctx) : (modCtx s k f).ports = s.ports := rfl
@[simp] theorem modCtx_modules (s : State) (k : Fin 1024) (f : Ctx → Ctx) : (modCtx s k f).modules = s.modules := rfl
@[simp] theorem modCtx_outbox (s : State) (k : Fin 1024) (f : Ctx → Ctx) : (modCtx s k f).outbox = s.outbox := rfl
@[simp] theorem modCtx_want (s : State) (k : Fin 1024) (f : Ctx → Ctx) : (modCtx s k f).want = s.want := rfl
@[simp] theorem modCtx_txTag (s : State) (k : Fin 1024) (f : Ctx → Ctx) : (modCtx s k f).txTag = s.txTag := rfl
@[simp] theorem modCtx_posts (s : State) (k : Fin 1024) (f : Ctx → Ctx) : (modCtx s k f).posts = s.posts := rfl
@[simp] theorem modCtx_asks (s : State) (k : Fin 1024) (f : Ctx → Ctx) : (modCtx s k f).asks = s.asks := rfl
@[simp] theorem modCtx_flagged (s : State) (k : Fin 1024) (f : Ctx → Ctx) : (modCtx s k f).flagged = s.flagged := rfl
@[simp] theorem modCtx_cellAdds (s : State) (k : Fin 1024) (f : Ctx → Ctx) : (modCtx s k f).cellAdds = s.cellAdds := rfl
@[simp] theorem modCtx_soft (s : State) (k : Fin 1024) (f : Ctx → Ctx) : (modCtx s k f).soft = s.soft := rfl
@[simp] theorem modCtx_dirty (s : State) (k : Fin 1024) (f : Ctx → Ctx) : (modCtx s k f).dirty = s.dirty := rfl
@[simp] theorem modCtx_ready (s : State) (k : Fin 1024) (f : Ctx → Ctx) : (modCtx s k f).ready = s.ready := rfl
@[simp] theorem modCtx_fwOk (s : State) (k : Fin 1024) (f : Ctx → Ctx) : (modCtx s k f).fwOk = s.fwOk := rfl
@[simp] theorem modCtx_hbmFail (s : State) (k : Fin 1024) (f : Ctx → Ctx) : (modCtx s k f).hbmFail = s.hbmFail := rfl
@[simp] theorem modCtx_fwDigest (s : State) (k : Fin 1024) (f : Ctx → Ctx) : (modCtx s k f).fwDigest = s.fwDigest := rfl
@[simp] theorem modCtx_lastDigest (s : State) (k : Fin 1024) (f : Ctx → Ctx) : (modCtx s k f).lastDigest = s.lastDigest := rfl
@[simp] theorem modCtx_lastJob (s : State) (k : Fin 1024) (f : Ctx → Ctx) : (modCtx s k f).lastJob = s.lastJob := rfl
@[simp] theorem modCtx_free (s : State) (k : Fin 1024) (f : Ctx → Ctx) : (modCtx s k f).free = s.free := rfl

/-! ### modArch -/

@[simp] theorem modArch_cycle (s : State) (k : Fin 1024) (f : Arch → Arch) : (modArch s k f).cycle = s.cycle := rfl
@[simp] theorem modArch_turn (s : State) (k : Fin 1024) (f : Arch → Arch) : (modArch s k f).turn = s.turn := rfl
@[simp] theorem modArch_agenda (s : State) (k : Fin 1024) (f : Arch → Arch) : (modArch s k f).agenda = s.agenda := rfl
@[simp] theorem modArch_auto (s : State) (k : Fin 1024) (f : Arch → Arch) : (modArch s k f).auto = s.auto := rfl
@[simp] theorem modArch_cur (s : State) (k : Fin 1024) (f : Arch → Arch) : (modArch s k f).cur = s.cur := rfl
@[simp] theorem modArch_slot (s : State) (k : Fin 1024) (f : Arch → Arch) : (modArch s k f).slot = s.slot := rfl
@[simp] theorem modArch_phase (s : State) (k : Fin 1024) (f : Arch → Arch) : (modArch s k f).phase = s.phase := rfl
@[simp] theorem modArch_probes (s : State) (k : Fin 1024) (f : Arch → Arch) : (modArch s k f).probes = s.probes := rfl
@[simp] theorem modArch_flow (s : State) (k : Fin 1024) (f : Arch → Arch) : (modArch s k f).flow = s.flow := rfl
@[simp] theorem modArch_seq (s : State) (k : Fin 1024) (f : Arch → Arch) : (modArch s k f).seq = s.seq := rfl
@[simp] theorem modArch_mem (s : State) (k : Fin 1024) (f : Arch → Arch) : (modArch s k f).mem = s.mem := rfl
@[simp] theorem modArch_bad (s : State) (k : Fin 1024) (f : Arch → Arch) : (modArch s k f).bad = s.bad := rfl
@[simp] theorem modArch_cores (s : State) (k : Fin 1024) (f : Arch → Arch) : (modArch s k f).cores = s.cores := rfl
@[simp] theorem modArch_slices (s : State) (k : Fin 1024) (f : Arch → Arch) : (modArch s k f).slices = s.slices := rfl
@[simp] theorem modArch_tlb2 (s : State) (k : Fin 1024) (f : Arch → Arch) : (modArch s k f).tlb2 = s.tlb2 := rfl
@[simp] theorem modArch_jobs (s : State) (k : Fin 1024) (f : Arch → Arch) : (modArch s k f).jobs = s.jobs := rfl
@[simp] theorem modArch_saved (s : State) (k : Fin 1024) (f : Arch → Arch) : (modArch s k f).saved = s.saved := rfl
@[simp] theorem modArch_ended (s : State) (k : Fin 1024) (f : Arch → Arch) : (modArch s k f).ended = s.ended := rfl
@[simp] theorem modArch_invals (s : State) (k : Fin 1024) (f : Arch → Arch) : (modArch s k f).invals = s.invals := rfl
@[simp] theorem modArch_dren (s : State) (k : Fin 1024) (f : Arch → Arch) : (modArch s k f).dren = s.dren := rfl
@[simp] theorem modArch_par (s : State) (k : Fin 1024) (f : Arch → Arch) : (modArch s k f).par = s.par := rfl
@[simp] theorem modArch_temps (s : State) (k : Fin 1024) (f : Arch → Arch) : (modArch s k f).temps = s.temps := rfl
@[simp] theorem modArch_threshNow (s : State) (k : Fin 1024) (f : Arch → Arch) : (modArch s k f).threshNow = s.threshNow := rfl
@[simp] theorem modArch_sample (s : State) (k : Fin 1024) (f : Arch → Arch) : (modArch s k f).sample = s.sample := rfl
@[simp] theorem modArch_sampled (s : State) (k : Fin 1024) (f : Arch → Arch) : (modArch s k f).sampled = s.sampled := rfl
@[simp] theorem modArch_devid (s : State) (k : Fin 1024) (f : Arch → Arch) : (modArch s k f).devid = s.devid := rfl
@[simp] theorem modArch_psize (s : State) (k : Fin 1024) (f : Arch → Arch) : (modArch s k f).psize = s.psize := rfl
@[simp] theorem modArch_thresh (s : State) (k : Fin 1024) (f : Arch → Arch) : (modArch s k f).thresh = s.thresh := rfl
@[simp] theorem modArch_budget (s : State) (k : Fin 1024) (f : Arch → Arch) : (modArch s k f).budget = s.budget := rfl
@[simp] theorem modArch_route (s : State) (k : Fin 1024) (f : Arch → Arch) : (modArch s k f).route = s.route := rfl
@[simp] theorem modArch_spent1 (s : State) (k : Fin 1024) (f : Arch → Arch) : (modArch s k f).spent1 = s.spent1 := rfl
@[simp] theorem modArch_spent2 (s : State) (k : Fin 1024) (f : Arch → Arch) : (modArch s k f).spent2 = s.spent2 := rfl
@[simp] theorem modArch_spent4 (s : State) (k : Fin 1024) (f : Arch → Arch) : (modArch s k f).spent4 = s.spent4 := rfl
@[simp] theorem modArch_moved4 (s : State) (k : Fin 1024) (f : Arch → Arch) : (modArch s k f).moved4 = s.moved4 := rfl
@[simp] theorem modArch_ports (s : State) (k : Fin 1024) (f : Arch → Arch) : (modArch s k f).ports = s.ports := rfl
@[simp] theorem modArch_modules (s : State) (k : Fin 1024) (f : Arch → Arch) : (modArch s k f).modules = s.modules := rfl
@[simp] theorem modArch_outbox (s : State) (k : Fin 1024) (f : Arch → Arch) : (modArch s k f).outbox = s.outbox := rfl
@[simp] theorem modArch_want (s : State) (k : Fin 1024) (f : Arch → Arch) : (modArch s k f).want = s.want := rfl
@[simp] theorem modArch_txTag (s : State) (k : Fin 1024) (f : Arch → Arch) : (modArch s k f).txTag = s.txTag := rfl
@[simp] theorem modArch_posts (s : State) (k : Fin 1024) (f : Arch → Arch) : (modArch s k f).posts = s.posts := rfl
@[simp] theorem modArch_asks (s : State) (k : Fin 1024) (f : Arch → Arch) : (modArch s k f).asks = s.asks := rfl
@[simp] theorem modArch_flagged (s : State) (k : Fin 1024) (f : Arch → Arch) : (modArch s k f).flagged = s.flagged := rfl
@[simp] theorem modArch_cellAdds (s : State) (k : Fin 1024) (f : Arch → Arch) : (modArch s k f).cellAdds = s.cellAdds := rfl
@[simp] theorem modArch_soft (s : State) (k : Fin 1024) (f : Arch → Arch) : (modArch s k f).soft = s.soft := rfl
@[simp] theorem modArch_dirty (s : State) (k : Fin 1024) (f : Arch → Arch) : (modArch s k f).dirty = s.dirty := rfl
@[simp] theorem modArch_ready (s : State) (k : Fin 1024) (f : Arch → Arch) : (modArch s k f).ready = s.ready := rfl
@[simp] theorem modArch_fwOk (s : State) (k : Fin 1024) (f : Arch → Arch) : (modArch s k f).fwOk = s.fwOk := rfl
@[simp] theorem modArch_hbmFail (s : State) (k : Fin 1024) (f : Arch → Arch) : (modArch s k f).hbmFail = s.hbmFail := rfl
@[simp] theorem modArch_fwDigest (s : State) (k : Fin 1024) (f : Arch → Arch) : (modArch s k f).fwDigest = s.fwDigest := rfl
@[simp] theorem modArch_lastDigest (s : State) (k : Fin 1024) (f : Arch → Arch) : (modArch s k f).lastDigest = s.lastDigest := rfl
@[simp] theorem modArch_lastJob (s : State) (k : Fin 1024) (f : Arch → Arch) : (modArch s k f).lastJob = s.lastJob := rfl
@[simp] theorem modArch_free (s : State) (k : Fin 1024) (f : Arch → Arch) : (modArch s k f).free = s.free := rfl

/-! ### setCore -/

@[simp] theorem setCore_cycle (s : State) (c : Fin 256) (x : Core) : (setCore s c x).cycle = s.cycle := rfl
@[simp] theorem setCore_turn (s : State) (c : Fin 256) (x : Core) : (setCore s c x).turn = s.turn := rfl
@[simp] theorem setCore_agenda (s : State) (c : Fin 256) (x : Core) : (setCore s c x).agenda = s.agenda := rfl
@[simp] theorem setCore_auto (s : State) (c : Fin 256) (x : Core) : (setCore s c x).auto = s.auto := rfl
@[simp] theorem setCore_cur (s : State) (c : Fin 256) (x : Core) : (setCore s c x).cur = s.cur := rfl
@[simp] theorem setCore_slot (s : State) (c : Fin 256) (x : Core) : (setCore s c x).slot = s.slot := rfl
@[simp] theorem setCore_phase (s : State) (c : Fin 256) (x : Core) : (setCore s c x).phase = s.phase := rfl
@[simp] theorem setCore_probes (s : State) (c : Fin 256) (x : Core) : (setCore s c x).probes = s.probes := rfl
@[simp] theorem setCore_flow (s : State) (c : Fin 256) (x : Core) : (setCore s c x).flow = s.flow := rfl
@[simp] theorem setCore_seq (s : State) (c : Fin 256) (x : Core) : (setCore s c x).seq = s.seq := rfl
@[simp] theorem setCore_mem (s : State) (c : Fin 256) (x : Core) : (setCore s c x).mem = s.mem := rfl
@[simp] theorem setCore_bad (s : State) (c : Fin 256) (x : Core) : (setCore s c x).bad = s.bad := rfl
@[simp] theorem setCore_ctxs (s : State) (c : Fin 256) (x : Core) : (setCore s c x).ctxs = s.ctxs := rfl
@[simp] theorem setCore_slices (s : State) (c : Fin 256) (x : Core) : (setCore s c x).slices = s.slices := rfl
@[simp] theorem setCore_tlb2 (s : State) (c : Fin 256) (x : Core) : (setCore s c x).tlb2 = s.tlb2 := rfl
@[simp] theorem setCore_jobs (s : State) (c : Fin 256) (x : Core) : (setCore s c x).jobs = s.jobs := rfl
@[simp] theorem setCore_saved (s : State) (c : Fin 256) (x : Core) : (setCore s c x).saved = s.saved := rfl
@[simp] theorem setCore_ended (s : State) (c : Fin 256) (x : Core) : (setCore s c x).ended = s.ended := rfl
@[simp] theorem setCore_invals (s : State) (c : Fin 256) (x : Core) : (setCore s c x).invals = s.invals := rfl
@[simp] theorem setCore_dren (s : State) (c : Fin 256) (x : Core) : (setCore s c x).dren = s.dren := rfl
@[simp] theorem setCore_par (s : State) (c : Fin 256) (x : Core) : (setCore s c x).par = s.par := rfl
@[simp] theorem setCore_temps (s : State) (c : Fin 256) (x : Core) : (setCore s c x).temps = s.temps := rfl
@[simp] theorem setCore_threshNow (s : State) (c : Fin 256) (x : Core) : (setCore s c x).threshNow = s.threshNow := rfl
@[simp] theorem setCore_sample (s : State) (c : Fin 256) (x : Core) : (setCore s c x).sample = s.sample := rfl
@[simp] theorem setCore_sampled (s : State) (c : Fin 256) (x : Core) : (setCore s c x).sampled = s.sampled := rfl
@[simp] theorem setCore_devid (s : State) (c : Fin 256) (x : Core) : (setCore s c x).devid = s.devid := rfl
@[simp] theorem setCore_psize (s : State) (c : Fin 256) (x : Core) : (setCore s c x).psize = s.psize := rfl
@[simp] theorem setCore_thresh (s : State) (c : Fin 256) (x : Core) : (setCore s c x).thresh = s.thresh := rfl
@[simp] theorem setCore_budget (s : State) (c : Fin 256) (x : Core) : (setCore s c x).budget = s.budget := rfl
@[simp] theorem setCore_route (s : State) (c : Fin 256) (x : Core) : (setCore s c x).route = s.route := rfl
@[simp] theorem setCore_spent1 (s : State) (c : Fin 256) (x : Core) : (setCore s c x).spent1 = s.spent1 := rfl
@[simp] theorem setCore_spent2 (s : State) (c : Fin 256) (x : Core) : (setCore s c x).spent2 = s.spent2 := rfl
@[simp] theorem setCore_spent4 (s : State) (c : Fin 256) (x : Core) : (setCore s c x).spent4 = s.spent4 := rfl
@[simp] theorem setCore_moved4 (s : State) (c : Fin 256) (x : Core) : (setCore s c x).moved4 = s.moved4 := rfl
@[simp] theorem setCore_ports (s : State) (c : Fin 256) (x : Core) : (setCore s c x).ports = s.ports := rfl
@[simp] theorem setCore_modules (s : State) (c : Fin 256) (x : Core) : (setCore s c x).modules = s.modules := rfl
@[simp] theorem setCore_outbox (s : State) (c : Fin 256) (x : Core) : (setCore s c x).outbox = s.outbox := rfl
@[simp] theorem setCore_want (s : State) (c : Fin 256) (x : Core) : (setCore s c x).want = s.want := rfl
@[simp] theorem setCore_txTag (s : State) (c : Fin 256) (x : Core) : (setCore s c x).txTag = s.txTag := rfl
@[simp] theorem setCore_posts (s : State) (c : Fin 256) (x : Core) : (setCore s c x).posts = s.posts := rfl
@[simp] theorem setCore_asks (s : State) (c : Fin 256) (x : Core) : (setCore s c x).asks = s.asks := rfl
@[simp] theorem setCore_flagged (s : State) (c : Fin 256) (x : Core) : (setCore s c x).flagged = s.flagged := rfl
@[simp] theorem setCore_cellAdds (s : State) (c : Fin 256) (x : Core) : (setCore s c x).cellAdds = s.cellAdds := rfl
@[simp] theorem setCore_soft (s : State) (c : Fin 256) (x : Core) : (setCore s c x).soft = s.soft := rfl
@[simp] theorem setCore_dirty (s : State) (c : Fin 256) (x : Core) : (setCore s c x).dirty = s.dirty := rfl
@[simp] theorem setCore_ready (s : State) (c : Fin 256) (x : Core) : (setCore s c x).ready = s.ready := rfl
@[simp] theorem setCore_fwOk (s : State) (c : Fin 256) (x : Core) : (setCore s c x).fwOk = s.fwOk := rfl
@[simp] theorem setCore_hbmFail (s : State) (c : Fin 256) (x : Core) : (setCore s c x).hbmFail = s.hbmFail := rfl
@[simp] theorem setCore_fwDigest (s : State) (c : Fin 256) (x : Core) : (setCore s c x).fwDigest = s.fwDigest := rfl
@[simp] theorem setCore_lastDigest (s : State) (c : Fin 256) (x : Core) : (setCore s c x).lastDigest = s.lastDigest := rfl
@[simp] theorem setCore_lastJob (s : State) (c : Fin 256) (x : Core) : (setCore s c x).lastJob = s.lastJob := rfl
@[simp] theorem setCore_free (s : State) (c : Fin 256) (x : Core) : (setCore s c x).free = s.free := rfl

/-! ### modCore -/

@[simp] theorem modCore_cycle (s : State) (c : Fin 256) (f : Core → Core) : (modCore s c f).cycle = s.cycle := rfl
@[simp] theorem modCore_turn (s : State) (c : Fin 256) (f : Core → Core) : (modCore s c f).turn = s.turn := rfl
@[simp] theorem modCore_agenda (s : State) (c : Fin 256) (f : Core → Core) : (modCore s c f).agenda = s.agenda := rfl
@[simp] theorem modCore_auto (s : State) (c : Fin 256) (f : Core → Core) : (modCore s c f).auto = s.auto := rfl
@[simp] theorem modCore_cur (s : State) (c : Fin 256) (f : Core → Core) : (modCore s c f).cur = s.cur := rfl
@[simp] theorem modCore_slot (s : State) (c : Fin 256) (f : Core → Core) : (modCore s c f).slot = s.slot := rfl
@[simp] theorem modCore_phase (s : State) (c : Fin 256) (f : Core → Core) : (modCore s c f).phase = s.phase := rfl
@[simp] theorem modCore_probes (s : State) (c : Fin 256) (f : Core → Core) : (modCore s c f).probes = s.probes := rfl
@[simp] theorem modCore_flow (s : State) (c : Fin 256) (f : Core → Core) : (modCore s c f).flow = s.flow := rfl
@[simp] theorem modCore_seq (s : State) (c : Fin 256) (f : Core → Core) : (modCore s c f).seq = s.seq := rfl
@[simp] theorem modCore_mem (s : State) (c : Fin 256) (f : Core → Core) : (modCore s c f).mem = s.mem := rfl
@[simp] theorem modCore_bad (s : State) (c : Fin 256) (f : Core → Core) : (modCore s c f).bad = s.bad := rfl
@[simp] theorem modCore_ctxs (s : State) (c : Fin 256) (f : Core → Core) : (modCore s c f).ctxs = s.ctxs := rfl
@[simp] theorem modCore_slices (s : State) (c : Fin 256) (f : Core → Core) : (modCore s c f).slices = s.slices := rfl
@[simp] theorem modCore_tlb2 (s : State) (c : Fin 256) (f : Core → Core) : (modCore s c f).tlb2 = s.tlb2 := rfl
@[simp] theorem modCore_jobs (s : State) (c : Fin 256) (f : Core → Core) : (modCore s c f).jobs = s.jobs := rfl
@[simp] theorem modCore_saved (s : State) (c : Fin 256) (f : Core → Core) : (modCore s c f).saved = s.saved := rfl
@[simp] theorem modCore_ended (s : State) (c : Fin 256) (f : Core → Core) : (modCore s c f).ended = s.ended := rfl
@[simp] theorem modCore_invals (s : State) (c : Fin 256) (f : Core → Core) : (modCore s c f).invals = s.invals := rfl
@[simp] theorem modCore_dren (s : State) (c : Fin 256) (f : Core → Core) : (modCore s c f).dren = s.dren := rfl
@[simp] theorem modCore_par (s : State) (c : Fin 256) (f : Core → Core) : (modCore s c f).par = s.par := rfl
@[simp] theorem modCore_temps (s : State) (c : Fin 256) (f : Core → Core) : (modCore s c f).temps = s.temps := rfl
@[simp] theorem modCore_threshNow (s : State) (c : Fin 256) (f : Core → Core) : (modCore s c f).threshNow = s.threshNow := rfl
@[simp] theorem modCore_sample (s : State) (c : Fin 256) (f : Core → Core) : (modCore s c f).sample = s.sample := rfl
@[simp] theorem modCore_sampled (s : State) (c : Fin 256) (f : Core → Core) : (modCore s c f).sampled = s.sampled := rfl
@[simp] theorem modCore_devid (s : State) (c : Fin 256) (f : Core → Core) : (modCore s c f).devid = s.devid := rfl
@[simp] theorem modCore_psize (s : State) (c : Fin 256) (f : Core → Core) : (modCore s c f).psize = s.psize := rfl
@[simp] theorem modCore_thresh (s : State) (c : Fin 256) (f : Core → Core) : (modCore s c f).thresh = s.thresh := rfl
@[simp] theorem modCore_budget (s : State) (c : Fin 256) (f : Core → Core) : (modCore s c f).budget = s.budget := rfl
@[simp] theorem modCore_route (s : State) (c : Fin 256) (f : Core → Core) : (modCore s c f).route = s.route := rfl
@[simp] theorem modCore_spent1 (s : State) (c : Fin 256) (f : Core → Core) : (modCore s c f).spent1 = s.spent1 := rfl
@[simp] theorem modCore_spent2 (s : State) (c : Fin 256) (f : Core → Core) : (modCore s c f).spent2 = s.spent2 := rfl
@[simp] theorem modCore_spent4 (s : State) (c : Fin 256) (f : Core → Core) : (modCore s c f).spent4 = s.spent4 := rfl
@[simp] theorem modCore_moved4 (s : State) (c : Fin 256) (f : Core → Core) : (modCore s c f).moved4 = s.moved4 := rfl
@[simp] theorem modCore_ports (s : State) (c : Fin 256) (f : Core → Core) : (modCore s c f).ports = s.ports := rfl
@[simp] theorem modCore_modules (s : State) (c : Fin 256) (f : Core → Core) : (modCore s c f).modules = s.modules := rfl
@[simp] theorem modCore_outbox (s : State) (c : Fin 256) (f : Core → Core) : (modCore s c f).outbox = s.outbox := rfl
@[simp] theorem modCore_want (s : State) (c : Fin 256) (f : Core → Core) : (modCore s c f).want = s.want := rfl
@[simp] theorem modCore_txTag (s : State) (c : Fin 256) (f : Core → Core) : (modCore s c f).txTag = s.txTag := rfl
@[simp] theorem modCore_posts (s : State) (c : Fin 256) (f : Core → Core) : (modCore s c f).posts = s.posts := rfl
@[simp] theorem modCore_asks (s : State) (c : Fin 256) (f : Core → Core) : (modCore s c f).asks = s.asks := rfl
@[simp] theorem modCore_flagged (s : State) (c : Fin 256) (f : Core → Core) : (modCore s c f).flagged = s.flagged := rfl
@[simp] theorem modCore_cellAdds (s : State) (c : Fin 256) (f : Core → Core) : (modCore s c f).cellAdds = s.cellAdds := rfl
@[simp] theorem modCore_soft (s : State) (c : Fin 256) (f : Core → Core) : (modCore s c f).soft = s.soft := rfl
@[simp] theorem modCore_dirty (s : State) (c : Fin 256) (f : Core → Core) : (modCore s c f).dirty = s.dirty := rfl
@[simp] theorem modCore_ready (s : State) (c : Fin 256) (f : Core → Core) : (modCore s c f).ready = s.ready := rfl
@[simp] theorem modCore_fwOk (s : State) (c : Fin 256) (f : Core → Core) : (modCore s c f).fwOk = s.fwOk := rfl
@[simp] theorem modCore_hbmFail (s : State) (c : Fin 256) (f : Core → Core) : (modCore s c f).hbmFail = s.hbmFail := rfl
@[simp] theorem modCore_fwDigest (s : State) (c : Fin 256) (f : Core → Core) : (modCore s c f).fwDigest = s.fwDigest := rfl
@[simp] theorem modCore_lastDigest (s : State) (c : Fin 256) (f : Core → Core) : (modCore s c f).lastDigest = s.lastDigest := rfl
@[simp] theorem modCore_lastJob (s : State) (c : Fin 256) (f : Core → Core) : (modCore s c f).lastJob = s.lastJob := rfl
@[simp] theorem modCore_free (s : State) (c : Fin 256) (f : Core → Core) : (modCore s c f).free = s.free := rfl

/-! ### modSlice -/

@[simp] theorem modSlice_cycle (s : State) (u : Fin 256) (f : Slice → Slice) : (modSlice s u f).cycle = s.cycle := rfl
@[simp] theorem modSlice_turn (s : State) (u : Fin 256) (f : Slice → Slice) : (modSlice s u f).turn = s.turn := rfl
@[simp] theorem modSlice_agenda (s : State) (u : Fin 256) (f : Slice → Slice) : (modSlice s u f).agenda = s.agenda := rfl
@[simp] theorem modSlice_auto (s : State) (u : Fin 256) (f : Slice → Slice) : (modSlice s u f).auto = s.auto := rfl
@[simp] theorem modSlice_cur (s : State) (u : Fin 256) (f : Slice → Slice) : (modSlice s u f).cur = s.cur := rfl
@[simp] theorem modSlice_slot (s : State) (u : Fin 256) (f : Slice → Slice) : (modSlice s u f).slot = s.slot := rfl
@[simp] theorem modSlice_phase (s : State) (u : Fin 256) (f : Slice → Slice) : (modSlice s u f).phase = s.phase := rfl
@[simp] theorem modSlice_probes (s : State) (u : Fin 256) (f : Slice → Slice) : (modSlice s u f).probes = s.probes := rfl
@[simp] theorem modSlice_flow (s : State) (u : Fin 256) (f : Slice → Slice) : (modSlice s u f).flow = s.flow := rfl
@[simp] theorem modSlice_seq (s : State) (u : Fin 256) (f : Slice → Slice) : (modSlice s u f).seq = s.seq := rfl
@[simp] theorem modSlice_mem (s : State) (u : Fin 256) (f : Slice → Slice) : (modSlice s u f).mem = s.mem := rfl
@[simp] theorem modSlice_bad (s : State) (u : Fin 256) (f : Slice → Slice) : (modSlice s u f).bad = s.bad := rfl
@[simp] theorem modSlice_ctxs (s : State) (u : Fin 256) (f : Slice → Slice) : (modSlice s u f).ctxs = s.ctxs := rfl
@[simp] theorem modSlice_cores (s : State) (u : Fin 256) (f : Slice → Slice) : (modSlice s u f).cores = s.cores := rfl
@[simp] theorem modSlice_tlb2 (s : State) (u : Fin 256) (f : Slice → Slice) : (modSlice s u f).tlb2 = s.tlb2 := rfl
@[simp] theorem modSlice_jobs (s : State) (u : Fin 256) (f : Slice → Slice) : (modSlice s u f).jobs = s.jobs := rfl
@[simp] theorem modSlice_saved (s : State) (u : Fin 256) (f : Slice → Slice) : (modSlice s u f).saved = s.saved := rfl
@[simp] theorem modSlice_ended (s : State) (u : Fin 256) (f : Slice → Slice) : (modSlice s u f).ended = s.ended := rfl
@[simp] theorem modSlice_invals (s : State) (u : Fin 256) (f : Slice → Slice) : (modSlice s u f).invals = s.invals := rfl
@[simp] theorem modSlice_dren (s : State) (u : Fin 256) (f : Slice → Slice) : (modSlice s u f).dren = s.dren := rfl
@[simp] theorem modSlice_par (s : State) (u : Fin 256) (f : Slice → Slice) : (modSlice s u f).par = s.par := rfl
@[simp] theorem modSlice_temps (s : State) (u : Fin 256) (f : Slice → Slice) : (modSlice s u f).temps = s.temps := rfl
@[simp] theorem modSlice_threshNow (s : State) (u : Fin 256) (f : Slice → Slice) : (modSlice s u f).threshNow = s.threshNow := rfl
@[simp] theorem modSlice_sample (s : State) (u : Fin 256) (f : Slice → Slice) : (modSlice s u f).sample = s.sample := rfl
@[simp] theorem modSlice_sampled (s : State) (u : Fin 256) (f : Slice → Slice) : (modSlice s u f).sampled = s.sampled := rfl
@[simp] theorem modSlice_devid (s : State) (u : Fin 256) (f : Slice → Slice) : (modSlice s u f).devid = s.devid := rfl
@[simp] theorem modSlice_psize (s : State) (u : Fin 256) (f : Slice → Slice) : (modSlice s u f).psize = s.psize := rfl
@[simp] theorem modSlice_thresh (s : State) (u : Fin 256) (f : Slice → Slice) : (modSlice s u f).thresh = s.thresh := rfl
@[simp] theorem modSlice_budget (s : State) (u : Fin 256) (f : Slice → Slice) : (modSlice s u f).budget = s.budget := rfl
@[simp] theorem modSlice_route (s : State) (u : Fin 256) (f : Slice → Slice) : (modSlice s u f).route = s.route := rfl
@[simp] theorem modSlice_spent1 (s : State) (u : Fin 256) (f : Slice → Slice) : (modSlice s u f).spent1 = s.spent1 := rfl
@[simp] theorem modSlice_spent2 (s : State) (u : Fin 256) (f : Slice → Slice) : (modSlice s u f).spent2 = s.spent2 := rfl
@[simp] theorem modSlice_spent4 (s : State) (u : Fin 256) (f : Slice → Slice) : (modSlice s u f).spent4 = s.spent4 := rfl
@[simp] theorem modSlice_moved4 (s : State) (u : Fin 256) (f : Slice → Slice) : (modSlice s u f).moved4 = s.moved4 := rfl
@[simp] theorem modSlice_ports (s : State) (u : Fin 256) (f : Slice → Slice) : (modSlice s u f).ports = s.ports := rfl
@[simp] theorem modSlice_modules (s : State) (u : Fin 256) (f : Slice → Slice) : (modSlice s u f).modules = s.modules := rfl
@[simp] theorem modSlice_outbox (s : State) (u : Fin 256) (f : Slice → Slice) : (modSlice s u f).outbox = s.outbox := rfl
@[simp] theorem modSlice_want (s : State) (u : Fin 256) (f : Slice → Slice) : (modSlice s u f).want = s.want := rfl
@[simp] theorem modSlice_txTag (s : State) (u : Fin 256) (f : Slice → Slice) : (modSlice s u f).txTag = s.txTag := rfl
@[simp] theorem modSlice_posts (s : State) (u : Fin 256) (f : Slice → Slice) : (modSlice s u f).posts = s.posts := rfl
@[simp] theorem modSlice_asks (s : State) (u : Fin 256) (f : Slice → Slice) : (modSlice s u f).asks = s.asks := rfl
@[simp] theorem modSlice_flagged (s : State) (u : Fin 256) (f : Slice → Slice) : (modSlice s u f).flagged = s.flagged := rfl
@[simp] theorem modSlice_cellAdds (s : State) (u : Fin 256) (f : Slice → Slice) : (modSlice s u f).cellAdds = s.cellAdds := rfl
@[simp] theorem modSlice_soft (s : State) (u : Fin 256) (f : Slice → Slice) : (modSlice s u f).soft = s.soft := rfl
@[simp] theorem modSlice_dirty (s : State) (u : Fin 256) (f : Slice → Slice) : (modSlice s u f).dirty = s.dirty := rfl
@[simp] theorem modSlice_ready (s : State) (u : Fin 256) (f : Slice → Slice) : (modSlice s u f).ready = s.ready := rfl
@[simp] theorem modSlice_fwOk (s : State) (u : Fin 256) (f : Slice → Slice) : (modSlice s u f).fwOk = s.fwOk := rfl
@[simp] theorem modSlice_hbmFail (s : State) (u : Fin 256) (f : Slice → Slice) : (modSlice s u f).hbmFail = s.hbmFail := rfl
@[simp] theorem modSlice_fwDigest (s : State) (u : Fin 256) (f : Slice → Slice) : (modSlice s u f).fwDigest = s.fwDigest := rfl
@[simp] theorem modSlice_lastDigest (s : State) (u : Fin 256) (f : Slice → Slice) : (modSlice s u f).lastDigest = s.lastDigest := rfl
@[simp] theorem modSlice_lastJob (s : State) (u : Fin 256) (f : Slice → Slice) : (modSlice s u f).lastJob = s.lastJob := rfl
@[simp] theorem modSlice_free (s : State) (u : Fin 256) (f : Slice → Slice) : (modSlice s u f).free = s.free := rfl

/-! ### countEvent -/

@[simp] theorem countEvent_mem (s : State) (c : Fin 256) (e n : Nat) : (countEvent s c e n).mem = s.mem := rfl
@[simp] theorem countEvent_ctxs (s : State) (c : Fin 256) (e n : Nat) : (countEvent s c e n).ctxs = s.ctxs := rfl
@[simp] theorem countEvent_cur (s : State) (c : Fin 256) (e n : Nat) : (countEvent s c e n).cur = s.cur := rfl
@[simp] theorem countEvent_slot (s : State) (c : Fin 256) (e n : Nat) : (countEvent s c e n).slot = s.slot := rfl
@[simp] theorem countEvent_phase (s : State) (c : Fin 256) (e n : Nat) : (countEvent s c e n).phase = s.phase := rfl
@[simp] theorem countEvent_probes (s : State) (c : Fin 256) (e n : Nat) : (countEvent s c e n).probes = s.probes := rfl
@[simp] theorem countEvent_flow (s : State) (c : Fin 256) (e n : Nat) : (countEvent s c e n).flow = s.flow := rfl
@[simp] theorem countEvent_seq (s : State) (c : Fin 256) (e n : Nat) : (countEvent s c e n).seq = s.seq := rfl
@[simp] theorem countEvent_cycle (s : State) (c : Fin 256) (e n : Nat) : (countEvent s c e n).cycle = s.cycle := rfl
@[simp] theorem countEvent_slices (s : State) (c : Fin 256) (e n : Nat) : (countEvent s c e n).slices = s.slices := rfl
@[simp] theorem countEvent_jobs (s : State) (c : Fin 256) (e n : Nat) : (countEvent s c e n).jobs = s.jobs := rfl
@[simp] theorem countEvent_bad (s : State) (c : Fin 256) (e n : Nat) : (countEvent s c e n).bad = s.bad := rfl
@[simp] theorem countEvent_saved (s : State) (c : Fin 256) (e n : Nat) : (countEvent s c e n).saved = s.saved := rfl
@[simp] theorem countEvent_outbox (s : State) (c : Fin 256) (e n : Nat) : (countEvent s c e n).outbox = s.outbox := rfl
@[simp] theorem countEvent_want (s : State) (c : Fin 256) (e n : Nat) : (countEvent s c e n).want = s.want := rfl
@[simp] theorem countEvent_posts (s : State) (c : Fin 256) (e n : Nat) : (countEvent s c e n).posts = s.posts := rfl
@[simp] theorem countEvent_asks (s : State) (c : Fin 256) (e n : Nat) : (countEvent s c e n).asks = s.asks := rfl

/-! ### pushFlight -/

@[simp] theorem pushFlight_mem (s : State) (f : Flight) : (pushFlight s f).mem = s.mem := rfl
@[simp] theorem pushFlight_cores (s : State) (f : Flight) : (pushFlight s f).cores = s.cores := rfl
@[simp] theorem pushFlight_cur (s : State) (f : Flight) : (pushFlight s f).cur = s.cur := rfl
@[simp] theorem pushFlight_slot (s : State) (f : Flight) : (pushFlight s f).slot = s.slot := rfl
@[simp] theorem pushFlight_phase (s : State) (f : Flight) : (pushFlight s f).phase = s.phase := rfl
@[simp] theorem pushFlight_probes (s : State) (f : Flight) : (pushFlight s f).probes = s.probes := rfl
@[simp] theorem pushFlight_flow (s : State) (f : Flight) : (pushFlight s f).flow = s.flow := rfl
@[simp] theorem pushFlight_seq (s : State) (f : Flight) : (pushFlight s f).seq = s.seq := rfl
@[simp] theorem pushFlight_cycle (s : State) (f : Flight) : (pushFlight s f).cycle = s.cycle := rfl
@[simp] theorem pushFlight_slices (s : State) (f : Flight) : (pushFlight s f).slices = s.slices := rfl
@[simp] theorem pushFlight_jobs (s : State) (f : Flight) : (pushFlight s f).jobs = s.jobs := rfl
@[simp] theorem pushFlight_bad (s : State) (f : Flight) : (pushFlight s f).bad = s.bad := rfl
@[simp] theorem pushFlight_saved (s : State) (f : Flight) : (pushFlight s f).saved = s.saved := rfl
@[simp] theorem pushFlight_outbox (s : State) (f : Flight) : (pushFlight s f).outbox = s.outbox := rfl
@[simp] theorem pushFlight_want (s : State) (f : Flight) : (pushFlight s f).want = s.want := rfl
@[simp] theorem pushFlight_posts (s : State) (f : Flight) : (pushFlight s f).posts = s.posts := rfl
@[simp] theorem pushFlight_asks (s : State) (f : Flight) : (pushFlight s f).asks = s.asks := rfl

/-! ### land -/

@[simp] theorem land_mem (s : State) (lat : Nat) (a : Landing) (g : BitVec 6) : (land lat a g s).mem = s.mem := rfl
@[simp] theorem land_cores (s : State) (lat : Nat) (a : Landing) (g : BitVec 6) : (land lat a g s).cores = s.cores := rfl
@[simp] theorem land_cur (s : State) (lat : Nat) (a : Landing) (g : BitVec 6) : (land lat a g s).cur = s.cur := rfl
@[simp] theorem land_slot (s : State) (lat : Nat) (a : Landing) (g : BitVec 6) : (land lat a g s).slot = s.slot := rfl
@[simp] theorem land_phase (s : State) (lat : Nat) (a : Landing) (g : BitVec 6) : (land lat a g s).phase = s.phase := rfl
@[simp] theorem land_probes (s : State) (lat : Nat) (a : Landing) (g : BitVec 6) : (land lat a g s).probes = s.probes := rfl
@[simp] theorem land_flow (s : State) (lat : Nat) (a : Landing) (g : BitVec 6) : (land lat a g s).flow = s.flow := rfl
@[simp] theorem land_seq (s : State) (lat : Nat) (a : Landing) (g : BitVec 6) : (land lat a g s).seq = s.seq := rfl
@[simp] theorem land_cycle (s : State) (lat : Nat) (a : Landing) (g : BitVec 6) : (land lat a g s).cycle = s.cycle := rfl
@[simp] theorem land_slices (s : State) (lat : Nat) (a : Landing) (g : BitVec 6) : (land lat a g s).slices = s.slices := rfl
@[simp] theorem land_jobs (s : State) (lat : Nat) (a : Landing) (g : BitVec 6) : (land lat a g s).jobs = s.jobs := rfl
@[simp] theorem land_bad (s : State) (lat : Nat) (a : Landing) (g : BitVec 6) : (land lat a g s).bad = s.bad := rfl
@[simp] theorem land_saved (s : State) (lat : Nat) (a : Landing) (g : BitVec 6) : (land lat a g s).saved = s.saved := rfl
@[simp] theorem land_outbox (s : State) (lat : Nat) (a : Landing) (g : BitVec 6) : (land lat a g s).outbox = s.outbox := rfl
@[simp] theorem land_want (s : State) (lat : Nat) (a : Landing) (g : BitVec 6) : (land lat a g s).want = s.want := rfl
@[simp] theorem land_posts (s : State) (lat : Nat) (a : Landing) (g : BitVec 6) : (land lat a g s).posts = s.posts := rfl
@[simp] theorem land_asks (s : State) (lat : Nat) (a : Landing) (g : BitVec 6) : (land lat a g s).asks = s.asks := rfl

/-! ### landFree -/

@[simp] theorem landFree_mem (s : State) (lat : Nat) (a : Landing) : (landFree lat a s).mem = s.mem := rfl
@[simp] theorem landFree_cores (s : State) (lat : Nat) (a : Landing) : (landFree lat a s).cores = s.cores := rfl
@[simp] theorem landFree_cur (s : State) (lat : Nat) (a : Landing) : (landFree lat a s).cur = s.cur := rfl
@[simp] theorem landFree_slot (s : State) (lat : Nat) (a : Landing) : (landFree lat a s).slot = s.slot := rfl
@[simp] theorem landFree_phase (s : State) (lat : Nat) (a : Landing) : (landFree lat a s).phase = s.phase := rfl
@[simp] theorem landFree_probes (s : State) (lat : Nat) (a : Landing) : (landFree lat a s).probes = s.probes := rfl
@[simp] theorem landFree_flow (s : State) (lat : Nat) (a : Landing) : (landFree lat a s).flow = s.flow := rfl
@[simp] theorem landFree_seq (s : State) (lat : Nat) (a : Landing) : (landFree lat a s).seq = s.seq := rfl
@[simp] theorem landFree_cycle (s : State) (lat : Nat) (a : Landing) : (landFree lat a s).cycle = s.cycle := rfl
@[simp] theorem landFree_slices (s : State) (lat : Nat) (a : Landing) : (landFree lat a s).slices = s.slices := rfl
@[simp] theorem landFree_jobs (s : State) (lat : Nat) (a : Landing) : (landFree lat a s).jobs = s.jobs := rfl
@[simp] theorem landFree_bad (s : State) (lat : Nat) (a : Landing) : (landFree lat a s).bad = s.bad := rfl
@[simp] theorem landFree_saved (s : State) (lat : Nat) (a : Landing) : (landFree lat a s).saved = s.saved := rfl
@[simp] theorem landFree_outbox (s : State) (lat : Nat) (a : Landing) : (landFree lat a s).outbox = s.outbox := rfl
@[simp] theorem landFree_want (s : State) (lat : Nat) (a : Landing) : (landFree lat a s).want = s.want := rfl
@[simp] theorem landFree_posts (s : State) (lat : Nat) (a : Landing) : (landFree lat a s).posts = s.posts := rfl
@[simp] theorem landFree_asks (s : State) (lat : Nat) (a : Landing) : (landFree lat a s).asks = s.asks := rfl

/-! ### landLate -/

@[simp] theorem landLate_mem (s : State) (lat : Nat) (a : Landing) (q : Nat) : (landLate lat a q s).mem = s.mem := rfl
@[simp] theorem landLate_cores (s : State) (lat : Nat) (a : Landing) (q : Nat) : (landLate lat a q s).cores = s.cores := rfl
@[simp] theorem landLate_cur (s : State) (lat : Nat) (a : Landing) (q : Nat) : (landLate lat a q s).cur = s.cur := rfl
@[simp] theorem landLate_slot (s : State) (lat : Nat) (a : Landing) (q : Nat) : (landLate lat a q s).slot = s.slot := rfl
@[simp] theorem landLate_phase (s : State) (lat : Nat) (a : Landing) (q : Nat) : (landLate lat a q s).phase = s.phase := rfl
@[simp] theorem landLate_probes (s : State) (lat : Nat) (a : Landing) (q : Nat) : (landLate lat a q s).probes = s.probes := rfl
@[simp] theorem landLate_flow (s : State) (lat : Nat) (a : Landing) (q : Nat) : (landLate lat a q s).flow = s.flow := rfl
@[simp] theorem landLate_seq (s : State) (lat : Nat) (a : Landing) (q : Nat) : (landLate lat a q s).seq = s.seq := rfl
@[simp] theorem landLate_cycle (s : State) (lat : Nat) (a : Landing) (q : Nat) : (landLate lat a q s).cycle = s.cycle := rfl
@[simp] theorem landLate_slices (s : State) (lat : Nat) (a : Landing) (q : Nat) : (landLate lat a q s).slices = s.slices := rfl
@[simp] theorem landLate_jobs (s : State) (lat : Nat) (a : Landing) (q : Nat) : (landLate lat a q s).jobs = s.jobs := rfl
@[simp] theorem landLate_bad (s : State) (lat : Nat) (a : Landing) (q : Nat) : (landLate lat a q s).bad = s.bad := rfl
@[simp] theorem landLate_saved (s : State) (lat : Nat) (a : Landing) (q : Nat) : (landLate lat a q s).saved = s.saved := rfl
@[simp] theorem landLate_outbox (s : State) (lat : Nat) (a : Landing) (q : Nat) : (landLate lat a q s).outbox = s.outbox := rfl
@[simp] theorem landLate_want (s : State) (lat : Nat) (a : Landing) (q : Nat) : (landLate lat a q s).want = s.want := rfl
@[simp] theorem landLate_posts (s : State) (lat : Nat) (a : Landing) (q : Nat) : (landLate lat a q s).posts = s.posts := rfl
@[simp] theorem landLate_asks (s : State) (lat : Nat) (a : Landing) (q : Nat) : (landLate lat a q s).asks = s.asks := rfl

/-! ### pushWork -/

@[simp] theorem pushWork_mem (s : State) (w : Work) : (pushWork s w).mem = s.mem := rfl
@[simp] theorem pushWork_ctxs (s : State) (w : Work) : (pushWork s w).ctxs = s.ctxs := rfl
@[simp] theorem pushWork_cur (s : State) (w : Work) : (pushWork s w).cur = s.cur := rfl
@[simp] theorem pushWork_slot (s : State) (w : Work) : (pushWork s w).slot = s.slot := rfl
@[simp] theorem pushWork_phase (s : State) (w : Work) : (pushWork s w).phase = s.phase := rfl
@[simp] theorem pushWork_probes (s : State) (w : Work) : (pushWork s w).probes = s.probes := rfl
@[simp] theorem pushWork_flow (s : State) (w : Work) : (pushWork s w).flow = s.flow := rfl
@[simp] theorem pushWork_seq (s : State) (w : Work) : (pushWork s w).seq = s.seq := rfl
@[simp] theorem pushWork_cycle (s : State) (w : Work) : (pushWork s w).cycle = s.cycle := rfl
@[simp] theorem pushWork_slices (s : State) (w : Work) : (pushWork s w).slices = s.slices := rfl
@[simp] theorem pushWork_jobs (s : State) (w : Work) : (pushWork s w).jobs = s.jobs := rfl
@[simp] theorem pushWork_bad (s : State) (w : Work) : (pushWork s w).bad = s.bad := rfl
@[simp] theorem pushWork_saved (s : State) (w : Work) : (pushWork s w).saved = s.saved := rfl
@[simp] theorem pushWork_outbox (s : State) (w : Work) : (pushWork s w).outbox = s.outbox := rfl
@[simp] theorem pushWork_want (s : State) (w : Work) : (pushWork s w).want = s.want := rfl
@[simp] theorem pushWork_posts (s : State) (w : Work) : (pushWork s w).posts = s.posts := rfl
@[simp] theorem pushWork_asks (s : State) (w : Work) : (pushWork s w).asks = s.asks := rfl

/-! ### Reading back -/

@[simp] theorem ctxAt_setCtx (s : State) (k : Fin 1024) (c : Ctx) : ctxAt (setCtx s k c) k = c := by
  simp [ctxAt, setCtx]

theorem ctxAt_setCtx_ne (s : State) (k j : Fin 1024) (c : Ctx) (h : j ≠ k) : ctxAt (setCtx s k c) j = ctxAt s j := by
  simp only [ctxAt, setCtx, Fin.getElem_fin]
  exact Vector.getElem_set_ne _ _ (fun e => h (Fin.ext e.symm))

@[simp] theorem ctxAt_modCtx (s : State) (k : Fin 1024) (f : Ctx → Ctx) : ctxAt (modCtx s k f) k = f (ctxAt s k) :=
  ctxAt_setCtx s k _

theorem ctxAt_modCtx_ne (s : State) (k j : Fin 1024) (f : Ctx → Ctx) (h : j ≠ k) :
    ctxAt (modCtx s k f) j = ctxAt s j := ctxAt_setCtx_ne s k j _ h

@[simp] theorem ctxAt_modArch (s : State) (k : Fin 1024) (f : Arch → Arch) :
    ctxAt (modArch s k f) k = { ctxAt s k with arch := f (ctxAt s k).arch } := ctxAt_setCtx s k _

theorem ctxAt_modArch_ne (s : State) (k j : Fin 1024) (f : Arch → Arch) (h : j ≠ k) :
    ctxAt (modArch s k f) j = ctxAt s j := ctxAt_setCtx_ne s k j _ h

@[simp] theorem coreAt_setCore (s : State) (c : Fin 256) (x : Core) : coreAt (setCore s c x) c = x := by
  simp [coreAt, setCore]

theorem coreAt_setCore_ne (s : State) (c d : Fin 256) (x : Core) (h : d ≠ c) : coreAt (setCore s c x) d = coreAt s d := by
  simp only [coreAt, setCore, Fin.getElem_fin]
  exact Vector.getElem_set_ne _ _ (fun e => h (Fin.ext e.symm))

@[simp] theorem coreAt_modCore (s : State) (c : Fin 256) (f : Core → Core) : coreAt (modCore s c f) c = f (coreAt s c) :=
  coreAt_setCore s c _

theorem coreAt_modCore_ne (s : State) (c d : Fin 256) (f : Core → Core) (h : d ≠ c) :
    coreAt (modCore s c f) d = coreAt s d := coreAt_setCore_ne s c d _ h

@[simp] theorem coreAt_modCtx (s : State) (k : Fin 1024) (f : Ctx → Ctx) (c : Fin 256) :
    coreAt (modCtx s k f) c = coreAt s c := rfl

@[simp] theorem coreAt_modArch (s : State) (k : Fin 1024) (f : Arch → Arch) (c : Fin 256) :
    coreAt (modArch s k f) c = coreAt s c := rfl

@[simp] theorem ctxAt_modCore (s : State) (c : Fin 256) (f : Core → Core) (k : Fin 1024) :
    ctxAt (modCore s c f) k = ctxAt s k := rfl

@[simp] theorem ctxAt_countEvent (s : State) (c : Fin 256) (e n : Nat) (k : Fin 1024) :
    ctxAt (countEvent s c e n) k = ctxAt s k := rfl

@[simp] theorem ctxAt_pushWork (s : State) (w : Work) (k : Fin 1024) : ctxAt (pushWork s w) k = ctxAt s k := rfl

@[simp] theorem setCtx_setCtx (s : State) (k : Fin 1024) (c d : Ctx) : setCtx (setCtx s k c) k d = setCtx s k d := by
  simp [setCtx]

@[simp] theorem setCtx_ctxAt (s : State) (k : Fin 1024) : setCtx s k (ctxAt s k) = s := by
  simp [setCtx, ctxAt]

theorem modCtx_modCtx (s : State) (k : Fin 1024) (f g : Ctx → Ctx) :
    modCtx (modCtx s k f) k g = modCtx s k fun c => g (f c) := by
  simp [modCtx]

/-! ### Registers: reading what was written, and the fixed ones (R56, R65) -/

@[simp] theorem rS_zero (a : Arch) : rS a 0 = 0 := rfl
@[simp] theorem rP_zero (a : Arch) : rP a 0 = true := rfl
@[simp] theorem rM_zero (a : Arch) : rM a 0 = BitVec.allOnes 64 := rfl
@[simp] theorem wS_zero (a : Arch) (x : Word) : wS a 0 x = a := rfl
@[simp] theorem wP_zero (a : Arch) (x : Bool) : wP a 0 x = a := rfl
@[simp] theorem wM_zero (a : Arch) (x l : Word) : wM a 0 x l = a := rfl

theorem rS_wS (a : Arch) (i : Fin 64) (x : Word) (h : i ≠ 0) : rS (wS a i x) i = x := by
  simp [rS, wS, h]

theorem rS_wS_ne (a : Arch) (i j : Fin 64) (x : Word) (h : j ≠ i) : rS (wS a i x) j = rS a j := by
  unfold rS wS
  split
  · rfl
  · split
    · rfl
    · simp only [Fin.getElem_fin]
      exact Vector.getElem_set_ne i.isLt j.isLt (fun e => h (Fin.ext e.symm))

theorem rP_wP (a : Arch) (i : Fin 16) (x : Bool) (h : i ≠ 0) : rP (wP a i x) i = x := by
  simp [rP, wP, h]

theorem rP_wP_ne (a : Arch) (i j : Fin 16) (x : Bool) (h : j ≠ i) : rP (wP a i x) j = rP a j := by
  unfold rP wP
  split
  · rfl
  · split
    · rfl
    · simp only [Fin.getElem_fin]
      exact Vector.getElem_set_ne i.isLt j.isLt (fun e => h (Fin.ext e.symm))

end Sys2Proof.Machine
end

