-- ==== Sys2Proof/Laws/Issue.lean ====
section
/-! SUPPORT. Laws of issue: what a slot operation answers alone in its bundle, when no check stops it, and what taking an exception
and returning from one do. -/

namespace Sys2Proof.Machine

open Sys2Proof.Safety

/-! ### The machine at issue -/

@[simp] theorem issued_mem (s : State) : (issued s).mem = s.mem := rfl
@[simp] theorem issued_cores (s : State) : (issued s).cores = s.cores := rfl
@[simp] theorem issued_cur (s : State) : (issued s).cur = s.cur := rfl
@[simp] theorem issued_slot (s : State) : (issued s).slot = s.slot := rfl
@[simp] theorem issued_seq (s : State) : (issued s).seq = s.seq := rfl
@[simp] theorem issued_phase (s : State) : (issued s).phase = s.phase := rfl
@[simp] theorem issued_bad (s : State) : (issued s).bad = s.bad := rfl
@[simp] theorem issued_flow (s : State) : (issued s).flow = .issued := rfl
@[simp] theorem curCtx_issued (s : State) : curCtx (issued s) = { curCtx s with waits := [] } := ctxAt_modCtx s s.cur (fun c => { c with waits := [] })
@[simp] theorem curArch_issued (s : State) : curArch (issued s) = curArch s := by
  show (curCtx (issued s)).arch = _
  rw [curCtx_issued]
  rfl
@[simp] theorem now_issued (s : State) : now (issued s) = now s := congrArg (fun a => a.sched.toNat) (curArch_issued s)
@[simp] theorem curCore_issued (s : State) : curCore (issued s) = curCore s := rfl
@[simp] theorem coreAt_issued (s : State) (c : Fin 256) : coreAt (issued s) c = coreAt s c := rfl

/-! ### Checks of a bundle of one operation -/

theorem twice_one (b : BitVec 32) : twice [b] = 0 := by simp [twice]

theorem firstTwice_nodup (seen ws : List WReg) (h : ws.Nodup) (d : ∀ w ∈ ws, w ∉ seen) : firstTwice seen ws = none := by
  induction ws generalizing seen with
  | nil => rfl
  | cons w r ih =>
    have hw : w ∉ seen := d w List.mem_cons_self
    simp only [firstTwice, List.contains_eq_mem, hw, decide_false, Bool.false_eq_true, if_false]
    refine ih _ (List.nodup_cons.1 h).2 fun x hx => ?_
    rintro (_ | ⟨_, hm⟩)
    · exact (List.nodup_cons.1 h).1 hx
    · exact d x (List.mem_cons_of_mem _ hx) hm

/-- An operation whose slot reports no fault, which writes no register twice and whose results fit, faults not. -/
theorem bundleFault_one (s : State) (p : Probe) (hf : p.faults = []) (hu : p.unread = [] ∨ p.stores = []) (hw : p.writes.Nodup)
    (hn : inFlight (curCtx s) + p.results ≤ 32) : bundleFault s [p] = none := by
  have h1 : ∀ c, firstOf [p] c = none := fun c => by simp [firstOf, hf]
  have h2 : firstTwice [] ([p].flatMap (·.writes)) = none := by
    simpa using firstTwice_nodup [] p.writes hw (by simp)
  have h4 : storeUnread [p] = none := by rcases hu with h | h <;> simp [storeUnread, h]
  have h3 : codeOrder.findSome? (codeFault [p]) = none := List.findSome?_eq_none_iff.2 fun c _ => by simp [codeFault, h1, h4]
  simp only [bundleFault, h1, h2, h3]
  rw [if_neg (by simpa using hn)]
  simp [twice_one]

/-- An operation alone that nothing stops or holds has its effect. -/
theorem runSlot_next (probe : State → Probe) (effect : State → State) (s : State) (hp : s.phase = .whole)
    (hf : bundleFault s [probe s] = none) (hw : waitsMet s s.cur [] [] (probe s).waits = true) :
    runSlot probe effect s = .next (effect (issued s)) := by
  simp only [runSlot, hp, issue, hf, bundleWaits, List.flatMap_cons, List.flatMap_nil, List.append_nil, hw, if_true]
  rfl

/-- An operation alone whose probe asks for nothing but its results has its effect. -/
theorem runSlot_plain (probe : State → Probe) (effect : State → State) (s : State) (n : Nat) (ha : Alone n s)
    (hf : (probe s).faults = []) (hu : (probe s).unread = [] ∨ (probe s).stores = []) (hw : (probe s).writes.Nodup)
    (hn : (probe s).results ≤ n) (hm : waitsMet s s.cur [] [] (probe s).waits = true) :
    runSlot probe effect s = .next (effect (issued s)) :=
  runSlot_next probe effect s ha.1 (bundleFault_one s _ hf hu hw (by have := ha.2; omega)) hm

/-- An operation alone that faults takes the exception, whatever it waits for (R375). -/
theorem runSlot_fault (probe : State → Probe) (effect : State → State) (s : State) (f : FaultRec) (hp : s.phase = .whole)
    (hf : bundleFault s [probe s] = some f) : runSlot probe effect s = taken f s := by
  simp only [runSlot, hp, issue, hf, taken]

/-- An operation alone that must wait changes nothing but its context's waits (R31). -/
theorem runSlot_wait (probe : State → Probe) (effect : State → State) (s : State) (hp : s.phase = .whole)
    (hf : bundleFault s [probe s] = none) (hw : waitsMet s s.cur [] [] (probe s).waits = false) :
    runSlot probe effect s = .next (goWaiting (probe s).waits s) := by
  simp [runSlot, hp, issue, hf, bundleWaits, hw]

/-- A slot operation never stops the machine. -/
theorem runSlot_goesOn (probe : State → Probe) (effect : State → State) (s : State) : GoesOn (runSlot probe effect s) := by
  unfold runSlot
  split <;> exact ⟨_, rfl⟩

/-- The check phase of a slot only adds to the list of probes. -/
theorem runSlot_check (probe : State → Probe) (effect : State → State) (s : State) (hp : s.phase = .check) :
    runSlot probe effect s = .next { s with probes := s.probes ++ [probe { s with phase := .whole }] } := by
  simp [runSlot, hp]

/-- The effect phase of a slot has the effect that the operation has alone. -/
theorem runSlot_effect (probe : State → Probe) (effect : State → State) (s : State) (hp : s.phase = .effect) :
    runSlot probe effect s = .next { effect { s with phase := .whole } with phase := .effect } := by
  simp [runSlot, hp]

/-! ### Writers of one register -/

theorem wrS_nodup (d : Fin 64) : (wrS d).Nodup := by unfold wrS; split <;> simp
theorem wrP_nodup (d : Fin 16) : (wrP d).Nodup := by unfold wrP; split <;> simp
theorem wrV_nodup (d : Fin 64) : (wrV d).Nodup := by simp [wrV]
theorem wrM_nodup (d : Fin 16) : (wrM d).Nodup := by unfold wrM; split <;> simp

/-! ### The shared forms -/

/-- An unconditional register operation lands its value. -/
theorem sForm_next (d : Fin 64) (lat : Nat) (f : Arch → Word) (s : State) (h : Alone 1 s) :
    sForm d lat f s = .next (land lat (.sreg d (f (curArch s))) 0 (issued s)) := by
  unfold sForm
  rw [runSlot_plain (n := 1) (ha := h) (hf := rfl) (hu := .inl rfl) (hw := wrS_nodup d) (hn := Nat.le_refl 1) (hm := rfl)]
  simp

theorem predProbe_results (p : Fin 16) (n : Bool) (ws : List WReg) (k : Nat) (s : State) (h : guarded (curArch s) p n = true) :
    (predProbe p n ws k s).results = k := by simp [predProbe, regProbe, h]

theorem predProbe_results_off (p : Fin 16) (n : Bool) (ws : List WReg) (k : Nat) (s : State)
    (h : guarded (curArch s) p n = false) : (predProbe p n ws k s).results = 0 := by simp [predProbe, regProbe, h]

/-- A predicated effect that is on. -/
theorem predEffect_on (p : Fin 16) (n : Bool) (f : State → State) (s : State) (h : guarded (curArch s) p n = true) :
    predEffect p n f s = f s := by simp [predEffect, h]

/-- A predicated effect that is off. -/
theorem predEffect_off (p : Fin 16) (n : Bool) (f : State → State) (s : State) (h : guarded (curArch s) p n = false) :
    predEffect p n f s = s := by simp [predEffect, h]

/-- A predicated operation whose probe asks for nothing but its results. -/
theorem runPred_on (p : Fin 16) (n : Bool) (ws : List WReg) (k : Nat) (f : State → State) (s : State) (ha : Alone k s)
    (hw : ws.Nodup) (hg : guarded (curArch s) p n = true) :
    runSlot (predProbe p n ws k) (predEffect p n f) s = .next (f (issued s)) := by
  rw [runSlot_plain (n := k) (ha := ha) (hf := rfl) (hu := .inl rfl) (hw := hw) (hn := (predProbe_results p n ws k s hg).le) (hm := rfl)]
  rw [predEffect_on _ _ _ _ (by simpa using hg)]

/-- The same, predicated off: the bundle issues and nothing else happens. -/
theorem runPred_off (p : Fin 16) (n : Bool) (ws : List WReg) (k : Nat) (f : State → State) (s : State) (ha : Alone 0 s)
    (hw : ws.Nodup) (hg : guarded (curArch s) p n = false) :
    runSlot (predProbe p n ws k) (predEffect p n f) s = .next (issued s) := by
  rw [runSlot_plain (n := 0) (ha := ha) (hf := rfl) (hu := .inl rfl) (hw := hw) (hn := (predProbe_results_off p n ws k s hg).le) (hm := rfl)]
  rw [predEffect_off _ _ _ _ (by simpa using hg)]

theorem sFormP_on (d : Fin 64) (p : Fin 16) (n : Bool) (lat : Nat) (f : Arch → Word) (s : State) (h : Alone 1 s)
    (hg : guarded (curArch s) p n = true) :
    sFormP d p n lat f s = .next (land lat (.sreg d (f (curArch s))) 0 (issued s)) := by
  unfold sFormP
  rw [runPred_on p n _ 1 _ s h (wrS_nodup d) hg]
  simp

theorem sFormP_off (d : Fin 64) (p : Fin 16) (n : Bool) (lat : Nat) (f : Arch → Word) (s : State) (h : Alone 0 s)
    (hg : guarded (curArch s) p n = false) : sFormP d p n lat f s = .next (issued s) :=
  runPred_off p n _ 1 _ s h (wrS_nodup d) hg

theorem pFormP_on (d p : Fin 16) (n : Bool) (lat : Nat) (f : Arch → Bool) (s : State) (h : Alone 1 s)
    (hg : guarded (curArch s) p n = true) :
    pFormP d p n lat f s = .next (land lat (.preg d (f (curArch s))) 0 (issued s)) := by
  unfold pFormP
  rw [runPred_on p n _ 1 _ s h (wrP_nodup d) hg]
  simp

theorem pFormP_off (d p : Fin 16) (n : Bool) (lat : Nat) (f : Arch → Bool) (s : State) (h : Alone 0 s)
    (hg : guarded (curArch s) p n = false) : pFormP d p n lat f s = .next (issued s) :=
  runPred_off p n _ 1 _ s h (wrP_nodup d) hg

theorem fForm_next (d : Fin 64) (lat : Nat) (f : Arch → Word × BitVec 6) (s : State) (h : Alone 1 s) :
    fForm d lat f s = .next (land lat (.sreg d (f (curArch s)).1) (f (curArch s)).2 (issued s)) := by
  unfold fForm
  rw [runSlot_plain (n := 1) (ha := h) (hf := rfl) (hu := .inl rfl) (hw := wrS_nodup d) (hn := Nat.le_refl 1) (hm := rfl)]
  simp

theorem fFormP_on (d : Fin 64) (p : Fin 16) (n : Bool) (lat : Nat) (f : Arch → Word × BitVec 6) (s : State) (h : Alone 1 s)
    (hg : guarded (curArch s) p n = true) :
    fFormP d p n lat f s = .next (land lat (.sreg d (f (curArch s)).1) (f (curArch s)).2 (issued s)) := by
  unfold fFormP
  rw [runPred_on p n _ 1 _ s h (wrS_nodup d) hg]
  simp

theorem fFormP_off (d : Fin 64) (p : Fin 16) (n : Bool) (lat : Nat) (f : Arch → Word × BitVec 6) (s : State) (h : Alone 0 s)
    (hg : guarded (curArch s) p n = false) : fFormP d p n lat f s = .next (issued s) :=
  runPred_off p n _ 1 _ s h (wrS_nodup d) hg

theorem fpFormP_on (d p : Fin 16) (n : Bool) (lat : Nat) (f : Arch → Bool × BitVec 6) (s : State) (h : Alone 1 s)
    (hg : guarded (curArch s) p n = true) :
    fpFormP d p n lat f s = .next (land lat (.preg d (f (curArch s)).1) (f (curArch s)).2 (issued s)) := by
  unfold fpFormP
  rw [runPred_on p n _ 1 _ s h (wrP_nodup d) hg]
  simp

theorem fpFormP_off (d p : Fin 16) (n : Bool) (lat : Nat) (f : Arch → Bool × BitVec 6) (s : State) (h : Alone 0 s)
    (hg : guarded (curArch s) p n = false) : fpFormP d p n lat f s = .next (issued s) :=
  runPred_off p n _ 1 _ s h (wrP_nodup d) hg

theorem vForm_next (d : Fin 64) (lat : Nat) (f : Arch → VReg × BitVec 6) (lanes : Arch → Word) (s : State) (h : Alone 1 s) :
    vForm d lat f lanes s =
      .next (land lat (.vreg d (f (curArch s)).1 (lanes (curArch s))) (f (curArch s)).2 (issued s)) := by
  unfold vForm
  rw [runSlot_plain (n := 1) (ha := h) (hf := rfl) (hu := .inl rfl) (hw := wrV_nodup d) (hn := Nat.le_refl 1) (hm := rfl)]
  simp

theorem mForm_next (d : Fin 16) (lat : Nat) (f : Arch → Word × BitVec 6) (lanes : Arch → Word) (s : State) (h : Alone 1 s) :
    mForm d lat f lanes s =
      .next (land lat (.mreg d (f (curArch s)).1 (lanes (curArch s))) (f (curArch s)).2 (issued s)) := by
  unfold mForm
  rw [runSlot_plain (n := 1) (ha := h) (hf := rfl) (hu := .inl rfl) (hw := wrM_nodup d) (hn := Nat.le_refl 1) (hm := rfl)]
  simp

/-! ### Taking an exception, and returning from one -/

/-- With traps enabled and outside handler mode, the exception enters the handler (R370). -/
theorem trapEnter_enters (k : Fin 1024) (f : FaultRec) (bun : Word) (s : State)
    (he : (ctxAt s k).arch.tvec.getLsbD 32 = true) (hh : (ctxAt s k).arch.hm = false) :
    trapEnter k f bun s = countEvent { modCtx (enterRun k s) k (fun c => { c with
      arch := { (ctxAt s k).arch with
        tcause := causeWord f, tbun := bun, tslot := slotWord f, tval0 := f.v0, tval1 := f.v1, tval2 := f.v2, hm := true,
        xfer := none, pc := (ctxAt s k).arch.tvec &&& 0xFFFFFFFF },
      pending := (ctxAt s k).arch.xfer, entryBun := bun, hidden := f.replay, waits := [], holdFault := none, granted := false,
      asked := false, flagSeen := none, standing := none }) with flow := .diverted } (coreOf k) 0x000D 1 := by
  have : (!(ctxAt s k).arch.tvec.getLsbD 32 || (ctxAt s k).arch.hm) = false := by rw [he, hh]; rfl
  simp only [trapEnter, this, Bool.false_eq_true, if_false]

/-- With traps disabled, or in handler mode, the job ends (R370, R373). -/
theorem trapEnter_ends (k : Fin 1024) (f : FaultRec) (bun : Word) (s : State)
    (h : (ctxAt s k).arch.tvec.getLsbD 32 = false ∨ (ctxAt s k).arch.hm = true) :
    trapEnter k f bun s = jobEnd s (jobOf s k) ⟨if (ctxAt s k).arch.hm then 2 else 1, k.val, (ctxAt s k).arch.sched, causeWord f,
      bun, slotWord f, f.v0, f.v1, f.v2⟩ := by
  have : (!(ctxAt s k).arch.tvec.getLsbD 32 || (ctxAt s k).arch.hm) = true := by
    rcases h with h | h <;> rw [h] <;> simp
  simp only [trapEnter, this, if_true]

@[simp] theorem jobEnd_mem (s : State) (j : BitVec 32) (r : EndRec) : (jobEnd s j r).mem = s.mem := rfl

/-- Taking an exception leaves memory alone. -/
@[simp] theorem trapEnter_mem (k : Fin 1024) (f : FaultRec) (bun : Word) (s : State) : (trapEnter k f bun s).mem = s.mem := by
  unfold trapEnter
  dsimp only
  split <;> rfl

@[simp] theorem trapReturn_mem (k : Fin 1024) (s : State) : (trapReturn k s).mem = s.mem := rfl

@[simp] theorem trapByInstr_mem (k : Fin 1024) (i : BitVec 16) (x : Word) (s : State) : (trapByInstr k i x s).mem = s.mem := rfl

/-- A core whose L1 does not hold the line of an address has nothing to drop (R128). -/
theorem dropL1_absent (put : State → Nat → List Byte → State) (s : State) (c : Fin 256) (pa : Nat)
    (h : l1Find (coreAt s c) pa = none) : dropL1 put s c pa = s := by simp [dropL1, h]

/-- What the issue of an atomic does to L1: nothing where its address has no translation, else the sector is dropped (R128). -/
theorem invalidateSector_cases (a : Word) (s : State) :
    invalidateSector a s = s ∨ ∃ pa, (xlate s (coreOf s.cur) (jobOf s s.cur) a.toNat false).1 = .ok pa ∧
      invalidateSector a s = dropL1 (postSector (coreOf s.cur)) s (coreOf s.cur) pa := by
  unfold invalidateSector
  dsimp only
  split
  · next pa h => exact .inr ⟨pa, h, rfl⟩
  · exact .inl rfl

end Sys2Proof.Machine
end

