-- ==== Sys2Proof/Laws/Memory.lean ====
section
/-! SUPPORT. Laws of memory: reading after writing, byte by byte, and that every memory operation keeps the canonical form. -/

namespace Sys2Proof.Machine

/-! ### Bytes and numbers -/

@[simp] theorem leBytes_length (n x : Nat) : (leBytes n x).length = n := by
  induction n generalizing x with
  | zero => rfl
  | succ n ih => simp [leBytes, ih]

/-- The bytes of a number, read back, are the number modulo 256^n. -/
theorem leVal_leBytes (n x : Nat) : leVal (leBytes n x) = x % 256 ^ n := by
  induction n generalizing x with
  | zero => simp [leBytes, leVal, Nat.mod_one]
  | succ n ih =>
    have h8 : (BitVec.ofNat 8 x).toNat = x % 256 := BitVec.toNat_ofNat x 8
    rw [leBytes, leVal, ih, h8, Nat.pow_succ', Nat.mod_mul]

/-! ### The canonical form -/

/-- The canonical form, said at once: keys strictly rising, no entry equal to what an unlisted address reads as. -/
theorem memWf_iff (m : List Host.Cell) :
    memWf m = true ↔ m.Pairwise (fun a b => a.1 < b.1) ∧ ∀ c ∈ m, c.2 ≠ unlisted c.1 := by
  induction m with
  | nil => simp [memWf]
  | cons c r ih =>
    obtain ⟨k, v⟩ := c
    simp only [memWf, Bool.and_eq_true, bne_iff_ne, ne_eq, List.all_eq_true, decide_eq_true_eq, ih, List.pairwise_cons,
      List.forall_mem_cons]
    tauto

@[simp] theorem memWf_nil : memWf [] = true := rfl

theorem memWf_filter (m : List Host.Cell) (p : Host.Cell → Bool) (h : memWf m = true) : memWf (m.filter p) = true := by
  rw [memWf_iff] at h ⊢
  exact ⟨h.1.filter _, fun c hc => h.2 c (List.mem_of_mem_filter hc)⟩

theorem cellsFrom_key {a : Nat} {bs : List Byte} {c : Host.Cell} (h : c ∈ cellsFrom a bs) : a ≤ c.1 ∧ c.1 < a + bs.length := by
  induction bs generalizing a with
  | nil => simp [cellsFrom] at h
  | cons b r ih =>
    simp only [cellsFrom] at h
    split at h
    · have := ih h
      simp only [List.length_cons]
      omega
    · rcases List.mem_cons.1 h with rfl | h
      · simp
      · have := ih h
        simp only [List.length_cons]
        omega

theorem memWf_cellsFrom (a : Nat) (bs : List Byte) : memWf (cellsFrom a bs) = true := by
  induction bs generalizing a with
  | nil => rfl
  | cons b r ih =>
    simp only [cellsFrom]
    split
    · exact ih _
    · rename_i hb
      have := (memWf_iff _).1 (ih (a + 1))
      rw [memWf_iff]
      refine ⟨List.pairwise_cons.2 ⟨fun c hc => ?_, this.1⟩, ?_⟩
      · have := cellsFrom_key hc
        simp only
        omega
      · intro c hc
        rcases List.mem_cons.1 hc with rfl | hc
        · exact hb
        · exact this.2 c hc

/-- A write keeps the canonical form. -/
theorem memWf_write (m : List Host.Cell) (a : Nat) (bs : List Byte) (h : memWf m = true) :
    memWf (memWrite m a bs) = true := by
  have h1 := (memWf_iff _).1 h
  have h2 := (memWf_iff _).1 (memWf_cellsFrom a bs)
  rw [memWf_iff, memWrite]
  refine ⟨List.pairwise_append.2 ⟨List.pairwise_append.2 ⟨h1.1.filter _, h2.1, ?_⟩, h1.1.filter _, ?_⟩, ?_⟩
  · intro c hc d hd
    have := cellsFrom_key hd
    have := of_decide_eq_true (List.mem_filter.1 hc).2
    omega
  · intro c hc d hd
    have := of_decide_eq_true (List.mem_filter.1 hd).2
    rcases List.mem_append.1 hc with hc | hc
    · have := of_decide_eq_true (List.mem_filter.1 hc).2
      omega
    · have := cellsFrom_key hc
      omega
  · intro c hc
    rcases List.mem_append.1 hc with hc | hc
    · rcases List.mem_append.1 hc with hc | hc
      · exact h1.2 c (List.mem_of_mem_filter hc)
      · exact h2.2 c hc
    · exact h1.2 c (List.mem_of_mem_filter hc)

/-- Clearing keeps the canonical form. -/
theorem memWf_clear (m : List Host.Cell) (a n : Nat) (h : memWf m = true) : memWf (memClear m a n) = true :=
  memWf_filter _ _ h

theorem memWf_foldWrite (l m : List Host.Cell) (f : Host.Cell → Nat) (h : memWf m = true) :
    memWf (l.foldl (fun r c => memWrite r (f c) [c.2]) m) = true := by
  induction l generalizing m with
  | nil => exact h
  | cons c r ih => exact ih _ (memWf_write _ _ _ h)

/-- Moving keeps the canonical form. -/
theorem memWf_move (m : List Host.Cell) (a b n : Nat) (h : memWf m = true) : memWf (memMove m a b n) = true :=
  memWf_foldWrite _ _ _ (memWf_clear _ _ _ (memWf_clear _ _ _ h))

/-- A write of the machine's bytes keeps the canonical form. -/
theorem memWf_putBytes (s : State) (a : Nat) (bs : List Byte) (h : memWf s.mem = true) :
    memWf (putBytes s a bs).mem = true := memWf_write _ _ _ h

/-- A write that covers part of no bad word writes its bytes as they are. -/
theorem putBytes_mem (s : State) (a : Nat) (bs : List Byte) (h : badPart s a bs.length = false) :
    (putBytes s a bs).mem = memWrite s.mem a bs := by
  have e : (badParts s a bs.length).isEmpty = true := by simpa [badPart] using h
  simp [putBytes, e]

/-! ### Reading -/

theorem memGet_absent (m : List Host.Cell) (x : Nat) (h : ∀ c ∈ m, c.1 ≠ x) : memGet m x = unlisted x := by
  induction m with
  | nil => rfl
  | cons c r ih =>
    obtain ⟨k, v⟩ := c
    simp only [memGet]
    rw [if_neg (h _ List.mem_cons_self)]
    exact ih fun c hc => h c (List.mem_cons_of_mem _ hc)

theorem memGet_append (l m : List Host.Cell) (x : Nat) (h : ∀ c ∈ l, c.1 ≠ x) : memGet (l ++ m) x = memGet m x := by
  induction l with
  | nil => rfl
  | cons c r ih =>
    obtain ⟨k, v⟩ := c
    simp only [List.cons_append, memGet]
    rw [if_neg (h _ List.mem_cons_self)]
    exact ih fun c hc => h c (List.mem_cons_of_mem _ hc)

theorem memGet_append_right (l m : List Host.Cell) (x : Nat) (h : ∀ c ∈ m, c.1 ≠ x) : memGet (l ++ m) x = memGet l x := by
  induction l with
  | nil => exact memGet_absent m x h
  | cons c r ih =>
    obtain ⟨k, v⟩ := c
    simp only [List.cons_append, memGet, ih]

theorem memGet_filter (m : List Host.Cell) (p : Host.Cell → Bool) (x : Nat) (h : ∀ v, p (x, v) = true) :
    memGet (m.filter p) x = memGet m x := by
  induction m with
  | nil => rfl
  | cons c r ih =>
    obtain ⟨k, v⟩ := c
    by_cases hp : p (k, v) = true
    · simp only [List.filter_cons, hp, if_true, memGet, ih]
    · simp only [List.filter_cons, hp, memGet]
      by_cases hk : k = x
      · subst hk
        exact absurd (h v) hp
      · simp only [hk, if_false]
        simpa using ih

theorem memGet_filter_out (m : List Host.Cell) (p : Host.Cell → Bool) (x : Nat) (h : ∀ v, p (x, v) = false) :
    memGet (m.filter p) x = unlisted x := by
  refine memGet_absent _ _ fun c hc e => ?_
  obtain ⟨k, v⟩ := c
  have := (List.mem_filter.1 hc).2
  subst e
  simp [h] at this

theorem memGet_cellsFrom (a x : Nat) (bs : List Byte) (h : a ≤ x) :
    memGet (cellsFrom a bs) x = bs.getD (x - a) (unlisted x) := by
  induction bs generalizing a with
  | nil => simp [cellsFrom, memGet]
  | cons b r ih =>
    simp only [cellsFrom]
    rcases Nat.eq_or_lt_of_le h with rfl | hlt
    · split
      · rename_i hb
        rw [memGet_absent]
        · simp [hb]
        · intro c hc
          have := cellsFrom_key hc
          omega
      · simp [memGet]
    · have e : x - a = (x - (a + 1)) + 1 := by omega
      have hi := ih (a + 1) hlt
      split
      · rw [hi, e]
        simp
      · simp only [memGet]
        rw [if_neg (by omega), hi, e]
        simp

/-- The read of one byte after a write: the written byte inside, the old one outside. -/
theorem memGet_write (m : List Host.Cell) (a x : Nat) (bs : List Byte) :
    memGet (memWrite m a bs) x = if a ≤ x ∧ x < a + bs.length then bs.getD (x - a) 0 else memGet m x := by
  unfold memWrite
  split
  · rename_i h
    rw [memGet_append_right _ _ _ (fun c hc => by
      have := of_decide_eq_true (List.mem_filter.1 hc).2
      omega)]
    rw [memGet_append _ _ _ (fun c hc => by
      have := of_decide_eq_true (List.mem_filter.1 hc).2
      omega)]
    rw [memGet_cellsFrom _ _ _ h.1]
    rfl
  · rename_i h
    by_cases hx : x < a
    · rw [memGet_append_right _ _ _ (fun c hc => by
        have := of_decide_eq_true (List.mem_filter.1 hc).2
        omega)]
      rw [memGet_append_right _ _ _ (fun c hc => by
        have := cellsFrom_key hc
        omega)]
      exact memGet_filter _ _ _ fun v => decide_eq_true hx
    · rw [memGet_append _ _ _ (fun c hc => by
        rcases List.mem_append.1 hc with hc | hc
        · have := of_decide_eq_true (List.mem_filter.1 hc).2
          omega
        · have := cellsFrom_key hc
          omega)]
      exact memGet_filter _ _ _ fun v => decide_eq_true (by simp only; omega)

theorem memGet_clear (m : List Host.Cell) (a n x : Nat) :
    memGet (memClear m a n) x = if a ≤ x ∧ x < a + n then 0 else memGet m x := by
  unfold memClear
  split
  · rename_i h
    rw [memGet_filter_out]
    · rfl
    · intro v
      simp only [Bool.or_eq_false_iff, decide_eq_false_iff_not]
      omega
  · rename_i h
    apply memGet_filter
    intro v
    simp only [Bool.or_eq_true, decide_eq_true_eq]
    omega

theorem memGet_window (m : List Host.Cell) (a n x : Nat) (h : a ≤ x ∧ x < a + n) : memGet (memWindow m a n) x = memGet m x := by
  apply memGet_filter
  intro v
  simp only [Bool.and_eq_true, decide_eq_true_eq]
  exact h

/-- A read of bytes, byte by byte. -/
theorem memRead_eq (m : List Host.Cell) (a n : Nat) : memRead m a n = (List.range n).map fun i => memGet m (a + i) := by
  unfold memRead
  apply List.map_congr_left
  intro i hi
  rw [List.mem_range] at hi
  exact memGet_window _ _ _ _ (by omega)

@[simp] theorem memRead_length (m : List Host.Cell) (a n : Nat) : (memRead m a n).length = n := by simp [memRead]

/-- What was written is read back. -/
theorem memRead_write (m : List Host.Cell) (a : Nat) (bs : List Byte) : memRead (memWrite m a bs) a bs.length = bs := by
  rw [memRead_eq]
  apply List.ext_getElem
  · simp
  · intro i h1 h2
    simp only [List.getElem_map, List.getElem_range, memGet_write]
    rw [if_pos (by omega)]
    simp [h2]

/-- A read of bytes that a write does not touch. -/
theorem memRead_write_out (m : List Host.Cell) (a b n : Nat) (bs : List Byte) (h : b + n ≤ a ∨ a + bs.length ≤ b) :
    memRead (memWrite m a bs) b n = memRead m b n := by
  rw [memRead_eq, memRead_eq]
  apply List.map_congr_left
  intro i hi
  rw [List.mem_range] at hi
  rw [memGet_write, if_neg (by omega)]

/-- A write of the machine's bytes leaves every byte outside them alone, whatever words are bad. -/
theorem memGet_putBytes_out (s : State) (a x : Nat) (bs : List Byte) (h : x < a ∨ a + bs.length ≤ x) :
    memGet (putBytes s a bs).mem x = memGet s.mem x := by
  simp only [putBytes, memGet_write]
  rw [if_neg]
  split <;> simp <;> omega

/-- A number written is read back, modulo its width. -/
theorem memVal_write (m : List Host.Cell) (a n x : Nat) : memVal (memWrite m a (leBytes n x)) a n = x % 256 ^ n := by
  have := memRead_write m a (leBytes n x)
  rw [leBytes_length] at this
  rw [memVal, this, leVal_leBytes]

end Sys2Proof.Machine
end

