-- ==== Sys2Proof/Laws/Values.lean ====
section
/-! SUPPORT. Laws of values: the model's integer operations are the ones of bit vectors. -/

namespace Sys2Proof.Machine

/-- Signed division is the division of bit vectors that rounds toward zero. -/
theorem divSigned_eq (n : Nat) (x y : BitVec n) (h : y ≠ 0) : divSigned n x y = x.sdiv y := by
  rw [divSigned, if_neg h]
  apply BitVec.eq_of_toInt_eq
  rw [BitVec.toInt_ofInt, BitVec.toInt_sdiv]

/-- Unsigned division. -/
theorem divUnsigned_eq (n : Nat) (x y : BitVec n) (h : y ≠ 0) : divUnsigned n x y = x / y := by
  rw [divUnsigned, if_neg h]
  apply BitVec.eq_of_toNat_eq
  rw [BitVec.toNat_udiv, BitVec.toNat_ofNat]
  exact Nat.mod_eq_of_lt (Nat.lt_of_le_of_lt (Nat.div_le_self _ _) x.isLt)

/-- The signed remainder has the sign of the dividend. -/
theorem remSigned_eq (n : Nat) (x y : BitVec n) (h : y ≠ 0) : remSigned n x y = x.srem y := by
  rw [remSigned, if_neg h]
  apply BitVec.eq_of_toInt_eq
  rw [← BitVec.toInt_srem, BitVec.ofInt_toInt]

/-- The unsigned remainder. -/
theorem remUnsigned_eq (n : Nat) (x y : BitVec n) (h : y ≠ 0) : remUnsigned n x y = x % y := by
  rw [remUnsigned, if_neg h]
  apply BitVec.eq_of_toNat_eq
  rw [BitVec.toNat_umod, BitVec.toNat_ofNat]
  exact Nat.mod_eq_of_lt (Nat.lt_of_le_of_lt (Nat.mod_le _ _) x.isLt)

/-- The high half of the unsigned product, formed at twice the width. -/
theorem mulHighU_eq (n : Nat) (x y : BitVec n) : mulHighU n x y = (x.setWidth (2*n) * y.setWidth (2*n)).extractLsb' n n := by
  apply BitVec.eq_of_toNat_eq
  have hx := x.isLt
  have hy := y.isLt
  have h2 : 2 ^ n ≤ 2 ^ (2 * n) := Nat.pow_le_pow_right (by omega) (by omega)
  have h3 : x.toNat * y.toNat < 2 ^ (2 * n) := by
    rw [show 2 * n = n + n by omega, Nat.pow_add]
    exact Nat.mul_lt_mul'' hx hy
  simp only [mulHighU, BitVec.extractLsb'_toNat, BitVec.toNat_mul, BitVec.toNat_setWidth, BitVec.toNat_ofNat,
    Nat.mod_eq_of_lt (Nat.lt_of_lt_of_le hx h2), Nat.mod_eq_of_lt (Nat.lt_of_lt_of_le hy h2), Nat.mod_eq_of_lt h3,
    Nat.shiftRight_eq_div_pow]

/-- The high half of the signed product, formed at twice the width. -/
theorem mulHighS_eq (n : Nat) (x y : BitVec n) :
    mulHighS n x y = (x.signExtend (2 * n) * y.signExtend (2 * n)).extractLsb' n n := by
  apply BitVec.eq_of_toNat_eq
  have key : ((x.signExtend (2 * n) * y.signExtend (2 * n)).toNat : Int) = (x.toInt * y.toInt) % ((2 ^ (2 * n) : Nat) : Int) := by
    have h1 : (x.signExtend (2 * n)).toInt = x.toInt := BitVec.toInt_signExtend_of_le (by omega)
    have h2 : (y.signExtend (2 * n)).toInt = y.toInt := BitVec.toInt_signExtend_of_le (by omega)
    have h3 : x.signExtend (2 * n) * y.signExtend (2 * n) = BitVec.ofInt (2 * n) (x.toInt * y.toInt) := by
      apply BitVec.eq_of_toInt_eq
      rw [BitVec.toInt_mul, h1, h2, BitVec.toInt_ofInt]
    rw [h3, BitVec.toNat_ofInt]
    exact Int.toNat_of_nonneg (Int.emod_nonneg _ (by positivity))
  have hz : ((2 : Int) ^ n) ≠ 0 := by positivity
  zify
  rw [BitVec.extractLsb'_toNat, Nat.shiftRight_eq_div_pow, mulHighS, BitVec.toNat_ofInt,
    Int.toNat_of_nonneg (Int.emod_nonneg _ (by positivity))]
  push_cast
  rw [key]
  push_cast
  generalize x.toInt * y.toInt = a
  have hP : (2 : Int) ^ (2 * n) = 2 ^ n * 2 ^ n := by rw [← pow_add]; congr 1; omega
  rw [hP, Int.emod_def a (2 ^ n * 2 ^ n), Int.mul_assoc, Int.sub_mul_ediv_left _ _ hz, Int.sub_mul_emod_self_left]

/-- Leading zeros. -/
theorem leadZeros_eq (n : Nat) (x : BitVec n) : leadZeros n x = x.clz := by
  unfold leadZeros
  split
  · rename_i h
    rw [(BitVec.clz_eq_iff_eq_zero (x := x)).2 h]
    rfl
  · rename_i h
    have hn : 0 < n := by
      rcases Nat.eq_zero_or_pos n with rfl | h'
      · exact absurd (BitVec.eq_of_zero_length rfl) h
      · exact h'
    have h1 := BitVec.two_pow_sub_clz_le_toNat_of_ne_zero hn h
    have h2 := BitVec.toNat_lt_two_pow_sub_clz (x := x)
    have h3 := BitVec.clz_lt_iff_ne_zero.2 h
    have h4 : x.clz.toNat < n := by
      have := BitVec.lt_def.1 h3
      simpa [Nat.mod_eq_of_lt Nat.lt_two_pow_self] using this
    have hx0 : x.toNat ≠ 0 := fun e => h (BitVec.eq_of_toNat_eq (by simpa using e))
    have h5 : Nat.log2 x.toNat = n - 1 - x.clz.toNat := by
      apply Nat.le_antisymm
      · have := (Nat.log2_lt hx0).2 h2
        omega
      · exact (Nat.le_log2 hx0).2 h1
    apply BitVec.eq_of_toNat_eq
    rw [h5, BitVec.toNat_ofNat, Nat.mod_eq_of_lt]
    · omega
    · exact Nat.lt_of_le_of_lt (by omega) Nat.lt_two_pow_self

/-- Trailing zeros. -/
theorem trailZeros_eq (n : Nat) (x : BitVec n) : trailZeros n x = x.ctz := by
  apply BitVec.eq_of_toNat_eq
  have hle : x.ctz.toNat ≤ n := by
    have := BitVec.le_def.1 (BitVec.clz_le (x := x.reverse))
    simpa [BitVec.ctz, Nat.mod_eq_of_lt Nat.lt_two_pow_self] using this
  have hv : ((List.range n).find? fun i => x.getLsbD i).getD n = x.ctz.toNat := by
    by_cases h : x = 0
    · subst h
      have : (0#n).ctz.toNat = n := by
        have := (BitVec.clz_eq_iff_eq_zero (x := (0#n).reverse)).2 (by simp)
        rw [BitVec.ctz, this]
        simp [Nat.mod_eq_of_lt Nat.lt_two_pow_self]
      have hnone : (List.range n).find? (fun i => (0 : BitVec n).getLsbD i) = none := by simp
      rw [hnone]
      exact this.symm
    · have h1 := BitVec.getLsbD_true_ctz_of_ne_zero h
      have h3 : x.ctz.toNat < n := BitVec.lt_of_getLsbD h1
      have : (List.range n).find? (fun i => x.getLsbD i) = some x.ctz.toNat := by
        rw [List.find?_range_eq_some]
        exact ⟨h1, by simpa using h3, fun j hj => by simpa using BitVec.getLsbD_false_of_lt_ctz hj⟩
      rw [this]
      rfl
  rw [trailZeros, hv, BitVec.toNat_ofNat, Nat.mod_eq_of_lt (Nat.lt_of_le_of_lt hle Nat.lt_two_pow_self)]

/-- The number of 1 bits. -/
theorem popCount_eq (n : Nat) (x : BitVec n) : popCount n x = x.cpop := by
  have h : ∀ k acc, x.cpopNatRec k acc = acc + ((List.range k).filter fun i => x.getLsbD i).length := by
    intro k
    induction k with
    | zero => intro acc; simp
    | succ k ih =>
      intro acc
      rw [BitVec.cpopNatRec_succ, ih, List.range_succ, List.filter_append, List.length_append]
      cases hb : x.getLsbD k <;> (simp [hb]; try omega)
  rw [popCount, BitVec.cpop, h, Nat.zero_add]

/-- The sign extension of a field that starts at bit `l`. -/
theorem signFrom_eq (x : Word) (l m : Nat) (h : l + m < 64) :
    signFrom (x >>> l) m = (x.extractLsb' l (m + 1)).signExtend 64 := by
  apply BitVec.eq_of_getLsbD_eq
  intro j hj
  rw [signFrom, BitVec.getLsbD_sshiftRight, BitVec.getLsbD_signExtend]
  simp only [hj, decide_true, Bool.true_and, show ¬ 64 ≤ j by omega, decide_false, Bool.not_false]
  have hm : ((x >>> l) <<< (63 - m)).msb = x.getLsbD (l + m) := by
    rw [BitVec.msb_eq_getLsbD_last, BitVec.getLsbD_shiftLeft, BitVec.getLsbD_ushiftRight]
    simp only [show 64 - 1 < 64 by omega, decide_true, Bool.true_and]
    simp only [show ¬ 64 - 1 < 63 - m by omega, decide_false, Bool.not_false, Bool.true_and]
    congr 1
    omega
  have hm2 : (x.extractLsb' l (m + 1)).msb = x.getLsbD (l + m) := by
    rw [BitVec.msb_eq_getLsbD_last, BitVec.getLsbD_extractLsb']
    simp
  rw [hm, hm2]
  by_cases h1 : j < m + 1
  · rw [if_pos (by omega), if_pos h1, BitVec.getLsbD_shiftLeft, BitVec.getLsbD_ushiftRight, BitVec.getLsbD_extractLsb']
    simp only [show 63 - m + j < 64 by omega, decide_true, Bool.true_and, show ¬ 63 - m + j < 63 - m by omega, decide_false,
      Bool.not_false, h1]
    congr 1
    omega
  · rw [if_neg (by omega), if_neg h1]

/-- The zero extension of a field that starts at bit `l`. -/
theorem zeroFrom_eq (x : Word) (l m : Nat) (h : l + m < 64) :
    zeroFrom (x >>> l) m = (x.extractLsb' l (m + 1)).setWidth 64 := by
  apply BitVec.eq_of_getLsbD_eq
  intro j hj
  rw [zeroFrom, BitVec.getLsbD_ushiftRight, BitVec.getLsbD_shiftLeft, BitVec.getLsbD_setWidth, BitVec.getLsbD_extractLsb',
    BitVec.getLsbD_ushiftRight]
  by_cases h1 : j < m + 1
  · simp only [show 63 - m + j < 64 by omega, decide_true, Bool.true_and, show ¬ 63 - m + j < 63 - m by omega, decide_false,
      Bool.not_false, h1, hj]
    congr 1
    omega
  · simp only [show ¬ 63 - m + j < 64 by omega, decide_false, Bool.false_and, h1, Bool.and_false]

theorem signFrom_zero (x : Word) (m : Nat) (h : m < 64) : signFrom x m = (x.extractLsb' 0 (m + 1)).signExtend 64 := by
  have := signFrom_eq x 0 m (by omega)
  simpa using this

theorem zeroFrom_zero (x : Word) (m : Nat) (h : m < 64) : zeroFrom x m = (x.extractLsb' 0 (m + 1)).setWidth 64 := by
  have := zeroFrom_eq x 0 m (by omega)
  simpa using this

/-- The bits of a field mask. -/
theorem getLsbD_bitField (l m j : Nat) (h : l + m < 64) (hj : j < 64) :
    (bitField l m).getLsbD j = (decide (l ≤ j) && decide (j ≤ l + m)) := by
  rw [bitField, BitVec.getLsbD_shiftLeft, BitVec.getLsbD_ushiftRight, BitVec.getLsbD_allOnes]
  by_cases h1 : l ≤ j <;> by_cases h2 : j ≤ l + m <;> simp [hj, h1, h2] <;> omega

/-- `LUI`: the immediate above the low half. -/
theorem lui_value (x : Word) (i : BitVec 32) :
    (imm64 i <<< 32) ||| (x &&& 0xFFFFFFFF) = (i ++ x.extractLsb' 0 32 : BitVec 64) := by
  apply BitVec.eq_of_getLsbD_eq
  intro j hj
  have e : (0xFFFFFFFF : Word) = (BitVec.allOnes 32).setWidth 64 := by decide
  rw [e, imm64, BitVec.getLsbD_or, BitVec.getLsbD_shiftLeft, BitVec.getLsbD_and, BitVec.getLsbD_signExtend,
    BitVec.getLsbD_setWidth, BitVec.getLsbD_allOnes, BitVec.getLsbD_append, BitVec.getLsbD_extractLsb']
  by_cases h : j < 32
  · simp [h, hj]
  · have h2 : j - 32 < 32 := by omega
    have h3 : j - 32 < 64 := by omega
    simp [h, hj, h2, h3]

theorem rotl_value (n : Nat) (x : BitVec n) (k : Nat) : x.rotateLeft (k % n) = (x <<< (k % n)) ||| (x >>> (n - k % n)) := by
  rw [BitVec.rotateLeft, BitVec.rotateLeftAux, Nat.mod_mod]

end Sys2Proof.Machine
end

