-- ==== Sys2Proof/Tests/Slice0.lean ====
section
/-! SUPPORT. Tests: what is not well formed and is refused; words written out from the encoding tables and the instructions they
decode to; for each statement of Certificates a concrete state and operands that meet its hypotheses together, clause by clause;
results worked out by hand from the rules. -/

namespace Sys2Proof.Tests

set_option Elab.async false

open Sys2Proof Sys2Proof.Machine Sys2Proof.Safety

/-! ### What is not well formed -/

theorem test_wf_fields : (Instr.bfxS 1 2 32 32).wf = false ∧ (Instr.bfxU 1 2 63 1).wf = false ∧ (Instr.bfi 1 2 1 63).wf = false := by decide
theorem test_wf_fcvt : (Instr.fcvt 1 2 false 8 8).wf = false ∧ (Instr.fcvt 1 2 false 6 0).wf = false ∧
    (Instr.fcvt 1 2 true 0 1).wf = false := by decide
theorem test_wf_vcvt : (Instr.vcvt 1 2 0 1 2).wf = false ∧ (Instr.vcvt 1 2 2 0 1).wf = false ∧ (Instr.vcvt 1 2 1 8 0).wf = false ∧
    (Instr.vcvt 1 2 0 0 6).wf = false := by decide
theorem test_wf_part : (Instr.vqnt 1 2 1 4 0 0 0).wf = false ∧ (Instr.vqnt 1 2 2 7 0 0 0).wf = false ∧ (Instr.vqnt 1 2 3 3 0 0 0).wf = false ∧
    (Instr.vdq 1 2 1 4 0 0 0).wf = false ∧ (Instr.vdq 1 2 2 0 1 0 0).wf = false := by decide
theorem test_wf_distance : (Instr.ldlW 1 2 0 0 0).wf = false ∧ (Instr.ldlWz 1 2 0 0 0).wf = false ∧ (Instr.ldlD 1 2 0 0 0).wf = false ∧
    (Instr.vldl 1 2 0 0 0).wf = false ∧ (Instr.wnext 0 0 31).wf = false ∧ (Instr.lcnt 1 0 31).wf = false := by decide
theorem test_wf_csr : (Instr.csrr 1 0x009).wf = false ∧ (Instr.csrw 1 2 0x017).wf = false ∧ (Instr.csrs 1 2 0x022).wf = false ∧
    (Instr.csrc 1 2 0x060).wf = false := by decide
theorem test_wf_loop : (Instr.loop 1 0).wf = false ∧ (Instr.loop 1 0xFFFFFFFF).wf = false := by decide
theorem test_wf_banks : (Instr.acalloc 0 3 0).wf = false ∧ (Instr.acalloc 0 2 113).wf = false ∧ (Instr.acalloc 0 0 1).wf = false ∧
    (Instr.vtrip 62 1 2).wf = false ∧ (Instr.cpset 0 1 24).wf = false := by decide
theorem test_wf_sync : (Instr.dfrmAdd 1 0 0).wf = false ∧ (Instr.dfrmAdd 1 3 0).wf = false ∧ (Instr.fence 1 5).wf = false ∧
    (Instr.fencex 5 1 1).wf = false ∧ (Instr.fencex 0 0 1).wf = false ∧ (Instr.fencex 0 1 0).wf = false ∧
    (Instr.flwait 1 2 3 0).wf = false ∧ (Instr.await 0 4096).wf = false ∧ (Instr.release 0 4096).wf = false := by decide
theorem test_wf_rings : ∀ i ∈ ([.lnew 1 2 false 1 0, .lbind 1 false 1 0, .lappend 1 false 1 0, .lcarry 1 false 1 0, .lfork 1 false 1 0,
    .ltrunc 1 false 1 0, .ldrop false 1 0, .lread 1 2 false 1 0, .lwalk 1 false 1 0, .lkeep 1 false 1 0, .mcinit 1 2 false 1,
    .mcdep 1 2 false 1 0, .mcget 1 2 false 1, .tspawn 1 false 1, .gload 1 2 false 1 0, .vtab 1 2 false 1] : List Instr),
    i.wf = false := by decide
theorem test_wf_verbs : (Instr.vcall 1 7).wf = false ∧ (Instr.vinv 1 7).wf = false := by decide

/-! ### Words of the spec's own programs, and the instructions they stand for -/

/-- The bundle of one operation, or several, without CAIRN. -/
def ops (len : Nat) (l : List (Fin 8 × Instr)) : Except Reject Bundle := .ok ⟨false, len, l⟩

/-- The decode step, first version: t=0, 1, 4, 5, 7, 9. -/
theorem test_decode_scalar : decodeBundle [0x80000000, 0x02302080] = ops 2 [(0, .mul 12 2 2 0 false false)] ∧
    decodeBundle [0xC0000000, 0x222C1001, 0x54040000] = ops 3 [(0, .addi 11 1 1), (1, .viota 1 0 false)] ∧
    decodeBundle [0x80100020, 0x2A3C0000] = ops 2 [(0, .movi 15 0x20000)] ∧
    decodeBundle [0xC0000000, 0x6A2C4000, 0x7104F000] = ops 3 [(0, .stD 11 4 0 0), (1, .vst 1 15 0 0)] ∧
    decodeBundle [0x80000000, 0x6A404010] = ops 2 [(0, .stD 16 4 1 0)] ∧
    decodeBundle [0x80000000, 0x88000000] = ops 2 [(0, .halt 0 false)] := ⟨rfl, rfl, rfl, rfl, rfl, rfl⟩

/-- The second to fourth versions: POPC, CTZ, LOOP; conversions, broadcasts, the projection body, the vector maximum; BFX.U. -/
theorem test_decode_vector : decodeBundle [0x80000000, 0x1344B000] = ops 2 [(0, .popc 17 11 0 false false)] ∧
    decodeBundle [0x80000000, 0x85013006] = ops 2 [(0, .loop 19 6)] ∧
    decodeBundle [0xE0000000, 0x22586000, 0x40081008, 0x520C2000] = ops 4 [(0, .addi 22 6 0), (1, .vcvt 2 1 0 0 8), (2, .vbcast 3 2 0 false)] ∧
    decodeBundle [0xC0000000, 0x27596020, 0x03142100] = ops 3 [(0, .shri 22 22 32), (1, .vfma 5 2 4 0 false)] ∧
    decodeBundle [0x60000000, 0x61185000, 0x401C5020] = ops 3 [(1, .vredmax 6 5 0 false false), (2, .vcvt 7 5 0 2 0)] ∧
    decodeBundle [0x40000000, 0x53606000] = ops 2 [(1, .vextr 24 6 0)] ∧
    decodeBundle [0xC8000000, 0x1B688BC0, 0x52116000, 0x00000654] =
      ops 4 [(0, .bfxU 26 8 0 47), (1, .vbcast 4 22 0 false), (4, .cpset 0 25 20)] := ⟨rfl, rfl, rfl, rfl, rfl, rfl, rfl⟩

/-- Copies, banks and the array: CPSET, RINIT, CPY, ACALLOC, MRING, MTILE.OVR, VLDA, ACFREE. -/
theorem test_decode_engines :
    decodeBundle [0x8C000000, 0x26645008, 0x000001C0, 0x07040001] = ops 4 [(0, .shli 25 5 8), (4, .cpset 0 7 0), (5, .rinit 1 1)] ∧
    decodeBundle [0x08000000, 0x01041000] = ops 2 [(4, .cpy 0 1 1 false 0 0 0)] ∧
    decodeBundle [0x08000000, 0x01200800] = ops 2 [(4, .cpy 1 0 0 true 0 0 0)] ∧
    decodeBundle [0x90000000, 0x2A6C0022, 0x08000000] = ops 3 [(0, .movi 27 0x22), (3, .acalloc 0 0 0)] ∧
    decodeBundle [0x90100010, 0x22787000, 0x04003A00] = ops 3 [(0, .addi 30 7 0x10000), (3, .mring 0 29)] ∧
    decodeBundle [0x10000000, 0x01003900] = ops 2 [(3, .mtile 0 0 0 28 true 0 0 false false)] ∧
    decodeBundle [0x60000000, 0x77200000, 0x77240008] = ops 3 [(1, .vlda 8 0 false 0 0), (2, .vlda 9 0 false 1 0)] ∧
    decodeBundle [0x10000000, 0x09000000] = ops 2 [(3, .acfree 0)] := ⟨rfl, rfl, rfl, rfl, rfl, rfl, rfl, rfl⟩

/-- Transforms, ladders and cells: XFILL and an extension, LBIND, LUI, LAPPEND, LREAD, MCINIT, MCDEP, MCGET, LNEW, LFORK, LTRUNC. -/
theorem test_decode_ladders :
    decodeBundle [0x82400000, 0x2A940800, 0x04980440, 0x08020100] = ops 4 [(0, .movi 37 0x08020100), (6, .xfill 38 0 17 0)] ∧
    decodeBundle [0x81100021, 0x2A980000, 0x41023000] = ops 3 [(0, .movi 38 0x21000), (7, .lbind 35 false 0 0)] ∧
    decodeBundle [0x80100002, 0x299650D0] = ops 2 [(0, .lui 37 37 0x20D0)] ∧
    decodeBundle [0x81400000, 0x2AA80800, 0x42025880, 0x3F800000] = ops 4 [(0, .movi 42 0x3F800000), (7, .lappend 37 true 2 0)] ∧
    decodeBundle [0x81100040, 0x22A07000, 0x479E6880] = ops 3 [(0, .addi 40 7 0x40000), (7, .lread 39 38 true 2 0)] ∧
    decodeBundle [0x81100021, 0x2AAC0300, 0x50A68000] = ops 3 [(0, .movi 43 0x21300), (7, .mcinit 41 40 false 0)] ∧
    decodeBundle [0x01000000, 0x519E8880] = ops 2 [(7, .mcdep 39 40 true 2 0)] ∧
    decodeBundle [0x01000000, 0x52AE8880] = ops 2 [(7, .mcget 43 40 true 2)] ∧
    decodeBundle [0x01000000, 0x40001840] = ops 2 [(7, .lnew 0 1 true 1 0)] ∧
    decodeBundle [0x81000000, 0x2A380002, 0x44000841] = ops 3 [(0, .movi 14 2), (7, .lfork 0 true 1 1)] ∧
    decodeBundle [0x01000000, 0x4500F8C1] = ops 2 [(7, .ltrunc 15 true 3 1)] := ⟨rfl, rfl, rfl, rfl, rfl, rfl, rfl, rfl, rfl, rfl, rfl⟩

/-- Flags, fences, work and tasks, traps and replays, branches and landing loads. -/
theorem test_decode_system : decodeBundle [0x01000000, 0x1802DB40] = ops 2 [(7, .fladd 45 45 0)] ∧
    decodeBundle [0x01000000, 0x1ABAD000] = ops 2 [(7, .flwait 46 45 0 0)] ∧
    decodeBundle [0x01000000, 0x11000401] = ops 2 [(7, .fencex 0 16 1)] ∧
    decodeBundle [0x011E0020, 0x1D000000] = ops 2 [(7, .wnext 0 0 32)] ∧
    decodeBundle [0x81000000, 0x2AC00001, 0x615D4041] = ops 3 [(0, .movi 48 1), (7, .tbegin 23 20 1 true)] ∧
    decodeBundle [0x01000000, 0x6501A008] = ops 2 [(7, .vcall 26 8)] ∧
    decodeBundle [0x81000000, 0x7842FC00, 0x66030001] = ops 3 [(0, .redAdd true 0 47 48), (7, .vinv 48 1)] ∧
    decodeBundle [0x80000000, 0x8010000C] = ops 2 [(0, .br 1 false 12)] ∧
    decodeBundle [0x80000000, 0x82015000] = ops 2 [(0, .jmpr 21 0 false)] ∧
    decodeBundle [0x80100001, 0x6C554000] = ops 2 [(0, .ldlWz 21 20 0 1 0)] ∧
    decodeBundle [0x80000000, 0x7E382008] = ops 2 [(0, .spart 14 2 8)] ∧
    decodeBundle [0x88000000, 0xA1014010, 0x00200154] = ops 3 [(0, .csrw 0 20 0x010), (4, .cpset 1 5 20)] ∧
    decodeBundle [0x80000000, 0xA4000040] = ops 2 [(0, .rlandSet 0 0 false)] ∧
    decodeBundle [0x80000000, 0x87000000] = ops 2 [(0, .eret 0 false)] ∧
    decodeBundle [0x80000000, 0xA0480020] = ops 2 [(0, .csrr 18 0x020)] :=
  ⟨rfl, rfl, rfl, rfl, rfl, rfl, rfl, rfl, rfl, rfl, rfl, rfl, rfl, rfl, rfl⟩
/-! ### Small states -/

/-- The state after reset, but for context 0 and core 0. -/
def small (f : Ctx → Ctx) (g : Core → Core) : State := modCore (modCtx State.reset 0 f) 0 g

/-- The same with only the registers of context 0 changed. -/
def regs (f : Arch → Arch) : State := small (fun c => { c with arch := f c.arch }) id

/-- A result in flight. -/
def aFlight (due seq : Nat) (act : Landing) (ready : Bool) : Flight := ⟨due, seq, true, act, 0, 0, ready, seq, none, false⟩

/-- Room for one more result, the operands at their corners: s1 the most negative number, s2 minus one. -/
def nearlyFull : State := small (fun c => { c with
  flight := (List.range 31).map fun i => aFlight (100 + i) i (.sreg 5 0) true,
  arch := { c.arch with s := (c.arch.s.set 1 0x8000000000000000).set 2 0xFFFFFFFFFFFFFFFF } }) id

/-- No room left. -/
def full : State := small (fun c => { c with flight := (List.range 32).map fun i => aFlight (100 + i) i (.sreg 5 0) true }) id

/-! ### Witnesses: scalar results -/

theorem witness_IntegerResults : Alone 1 nearlyFull ∧ guarded (curArch nearlyFull) 0 false = true ∧
    guarded (curArch nearlyFull) 1 true = true := by unfold Alone; decide +kernel

theorem witness_ImmediateResults : Alone 1 nearlyFull ∧ (63 : Fin 64).val + (0 : Fin 64).val < 64 ∧
    (0 : Fin 64).val + (63 : Fin 64).val < 64 := by unfold Alone; decide +kernel

theorem witness_PredicateResults_on : Alone 1 nearlyFull ∧ guarded (curArch nearlyFull) 15 true = true := by
  unfold Alone; decide +kernel

theorem witness_PredicateResults_off : Alone 0 full ∧ guarded (curArch full) 0 true = false ∧
    guarded (curArch full) 15 false = false := by unfold Alone; decide +kernel

theorem witness_ScalarFloatResults : Alone 1 nearlyFull ∧ guarded (curArch nearlyFull) 0 false = true ∧ (1 : Nat) ≠ 0 ∧
    convert 0 8 true .rtz false 0x4F000000 = convert 0 8 true .rtz false 0x4F000000 := by
  unfold Alone; decide +kernel

/-! ### Control flow and exceptions -/

theorem witness_Transfers_issue : Alone 1 nearlyFull ∧ guarded (curArch nearlyFull) 0 false = true ∧
    (curArch nearlyFull).xfer = none ∧ lastThree nearlyFull = false := by unfold Alone; decide +kernel

/-- A transfer pending with `n` delay bundles to come. -/
def pendingXfer (n : Nat) : State := regs fun a => { a with xfer := some ⟨0x10, n, 4⟩ }

theorem witness_Transfers_next : State.reset.flow = .issued ∧ (curArch State.reset).xfer = none ∧
    (pendingXfer 2).flow = .issued ∧ (curArch (pendingXfer 2)).xfer = some ⟨0x10, 2, 4⟩ ∧
    (curArch (pendingXfer 1)).xfer = some ⟨0x10, 1, 4⟩ := by decide +kernel

/-- Three open loops, the innermost ending at the bundle after LOOP's body. -/
def threeLoops : State := regs fun a => { a with loops := [⟨0, 9, 1⟩, ⟨0, 9, 2⟩, ⟨0, 20, 3⟩] }

theorem witness_Loops_issue : Alone 0 threeLoops ∧ (curArch threeLoops).xfer = none ∧ (curArch threeLoops).loops.length < 4 ∧
    (∀ l ∈ (curArch threeLoops).loops.head?, (nextBundle threeLoops + (8 : BitVec 32).setWidth 64).toNat ≤ l.stop.toNat) := by
  unfold Alone; decide +kernel

/-- Four open loops. -/
def fourLoops : State := regs fun a => { a with loops := [⟨0, 9, 1⟩, ⟨0, 9, 2⟩, ⟨0, 20, 3⟩, ⟨0, 20, 3⟩] }

theorem witness_Loops_faults : Alone 0 fourLoops ∧ (curArch fourLoops).xfer = none ∧ 4 ≤ (curArch fourLoops).loops.length ∧
    (∃ l r, (curArch threeLoops).loops = l :: r ∧ l.stop.toNat < (nextBundle threeLoops + (9 : BitVec 32).setWidth 64).toNat) :=
  ⟨by unfold Alone; decide +kernel, by decide +kernel, by decide +kernel, _, _, rfl, by decide +kernel⟩

theorem witness_Transfers_loop3 : Alone 1 fourLoops ∧ guarded (curArch fourLoops) 0 false = true ∧
    lastThree (regs fun a => { a with loops := [⟨0, 1, 1⟩] }) = true ∧
    (curArch (regs fun a => { a with loops := [⟨0, 1, 1⟩] })).xfer = none := by unfold Alone; decide +kernel

theorem witness_Loops_passes : (0 : Nat) < (1 : BitVec 32).toNat ∧ 0 + 1 = (1 : BitVec 32).toNat ∧
    (0xFFFFFFFE : Nat) + 1 = (0xFFFFFFFF : BitVec 32).toNat ∧ (0 : Nat) + 1 < (2 : BitVec 32).toNat ∧ (1 : Word) ≠ 0 := by decide

/-- Traps enabled, with a handler at index 64. -/
def trapping : State := regs fun a => { a with tvec := 0x100000040 }

/-- A job running on core 0, traps as the register says, in handler mode or not. -/
def oneJob (tvec : Word) (hm : Bool) : State :=
  { modCore (regs fun a => { a with tvec := tvec, hm := hm }) 0 (fun x => { x with job := some 1 }) with jobs := [placedJob] }

theorem witness_TrapEntry_trap : Alone 0 trapping ∧ (curArch trapping).xfer = none ∧
    (curArch trapping).tvec.getLsbD 32 = true ∧ (curArch trapping).hm = false := by unfold Alone; decide +kernel

theorem witness_TrapEntry_ends : (curArch (oneJob 0 false)).tvec.getLsbD 32 = false ∧
    findJob (oneJob 0 false) (jobOf (oneJob 0 false) 0) = some placedJob ∧ placedJob.phase = .running ∧
    (curArch (oneJob 0x100000040 true)).hm = true ∧
    findJob (oneJob 0x100000040 true) (jobOf (oneJob 0x100000040 true) 0) = some placedJob := by decide +kernel

theorem witness_TrapEntry_delay : (pendingXfer 1).phase = .whole ∧ (curArch (pendingXfer 1)).xfer ≠ none := by decide +kernel

/-- A handler that runs, with its transfer set aside or not. -/
def handling (x : Option Transfer) : State := regs fun a => { a with hm := true, tbun := 7, xfer := x }

theorem witness_TrapReturn : Alone 0 (handling none) ∧ guarded (curArch (handling none)) 0 false = true ∧
    (curArch (handling none)).xfer = none ∧ (curArch (handling none)).hm = true ∧
    Alone 0 (handling (some ⟨3, 1, 0⟩)) ∧ (curArch (handling (some ⟨3, 1, 0⟩))).xfer ≠ none ∧
    (curArch State.reset).hm = false := by unfold Alone; decide +kernel

theorem witness_PlainControl : Alone 0 full ∧ guarded (curArch full) 0 false = true ∧ nothingInFlight full full.cur = false ∧
    nothingInFlight State.reset State.reset.cur = true ∧ (curCore State.reset).rolling = none := by
  unfold Alone; decide +kernel

/-! ### CSRs and the handler -/

theorem witness_SchedReadsClock : Alone 1 nearlyFull := by unfold Alone; decide +kernel

theorem witness_CsrAccess : Alone 1 nearlyFull ∧ handlerCsr 0x010 = false ∧ handlerCsr 0x016 = true ∧
    Alone 1 (handling none) ∧ (curArch (handling none)).hm = true ∧
    (0x040 ≤ (0x040 : BitVec 12).toNat ∧ (0x04F : BitVec 12).toNat < 0x050) ∧
    (0x050 ≤ (0x050 : BitVec 12).toNat ∧ (0x05F : BitVec 12).toNat < 0x060) ∧ 0x060 ≤ (0xFFF : BitVec 12).toNat := by
  unfold Alone; decide +kernel

/-- A handler entered for the landing fault of a load. -/
def loadFaulted (cause : Word) : State :=
  small (fun c => { c with arch := { c.arch with hm := true, tcause := cause },
                           hidden := some ⟨.load ⟨0x40, 8, false⟩, .sreg 3 0, 0, 5⟩ }) id

theorem witness_HandlerInstructions_replay : Alone 1 (loadFaulted 0x18) ∧
    guarded (curArch (loadFaulted 0x18)) 0 false = true ∧ (curArch (loadFaulted 0x18)).hm = true ∧
    (curCtx (loadFaulted 0x18)).hidden = some ⟨.load ⟨0x40, 8, false⟩, .sreg 3 0, 0, 5⟩ ∧
    0x18 ≤ (curArch (loadFaulted 0x18)).tcause.toNat % 2 ^ 16 ∧ (curArch (loadFaulted 0x5001C)).tcause.toNat % 2 ^ 16 ≤ 0x1C ∧
    Alone 1 (loadFaulted 0x5001C) := by unfold Alone; decide +kernel

theorem witness_HandlerInstructions_priv : Alone 1 nearlyFull ∧ (curArch nearlyFull).hm = false ∧
    0x011 ≤ (0x011 : BitVec 12).toNat ∧ (0x016 : BitVec 12).toNat ≤ 0x016 ∧ (curArch nearlyFull).xfer = none ∧
    guarded (curArch nearlyFull) 0 false = true ∧ (curCtx (handling none)).hidden = none := by unfold Alone; decide +kernel
/-! ### Issue and landing -/

theorem witness_SlotIssue : (encode (.nop false)).isSome = true ∧ (encode (.wrot 0 0)).isSome = true ∧
    State.reset.phase = .whole ∧ (atSlot 0 0 .check 1 State.reset).phase = .check ∧
    (atSlot 0 0 .effect 7 State.reset).phase = .effect ∧
    bundleFault full [regProbe [] 1 full] = some (mkFault 0x07 32 none 0 0 0) ∧
    bundleFault nearlyFull [regProbe [] 1 nearlyFull] = none ∧ waitsMet State.reset 0 [] [] [] = true ∧
    waitsMet State.reset 0 [] [] [.ringFill 0 1] = false := by decide +kernel

/-- Two additions that write one register. -/
def twoWriters : Bundle := ⟨false, 3, [(0, .add 5 1 2 0 false false), (1, .add 5 3 4 0 false false)]⟩

theorem witness_BundleFaultsFirst : 2 ≤ twoWriters.ops.length ∧ (∀ q ∈ twoWriters.ops, (encode q.2).isSome = true) ∧
    bundleFault { State.reset with cur := 0 } (probesOf State.reset 0 twoWriters.ops) = some (mkFault 0x04 5 none 0 0 0) := by
  decide +kernel

/-- A context that runs with its clock at 9: two results for s5 are due, the later issued first in line; one is not. -/
def landing (ready : Bool) : State := small (fun c => { c with
  run := .started, arch := { c.arch with sched := 9 },
  flight := [aFlight 9 7 (.sreg 5 2) ready, aFlight 8 3 (.sreg 5 1) true, aFlight 10 4 (.sreg 6 3) true] }) id

theorem witness_LandingOrder : (ctxAt (landing true) 0).run = .started ∧ (ctxAt (landing true) 0).xops = [] ∧
    (coreAt (landing true) (coreOf 0)).rolling = none ∧
    (ctxAt (landing true) 0).flight.Pairwise (fun f g => f.seq ≠ g.seq) ∧
    (∀ f ∈ (ctxAt (landing true) 0).flight, f.due ≤ (ctxAt (landing true) 0).arch.sched.toNat →
      f.ready = true ∧ f.fault = none ∧ (f.act = .sreg 5 1 ∨ f.act = .sreg 5 2)) := by decide +kernel

theorem witness_LandingOrder_waits : (ctxAt nearlyFull 0).xops = [] ∧
    (∀ f ∈ (ctxAt nearlyFull 0).flight, (ctxAt nearlyFull 0).arch.sched.toNat < f.due) ∧
    aFlight 9 7 (.sreg 5 2) false ∈ (ctxAt (landing false) 0).flight ∧ (9 : Nat) ≤ (ctxAt (landing false) 0).arch.sched.toNat := by
  decide +kernel

/-- Results of each kind are due, one of them a CSR other than the flags', with flags; one is not due. -/
def landingAll : State := small (fun c => { c with
  run := .started, arch := { c.arch with sched := 9 },
  flight := [{ aFlight 9 7 (.vreg 5 3 1) true with flags := 1, aflags := 2 }, aFlight 8 3 (.preg 5 true) true, aFlight 9 2 (.mreg 5 3 1) true,
    aFlight 9 8 (.wreg 5 7 (some (3, 0))) true, aFlight 7 9 (.csr 0x010 5 0 true) true, aFlight 9 10 (.frame 1 2 5 true) true,
    aFlight 10 4 (.sreg 6 3) true] }) id

theorem witness_LandingOrder_kinds : (ctxAt landingAll 0).run = .started ∧ (ctxAt landingAll 0).xops = [] ∧
    (coreAt landingAll (coreOf 0)).rolling = none ∧ (ctxAt landingAll 0).arch.sched = 9 ∧
    (∀ f ∈ (ctxAt landingAll 0).flight, f.due ≤ (ctxAt landingAll 0).arch.sched.toNat → f.ready = true ∧ f.fault = none ∧
      (match f.act with
        | .rowStore _ _ _ _ _ => false
        | .zeroBands _ _ => false
        | .matrix _ => false
        | .fence _ _ _ _ => false
        | .csr i _ _ _ => i != 0x020 && i != 0x021
        | _ => true) = true) := by decide +kernel

/-! ### Scalar memory -/

/-- s1 to s4 hold the highest aligned addresses of 1, 2, 4 and 8 bytes of the scratchpad, s5 that of a row, s6 an odd address, s7
its end. -/
def edges : State := regs fun a => { a with
  s := (((((((a.s.set 1 0x5FFFF).set 2 0x5FFFE).set 3 0x5FFFC).set 4 0x5FFF8).set 5 0x5FF00).set 6 0x5FFFD).set 7 0x60000) }

theorem witness_ScratchpadLoads : Alone 1 edges ∧ memAddr edges 4 0 8 = 0x5FFF8 ∧ 0x5FFF8 + 8 ≤ 0x60000 ∧ 0x5FFF8 % 8 = 0 ∧
    memAddr edges 3 0 4 = 0x5FFFC ∧ memAddr edges 2 0 2 = 0x5FFFE ∧ memAddr edges 1 0 1 = 0x5FFFF ∧
    badAt edges (spadKey 0 0x5FFF8) 8 = false := by unfold Alone; decide +kernel

/-- A core with nothing outstanding or buffered touches nothing. -/
theorem untouched_idle {s : State} (h0 : (curCore s).work = []) (h1 : (curCore s).buf = []) (off n : Nat) : Untouched s off n := by
  simp only [curCore] at h0 h1
  simp [Untouched, earlierDone, h0, h1]

/-- A core with nothing outstanding, buffered or claimed, and no X operation under way, may be stored to. -/
theorem storable_idle {s : State} (h0 : (curCore s).work = []) (h1 : (curCore s).buf = []) (h2 : (curCore s).array = none)
    (h3 : (curCtx s).xops = []) (off n : Nat) : Storable s off n :=
  ⟨untouched_idle h0 h1 off n, by simp [claimedTiles, h2, meets], by simp [pendingSource, h3]⟩

theorem storable_edges (off n : Nat) : Storable edges off n :=
  storable_idle (by decide +kernel) (by decide +kernel) (by decide +kernel) (by decide +kernel) off n

theorem witness_ScratchpadLoads_untouched : Untouched edges 0x5FFF8 8 ∧ Untouched edges 0x5FFFF 1 :=
  ⟨(storable_edges _ _).1, (storable_edges _ _).1⟩

/-- The scratchpad's last word is in error. -/
def edgesBad : State := { edges with bad := [spadKey 0 0x5FFF8] }

theorem witness_ScratchpadLoads_bad : Alone 1 edgesBad ∧ memAddr edgesBad 4 0 8 = 0x5FFF8 ∧ memAddr edgesBad 1 0 1 = 0x5FFFF ∧
    badAt edgesBad (spadKey 0 0x5FFF8) 8 = true ∧ badAt edgesBad (spadKey 0 0x5FFFF) 1 = true ∧
    badParts edgesBad (spadKey 0 0x5FFFF) 1 = [spadKey 0 0x5FFF8] ∧ badParts edgesBad (spadKey 0 0x5FFF8) 8 = [] ∧
    Untouched edgesBad 0x5FFF8 8 ∧ Storable edgesBad 0x5FFFF 1 := by
  unfold Alone Untouched Storable Untouched; decide +kernel

theorem witness_ScratchpadLoads_outside : Alone 1 edges ∧ 0x60000 < (memAddr edges 7 0 1).toNat + 1 ∧
    (memAddr edges 6 0 8).toNat % 8 ≠ 0 ∧ 0x60000 < (memAddr edges 6 0 4).toNat + 4 := by unfold Alone; decide +kernel

/-- Tiles claimed from row 0 on, and an X operation whose next chunk comes from 0x400 on. -/
def busyPad : State := small
  (fun c => { c with xops := [⟨.zvc, 0, 6, 0, 0, 2, 0x1000, 0x300, 0, 0, 0, 0, Vector.replicate 16 0, Frame.reset, Frame.reset, 0, 1, 0, 0, 0, [], none, false⟩] })
  (fun x => { x with array := some (32, [(0, 0), (1, 0)]), o := x.o.set 0 ⟨1, 1, 0, 2, 0, 1⟩ })

theorem witness_ScratchpadLoads_busy : Alone 1 busyPad ∧ pendingSource busyPad 0x400 8 = some 0x400 ∧
    pendingSource busyPad 0xF8 8 = none ∧ meets (claimedTiles (curCore busyPad)) 0xF8 8 = true ∧
    (0xF8 + 8 ≤ 0x60000 ∧ 0xF8 % 8 = 0) := by unfold Alone; decide +kernel

/-- A copy of the context still has to write the last word of the scratchpad. -/
def busyWord : State := small (fun c => { c with arch := curArch edges }) fun x => { x with
  work := [{ seq := 0, ctx := 0, job := 0, bun := 0, slot := 4, opc := 0, dreg := 0, dist := 0, path := 1, cls := 0, ring := none, inc := 0,
             kind := .copy ⟨1, Pattern.reset, false, none, 0⟩, foot := [(spadKey 0 0x5FFC0, spadKey 0 0x60000)], performed := false, done := false,
             fail := none, failSub := 0, handler := false, hostStatus := none, heldSince := none, hostStage := 0, acks := 0, tags := [],
             seen := [] }] }

theorem witness_ScratchpadLoads_waits : Alone 1 busyWord ∧ Alone 0 busyWord ∧ memAddr busyWord 4 0 8 = 0x5FFF8 ∧
    ¬ Untouched busyWord 0x5FFF8 8 ∧ ¬ Untouched busyWord 0x5FF00 256 ∧ memAddr busyWord 5 0 256 = 0x5FF00 ∧
    meets (claimedTiles (curCore busyWord)) 0x5FF00 256 = false ∧ pendingSource busyWord 0x5FF00 256 = none := by
  unfold Alone Untouched; decide +kernel

theorem witness_ScratchpadStores : Alone 0 edges ∧ memAddr edges 4 0 8 = 0x5FFF8 ∧ memAddr edges 1 0 1 = 0x5FFFF ∧
    Storable edges 0x5FFF8 8 ∧ Storable edges 0x5FFFF 1 :=
  ⟨by unfold Alone; decide +kernel, by decide +kernel, by decide +kernel, storable_edges _ _,
    storable_edges _ _⟩

/-- Global and local addresses at the edges of what landing loads reach: the last words of global memory, of a scratchpad and of
a window; the first word beyond. -/
def reach : State := regs fun a => { a with
  s := ((((a.s.set 1 0xFFFFFFFFFFF8).set 2 0xF001000000060000).set 3 0xF005000000005FF8).set 4 0xF2FF000000FFFFF8).set 5 0x1000000000000 }

theorem witness_LandingLoadsIssue : Alone 1 reach ∧ (lndAddr reach 1 0 8).toNat < 2 ^ 48 ∧
    ((lndAddr reach 3 0 8).toNat / 2 ^ 56 = 0xF0 ∧ (lndAddr reach 3 0 8).toNat % 2 ^ 48 + 8 ≤ 0x60000) ∧
    ((lndAddr reach 4 0 8).toNat / 2 ^ 56 = 0xF2 ∧ (lndAddr reach 4 0 8).toNat % 2 ^ 48 + 8 ≤ 0x1000000) ∧
    (lndAddr reach 1 0 8).toNat % 8 = 0 ∧ (lndAddr reach 3 0 8).toNat % 8 = 0 ∧ (lndAddr reach 4 0 8).toNat % 8 = 0 := by
  unfold Alone; decide +kernel

theorem witness_LandingLoadsIssue_faults : 0x60000 < (lndAddr reach 2 0 8).toNat % 2 ^ 48 + 8 ∧
    2 ^ 48 ≤ (lndAddr reach 5 0 8).toNat ∧ (lndAddr reach 5 0 8).toNat / 2 ^ 56 = 0 ∧ (lndAddr reach 1 0 256).toNat % 256 ≠ 0 := by
  decide +kernel

/-- s1 + s2 reaches exactly the end of global addresses, s1 + s3 one byte more; s4 and s5 name the last slice and the one after
it. -/
def ranges : State := regs fun a => { a with
  s := ((((a.s.set 1 0xFFFFFFFFFF00).set 2 0x100).set 3 0x101).set 4 255).set 5 256 }

theorem witness_RangeAndSliceRequests : Alone 1 ranges ∧ guarded (curArch ranges) 0 false = true ∧
    (rS (curArch ranges) 1).toNat < 2 ^ 48 ∧ (rS (curArch ranges) 1).toNat + (rS (curArch ranges) 2).toNat ≤ 2 ^ 48 ∧
    2 ^ 48 < (rS (curArch ranges) 1).toNat + (rS (curArch ranges) 3).toNat ∧ (rS (curArch ranges) 4).toNat ≤ 255 ∧
    255 < (rS (curArch ranges) 5).toNat := by unfold Alone; decide +kernel

/-- `n` places in the return queue, the first with the given value. -/
def queued (n : Nat) (v : Option Word) : State := small (fun c => { c with
  amoq := List.replicate n ⟨2, true, v, none⟩,
  arch := { c.arch with s := (c.arch.s.set 1 0xFFFFFFFFFFF8).set 2 0x1000000000000 } }) id

theorem witness_Atomics : Alone 0 (queued 15 none) ∧ (rS (curArch (queued 15 none)) 1).toNat < 2 ^ 48 ∧
    (rS (curArch (queued 15 none)) 1).toNat % 8 = 0 ∧ (curCtx (queued 15 none)).amoq.length < 16 ∧
    (curCore (queued 15 none)).l1 = [] ∧ 16 ≤ (curCtx (queued 16 none)).amoq.length ∧ Alone 0 (queued 16 none) ∧
    2 ^ 48 ≤ (rS (curArch (queued 15 none)) 2).toNat := by unfold Alone; decide +kernel

theorem witness_Atomics_pop : Alone 1 (queued 1 (some 5)) ∧ guarded (curArch (queued 1 (some 5))) 0 false = true ∧
    (curCtx (queued 1 (some 5))).amoq = ⟨2, true, some 5, none⟩ :: [] ∧ (curCtx (queued 1 none)).amoq = ⟨2, true, none, none⟩ :: [] ∧
    Alone 1 State.reset ∧ (curCtx State.reset).amoq = [] := by unfold Alone; decide +kernel
/-! ### Outstanding work -/

/-- A piece of outstanding work of context 0 and job 1. -/
def aWork (q : Nat) (path : Fin 6) (kind : WorkKind) (foot : List (Nat × Nat)) : Work :=
  { seq := q, ctx := 0, job := 1, bun := 0, slot := 4, opc := 0, dreg := 0, dist := 0, path, cls := 0, ring := none, inc := 0,
    kind, foot, performed := false, done := false, fail := none, failSub := 0, handler := false, hostStatus := none,
    heldSince := none, hostStage := 0, acks := 0, tags := [], seen := [] }

/-- A job on core 0 whose tables map the first gibibyte of its addresses to itself, writable; some work is outstanding. -/
def working (ws : List Work) (f : Ctx → Ctx) : State :=
  { small (fun c => f { c with run := .started }) (fun x => { x with job := some 1, work := ws }) with
    mem := [(0x2000, 5), (0x10000, 1), (0x10001, 0x10), (0x10002, 1), (0x11000, 0xB)],
    jobs := [{ placedJob with root := 0x10000 }] }

def aCopy (op : BitVec 8) : WorkKind := .copy ⟨op, Pattern.reset, false, none, 0⟩
def aDrain : WorkKind := .drain ⟨0, 0, [], 0, 0, false, 0, Vector.replicate 16 0, Frame.reset, []⟩
def aLadder : WorkKind := .ladder ⟨0x47, Handle.reset, Handle.reset, 0, 0, 0, 0, none, Frame.reset, Frame.reset, Vector.replicate 16 0, false, 0⟩

theorem witness_WorkEvents : ∀ k ∈ ([.load ⟨0x2000, 4, true⟩, .l1op 0 0 true, .spart 255 16, .amo ⟨0x70, 0x2000, false, 1, 0⟩ true,
    .vstg 0x2000 0, .flagw 0 3 63 63 1 true none, aCopy 1, aDrain, aLadder, .spawn 0, .gload 0 0 1, .vtab 0 0] : List WorkKind),
    findWork (working [aWork 5 0 k []] id) 0 5 = some (aWork 5 0 k []) := by decide +kernel

theorem witness_WorkEvents_watchdog : findWork (working [aWork 5 1 (aCopy 4) []] id) 0 5 = some (aWork 5 1 (aCopy 4) []) ∧
    mayPerform (working [aWork 5 1 (aCopy 4) []] id) (aWork 5 1 (aCopy 4) []) = true := by decide +kernel

def firstLoad : Work := aWork 5 0 (.load ⟨0x2000, 8, false⟩) [(0x2000, 0x2008)]
def thenLoad : Work := aWork 6 0 (.load ⟨0x3000, 8, false⟩) [(0x3000, 0x3008)]

theorem witness_AccessOrder : firstLoad ∈ (coreAt (working [firstLoad, thenLoad] id) (coreOf thenLoad.ctx)).work ∧
    isAccess firstLoad = true ∧ firstLoad.ctx = thenLoad.ctx ∧ firstLoad.path = thenLoad.path ∧ firstLoad.cls = thenLoad.cls ∧
    firstLoad.seq < thenLoad.seq ∧ firstLoad.performed = false ∧
    findWork (working [firstLoad, thenLoad] id) (coreOf thenLoad.ctx) thenLoad.seq = some thenLoad := by decide +kernel

def localLoad : Work := aWork 5 0 (.load ⟨0xF00000000005FF00, 256, false⟩) [(0xF00000000005FF00, 0xF000000000060000)]

theorem witness_LoadDataArrives_local : findWork (working [localLoad] id) 0 5 = some localLoad ∧
    mayPerform (working [localLoad] id) localLoad = true ∧ coreOf localLoad.ctx = 0 ∧
    (0xF00000000005FF00 : Word).toNat % 256 = 0 ∧ (0xF00000000005FF00 : Word).toNat = 0xF000000000000000 + 0 * 2 ^ 48 + 0x5FF00 ∧
    0x5FF00 + 256 ≤ 0x60000 ∧ (coreAt (working [localLoad] id) 0).retired = false ∧
    holdsCore (working [localLoad] id) localLoad.job 0 = true ∧ (coreAt (working [localLoad] id) 0).job = some localLoad.job ∧
    (coreAt (working [localLoad] id) 0).buf = [] ∧ badAt (working [localLoad] id) (localKey 0 0 0x5FF00) 256 = false := by
  decide +kernel

theorem witness_LoadDataArrives_global : findWork (working [firstLoad] id) 0 5 = some firstLoad ∧
    mayPerform (working [firstLoad] id) firstLoad = true ∧ coreOf firstLoad.ctx = 0 ∧ (0x2000 : Word).toNat % 8 = 0 ∧
    (let x := xlate { working [firstLoad] id with want := [] } 0 firstLoad.job (0x2000 : Word).toNat false
     x.1.toOption = some 0x2000 ∧ x.2.want = []) ∧ 0x2000 % 8 = 0 ∧
    0x2000 < 2 ^ 47 ∧ (coreAt (working [firstLoad] id) 0).l1 = [] ∧ badAt (working [firstLoad] id) 0x2000 8 = false := by
  decide +kernel

def anAtomic (op : BitVec 8) (wide : Bool) (x : Word) : Work := aWork 5 0 (.amo ⟨op, 0x2000, wide, x, 5⟩ true) [(0x2000, 0x2008)]

theorem witness_AtomicPerforms : ∀ op ∈ ([0x70, 0x71, 0x72, 0x73, 0x74, 0x75, 0x76, 0x77, 0x78, 0x79, 0x7A, 0x7B, 0x7C] : List (BitVec 8)),
    let w := anAtomic op true 0xFFFFFFFFFFFFFFFF
    let s := working [w] fun c => { c with amoq := [⟨5, true, none, none⟩] }
    findWork s 0 5 = some w ∧ mayPerform s w = true ∧ coreOf w.ctx = 0 ∧ (0x2000 : Word).toNat < 2 ^ 48 ∧
    (let x := xlate { s with want := [] } 0 w.job (0x2000 : Word).toNat true
     x.1.toOption = some 0x2000 ∧ x.2.want = [] ∧ badAt (dropL1 putSector x.2 0 0x2000) 0x2000 8 = false) ∧ l1Find (coreAt s 0) 0x2000 = none := by
  decide +kernel

/-- A dirty sector of L1 at the address in s1. -/
def dirtySector : State := modCore (working [] fun c => { c with arch := { c.arch with s := c.arch.s.set 1 0x2000 } }) 0 fun x =>
  { x with l1 := [⟨8, 0, 8, 1, 1, [], Vector.replicate 4 7, 1⟩] }

theorem witness_Atomics_sector : Alone 0 dirtySector ∧ (rS (curArch dirtySector) 1).toNat % 8 = 0 ∧
    (xlate dirtySector (coreOf dirtySector.cur) (jobOf dirtySector dirtySector.cur) 0x2000 false).1.toOption = some 0x2000 ∧
    (curCore dirtySector).l1.filter (fun y => decide (y.line = 0x2000 / 1024)) = [⟨8, 0, 8, 1, 1, [], Vector.replicate 4 7, 1⟩] ∧
    Fin.ofNat 4 (0x2000 / 256) = (0 : Fin 4) ∧
    (⟨8, 0, 8, 1, 1, [], Vector.replicate 4 7, 1⟩ : L1Line).badIn 0 = [] ∧ l1Sector (curCore dirtySector) 0x2000 8 = some (7, false) := by unfold Alone; decide +kernel

theorem test_atomic_drops_sector : memVal (invalidateSector 0x2000 dirtySector).mem 0x2000 256 = 7 ∧
    l1Sector (curCore (invalidateSector 0x2000 dirtySector)) 0x2000 8 = none := by decide +kernel

/-! ### Vectors -/

theorem witness_VectorArithmetic : Alone 1 nearlyFull := by unfold Alone; decide +kernel
theorem witness_VectorMoves : Alone 1 nearlyFull := by unfold Alone; decide +kernel
theorem witness_VectorComparesAndMasks : Alone 1 nearlyFull := by unfold Alone; decide +kernel
theorem witness_VectorReductions : Alone 1 nearlyFull ∧ [(1 : BitVec 32)].length = 2 ^ 0 := by unfold Alone; decide +kernel

theorem witness_VectorConversions_cvt : Alone 1 nearlyFull ∧ (5 : Fin 16).val ≤ 10 ∧ (0 : Fin 16).val ≤ 10 ∧
    64 * ((7 : Fin 8).val + 1) * codeWidth (5 : Fin 16).val ≤ 2048 ∧ codeWidth (0 : Fin 16).val = 32 := by
  unfold Alone; decide +kernel

/-- Scales: SCL0 the least positive normal number, SCL1 below it, SCL2 infinity; SCL3 the greatest finite number; frame 1 of
MXINT8 codes. -/
def scaled : State := regs fun a => { a with
  scl := ((((a.scl.set 0 0x00800000).set 1 0x007FFFFF).set 2 0x7F800000).set 3 0x7F7FFFFF), d := a.d.set 1 ⟨0, 0, 0, false, 7⟩ }

theorem witness_VectorConversions_quantise : Alone 1 scaled ∧ fmtDith (curArch scaled).fmt = false ∧
    0x00800000 ≤ ((curArch scaled).scl[0] : BitVec 32).toNat ∧ ((curArch scaled).scl[3] : BitVec 32).toNat < 0x7F800000 ∧
    64 * ((3 : Fin 8).val + 1) * codeWidth (6 + (1 : Fin 4).val) ≤ 2048 ∧ num32 ((curArch scaled).scl[0]) = .fin false 0x800000 (-149) ∧
    ((curArch scaled).scl[1] : BitVec 32).toNat < 0x00800000 ∧ 0x7F800000 ≤ ((curArch scaled).scl[2] : BitVec 32).toNat := by
  unfold Alone; decide +kernel

theorem witness_VectorConversions_dequantise : Alone 1 scaled ∧ ((curArch scaled).d[0]).cfmt = 0 ∧
    isCodeFormat ((curArch scaled).d[1]).cfmt.toNat = true ∧ ((curArch scaled).d[1]).cfmt.toNat ≠ 6 ∧
    ((curArch scaled).d[1]).cfmt.toNat ≠ 9 := by unfold Alone; decide +kernel

theorem witness_SoftmaxTriple : Alone 3 (small (fun c => { c with flight := (curCtx nearlyFull).flight.take 29 }) id) ∧
    (61 : Fin 64).val < 62 := by unfold Alone; decide +kernel

theorem witness_VectorMemory_rows : Alone 1 edges ∧ memAddr edges 5 0 256 = 0x5FF00 ∧ 0x5FF00 + 256 ≤ 0x60000 ∧
    0x5FF00 % 64 = 0 ∧ badAt edges (spadKey (coreOf edges.cur) 0x5FF00) 256 = false ∧ Untouched edges 0x5FF00 256 ∧
    Storable edges 0x5FF00 256 :=
  ⟨by unfold Alone; decide +kernel, by decide +kernel, by decide, by decide, by decide +kernel, (storable_edges _ _).1,
    storable_edges _ _⟩

/-- Lane 0 alone is on; its strided and indexed address is that of the last word of the scratchpad. -/
def lane0 : State := regs fun a => { a with m := a.m.set 1 1, s := (a.s.set 1 0x5FFFC).set 2 4 }

theorem witness_VectorMemory_lanes : Alone 1 lane0 ∧ (∀ j < 64, (laneMask (curArch lane0) 1 false).getLsbD j = true →
      let x := rS (curArch lane0) 1 + BitVec.ofNat 64 j * rS (curArch lane0) 2
      let y := rS (curArch lane0) 1 + (elem (rV (curArch lane0) 0) 32 j).setWidth 64
      (x.toNat + 4 ≤ 0x60000 ∧ x.toNat % 4 = 0) ∧ (y.toNat + 4 ≤ 0x60000 ∧ y.toNat % 4 = 0) ∧
      badAt lane0 (spadKey 0 x.toNat) 4 = false) ∧
    (laneMask (curArch lane0) 1 false).getLsbD 0 = true := by unfold Alone; decide +kernel

theorem witness_VectorMemory_storable (off : Nat) : Untouched lane0 off 4 ∧ Storable lane0 off 4 :=
  ⟨untouched_idle (by decide +kernel) (by decide +kernel) off 4,
    storable_idle (by decide +kernel) (by decide +kernel) (by decide +kernel) (by decide +kernel) off 4⟩

/-- The same with a copy that still has to write there, or with a word of that code word in error. -/
def lane0Busy : State := { lane0 with cores := busyWord.cores }

theorem witness_VectorMemory_waits : Alone 1 lane0Busy ∧ ¬ Untouched lane0Busy 0x5FFFC 4 ∧ Alone 1 edgesBad ∧
    memAddr edgesBad 5 0 256 = 0x5FF00 ∧ badAt edgesBad (spadKey 0 0x5FF00) 256 = true ∧ Untouched edgesBad 0x5FF00 256 ∧
    badParts edgesBad (spadKey 0 0x5FF00) 256 = [] := by unfold Alone Untouched; decide +kernel

theorem witness_VectorMemory_lane (j : Nat) (h : (laneMask (curArch lane0Busy) 1 false).getLsbD j = true) : j = 0 := by
  have e : laneMask (curArch lane0Busy) 1 false = 1 := by decide +kernel
  rw [e] at h
  rcases Nat.lt_or_ge j 64 with l | l
  · revert h; revert j; decide
  · rw [BitVec.getLsbD_of_ge _ _ l] at h; cases h

theorem witness_VectorMemory_faults : Alone 1 lane0 ∧ (laneMask (curArch lane0) 0 false).getLsbD 1 = true ∧
    0x60000 < (rS (curArch lane0) 1 + BitVec.ofNat 64 1 * rS (curArch lane0) 2).toNat + 4 ∧ Alone 1 edges ∧
    (laneMask (curArch edges) 0 false).getLsbD 0 = true ∧
    0x60000 < (rS (curArch edges) 7 + (elem (rV (curArch edges) 0) 32 0).setWidth 64).toNat + 4 := by unfold Alone; decide +kernel

/-- Frame 1 is of MXINT8 codes and frame 2 of DXB4 ones; codes are dithered. -/
def dithered : State := regs fun a => { a with
  fmt := 0x8000, scl := (a.scl.set 0 0x3F800000).set 1 0x7F800000, d := (a.d.set 1 ⟨0, 0, 0, false, 7⟩).set 2 ⟨5, 1, 2, true, 9⟩ }

theorem witness_VectorConversions_dither : Alone 1 dithered ∧ fmtDith (curArch dithered).fmt = true ∧
    isCodeFormat ((curArch dithered).d[1]).cfmt.toNat = true ∧ ((curArch dithered).d[1]).cfmt.toNat ≠ 6 ∧
    ((curArch dithered).d[1]).cfmt.toNat = 7 ∧ ((curArch dithered).d[2]).cfmt.toNat = 9 ∧
    (2 * (6 : Fin 8).val + 2) * 18 ≤ 256 ∧ (2 * (2 : Fin 8).val + 2) * 34 ≤ 256 ∧ 64 * ((3 : Fin 8).val + 1) * codeWidth 7 ≤ 2048 ∧
    0x00800000 ≤ ((curArch dithered).scl[0] : BitVec 32).toNat ∧ ((curArch dithered).scl[0] : BitVec 32).toNat < 0x7F800000 ∧
    ¬ ((curArch dithered).scl[1] : BitVec 32).toNat < 0x7F800000 := by unfold Alone; decide +kernel

/-- A block of 32 ones scaled by 1: each lies within the largest magnitude, 3, from exponent 126 on, and not from 125 on; a block of
2^200 lies past 254; one of zeros has exponent 0. -/
theorem witness_VectorConversions_blocks : num32 0x3F800000 = .fin false 0x800000 (-23) ∧
    (∀ q ∈ ([(1, 0, 126, 126, 126), (1, 200, 326, 326, 326), (0, 0, 0, 16, 0)] : List (Nat × Int × Int × Int × Int)),
      let within (k : Int) : Prop :=
        let y := min q.2.1 (k - 127 + (-23))
        q.1 * 2 ^ (q.2.1 - y).toNat ≤ 3 * 0x800000 * 2 ^ (k - 127 + (-23) - y).toNat
      let atLeast (k : Int) : Nat := ((List.range 32).filter fun _ => decide (k ≤ q.2.2.1)).length
      (q.1 = 0 → q.2.2.1 = 0) ∧ (q.1 ≠ 0 → within q.2.2.1 ∧ ¬ within (q.2.2.1 - 1)) ∧ 16 ≤ q.2.2.2.1 ∧ q.2.2.1 ≤ q.2.2.2.1 ∧
      (q.2.2.2.1 = 16 ∨ q.2.2.1 = q.2.2.2.1) ∧ atLeast (q.2.2.2.2 + 1) < 16 ∧ 16 ≤ atLeast q.2.2.2.2) ∧ (254 : Int) < 326 ∧ (126 : Int) ≤ 254 := by
  decide +kernel

/-- Lane 0 of v4 is a NaN, lane 1 of v4 and of v7 −∞, every other lane 0. -/
def triple : State := regs fun a => { a with v := (a.v.set 4 0xFF8000007FC00000).set 7 0xFF80000000000000 }

theorem witness_SoftmaxTriple_lanes : let r := curArch triple
    let nm (j : Nat) : BitVec 32 := fpMinMax true (elem (rV r 4) 32 j) (elem (rV r 7) 32 j)
    Alone 3 triple ∧ (4 : Fin 64).val < 62 ∧ (num32 (elem (rV r 4) 32 0)).isNan = true ∧ nm 1 = 0xFF800000 ∧ nm 2 ≠ 0xFF800000 ∧
    ∀ y ∈ ([4, 5, 6, 7, 8] : List (Fin 64)), ∀ j ∈ [1, 2], (num32 (elem (rV r y) 32 j)).isNan = false := by
  unfold Alone; decide +kernel

/-! ### Banks, the matrix unit and drains -/

/-- Banks: 0 float, 1 integer, 2 anchored, all of context 0; 3 unallocated; 4 float, of context 1. FMT names FP16 operands. Rings 0
and 1 hold one tile each of the least size, ring 2 none. -/
def banks (f : Core → Core) (n : Nat) : State := small
  (fun c => { c with arch := { c.arch with fmt := 0x11, s := ((c.arch.s.set 1 0x2F200000).set 2 0x80000000000).set 3 0x81F7F7F } })
  (fun x => f { x with
    e := ((((x.e.set 0 ⟨0, 0, 0, true⟩).set 1 ⟨0, 0, 1, true⟩).set 2 ⟨0, 0x70, 2, true⟩).set 4 ⟨0x5555, 0, 0, true⟩),
    o := ((x.o.set 0 ⟨0, 32, 0, 0, 0, BitVec.ofNat 32 n⟩).set 1 ⟨0, 32, 32, 0, 0, 1⟩) })

theorem witness_BankRows : Alone 1 (banks id 1) ∧ ((curCore (banks id 1)).e[3]).al = false ∧
    (((curCore (banks id 1)).e[0]).al = true ∧ ((curCore (banks id 1)).e[0]).mode = 0) ∧
    (((curCore (banks id 1)).e[1]).al = true ∧ ((curCore (banks id 1)).e[1]).mode = 1) ∧
    (((curCore (banks id 1)).e[2]).al = true ∧ ((curCore (banks id 1)).e[2]).mode = 2) ∧
    badAt (banks id 1) (localKey 1 0 (7 * 0x10000 + 127 * 512)) 512 = false ∧
    (∀ band < 8, ((curCore (banks id 1)).e[0]).own.toNat / 4 ^ band % 4 = (subOf (banks id 1).cur).val) ∧
    (∀ band < 8, ((curCore (banks id 1)).e[4]).own.toNat / 4 ^ band % 4 ≠ (subOf (banks id 1).cur).val) ∧
    ((curCore (banks id 1)).e[4]).al = true ∧ ((curCore (banks id 1)).e[4]).mode = 0 := by unfold Alone; decide +kernel

theorem witness_BankAllocation : Alone 0 (banks id 1) ∧ ((curCore (banks id 1)).e[3]).al = false ∧
    ((curCore (banks id 1)).e[0]).al = true ∧ bankBusy (banks id 1) 0 0 = false ∧ bankBusy nearlyFull 0 0 = false ∧
    bankBusy (banks (fun x => { x with work := [aWork 1 2 aDrain []] }) 1) 0 0 = true ∧ (curCtx (banks id 1)).flight = [] ∧
    ((curCore (banks id 1)).e[1]).mode ≠ 0 := by unfold Alone; decide +kernel

/-- An operand ring over all of the scratchpad: 48 tiles of 32 units from unit 0 on. -/
theorem witness_MatrixSteps_ring : Alone 0 (banks id 1) ∧ (rS (curArch (banks id 1)) 1).toNat = 0x2F200000 ∧ 0x2F200000 < 2 ^ 30 ∧
    256 * (0x2F200000 % 2 ^ 11 + (0x2F200000 / 2 ^ 24 % 64 + 1) * (0x2F200000 / 2 ^ 16 % 256)) = 0x60000 ∧
    0x2F200000 / 2 ^ 11 % 32 = 0 ∧ 0x2F200000 / 2 ^ 16 % 256 ≠ 0 ∧ ((curCore (banks id 1)).o[2]).clm = 0 ∧
    ringCopied (banks id 1) (coreOf (banks id 1).cur) 2 = false ∧ (rS (curArch (banks id 1)) 0).toNat / 2 ^ 16 % 256 = 0 := by
  unfold Alone; decide +kernel

theorem witness_MatrixSteps_step : Alone 1 (banks id 1) ∧ (0 : Fin 8) ≠ 1 ∧ stepDepth (fmtA (curArch (banks id 1)).fmt).toNat = 32 ∧
    stepDepth (fmtB (curArch (banks id 1)).fmt).toNat = 32 ∧ (∀ q : Fin 2, ((curCore (banks id 1)).o[q.val]).tsz ≠ 0 ∧
      128 * lineBytes 1 = 256 * ((curCore (banks id 1)).o[q.val]).tsz.toNat) ∧ ((curCore (banks id 1)).e[0]).al = true ∧
    ((curCore (banks id 1)).e[0]).mode = 0 ∧ (curCore (banks id 1)).buf = [] ∧
    (∀ i < 8, ((curCore (banks id 1)).e[0]).own.toNat / 4 ^ i % 4 = (subOf (banks id 1).cur).val) ∧
    ((curArch (banks id 1)).d[0]).cfmt = 0 ∧ (banks id 1).bad = [] ∧
    (curCore (banks id 1)).array.isNone = true ∧ freeTiles (curCore (banks id 1)).o[0] = 1 ∧ freeTiles (curCore (banks id 1)).o[1] = 1 ∧
    shapeLegal (rS (curArch (banks id 1)) 3) 32 ((curCore (banks id 1)).e[0]) = false ∧
    shapeLegal 0x1F7F7F 32 ((curCore (banks id 1)).e[0]) = true ∧ freeTiles (curCore (banks id 0)).o[0] = 0 := by
  unfold Alone; decide +kernel

theorem witness_MatrixSteps_retire : (coreAt (banks (fun x => { x with array := some (0, [(0, 0), (1, 0)]) }) 1) 0).array =
      some (0, [(0, 0), (1, 0)]) ∧ (banks id 1).cycle = 0 ∧ (0 : Fin 8) ≠ 1 ∧
    (coreAt (banks (fun x => { x with array := some (1, [(0, 0), (1, 0)]) }) 1) 0).array = some (1, [(0, 0), (1, 0)]) := by
  decide +kernel

/-- A `CPYR` of context 0 still has to write bank 0. -/
def bankWaits : State := banks (fun x => { x with work := [aWork 1 1 (aCopy 3) [(localKey 1 0 0, localKey 1 0 256)]] }) 1

theorem witness_BankRows_waits : Alone 1 bankWaits ∧ earlierDone bankWaits 0 (localKey 1 0 0) 0x10000 = false ∧
    earlierDone (banks id 1) 0 (localKey 1 0 0) 0x10000 = true ∧ ((curCore bankWaits).e[0]).al = true ∧
    ((curCore bankWaits).e[0]).mode ≠ 2 ∧ (curCore bankWaits).work.filter isDrain = [] ∧ (fmtO (curArch bankWaits).fmt).toNat ≤ 5 ∧
    badAt { banks id 1 with bad := [localKey 1 0 (127 * 512 + 256)] } (localKey 1 0 (127 * 512 + 256)) 256 = true ∧
    (∀ i < 8, badPart (banks id 1) (localKey 1 0 (7 * 0x10000) + i * 0x2000) 0x2000 = false) := by unfold Alone; decide +kernel

/-- A `VSTA` of context 0 to band 7 of bank 0 is in flight. -/
def bankLands : State := small (fun c => { c with flight := [aFlight 1 0 (.rowStore 0 127 false false 0) true] })
  (fun x => { x with e := x.e.set 0 ⟨0, 0, 0, true⟩ })

theorem witness_BankAllocation_flight : Alone 0 bankLands ∧ badPart bankLands (localKey 1 0 0) 0x10000 = false ∧
    bankBusy bankLands 0 0 = true ∧ ((curCore bankLands).e[0]).al = true ∧ ((curCore bankLands).e[0]).mode = 0 ∧
    (∀ i < 8, (128 : BitVec 8).getLsbD i = true → ((curCore bankLands).e[0]).own.toNat / 4 ^ i % 4 = (subOf bankLands.cur).val) ∧
    (∃ f ∈ (curCtx bankLands).flight, (landingBank f.act).any (fun q => q.1 = 0 && q.2 &&& 128 ≠ 0) = true) := by
  unfold Alone; decide +kernel

/-- Drains of all bands with INC 1 through ring 7; the ring has room for `n`. -/
def draining (n : BitVec 12) : State := small
  (fun c => { c with arch := { c.arch with s := c.arch.s.set 4 0xF000FF, g := c.arch.g.set 7 { Ring.reset with cap := n } } })
  (fun x => { x with e := x.e.set 0 ⟨0, 0, 0, true⟩ })

theorem witness_DrainIssues : ∀ n ∈ ([0, 1] : List (BitVec 12)), Alone 0 (draining n) ∧ (fmtO (curArch (draining n)).fmt).toNat ≤ 5 ∧
    (rS (curArch (draining n)) 4).toNat / 2 ^ 20 % 8 = 7 ∧ (rS (curArch (draining n)) 4).toNat / 2 ^ 23 % 64 = 1 ∧
    ((curArch (draining n)).g[7]).fcode = 0 ∧ (∀ i < 8, (rS (curArch (draining n)) 4).toNat / 2 ^ i % 2 = 1 ∧
      ((curCore (draining n)).e[0]).own.toNat / 4 ^ i % 4 = (subOf (draining n).cur).val) ∧
    (curCore (draining n)).work.filter isDrain = [] ∧ earlierDone (draining n) 0 (localKey 1 0 0) 0x10000 = true ∧
    (((curArch (draining n)).g[7]).rsv - ((curArch (draining n)).g[7]).cons).toNat + 1 ≤ 1 ∧
    ((curArch (draining n)).g[7]).cap = n := by unfold Alone; decide +kernel

/-- The anchored bank of `banks`, with an entry of row 0 that may have wrapped. -/
def wrapped : State := { banks id 1 with mem := [(localKey 1 0 0x20006, 0x80)] }

theorem witness_BankRows_entries : Alone 1 wrapped ∧ ((curCore wrapped).e[2]).al = true ∧ ((curCore wrapped).e[2]).mode = 2 ∧
    earlierDone wrapped 0 (localKey 1 0 0x20000) 0x10000 = true ∧ badAt wrapped (localKey 1 0 0x20000) 512 = false ∧
    memVal wrapped.mem (localKey 1 0 0x20000) 8 / 2 ^ 55 ∉ [0, 511] ∧
    (∀ j < 64, memVal wrapped.mem (localKey 1 0 0x20200 + 8 * j) 8 / 2 ^ 55 ∈ [0, 511]) := by unfold Alone; decide +kernel

theorem witness_MatrixSteps_quiet : let c := curCore (banks id 1)
    let tile (q : Fin 2) : Nat := spadKey 0 (tileOffset c.o[q.val] (((c.o[q.val]).head.toNat + (c.o[q.val]).clm.toNat) % 2 ^ 32))
    (∀ q : Fin 2, earlierDone (banks id 1) (banks id 1).cur (tile q) (128 * lineBytes 1) = true) ∧
    earlierDone (banks id 1) (banks id 1).cur (localKey 1 0 0) 0x10000 = true ∧
    earlierDone bankWaits bankWaits.cur (localKey 1 0 0) 0x10000 = false ∧
    (∀ i < 128, badAt (banks id 1) (localKey 1 0 (1 * 0x10000 + i * 512)) 512 = false) := by decide +kernel

/-- A step of one entry and two FP32 products into a bank of `banks`, from the first bytes of its tiles. -/
def aStep (bank : Fin 8) (a b : List Host.Cell) : StepCmd :=
  ⟨bank, true, 0, 0, Frame.reset, Frame.reset, false, false, 1, 1, 2, 127, 0, Vector.replicate 16 0, a, b, 0, 0⟩

/-- 1 and 1; 1 and −∞; ∞ and −∞; a NaN. -/
def ones : List Host.Cell := [(2, 0x80), (3, 0x3F), (6, 0x80), (7, 0x3F)]
def oneInf : List Host.Cell := [(2, 0x80), (3, 0x3F), (6, 0x80), (7, 0xFF)]
def twoInf : List Host.Cell := [(2, 0x80), (3, 0x7F), (6, 0x80), (7, 0xFF)]
def aNan : List Host.Cell := [(2, 0xC0), (3, 0x7F)]

theorem witness_MatrixSteps_landing : let s := banks id 1
    let grid (c : StepCmd) : Option Int := gridOf ((coreAt s 0).e[2]).anc.toInt (num32 (BitVec.ofNat 32 (toFp32 .rne (stepSum c 0 0)).bits))
    ((coreAt s 0).e[3]).al = false ∧ (∀ e ∈ ([0, 1, 2] : List (Fin 8)), ((coreAt s 0).e[e]).al = true ∧
      (let c := aStep e ones ones
       c.rb + c.rows ≤ 128 ∧ badAt s (localKey 1 0 (c.bank.val * 0x10000 + c.rb * 512)) 8 = false)) ∧
    (([0, 1, 2] : List (Fin 8)).map fun e => ((coreAt s 0).e[e]).mode) = [0, 1, 2] ∧ intPath 0 0 = false ∧
    intPath (aStep 1 [] []).fa.toNat 0 = false ∧ stepSum { aStep 1 [(0, 3)] [(0, 0xFE)] with fa := 7, fb := 7 } 0 0 = .fin true 6 0 ∧
    stepSum { aStep 1 [(0, 3)] [(0, 2)] with fa := 7, fb := 7 } 0 0 = .fin false 6 0 ∧ intPath 7 7 = true ∧
    grid (aStep 2 ones ones) ≠ none ∧ grid (aStep 2 aNan ones) = none := by decide +kernel

theorem witness_MatrixSteps_sums : let p (a b : List Host.Cell) (q : Nat) : Sys2Proof.Machine.Num × Bool × Bool × Bool :=
      let x := tileElem a 0 false (fun _ => 0) 0 q 0
      let y := tileElem b 0 false (fun _ => 0) 0 q 0
      let z := mulNum x.1 y.1
      (z.1, x.2, y.2, z.2)
    (p aNan ones 0).1 = .nan ∧ (p twoInf ones 0).1 = .inf false ∧ (p twoInf ones 1).1 = .inf true ∧
    (∀ q < 2, (p oneInf ones q).1 ≠ .nan ∧ (p oneInf ones q).2 = (false, false, false) ∧ (p oneInf ones q).1 ≠ .inf false) ∧
    (p oneInf ones 1).1 = .inf true ∧ (∀ q < 2, p [] ones q = (.fin false 0 (-172), false, false, false)) ∧
    (∀ q < 2, p ones ones q = (.fin false (2 ^ 46) (-46), false, false, false)) ∧ ((Nat.log2 (2 ^ 46) : Int) + -46 = 0) := by decide +kernel

/-! ### Copies, rings and transforms -/

/-- Pattern 0 copies one block of 4096 bytes from global address 0 to the scratchpad of core 0; pattern 1 has a block of 63. -/
def copying (n : BitVec 12) (code : BitVec 16) (ws : List Work) : State := small
  (fun c => { c with arch := { c.arch with
    a := (c.arch.a.set 0 ⟨((Vector.replicate 24 0).set 1 0xF000000000000000).set 20 4096⟩).set 1 ⟨(Vector.replicate 24 0).set 20 63⟩,
    g := c.arch.g.set 7 { Ring.reset with cap := n, fcode := code } } })
  (fun x => { x with work := ws })

theorem witness_CopyIssue : Alone 0 (copying 1 0 []) ∧ copyFaults 1 0 false 0 0 (copying 1 0 []) = [] ∧
    copyFaults 3 0 false 0 0 (copying 1 0 []) = [] ∧ copyFaults 5 0 false 0 0 (copying 1 0 []) = [] ∧
    ((curArch (copying 1 0 [])).g[7]).fcode = 0 ∧
    (((curArch (copying 1 0 [])).g[7]).rsv - ((curArch (copying 1 0 [])).g[7]).cons).toNat + 1 ≤ ((curArch (copying 1 0 [])).g[7]).cap.toNat ∧
    (curCore (copying 1 0 [])).work = [] ∧ ((curArch (copying 0 0 [])).g[7]).cap.toNat < 1 ∧
    ((curArch (copying 1 0x101 [])).g[7]).fcode ≠ 0 ∧ copyFaults 1 0 false 0 0 (copying 1 0x101 []) = [] ∧
    (patWord ((curArch (copying 1 0 [])).a[1]) 20).toNat % 64 ≠ 0 ∧
    (∀ l < 6, (patWord ((curArch (copying 1 0 [])).a[1]) (2 + l)).toNat < 2 ^ 32) := by unfold Alone; decide +kernel

theorem witness_CopyIssue_full :
    let s := copying 1 0 ((List.range 16).map fun q => aWork q 1 (aCopy 1) [])
    Alone 0 s ∧ copyFaults 1 0 false 0 0 s = [] ∧ 16 ≤ ((curCore s).work.filter fun w => (match w.kind with
      | .copy _ => true
      | _ => false) && w.slot.val == 4 + s.slot.val % 2 && !w.done).length := by unfold Alone; decide +kernel

/-- Ring 0 holds one block; ring 1 has failed. -/
def ringed (ws : List Work) : State := small
  (fun c => { c with arch := { c.arch with
    g := (c.arch.g.set 0 { Ring.reset with cap := 8, fill := 3, rsv := 3, cons := 2 }).set 1 { Ring.reset with fcode := 0x101 } } })
  (fun x => { x with work := ws })

theorem witness_RingOperations : Alone 1 (ringed []) ∧ ((curArch (ringed [])).g[0]).fcode = 0 ∧
    ((1 : BitVec 22).toNat ≤ (((curArch (ringed [])).g[0]).fill - ((curArch (ringed [])).g[0]).cons).toNat) ∧
    ((((curArch (ringed [])).g[0]).fill - ((curArch (ringed [])).g[0]).cons).toNat < (2 : BitVec 22).toNat) ∧
    ((curArch (ringed [])).g[1]).fcode ≠ 0 ∧ (curCore (ringed [])).work = [] ∧ (23 : Fin 64).val < 24 ∧
    (let w := { aWork 4 1 (aCopy 1) [] with ring := some 0 }
     Alone 1 (ringed [w]) ∧ w ∈ (curCore (ringed [w])).work ∧ w.ctx = (ringed [w]).cur ∧ w.ring = some 0) := by
  unfold Alone; decide +kernel

/-- An increment by 5 from context 0 to ring 0 of context 4, whose ring holds it exactly. -/
def incrementing : State :=
  let s := modCtx (modCore State.reset 1 fun x => { x with job := some 1 }) 4 fun c =>
    { c with run := .started, arch := { c.arch with g := c.arch.g.set 0 { Ring.reset with cap := 5 } } }
  { s with dren := [⟨0, 4, 1, 0, 5, 3⟩] }

theorem witness_RingOperations_arrives : incrementing.dren[0]? = some ⟨0, 4, 1, 0, 5, 3⟩ ∧
    drenFirst incrementing ⟨0, 4, 1, 0, 5, 3⟩ = true ∧ (coreAt incrementing (coreOf 4)).retired = false ∧
    (coreAt incrementing (coreOf 4)).job = some 1 ∧ (ctxAt incrementing 4).run = .started ∧ coreOf 0 ≠ coreOf 4 ∧
    (coreAt incrementing (coreOf 0)).work = [] ∧ ((ctxAt incrementing 4).arch.g[0]).fcode = 0 ∧
    (((ctxAt incrementing 4).arch.g[0]).rsv + BitVec.ofNat 32 5 - ((ctxAt incrementing 4).arch.g[0]).cons).toNat ≤
      ((ctxAt incrementing 4).arch.g[0]).cap.toNat := by decide +kernel

/-- Counts of X operations: s1 the greatest, filling all of the scratchpad; s2 beyond; s3 of one transpose, s4 of one conversion. -/
def transforming : State := regs fun a => { a with
  s := ((((a.s.set 1 1536).set 2 1537).set 3 (1 + 64 * 2 ^ 16 + 64 * 2 ^ 36)).set 4 (1 + 64 * 2 ^ 24)).set 5 1 }

theorem witness_Transforms : Alone 1 transforming ∧
    (curCtx transforming).lastX.1 + (curCtx transforming).lastX.2 ≤ (curArch transforming).sched.toNat ∧
    (rS (curArch transforming) 1).toNat ≤ 1536 ∧ (rS (curArch transforming) 0).toNat + 256 * 1536 ≤ 0x60000 ∧
    1536 < (rS (curArch transforming) 2).toNat ∧ xBad .exp 0 0 (rS (curArch transforming) 5) 0 transforming = none ∧
    xBad .exp 0 0 0 0 transforming = none ∧ xBad .trn 0 0 (rS (curArch transforming) 3) 3 transforming = none ∧
    xBad .cvt 0 0 (rS (curArch transforming) 4) 0 transforming = none ∧ (fmtA (curArch transforming).fmt).toNat ≤ 5 ∧
    (fmtO (curArch transforming).fmt).toNat ≤ 5 ∧ xBad .zvc 0 0 (rS (curArch transforming) 5) 0 transforming = none ∧
    xBad .zvc 0 0 0 0 transforming = none ∧ (rS (curArch transforming) 0).toNat = 0 := by unfold Alone; decide +kernel

def beat (kind : XKind) (nland : Nat) (dst : Nat) (width : Fin 4) (fmt : Word) : XOp :=
  ⟨kind, 0, 6, 0, 0, 64, dst, 0, BitVec.ofNat 64 (64 * 2 ^ 36), 0, width, fmt, Vector.replicate 16 0, Frame.reset, Frame.reset, 7, nland + 1,
    nland, 0, 0, [(List.replicate 256 1, 0)], none, false⟩

/-- An operation of which a beat is due. -/
def beating (x : XOp) (sched : Nat) : State := small (fun c => { c with
  run := .started, arch := { c.arch with sched := BitVec.ofNat 64 sched }, xops := [x] }) id

theorem witness_Transforms_beats : ∀ q ∈ ([(beat .fill 63 0x5C000 1 0, 64), (beat .exp 63 0x5C000 1 0, 66), (beat .cvt 63 0x5C000 1 0, 69),
      (beat .zvc 63 0x5FEFC 1 0, 67), (beat .zvc 62 0x5FEFC 1 0, 66), (beat .trn 63 0x5BFC0 1 0, 67), (beat .trn 63 0x57FC0 0 0, 67),
      (beat .trn 62 0x57FC0 0 0, 66)] : List (XOp × Nat)), let s := beating q.1 q.2
    let x := q.1
    (ctxAt s 0).run = .started ∧ (ctxAt s 0).xops = [x] ∧ x.pend = (List.replicate 256 1, 0) :: [] ∧ x.nland < x.nread ∧
    x.nread ≤ x.beats ∧ (coreAt s (coreOf 0)).array = none ∧ s.bad = [] ∧ x.t + x.nland + xLatency x.kind = (ctxAt s 0).arch.sched.toNat ∧
    (ctxAt (beating x 63) 0).arch.sched.toNat < x.t + x.nland + xLatency x.kind := by decide +kernel

theorem witness_Transforms_edges : (List.replicate 256 (1 : Byte)).length = 256 ∧ 0x5C000 + 256 * (63 + 1) = 0x60000 ∧
    cvtChunk (fmtO (beat .cvt 63 0x5C000 1 0).fmt).toNat = 256 ∧ 0x5FEFC + 4 + 0 + 256 = 0x60000 ∧
    (256 / 2 ^ 0) * trnDP (beat .trn 63 0x5BFC0 1 0).counts + 0x5BFC0 + 64 * 2 ^ 0 = 0x60000 ∧
    (63 + 1) * 2 ^ 0 ≤ trnDP (beat .trn 63 0x5BFC0 1 0).counts ∧ 512 * trnDP (beat .trn 63 0 0 0).counts + 0x57FC0 + 64 = 0x60000 ∧
    63 / 2 < trnDP (beat .trn 63 0 0 0).counts := by decide +kernel

/-- The operation before has 64 beats and began at 0. -/
theorem witness_Transforms_order : let s := small (fun c => { c with lastX := (0, 64) }) id
    Alone 1 s ∧ ¬ (curCtx s).lastX.1 + (curCtx s).lastX.2 ≤ (curArch s).sched.toNat ∧
    (∀ k ∈ ([.fill, .exp, .zvc] : List XKind), xBad k 0 0 0 0 s = none ∧ xBad k 0 0 0x10000 0 s = some 0x10000) ∧
    xBad .trn 0 0 (rS (curArch transforming) 3) 3 s = none ∧ xBad .cvt 0 0 (rS (curArch transforming) 4) 0 s = none ∧
    xBad .trn 0 0 0x100000000000000 0 s = some 0x100000000000000 ∧ xBad .cvt 0 0 1 0 s = some 1 ∧ 10 < (fmtA 0xB).toNat := by
  unfold Alone; decide +kernel

/-- FMT names a source and a destination format; SCL0 is 1; s4 counts one chunk of 64 columns. -/
def converting (fa fo : Nat) : State := regs fun a => { a with
  fmt := BitVec.ofNat 64 (fa + fo * 2 ^ 8), scl := a.scl.set 0 0x3F800000, s := a.s.set 4 (1 + 64 * 2 ^ 24) }

theorem witness_Transforms_formats : ∀ q ∈ ([(1, 0), (2, 2), (6, 0), (7, 1), (9, 0), (10, 3), (0, 6), (1, 7), (0, 9), (6, 10), (9, 6)] : List (Nat × Nat)),
    let s := converting q.1 q.2
    Alone 1 s ∧ xBad .cvt 0 0 (rS (curArch s) 4) 0 s = none ∧ (fmtA (curArch s).fmt).toNat = q.1 ∧ (fmtO (curArch s).fmt).toNat = q.2 ∧
    (curCtx s).lastX.1 + (curCtx s).lastX.2 ≤ (curArch s).sched.toNat ∧
    num32 ((curArch s).scl[(rS (curArch s) 4).toNat / 2 ^ 20 % 16]) = .fin false 0x800000 (-23) := by unfold Alone; decide +kernel

theorem witness_Transforms_bad : let x := { beat .fill 63 0x5C000 1 0 with bad := some (63, 0x100) }
    let s := beating x 64
    (ctxAt s 0).run = .started ∧ (ctxAt s 0).xops = [x] ∧ x.pend = (List.replicate 256 1, 0) :: [] ∧ x.nland < x.nread ∧
    x.nread ≤ x.beats ∧ (coreAt s (coreOf 0)).array = none ∧ s.bad = [] ∧ x.t + x.nland + xLatency x.kind = (ctxAt s 0).arch.sched.toNat ∧
    x.bad = some (x.nland, 0x100) := by decide +kernel

/-- The destination is a slot of operand ring 0, which has room for its tile, or none. -/
def slotted (n : BitVec 32) : State := modCore (copying 1 0 []) 0 fun x => { x with o := x.o.set 0 ⟨0, 16, 0, 0, 0, n⟩ }

theorem witness_CopyIssue_ring : Alone 0 (slotted 0) ∧ copyFaults 1 0 true 0 0 (slotted 0) = [] ∧ ((curArch (slotted 0)).g[7]).fcode = 0 ∧
    (dstCores 1 ((curArch (slotted 0)).a[0])).contains (coreOf (slotted 0).cur) = true ∧ ownTiles 1 0 0 (slotted 0) = 1 ∧
    (((curCore (slotted 0)).o[0]).tail - ((curCore (slotted 0)).o[0]).head).toNat + 1 ≤ ((curCore (slotted 0)).o[0]).slm.toNat + 1 := by
  unfold Alone; decide +kernel
theorem witness_CopyIssue_ring_full : Alone 0 (slotted 1) ∧ copyFaults 1 0 true 0 0 (slotted 1) = [] ∧ ownTiles 1 0 0 (slotted 1) = 1 ∧
    ((curCore (slotted 1)).o[0]).slm.toNat + 1 < (((curCore (slotted 1)).o[0]).tail - ((curCore (slotted 1)).o[0]).head).toNat + 1 := by
  unfold Alone; decide +kernel

/-! ### Ordering and synchronisation -/

theorem witness_SettingsLand : Alone 1 nearlyFull := by unfold Alone; decide +kernel

/-- A due fence over one earlier access of path 0 and class 0, which has performed or not. -/
def fencing (cross done : Bool) : State := working [{ firstLoad with performed := done }] fun c => { c with
  flight := [aFlight 0 6 (.fence cross (if cross then 1 else 0) (if cross then 0 else 1) 0) false] }

theorem witness_FencesHold : Alone 1 nearlyFull ∧ ∀ d : Bool, ∀ cross : Bool, ∃ x ∈ (ctxAt (fencing cross d) 0).flight,
    x.due ≤ (ctxAt (fencing cross d) 0).arch.sched.toNat ∧ x.act = .fence cross (if cross then 1 else 0) (if cross then 0 else 1) 0 ∧
    (∃ w ∈ (coreAt (fencing cross d) (coreOf 0)).work, w.ctx = 0 ∧ w.seq < x.seq ∧ w.performed = d ∧ isAccess w = true ∧
      (1 : BitVec 16).getLsbD w.cls.val = true ∧ (1 : BitVec 6).getLsbD w.path.val = true) := by unfold Alone; decide +kernel

/-- A due `FENCEX` of the matrix path while a `VSTA` issued before it is in flight, or with nothing to wait for. -/
def fencedOff (f : BitVec 6) : State := working [] fun c => { c with arch := { c.arch with sched := 6 }
                                                                     flight := [aFlight 9 5 (.rowStore 0 0 false false 0) true, aFlight 6 6 (.fence true f 0 0) false] }

theorem witness_FencesHold_banks : ∀ f ∈ ([4, 3] : List (BitVec 6)), let y := aFlight 9 5 (.rowStore 0 0 false false 0) true
    let x := aFlight 6 6 (.fence true f 0 0) false
    x ∈ (ctxAt (fencedOff f) 0).flight ∧ y ∈ (ctxAt (fencedOff f) 0).flight ∧ isBankWrite y = true ∧ y.seq < x.seq ∧
    (4 : BitVec 6).getLsbD 2 = true ∧ (3 : BitVec 6).getLsbD 2 = false ∧ x.due ≤ (ctxAt (fencedOff f) 0).arch.sched.toNat ∧
    (curCore (fencedOff f)).work = [] ∧ (∀ core : Fin 256, (coreAt (fencedOff f) core).buf = []) := by decide +kernel

theorem witness_DomainBarriers_issue :
    let s (task : Bool) : State := regs fun a => { a with dmemb := 0x1F, task := task }
    Alone 0 (s false) ∧ Alone 0 (s true) ∧ (curCtx (s false)).sync = none ∧ (∀ l < 5, (curArch (s false)).dmemb.getLsbD l = true) ∧
    (curArch (s false)).task = false ∧ (curArch (s true)).task = true ∧ (curArch nearlyFull).dmemb.getLsbD 4 = false ∧
    mustEnter (curCtx (s false)) = false ∧ (curArch (s false)).hm = false := by unfold Alone; decide +kernel

/-- A job of one member of the sentence domain, which stands at its barrier, arrived, or has not come. -/
def meeting (sync : Option (Fin 5 × Bool)) : State :=
  { small (fun c => { c with run := .started, sync := sync }) (fun x => { x with job := some 1 }) with
    jobs := [{ placedJob with recs := [⟨0, 0, 0x8, 0, Vector.replicate 8 0⟩] }] }

theorem witness_DomainBarriers_release : ∀ x ∈ ([none, some (3, true)] : List (Option (Fin 5 × Bool))),
    (findJob (meeting x) 1).map (fun j => members j 3 0) = some [0] ∧ (coreAt (meeting x) (coreOf 0)).job = some 1 ∧
    (ctxAt (meeting x) 0).run = .started ∧ (ctxAt (meeting x) 0).sync = x := by decide +kernel

/-- s1 names core 0 of the job; s2 a core that it does not name; s3 core 0 alone, in stack 0; s4 the value 7. -/
def flagging : State :=
  { working [aWork 5 4 (.flagw 1 0 0 63 7 false none) []] fun c =>
      { c with arch := { c.arch with s := ((c.arch.s.set 2 255).set 3 1).set 4 7 } } with phase := .whole }

theorem witness_FlagOperations : Alone 1 flagging ∧ (rS (curArch flagging) 1).getLsbD 29 = false ∧
    jobNames flagging (jobOf flagging flagging.cur) (Fin.ofNat 256 0) = true ∧
    jobNames flagging (jobOf flagging flagging.cur) (Fin.ofNat 256 255) = false ∧ rS (curArch flagging) 3 ≠ 0 ∧
    (∀ i < 64, (rS (curArch flagging) 3).getLsbD i = true → jobNames flagging (jobOf flagging flagging.cur) (Fin.ofNat 256 i) = true) ∧
    rS (curArch flagging) 0 = 0 ∧ (curCtx flagging).flagSeen = none ∧ flagWord flagging (coreOf flagging.cur) 63 = 0 ∧
    rS (curArch flagging) 4 = 7 := by unfold Alone; decide +kernel

/-- s1 names core 5 of device 0 or 1 by `REM`; its paragraph has one device or two; word 63 of the flag file is in error. -/
def flaggingRem (other two : Bool) : State :=
  { modArch flagging 0 fun a => { a with
      s := ((a.s.set 1 (if other then 0x20010005 else 0x20000005)).set 3 1).set 4 (if other then 0x20010000 else 0x20000000) } with
    psize := if two then 2 else 1
    bad := [localKey 3 0 252] }

theorem witness_FlagOperations_rem : ∀ other two : Bool, let s := flaggingRem other two
    Alone 1 s ∧ targetRem (rS (curArch s) 1) = true ∧ targetRem (rS (curArch s) 4) = true ∧
    ((targetDev (rS (curArch s) 1)).toNat < s.psize.toNat ↔ other = false ∨ two = true) ∧
    (targetDev (rS (curArch s) 1) = s.devid ↔ other = false) ∧
    jobNames s (jobOf s s.cur) (Fin.ofNat 256 5) = false ∧ badAt s (localKey 3 (coreOf s.cur).val 252) 4 = true ∧
    (curCtx s).flagSeen = none := by unfold Alone; decide +kernel

theorem witness_FlagOperations_lost : let w := aWork 5 4 (.flagw 0 0 0 63 7 true none) []
    let s := { working [w] id with bad := [localKey 3 0 252] }
    findWork s 0 5 = some w ∧ mayPerform s w = true ∧ badAt s (localKey 3 0 252) 4 = true ∧ (coreAt s 0).retired = false ∧
    holdsCore s w.job 0 = true ∧ (coreAt s 0).job = some w.job ∧ (findJob s w.job).map (·.phase) = some .running ∧
    badPart (working [w] id) (localKey 3 0 252) 4 = false ∧ badPart s (localKey 3 0 252) 4 = false := by decide +kernel

theorem witness_FlagOperations_arrive : ∀ k ∈ ([.flagw 0 0 0 63 7 true none, .flagw 1 0 0 63 7 false none] : List WorkKind),
    let w := aWork 5 4 k []
    findWork (working [w] id) 0 5 = some w ∧ mayPerform (working [w] id) w = true ∧ coreOf w.ctx = 0 ∧
    (coreAt (working [w] id) 0).retired = false ∧ holdsCore (working [w] id) w.job 0 = true ∧
    (coreAt (working [w] id) 0).job = some w.job ∧ (1 : Word) <<< (0 % 64) = 1 := by decide +kernel

/-! ### Ladders and tasks -/

/-- Handle 3 is bound; ring 0 has room for one command; a task may be open, its hold granted, with room for one image. s1 is the
last aligned place of 64 bytes, s2 a descriptor, s3 a cell, s4 a walk buffer that ends the scratchpad, s5 a prebuilt span of handle
3, s6 levels 0 to 47 of one read. -/
def laddered (task : Bool) : State := regs fun a => { a with
  h := a.h.set 3 ⟨true, 0x200, 0, 0⟩, g := a.g.set 0 { Ring.reset with cap := 1 }, task := task,
  tsk := { a.tsk with usize := 9 },
  s := ((((((a.s.set 1 0x5FFC0).set 2 0x200).set 3 0x400100).set 4 0x5FCE0).set 5 0x4000000000000003).set 6 0x2F00000000) }

def granting (s : State) : State := modCtx s 0 fun c => { c with granted := true }

theorem witness_LadderOperations : ∀ t : Bool, let s := granting (laddered t)
    let r := curArch s
    Alone 1 s ∧ (r.g[0]).fcode = 0 ∧ ((r.g[0]).rsv - (r.g[0]).cons).toNat + 1 = (r.g[0]).cap.toNat ∧ (curCore s).work = [] ∧
    r.tsk.retr = false ∧ (curCtx s).granted = true ∧ (curCtx s).holdFault = none ∧
    r.tsk.utop.toNat + r.tsk.reserved + 9 = r.tsk.usize.toNat ∧ (r.h[3]).bound = true ∧
    (rS r 2).toNat % 512 = 0 ∧ (rS r 1).toNat % 64 = 0 ∧ (rS r 1).toNat ≤ 0x5FFC0 := by unfold Alone; decide +kernel

/-- The ladder unit's queue holds `n` operations. -/
def ladderFull (n : Nat) : State := { laddered false with
  cores := (small id fun x => { x with work := (List.range n).map fun i => aWork i 4 aLadder [] }).cores }

theorem witness_LadderOperations_full : ∀ n ∈ [7, 8], let s := ladderFull n
    let held := ((curCore s).work.filter fun w => (match w.kind with
      | .ladder _ => true
      | _ => false) && !w.done).length
    Alone 1 s ∧ held = n ∧ ((curArch s).h[3]).bound = true ∧ (curArch s).task = false ∧ (rS (curArch s) 2).toNat % 512 = 0 := by
  unfold Alone; decide +kernel

theorem witness_LadderOperations_operands : let r := curArch (laddered false)
    queryBad (r.h[3]) 0x5FF80 = false ∧ rangeBad (r.h[3]) (rS r 6) = false ∧
    (rS r 4).toNat % 16 = 0 ∧ (rS r 4).toNat + 800 = 0x60000 ∧ cellBad (rS r 3).toNat = false ∧
    (rS r 1).toNat % 2 ^ 19 + 64 = 0x60000 ∧ appendBad (r.h[3]) (rS r 5) = false ∧ appPre (rS r 5) = true ∧
    (r.h[appHandle (rS r 5)]).bound = true ∧ appendBad (r.h[3]) 0x600000000000 = false ∧ appPre 0x600000000000 = false ∧
    isCodeFormat (appFmt 0x600000000000) = true ∧ frameClash (r.d[0]) (appFmt 0x600000000000) = false ∧ (63 : Word).toNat ≤ 63 ∧
    (0xFFFFFFFFFFFE : Word).getLsbD 0 = false ∧ (0xFFFFFFFFFFFE : Word).toNat < 2 ^ 48 ∧ (r.h[0]).bound = false ∧
    (curCtx (laddered false)).holdFault = none := by decide +kernel

/-- A job with a domain of word 0 that has loaded verbs 8 and 9, inverse of each other, with six arguments; task 2 of it is open, in
verb 8 where it is in one, task 1 older or not. -/
def tasked (older : Bool) (ws : List Work) (f : Ctx → Ctx) : State :=
  { working ws fun c => f { c with arch := { c.arch with
      s := (c.arch.s.set 1 0x3000).set 2 0x1000000004000, tsk := { c.arch.tsk with seq := 2, usize := 1, cont := 0x40, kind := 8 } } } with
    seq := 9
    mem := [(0x3005, 1), (0x10000, 1), (0x10001, 0x10), (0x10002, 1), (0x11000, 0xB)],
    jobs := [{ placedJob with root := 0x10000, domains := [⟨0, 3, Vector.replicate 64 0, 10,
      ((Vector.replicate 64 0).set 8 0x8000060900000010).set 9 0x8000060800000020,
      if older then [⟨1, 0, 0, none, true, none⟩] else []⟩] }] }

def inTask (c : Ctx) : Ctx := { c with arch := { c.arch with task := true } }
def inVerb (c : Ctx) : Ctx := { inTask c with arch := { (inTask c).arch with verb := true } }
def delivered (c : Ctx) : Ctx := { c with arch := { c.arch with tsk := { c.arch.tsk with delivered := [⟨0x3000, 2, 0, false⟩] } } }

theorem witness_TaskInstructions : Alone 1 (laddered false) ∧ ((curArch (laddered false)).g[0]).fcode = 0 ∧
    (((curArch (laddered false)).g[0]).rsv - ((curArch (laddered false)).g[0]).cons).toNat + 1 ≤ ((curArch (laddered false)).g[0]).cap.toNat := by
  unfold Alone; decide +kernel

theorem witness_TaskInstructions_begin : let s := tasked false [] delivered
    let r := curArch s
    Alone 1 s ∧ r.task = false ∧ r.verb = false ∧ r.tsk.retr = false ∧
    r.tsk.delivered.find? (fun y => y.desc = rS r 1 && !y.begun) = some ⟨0x3000, 2, 0, false⟩ ∧
    (readAt s ⟨coreOf s.cur, s.cur, jobOf s s.cur, none, 4⟩ (rS r 1) 8).1.toOption.map (fun bs => leVal bs / 2 ^ 40 % 2) = some 1 ∧
    (rS r 2).toNat / 2 ^ 48 ≠ 0 ∧ (rS r 2).toNat % 64 = 0 ∧
    undoWritable s ((rS r 2).toNat % 2 ^ 48) ((rS r 2).toNat / 2 ^ 48) = true := by unfold Alone; decide +kernel

theorem witness_TaskInstructions_inverse : let s := tasked false [] inVerb
    let r := curArch s
    Alone 1 s ∧ r.verb = true ∧ r.tsk.retr = false ∧ r.tsk.icnt = false ∧
    verbArgc (verbEntry s (jobOf s s.cur) r.tsk.dom (verbInv (verbEntry s (jobOf s s.cur) r.tsk.dom r.tsk.kind))) = 6 ∧
    (58 : Fin 64).val + (6 : Fin 64).val ≤ 64 := by unfold Alone; decide +kernel

theorem witness_TaskVerbs : ∀ g : Bool, let s := tasked false [] fun c => { inTask c with granted := g }
    let r := curArch s
    Alone 2 s ∧ r.task = true ∧ r.verb = false ∧ r.tsk.retr = false ∧ r.xfer = none ∧
    verbValid (verbEntry s (jobOf s s.cur) r.tsk.dom 8) = true ∧ (curCtx s).holdFault = none ∧ (curCtx s).granted = g ∧
    currentTask r ≠ none := by unfold Alone; decide +kernel

theorem witness_TaskVerbs_return :
    let s (t : Task → Task) : State := tasked false [] fun c => { inVerb c with arch := { (inVerb c).arch with tsk := t (inVerb c).arch.tsk } }
    let r := curArch (s fun t => { t with icnt := true })
    let q := curArch (s fun t => { t with retr := true, routine := true })
    Alone 2 (s fun t => { t with icnt := true }) ∧ r.tsk.retr = false ∧ r.xfer = none ∧ r.tsk.icnt = true ∧
    r.tsk.utop.toNat + r.tsk.reserved + 1 = r.tsk.usize.toNat ∧ Alone 2 (s fun t => { t with retr := true, routine := true }) ∧
    q.tsk.retr = true ∧ q.xfer = none := by unfold Alone; decide +kernel

theorem witness_TaskVerbs_commit : ∀ o : Bool, let s := tasked o [] inTask
    Alone 2 s ∧ currentTask (curArch s) = some ⟨0, 2, 0, true⟩ ∧ released s s.cur s.seq = true ∧
    olderTask s (jobOf s s.cur) 0 2 = o ∧ released (tasked o [firstLoad] inTask) s.cur s.seq = false := by
  unfold Alone; decide +kernel

theorem witness_TaskVerbs_none : Alone 2 State.reset ∧ (curArch State.reset).task = false ∧ (curArch State.reset).verb = false ∧
    (curArch State.reset).tsk.retr = false ∧ (curArch State.reset).xfer = none ∧ (curCtx State.reset).holdFault = none := by
  unfold Alone; decide +kernel

/-- A context of task 2 that waits for a hold of kind 8 on an object, with other holders of it; of budget class 3, `n`. -/
def asking (obj : Word) (hs : List Hold) (n : BitVec 16) : State :=
  let s := tasked false [] fun c => { inTask c with waits := [.hold 8 obj 0x65] }
  { s with slices := s.slices.map fun x => { x with holds := hs }, budget := s.budget.set 3 n }

def holder (seq : Word) : Hold := ⟨1, 0, seq, 4, 0x2000, 0x100⟩

/-- What a request is answered, as a number. -/
def answerNumber : HoldAnswer → Nat
  | .granted => 0
  | .waits => 1
  | .own => 2
  | .fault _ => 3
  | .later => 4

theorem witness_TaskEvents_hold : ∀ q ∈ ([(0x2000, [], 1, 0), (0x2000, [holder 3], 1, 1), (0x2000, [holder 1], 1, 2),
      (0x1000000000000, [], 1, 3), (0x2000, [], 0, 4)] : List (Word × List Hold × BitVec 16 × Nat)),
    let s := asking q.1 q.2.1 q.2.2.1
    let c := ctxAt s 0
    (coreAt s (coreOf 0)).job = some 1 ∧ s.saved = [] ∧ asksHold c = true ∧ wantedHolds c = [(8, q.1, 0x65)] ∧ c.asked = false ∧
    answerNumber (askHold 1 0 8 q.1 0x65 s).1 = q.2.2.2 ∧ liveAt (askHold 1 0 8 q.1 0x65 s).2 1 (coreOf 0) = true ∧
    (ctxAt (askHold 1 0 8 q.1 0x65 s).2 0).arch.hm = false := by decide +kernel

theorem witness_TaskEvents_abort :
    let s := tasked false [] fun c => { inTask c with arch := { (inTask c).arch with tsk := { c.arch.tsk with apend := true } } }
    (ctxAt s 0).run = .started ∧ abortDue (ctxAt s 0) = true ∧ abortDue (ctxAt State.reset 0) = false ∧
    (ctxAt (small (fun c => { c with run := .halted }) id) 0).run = .halted ∧ (ctxAt State.reset 0).run ≠ .halted := by decide +kernel
/-! ### The host, jobs, cores and links -/

/-- The device heard by the host, a word of host memory range or of HBM in error or not. -/
def hearing (bad : List Nat) : State := { State.reset with fwOk := true, ready := true, bad := bad }

theorem witness_HostMessages : (hearing []).modules.getLsbD 7 = true ∧ (hearing []).fwOk = true ∧ (4096 : BitVec 32).toNat ≤ 4096 ∧
    4096 < (4097 : BitVec 32).toNat ∧ 192 < (193 : BitVec 32).toNat ∧ 0 < (1 : BitVec 32).toNat ∧
    2 ^ 39 < (0x8000000000 : Word).toNat + (1 : BitVec 32).toNat ∧ (0x7FFFFFF000 : Word).toNat + (4096 : BitVec 32).toNat ≤ 2 ^ 39 ∧
    badAt (hearing []) (0x7FFFFFF000 : Word).toNat 4096 = false ∧ badAt (hearing [0x7FFFFFFFE0]) (0x7FFFFFF000 : Word).toNat 4096 = true ∧
    (List.replicate 192 (7 : Byte)).length = (192 : BitVec 32).toNat ∧ (192 : BitVec 32).toNat ≤ 192 ∧ 3 < (4 : BitVec 32).toNat ∧
    (3 : BitVec 32).toNat ≤ 3 ∧ (7 : Word).toNat % 8 ≠ 0 ∧ (8 : Word).toNat % 8 = 0 ∧ (0x118 : Word).toNat = 0x100 + 8 * (3 : Fin 4).val ∧
    (0x1020 : Word).toNat = 0x1000 + 8 * (4 : Fin 5).val ∧ 0x20000 ≤ (0x20000 : Word).toNat ∧
    badPart (hearing []) (0x7FFFFFFF40 : Word).toNat 192 = false ∧ (4 : BitVec 32) ≠ 8 ∧
    (0x9F8 : Word).toNat = 0x200 + 8 * (255 : Fin 256).val ∧ (hearing []).sampled = false := by decide +kernel

/-- A load of host memory that waits for its read, or for the acknowledgement of a write, since cycle 0. -/
def hostWork : Work := { aWork 5 0 (.load ⟨0x2000, 8, false⟩) [] with heldSince := some 0, hostStage := 1, tags := [5] }
def hostWaiting (type : BitVec 4) (cycle : Nat) : State := { working [hostWork] id with
  outbox := [⟨type, 5, 0x800000000100, 8, []⟩], fwOk := true, ready := true, cycle := cycle }

theorem witness_HostAnswersAndPowerOn : ∀ y ∈ ([0, 1] : List (BitVec 4)), let q : HostMsg := ⟨y, 5, 0x800000000100, 8, []⟩
    (hostWaiting y 0).modules.getLsbD 0 = true ∧ messageOfTag (hostWaiting y 0) 5 = some q ∧ messageOfTag (hostWaiting y 0) 4 = none ∧
    workOfTag (hostWaiting y 0) 5 = some hostWork ∧ (q.data ++ List.replicate 8 (0 : Byte)).take q.len.toNat = List.replicate 8 0 ∧
    ((q.data ++ List.replicate 7 (0 : Byte)).take q.len.toNat).length ≠ q.len.toNat ∧ (hostWaiting y 0).ready = true ∧
    workAny (hostWaiting y 0) 0 5 = some hostWork ∧ hostWork.performed = false ∧ hostWork.tags ≠ [] ∧ hostWork.heldSince = some 0 ∧
    0 + 2 ^ 24 ≤ (hostWaiting y 0x1000000).cycle ∧ ¬ 0 + 2 ^ 24 ≤ (hostWaiting y 0xFFFFFF).cycle := by decide +kernel

theorem witness_HostAnswersAndPowerOn_report : let s : State := { State.reset with fwOk := true }
    s.modules.getLsbD 0 = true ∧ s.fwOk = true ∧ s.ready = false ∧ messageOfTag s reportTag = none := by decide +kernel

theorem witness_HostMessages_invals : inFlightOf (hostWaiting 0 0) 1 = [(0, 5)] ∧ inFlightOf (hearing []) 1 = [] := by decide +kernel

/-- A job of contexts 0 and 1023 that waits, on cores that are free; `pri` the priority of the job that runs on core 0, if any. -/
def twoCores : List StartRec := [⟨0, 5, 0, 3, Vector.replicate 8 9⟩, ⟨1023, 6, 1, 0, Vector.replicate 8 1⟩]
def aJob : Job := { placedJob with id := 7, phase := .waiting, recs := twoCores, answer := some (2, 0x77) }
def admitting (other : Bool) : State := if other then
    { small id (fun x => { x with job := some 1 }) with jobs := [placedJob, aJob] } else { State.reset with jobs := [aJob] }

theorem witness_JobLaunch_admit : findJob (admitting false) 7 = some aJob ∧ admissible (admitting false) aJob = true ∧
    (admitting false).par = [] ∧ namedCores aJob.recs = [0, 255] ∧ (∀ c ∈ [(0 : Fin 256), 255], (coreAt (admitting false) c).job = none) ∧
    aJob.answer = some (2, 0x77) ∧ (∀ r ∈ aJob.recs, ∀ q ∈ aJob.recs, q.ctx = r.ctx → q = r) ∧
    findJob (admitting true) 7 = some aJob ∧ admissible (admitting true) aJob = false := by decide +kernel

theorem witness_JobLaunch_refused : (hearing []).modules.getLsbD 0 = true ∧ (hearing []).fwOk = true ∧ inHbm 0x10 = true ∧
    ((0x10 : Nat) % 256 == 0) = false ∧ startStatus (hearing []) 0 0x10 0x10 0 0 = 5 ∧ (hearing []).hbmFail = false ∧
    ({ hearing [] with hbmFail := true } : State).hbmFail = true ∧ (admitting false).psize.toNat ≤ 1 := by decide +kernel

/-- Two sharing jobs: job 1, restored on core 0 at cycle 0, and job 2, saved. -/
def sharing (cycle : Nat) (ws : List Work) : State :=
  { small (fun c => { c with run := .started }) (fun x => { x with job := some 1, work := ws, floor := 1 }) with
    cycle := cycle, jobs := [{ placedJob with slice := 10240 }, { placedJob with id := 2, slice := 10240 }],
    saved := [⟨2, 0, List.replicate 4 Ctx.reset, Vector.replicate 8 ORing.reset, Vector.replicate 8 Bank.reset, none, [], 0, [], 0⟩] }

/-- A copy that waits for the host's answer. -/
def hostCopy : Work := { aWork 5 1 (aCopy 1) [] with heldSince := some 0, hostStage := 1, tags := [5] }

theorem witness_CoreScheduling : turnOver (sharing 10239 []) 0 = false ∧ turnOver (sharing 10240 []) 0 = true ∧
    (saveCore (sharing 10240 []) 0).isSome = true ∧
    turnOver (sharing 10240 [hostCopy]) 0 = true ∧ (saveCore (sharing 10240 [hostCopy]) 0).isNone = true ∧
    (sharing 10240 []).want = [] ∧ (coreAt (sharing 0 []) 0).job ≠ none ∧ (coreAt (sharing 0 []) 0).floor = 1 := by decide +kernel

/-- Core 0 is free, and job 2 is saved there, its image nowhere, in host memory, or in HBM with a word in error. -/
def freed (snap : Word) (high : Byte) (bad : List Nat) : State :=
  { modCore (sharing 0 []) 0 (fun x => { x with job := none }) with
    mem := [(0x10000, 1), (0x10001, 0x10), (0x10002, 1), (0x11000, 0xB)] ++ (if high = 0 then [] else [(0x11005, high)])
    bad := bad
    jobs := [{ placedJob with id := 2, slice := 10240, sppages := 0, root := 0x10000, snapbase := snap }]
    saved := [⟨2, 0, [], Vector.replicate 8 ORing.reset, Vector.replicate 8 Bank.reset, none, [], 0, [], 0⟩] }

theorem witness_CoreScheduling_restore : ∀ q ∈ ([(0x1000000000000, 0, [], false, false), (0x20000, 0x80, [], true, false),
      (0x20000, 0, [0x20200], false, true)] : List (Word × Byte × List Nat × Bool × Bool)), let s := freed q.1 q.2.1 q.2.2.1
    (coreAt s 0).job = none ∧ (coreAt s 0).retired = false ∧ restoring s 0 = false ∧ settledFor s (.core 0) = true ∧
    (nextSaved s 0).map (fun y => (y.1.job, y.2.id)) = some (2, 2) ∧ (findSaved s 2 0).map (·.job) = some 2 ∧
    (findJob s 2).map (·.id) = some 2 ∧ s.want = [] ∧
    ((restoreNow 2 0 none s).want.any fun y => y.type = 0) = q.2.2.2.1 ∧
    ((findSaved s 2 0).bind fun x => (findJob s 2).map fun j => restoreFails none s j x) = some q.2.2.2.2 := by decide +kernel

theorem rootRead_beyond (s : State) (root : Nat) (va : Word) (n : Nat) (h : ∀ p ∈ pieces va n, 2 ^ 48 ≤ p.1.toNat) :
    (rootRead s root va n).1 = List.replicate ((pieces va n).map (·.2)).sum 0 := by
  have key : ∀ (l : List (Word × Nat)) (acc : List Byte), (∀ p ∈ l, 2 ^ 48 ≤ p.1.toNat) →
      l.foldl (fun (q : List Byte × State) p => match rootXlate q.2 root p.1.toNat false with
        | (.ok pa, s) => let r := homeRead s pa p.2 none; (q.1 ++ r.1, r.2)
        | (.error _, s) => (q.1 ++ List.replicate p.2 0, s)) (acc, s) = (acc ++ List.replicate (l.map (·.2)).sum 0, s) := by
    intro l
    induction l with
    | nil => intro acc _; simp
    | cons p l ih =>
      intro acc h
      have e : rootXlate s root p.1.toNat false = (.error ⟨0x0018, 3⟩, s) := by
        unfold rootXlate; rw [if_pos (h p (by simp))]
      rw [List.foldl_cons]
      simp only [e]
      rw [ih _ (fun q hq => h q (by simp [hq]))]
      simp
  exact (congrArg Prod.fst (key (pieces va n) [] h)).trans (by simp)

theorem memRead_nil (a n : Nat) : memRead [] a n = List.replicate n 0 := by
  simp [memRead, memWindow, memGet, unlisted]

theorem padBytes_length (n : Nat) (l : List Byte) : (padBytes n l).length = n := by
  simp [padBytes]; omega

theorem archBytes_length (a : Arch) : (archBytes a).length = 0x4E00 := by
  have r : ∀ g : Ring, (ringBytes g).length = 32 := by intro g; simp [ringBytes]
  have w : ∀ l : List VReg, (l.flatMap vBytes).length = 256 * l.length := by
    intro l
    induction l with
    | nil => rfl
    | cons x l ih => rw [List.flatMap_cons, List.length_append, ih]; simp [vBytes]; omega
  have v : ∀ b ∈ List.range 8, (((a.v.toList.drop (8 * b)).take 8).flatMap vBytes).length = 2048 := by
    intro b hb
    have : b < 8 := by simpa using hb
    rw [w, List.length_take, List.length_drop, Vector.length_toList]
    omega
  simp [archBytes, registerGroups, restBytes, List.length_flatMap, padBytes_length, r]
  rw [List.map_congr_left (g := fun _ => 2048) (by intro b hb; simpa [List.length_flatMap] using v b hb)]
  simp

/-- A saved context of core 0 that a restore finds as the save left it, in an image that reads as zeros; and one whose image the save wrote. -/
theorem witness_CoreScheduling_parts : let s := freed 0x1000000000000 0 []
    ∀ x j, findSaved s 2 0 = some x → findJob s 2 = some j →
      (∀ q ∈ ([(0x300, 200), (contextBase 3, 0x4E00), (controlBase 3, 0x1000)] : List (Nat × Nat)),
        (readImage j 0 q.1 q.2 s).1 = memRead x.kept q.1 q.2) ∧
      let y : SavedCore := { x with ctxs := List.replicate 4 Ctx.reset, kept := memWrite [] (contextBase 3) (archBytes Arch.reset) }
      y.ctxs[3]? = some Ctx.reset ∧
        (memRead y.kept (contextBase 3) 0x4E00).take 0x4D00 = (archBytes Ctx.reset.arch).take 0x4D00 := by
  intro s x j hx hj
  have ej : ∀ j, findJob s 2 = some j → ∀ q ∈ ([(0x300, 200), (contextBase 3, 0x4E00), (controlBase 3, 0x1000)] : List (Nat × Nat)),
      (∀ p ∈ pieces (BitVec.ofNat 64 (imageVa j 0 q.1)) q.2, 2 ^ 48 ≤ p.1.toNat) ∧
      ((pieces (BitVec.ofNat 64 (imageVa j 0 q.1)) q.2).map (·.2)).sum = q.2 := by
    intro j h
    have : j = { placedJob with id := 2, slice := 10240, sppages := 0, root := 0x10000, snapbase := 0x1000000000000 } := by
      have : findJob s 2 = some { placedJob with id := 2, slice := 10240, sppages := 0, root := 0x10000, snapbase := 0x1000000000000 } := by
        decide +kernel
      exact Option.some.inj (h.symm.trans this)
    subst this
    decide +kernel
  have ex : (findSaved s 2 0).map (·.kept) = some [] := by decide +kernel
  rw [hx] at ex
  have kx : x.kept = [] := Option.some.inj ex
  refine ⟨fun q hq => ?_, by simp, ?_⟩
  · obtain ⟨h1, h2⟩ := ej j hj q hq
    rw [kx, memRead_nil, readImage, rootRead_beyond _ _ _ _ h1, h2]
  · have := memRead_write [] (contextBase 3) (archBytes Arch.reset)
    rw [archBytes_length] at this
    rw [this]; rfl

/-- Contexts 0 and 1 of core 0 are ready, of priorities 1 and 2, context 1 with the given wait count; context 0 holds the width or
none does. -/
def choosing (n : Nat) (h : Option (Fin 4)) : State :=
  modCtx (small (fun c => { c with run := .started, arch := { c.arch with prio := 1 } })
    (fun x => { x with holder := h, quant := 1, streak := 1 })) 1
    fun c => { c with run := .started, waitCount := n, arch := { c.arch with prio := 2 } }

theorem witness_Selection : selected (choosing 0 none) 0 = some 1 ∧ selected (choosing 0 (some 0)) 0 = some 0 ∧
    selected State.reset 0 = none ∧ ctxReady (choosing 1024 none) (ctxId 0 1) = true ∧
    1024 ≤ (ctxAt (choosing 1024 none) (ctxId 0 1)).waitCount ∧
    (∀ k : Fin 4, ctxReady (choosing 0 (some 0)) (ctxId 0 k) = true → (ctxAt (choosing 0 (some 0)) (ctxId 0 k)).waitCount < 1024) ∧
    (coreAt (choosing 0 (some 0)) 0).holder = some 0 ∧ ctxReady (choosing 0 (some 0)) (ctxId 0 0) = true ∧
    (coreAt (choosing 0 none) 0).holder = none ∧ bestPromoted (choosing 1024 (some 0)) 0 = some 1 ∧
    (coreAt (choosing 0 (some 0)) 0).quant.toNat ≤ (coreAt (choosing 0 (some 0)) 0).streak := by decide +kernel

/-- The width has just been handed to context 0, and context 1 is promoted. -/
theorem witness_Selection_handed : let s := modCore (modCtx (choosing 1025 (some 0)) 0 fun c => { c with waitCount := 1024 }) 0 fun x =>
      { x with streak := 0 }
    (coreAt s 0).holder = some 0 ∧ (coreAt s 0).streak = 0 ∧ ctxReady s (ctxId 0 0) = true ∧ bestPromoted s 0 = some 1 ∧
    1024 ≤ (ctxAt s (ctxId 0 0)).waitCount ∧ handedOver s 0 = some 0 ∧ (coreAt (choosing 1024 (some 0)) 0).streak ≠ 0 ∧
    handedOver (choosing 1024 (some 0)) 0 = none := by decide +kernel

/-- One request to pool 15 of clause 0, held since cycle 0; the pool is a tile space of one tile or of another kind. -/
def aRequest : Work := { aWork 5 3 (.wnext 15) [] with heldSince := some 0, hostStage := 1 }
def tiled (kind : BitVec 2) (cycle : Nat) (ws : List Work) : State :=
  { working ws id with
    cycle := cycle
    jobs := [{ placedJob with pools := placedJob.pools.set 15 ⟨kind, 0, 1, 1, 1, 0, true, 0, 0, 0⟩ }] }

theorem witness_WorkDistribution : ∀ kind : BitVec 2, let s := tiled kind 2048 [aRequest]
    Alone 1 s ∧ (findJob s (jobOf s s.cur)).map (fun j => (j.pools[15]).kind) = some kind ∧ requestsOf s 0 15 = [aRequest] ∧
    requestsOf s 0 14 = [] ∧ aRequest.kind = .wnext 15 ∧ (coreAt s (coreOf aRequest.ctx)).job = some aRequest.job ∧
    (findJob s aRequest.job).map (fun j => ((j.pools[15]).isOpen, decide ((j.pools[15]).next < (j.pools[15]).x * (j.pools[15]).y * (j.pools[15]).z),
      j.domains)) = some (true, true, []) ∧ (coreAt s (coreOf 0)).work = [aRequest] ∧ aRequest.ctx = 0 ∧
    (requestsWith s fun x _ => x.ctx == 0).filter (heldOut s) = [aRequest] ∧ heldOut (tiled kind 2047 [aRequest]) aRequest = false ∧
    s.cycle % 1024 = 0 ∧ (tiled kind 2047 []).cycle % 1024 ≠ 0 := by
  unfold Alone
  intro kind
  have h : kind = 0 ∨ kind = 1 ∨ kind = 2 ∨ kind = 3 := by revert kind; decide
  rcases h with rfl | rfl | rfl | rfl <;> decide +kernel

/-- Requests of contexts 0 and 4 to one pool; the column of core 0 is hot, that of core 1 is not. -/
def paired : State :=
  let s := modCore (tiled 1 2048 [{ aRequest with heldSince := none, hostStage := 0 }]) 1 fun x => { x with
    job := some 1, work := [{ aRequest with ctx := 4, seq := 6, heldSince := none, hostStage := 0 }] }
  { s with temps := s.temps.set 0 401, threshNow := s.threshNow.set 0 400 }

theorem witness_WorkDistribution_pair : (requestsOf paired 0 15).map (fun w => (w.ctx, w.job, w.hostStage)) = [(0, 1, 0), (4, 1, 0)] ∧
    hot paired 0 = true ∧ hot paired 1 = false ∧ (coreAt paired 0).job = some 1 ∧ (coreAt paired 1).job = some 1 ∧
    (coreAt paired 0).work = [{ aRequest with heldSince := none, hostStage := 0 }] := by decide +kernel

/-- Core 0 with its budgets spent or not, its spares gone or not, rolling back or not. -/
def rolling (pass since cycle : Nat) : State :=
  { small id (fun x => { x with job := some 1, rolling := some ⟨pass, since, [], [], []⟩ }) with cycle := cycle, jobs := [placedJob] }
def worn (n : Nat) : State := small id fun x => { x with spares := (n, n) }
def spent : State := { State.reset with
  spent1 := Vector.replicate 256 64, spent2 := Vector.replicate 256 128, slices := State.reset.slices.map fun x => { x with spent0 := 16 } }
def retiredCore : State := small id fun x => { x with retired := true }

theorem witness_BackgroundAndRollback : State.reset.cycle % 4096 = 0 ∧ ({ State.reset with cycle := 4095 } : State).cycle % 4096 ≠ 0 ∧
    (spent.budget[0]).toNat ≤ (sliceAt spent 255).spent0 ∧ (sliceAt State.reset 255).spent0 < (State.reset.budget[0]).toNat ∧
    (coreAt State.reset 0).job = none ∧ (spent.budget[2]).toNat ≤ spent.spent2[0] ∧ (coreAt (rolling 1 0 0) 0).job ≠ none ∧
    (rolling 1 0 0).spent2[0] < ((rolling 1 0 0).budget[2]).toNat ∧ (coreAt retiredCore 0).retired = true ∧
    (spent.budget[1]).toNat ≤ spent.spent1[0] ∧ (coreAt (worn 1) 0).retired = false ∧
    (worn 1).spent1[0] < ((worn 1).budget[1]).toNat ∧ (coreAt (worn 1) 0).spares = (1, 1) ∧ (coreAt (worn 0) 0).spares = (0, 0) := by
  decide +kernel

theorem witness_BackgroundAndRollback_passes : (coreAt (rolling 0 0 0) 0).rolling = some ⟨0, 0, [], [], []⟩ ∧
    (coreAt (rolling 1 0 0x10000000) 0).rolling = some ⟨1, 0, [], [], []⟩ ∧ (rolling 1 0 0xFFFFFFF).cycle < 0 + 2 ^ 28 ∧
    0 + 2 ^ 28 ≤ (rolling 1 0 0x10000000).cycle ∧ (coreAt (rolling 1 0 0x10000000) 0).job = some 1 ∧
    (findJob (rolling 1 0 0x10000000) 1).map (·.phase) = some .running ∧ (coreAt (oneJob 0 false) 0).job ≠ none ∧
    (coreAt (oneJob 0 false) 0).retired = false ∧ (coreAt (oneJob 0 false) 0).rolling = none ∧ (coreAt (oneJob 0 false) 0).work = [] ∧
    (∀ i : Fin 256, (coreAt (oneJob 0 false) i).buf = []) ∧ (oneJob 0 false).dren = [] ∧
    (∀ i : Fin 4, (ctxAt (oneJob 0 false) (ctxId 0 i)).repeatFlag = false) := by decide +kernel

/-- Core 0 has no register group that the shadow save has still to write, its budget being spent, or it has. -/
theorem witness_BackgroundAndRollback_shadow :
    let fits (s : State) (q : SaveUnit) : Bool := decide (s.spent2[0] + (q.2.2.length + 255) / 256 ≤ (s.budget[2]).toNat)
    let s : State := oneJob 0 false
    (coreAt s 0).job.bind (findJob s) = some placedJob ∧ ((dirtyUnits s placedJob 0).find? (fits s)).isSome = true ∧
    (dirtyUnits s placedJob 0).find? (fits { s with spent2 := Vector.replicate 256 128 }) = none ∧
    (coreAt State.reset 0).job.bind (findJob State.reset) = none := by decide +kernel

/-- A context of core 0 whose repeat flag stands, or whose shadow copy has an uncorrectable error. -/
theorem witness_BackgroundAndRollback_ends : let s (r b : Bool) : State := modCtx (oneJob 0 false) 0 fun c =>
      { c with run := .started, repeatFlag := r, shadowBad := b }
    (∀ r b : Bool, (ctxAt (s r b) (ctxId 0 0)).run = .started ∧ (ctxAt (s r b) (ctxId 0 0)).repeatFlag = r ∧
      (ctxAt (s r b) (ctxId 0 0)).shadowBad = b ∧ (coreAt (s r b) 0).job = some 1 ∧ (coreAt (s r b) 0).retired = false ∧
      (coreAt (s r b) 0).rolling = none ∧ (coreAt (s r b) 0).work = [] ∧ (s r b).dren = []) ∧
    (∀ i : Fin 4, (ctxAt (s false true) (ctxId 0 i)).run = .started → (ctxAt (s false true) (ctxId 0 i)).repeatFlag = false) ∧
    (∀ i : Fin 256, (coreAt (oneJob 0 false) i).buf = []) := by decide +kernel

theorem witness_BackgroundAndRollback_asks : (oneJob 0 false).asks = [] ∧ (rolling 0 0 0).asks = [] := by decide +kernel

/-- The patrol of slice 3 stands at a sector of its window, or at one of a line in cache mode that is not valid. -/
theorem witness_BackgroundAndRollback_patrol :
    patrolKey { State.reset with slices := State.reset.slices.map fun x => { x with ways := 1, patrol := 1 } } 3 1 =
      some (localKey 2 3 256) ∧ patrolKey State.reset 3 1 = none := by decide +kernel

/-- Port 15 with a flit sent in cycle 0 and not yet acknowledged, sent again `n` times, 4096 cycles on or one less. -/
def aFlit (n : Nat) : Flit := ⟨1, 0, 0, 8, 0, 0, [], 1, 0, n⟩
def linked (n : Nat) (up : Bool) (cycle : Nat) : State := { oneJob 0 false with
  ports := State.reset.ports.set 15 ⟨up, 1, 0xFFFFFF, [aFlit n]⟩, cycle := cycle }

theorem witness_LinksAndModules : ((linked 0 false 0).ports[15]).up = false ∧ ((linked 15 true 0).ports[15]).up = true ∧
    ((ackFlits (linked 15 true 0) 15 0).ports[15]).rx = 0xFFFFFF ∧ findJob (linked 15 true 0) 1 = some placedJob ∧
    (1 : BitVec 13) ≠ (linked 15 true 0).devid ∧ (linked 15 true 0).devid = 0 ∧
    findJob (linked 15 true 0) 2 = none ∧ workAny (linked 15 true 0) 0 5 = none ∧ overdueFlit (linked 15 true 4095) 15 = none ∧
    overdueFlit (linked 15 true 4096) 15 = some (aFlit 15) ∧ ((linked 15 true 0).ports[15]).unacked = [aFlit 15] ∧
    ((linked 15 true 0).ports[15]).unacked.findIdx? (fun f => f.seq = 0) = some 0 ∧ (aFlit 15).resent < 16 ∧ 16 ≤ (aFlit 16).resent ∧
    ((linked 16 true 0).ports[15]).unacked.drop 0 = [aFlit 16] ∧ (aFlit 16).seq ≠ 1 ∧
    placedJob ∈ (linked 16 true 0).jobs ∧ placedJob.phase = .running ∧ (aFlit 16).job = placedJob.id ∧
    findJob (linked 16 true 0) placedJob.id = some placedJob := by decide +kernel

/-- Core 0 waits for acknowledgements of device 1: of a copy or of a flag write, in the core or in a saved job's work. -/
def remoteCopy (n : Nat) (ring : Option (Fin 8)) : Work := { aWork 5 1 (.copy ⟨1, ⟨(Vector.replicate 24 0).set 22 0x2001⟩, false, none, 0⟩) [] with
  ring := ring, inc := 1, acks := n }
def remoteFlag (n : Nat) : Work := { aWork 5 4 (.flagw 1 0 0 63 7 false (some 1)) [] with acks := n }
def acked (w : Work) (saved : Bool) : State := { linked 0 true 0 with
  cores := (small id fun x => { x with job := some 1, work := if saved then [] else [w] }).cores
  saved := if saved then [⟨1, 0, [], Vector.replicate 8 ORing.reset, Vector.replicate 8 Bank.reset, none, [w], 0, [], 0⟩] else [] }

theorem witness_LinksAndModules_acks : (∀ w ∈ [remoteCopy 1 (some 7), remoteCopy 2 none, remoteCopy 1 none, remoteFlag 1, remoteFlag 2],
      workAny (acked w false) 0 5 = some w ∧ findWork (acked w false) 0 5 = some w ∧ workAny (acked w true) 0 5 = some w ∧
      findWork (acked w true) 0 5 = none ∧ coreOf w.ctx = 0 ∧ w.performed = false ∧ 0 < w.acks ∧ (workDevice w).isSome = true ∧
      (coreAt (acked w false) 0).work = [w] ∧ ((acked w false).ports[15]).up = true ∧ ((ackFlits (acked w false) 15 0).ports[15]).rx = 0xFFFFFF ∧
      (((ctxAt (acked w false) 0).arch.g[7]).fcode = 0)) ∧
    isCopy (remoteFlag 1) = false ∧ (remoteCopy 1 (some 7)).ring = some 7 ∧ (remoteCopy 1 none).acks = 1 ∧ 1 < (remoteCopy 2 none).acks ∧
    (remoteCopy 0 none).acks = 0 ∧ workAny (acked (remoteCopy 0 none) false) 0 5 = some (remoteCopy 0 none) ∧
    workDevice (aWork 5 1 (aCopy 1) []) = none ∧ workAny (acked (aWork 5 1 (aCopy 1) []) false) 0 5 = some (aWork 5 1 (aCopy 1) []) := by
  decide +kernel

/-- A flag word of core 0, where job 1 runs or where job 2 is saved with its image in host memory. -/
theorem witness_LinksAndModules_flag : let q := freed 0x20000 0x80 []
    let s := acked (remoteFlag 1) false
    s.want = [] ∧ holdsCore s 1 0 = true ∧ (sendWriteAck (writeFlag s 1 0 3 7 true) 1 12 0 1).want = [] ∧ (coreAt q 0).retired = false ∧
    holdsCore q 2 0 = true ∧ ((sendWriteAck (writeFlag q 2 0 3 7 true) 1 12 0 2).want.any fun y => y.type = 0) = true ∧
    Fin.ofNat 256 ((12 : Word).toNat / 64) = (0 : Fin 256) := by decide +kernel

/-! ### What engines and ladder units do -/

/-- Core 0 with one piece of work of job 1, whose core and core 1 it holds; some bytes of memory; the first gibibyte maps to itself through
the TLB of core 0. -/
def engine (w : Work) (mem : List Host.Cell) : State :=
  let s := working [w] fun c => { c with arch := { c.arch with g := c.arch.g.set 7 { Ring.reset with cap := 4, rsv := 1 } } }
  let s := modCore (modCore s 0 fun x => { x with tlb := [⟨1, 0, 2, 0, true⟩] }) 1 fun x => { x with job := some 1 }
  { s with mem := mem, jobs := [{ placedJob with recs := [⟨0, 0, 0, 0, Vector.replicate 8 0⟩, ⟨4, 0, 0, 0, Vector.replicate 8 0⟩] }] }

def copyPat (words : List (Fin 24 × Word)) : Pattern := ⟨words.foldl (fun v q => v.set q.1 q.2) (Vector.replicate 24 0)⟩
def copyWork (op : BitVec 8) (p : Pattern) (opt : Bool) : Work :=
  { aWork 5 1 (.copy ⟨op, p, opt, none, 0⟩) [] with ring := some 7, inc := 1 }

/-- Two blocks of 64 bytes, the second of which overwrites half of the first: within core 0, or to cores 0 and 1. -/
def twoBlocks (op : BitVec 8) : Pattern := copyPat [(0, 0xF000000000000040), (1, 0xF000000000010000), (2, 1), (8, 64), (14, 32),
  (20, 64), (22, if op = 2 then 3 else 0)]
def padMem : List Host.Cell := [(localKey 0 0 0x40, 1), (localKey 0 0 0x60, 2), (localKey 0 0 0x80, 3), (localKey 0 0 0xA0, 4)]

theorem witness_WorkEvents_copies : ∀ op ∈ ([1, 2] : List (BitVec 8)), let p := twoBlocks op
    let w := copyWork op p false
    let s := engine w padMem
    findWork s 0 5 = some w ∧ mayPerform s w = true ∧ coreOf w.ctx = 0 ∧ (coreAt s 0).work = [w] ∧ w.acks = 0 ∧ w.ring = some 7 ∧
    ((ctxAt s w.ctx).arch.g[7]).fcode = 0 ∧
    w.kind = .copy ⟨op, p, false, none, 0⟩ ∧ idxUsed op.toNat p = false ∧ patRemote op.toNat p = false ∧ patDren p = false ∧
    patBlk p = 64 ∧ patBlocks p = 2 ∧
    (∀ k < 2, (blockAt op.toNat p (fun _ => 0) k).1.toNat = localKey 0 0 (0x40 + 64 * k) ∧
      (blockAt op.toNat p (fun _ => 0) k).2.toNat = localKey 0 0 (0x10000 + 32 * k)) ∧ (op = 2 → dstCores 2 p = [0, 1]) ∧
    (∀ v ∈ ([0, 1] : List (Fin 256)), (coreAt s v).retired = false ∧ holdsCore s 1 v = true ∧ (coreAt s v).job = some 1 ∧
      badAt s (localKey 0 v.val 0x10000) 96 = false ∧ meets (claimedTiles (coreAt s v)) 0x10000 96 = false) ∧
    badAt s (localKey 0 0 0x40) 128 = false := by decide +kernel

/-- Sixteen words of the scratchpad to band 7 of a bank of each mode. -/
def toBank : Pattern := copyPat [(0, 0xF000000000000040), (1, BitVec.ofNat 64 (localKey 1 1 0x1FF00)), (20, 64)]
def bankEngine (mode : BitVec 2) (add : Bool) (mem : List Host.Cell) : State :=
  modCore (engine (copyWork 3 toBank add) mem) 1 fun x => { x with e := x.e.set 1 ⟨0, 0, mode, true⟩ }

/-- 1 and a NaN. -/
def wordMem (nan : Bool) : List Host.Cell := [(localKey 0 0 0x42, 0x80), (localKey 0 0 0x43, 0x3F)] ++
  if nan then [(localKey 0 0 0x46, 0xC0), (localKey 0 0 0x47, 0x7F)] else []

theorem witness_WorkEvents_banks : ∀ q ∈ ([(0, false, false), (1, true, false), (1, false, false), (2, true, false), (2, false, true)] :
      List (BitVec 2 × Bool × Bool)),
    let w := copyWork 3 toBank q.2.1
    let s := bankEngine q.1 q.2.1 (wordMem q.2.2)
    findWork s 0 5 = some w ∧ mayPerform s w = true ∧ (coreAt s 0).work = [w] ∧ w.acks = 0 ∧ ((ctxAt s w.ctx).arch.g[7]).fcode = 0 ∧
    w.kind = .copy ⟨3, toBank, q.2.1, none, 0⟩ ∧ patBlocks toBank = 1 ∧ idxUsed 3 toBank = false ∧ patBlk toBank = 64 ∧
    (patWord toBank 0).toNat = localKey 0 0 0x40 ∧ (patWord toBank 1).toNat = localKey 1 1 (1 * 0x10000 + 0xFF00) ∧ ((coreAt s 1).e[1]).al = true ∧ ((coreAt s 1).e[1]).mode = q.1 ∧ (0xFF00 : Nat) % 8 = 0 ∧ 0xFF00 + 8 * 16 ≤ 0x10000 ∧
    (coreAt s 1).retired = false ∧ holdsCore s 1 1 = true ∧ (coreAt s 1).job = some 1 ∧ (coreAt s 0).job = some 1 ∧ s.bad = [] ∧
    ((gridOf ((coreAt s 1).e[1]).anc.toInt (num32 (BitVec.ofNat 32 (leVal (arbRead s 0 0x44 4))))).isNone = q.2.2) := by decide +kernel

/-- A sector with one byte that is not 0, compressed, between the headers of its chunk. -/
def oneSector : List Byte := 7 :: List.replicate 255 0
def sectorMem : List Host.Cell :=
  memWrite [] (localKey 0 0 0x40) (leBytes 4 (1 * 2 ^ 24 + (compressSector oneSector).length) ++ compressSector oneSector ++ leBytes 4 0)
def decodes : Pattern := copyPat [(0, 0xF000000000000040), (1, 0xF001000000001000), (20, 256)]

theorem witness_WorkEvents_decode : let w := copyWork 4 decodes false
    let s := engine w sectorMem
    findWork s 0 5 = some w ∧ mayPerform s w = true ∧ (coreAt s 0).work = [w] ∧ w.acks = 0 ∧ ((ctxAt s w.ctx).arch.g[7]).fcode = 0 ∧
    w.kind = .copy ⟨4, decodes, false, none, 0⟩ ∧ patBlocks decodes = 1 ∧ idxUsed 4 decodes = false ∧ patDren decodes = false ∧
    patBlk decodes = 256 ∧ (patWord decodes 0).toNat = localKey 0 0 0x40 ∧ (patWord decodes 1).toNat = localKey 0 1 0x1000 ∧ oneSector.length = 256 ∧ (compressSector oneSector).length = 48 ∧
    arbRead s 0 0x40 56 = leBytes 4 (1 * 2 ^ 24 + 48) ++ compressSector oneSector ++ leBytes 4 0 ∧
    (coreAt s 1).retired = false ∧ holdsCore s 1 1 = true ∧ (coreAt s 1).job = some 1 ∧ holdsCore s 1 0 = true ∧ s.bad = [] ∧
    meets (claimedTiles (coreAt s 1)) 0x1000 256 = false := by decide +kernel

/-- A drain of band 7 of a bank, allocated or not, of each mode, to a format, prescaled or not: what it captured, SCL0 being 1. -/
def drainCmd (al : Bool) (mode : Nat) (fo : Nat) (pse : Bool) : DrainCmd :=
  ⟨1, BitVec.ofNat 64 ((if al then 1 else 0) + 2 * mode), [(512 * 112 + 2, 0x80), (512 * 112 + 3, 0x3F), (512 * 112 + 7, 1)],
   if pse then 0x1080 else 0x80, 0xF001000000001000, false, BitVec.ofNat 64 (fo * 2 ^ 8), Vector.replicate 16 0x3F800000, Frame.reset, []⟩
def drainWork (d : DrainCmd) : Work := { aWork 5 2 (.drain d) [] with ring := some 7, inc := 1 }

theorem witness_WorkEvents_drains : ∀ q ∈ ([(false, 0, 0, false), (true, 0, 0, false), (true, 0, 2, false), (true, 1, 8, true), (true, 0, 6, true),
      (true, 2, 9, false), (true, 2, 0, false)] : List (Bool × Nat × Nat × Bool)), let d := drainCmd q.1 q.2.1 q.2.2.1 q.2.2.2
    let w := drainWork d
    let s := engine w []
    findWork s 0 5 = some w ∧ mayPerform s w = true ∧ coreOf w.ctx = 0 ∧ (coreAt s 0).work = [w] ∧ w.acks = 0 ∧ w.ring = some 7 ∧
    ((ctxAt s w.ctx).arch.g[7]).fcode = 0 ∧ w.kind = .drain d ∧ d.z = false ∧ d.bad = [] ∧ d.dst.toNat = localKey 0 1 0x1000 ∧
    (fmtO d.fmt).toNat = q.2.2.1 ∧ (drainBank d).al = q.1 ∧ (drainBank d).mode.toNat = q.2.1 ∧ d.desc.getLsbD 12 = q.2.2.2 ∧
    ((List.range 128).filter fun r => d.desc.getLsbD (r / 16)) = (List.range 16).map (112 + ·) ∧ 0x1000 + 16 * 512 ≤ 0x60000 ∧
    (coreAt s 1).retired = false ∧ holdsCore s 1 1 = true ∧ (coreAt s 1).job = some 1 ∧ s.bad = [] ∧
    meets (claimedTiles (coreAt s 1)) 0x1000 (16 * 512) = false ∧
    num32 (d.scl[d.desc.toNat / 2 ^ 16 % 16]) = .fin false 0x800000 (-23) := by decide +kernel
/-- An entry of an anchored bank that may have wrapped, and one that has not. -/
theorem witness_WorkEvents_wrapped : let entry (d : DrainCmd) (r j : Nat) : Int := (BitVec.ofNat 64 (memVal d.cells (512 * r + 8 * j) 8)).toInt
    ¬ (-(2 ^ 55) ≤ entry (drainCmd true 2 0 false) 112 0 ∧ entry (drainCmd true 2 0 false) 112 0 < 2 ^ 55) ∧
    (-(2 ^ 55) ≤ entry (drainCmd true 2 0 false) 112 1 ∧ entry (drainCmd true 2 0 false) 112 1 < 2 ^ 55) := by decide +kernel

/-- Through the one entry of its TLB a core reaches every range of the first gibibyte. -/
theorem reaches_low (s : State) (c : Fin 256) (h : (coreAt s c).tlb = [⟨1, 0, 2, 0, true⟩]) (lo n : Nat) (hn : lo + n ≤ 2 ^ 30) :
    Reaches s c 1 id lo n := by
  refine ⟨by omega, fun a h1 h2 => ⟨by simp; omega, ⟨1, 0, 2, 0, true⟩, ?_, rfl, ?_⟩⟩
  · rw [h, tlbFind]
    have : a / 2 ^ pageBits (2 : Fin 3).val = 0 := Nat.div_eq_of_lt (by show a < 2 ^ 30; omega)
    simpa using this.symm
  · show a = 0 + a % 2 ^ 30
    omega

theorem apart_id (l : List (Nat × Nat)) (h : l.Pairwise (fun x y => x.1 + x.2 ≤ y.1 ∨ y.1 + y.2 ≤ x.1)) : Apart id l :=
  ⟨h, fun _ _ _ _ _ _ _ _ _ _ e => e⟩

/-- 64-bit words in memory, by address. -/
def wordsAt (l : List (Nat × Nat)) : List Host.Cell := l.foldl (fun m q => memWrite m q.1 (leBytes 8 q.2)) []

/-- A descriptor at 0x1000 of a ladder of five tokens: blocks of levels 0 and 2, at 0x4000 and 0x4100, GEOM 0x11, DECAY table at 0x8000, pool
at 0x2000. -/
def fiveTokens : List (Nat × Nat) := [(0x1000, 0x4000), (0x1010, 0x4100), (0x1188, 5), (0x1190, 0x11), (0x1198, 0x8000), (0x11B0, 0x2000),
  (0x4000, 0x40000), (0x4008, 1), (0x4100, 0x200), (0x4108, 1)]

def aHandle (desc : Word) : Handle := ⟨true, desc, 0x11, 0⟩
def ladderCmd (op : BitVec 8) (x : Word) : LadderCmd :=
  ⟨op, aHandle 0x1000, aHandle 0x1200, 0, x, 0, 0, none, Frame.reset, Frame.reset, Vector.replicate 16 0, false, 0⟩
def ladderWork (l : LadderCmd) : Work := aWork 5 4 (.ladder l) []
/-- The record of an `LNEW` at offset 0x100 of the scratchpad: GEOM, DECAY table, words 52, pool and KEEP. -/
def newRecord : List (Nat × Nat) := [(localKey 0 0 0x100, 0x11), (localKey 0 0 0x108, 0x8000), (localKey 0 0 0x110, 0x9000),
  (localKey 0 0 0x118, 0x2000), (localKey 0 0 0x120, 2)]
def laddering (l : LadderCmd) (m : List (Nat × Nat)) : State :=
  modCtx (engine (ladderWork l) (wordsAt m)) 0 fun c => { c with
    arch := { c.arch with h := c.arch.h.set 3 ⟨true, 0x1000, 0, 5⟩ },
    flight := [{ aFlight 40 5 (.sreg 6 0) false with src := 5 }] }

theorem witness_LadderOperations_perform : ∀ op ∈ ([0x49, 0x48, 0x44, 0x4A, 0x40] : List (BitVec 8)), let l := ladderCmd op 0x100
    let w := ladderWork l
    let s := laddering l (fiveTokens ++ newRecord)
    let word (a i : Nat) : Nat := numAt s id (a + 8 * i) 8
    let held (a : Nat) : Desc := (List.range 64).map (word a)
    findWork s 0 5 = some w ∧ mayPerform s w = true ∧ coreOf w.ctx = 0 ∧ (coreAt s 0).work = [w] ∧ w.acks = 0 ∧ w.ring = none ∧ s.bad = [] ∧
    w.job = 1 ∧ (coreAt s 0).tlb = [⟨1, 0, 2, 0, true⟩] ∧
    l.idx = 0 ∧ l.inTask = false ∧ (held 0x1000).bad = false ∧ (held 0x1000).present = [(2, 0x4100, false), (0, 0x4000, false)] ∧
    (∀ b ∈ (held 0x1000).present, word b.2.1 0 / 256 % 64 = b.1 ∧ word b.2.1 0 % 2 = 0 ∧ word b.2.1 0 / 4 % 64 = 0 ∧
      word b.2.1 0 / 2 ^ 14 % 4 = 0 ∧ 0 < word b.2.1 1 ∧ word b.2.1 1 + 1 < 2 ^ 32 ∧ word b.2.1 6 = 0 ∧ word b.2.1 7 = 0) ∧
    l.x.toNat + 16 * (2 + 1) ≤ 0x60000 ∧ meets (claimedTiles (coreAt s 0)) l.x.toNat (16 * (2 + 1)) = false ∧ (held 0x1200).bad = false ∧
    (held 0x1200).present = [] ∧
    (let rec_ (i : Nat) : Nat := leVal (arbRead s 0 (0x100 + 8 * i) 8)
     rec_ 0 = 0x11 ∧ rec_ 1 = 0x8000 ∧ rec_ 4 = 2 ∧ rec_ 5 = 0 ∧ rec_ 6 = 0 ∧ rec_ 7 = 0) ∧ w.seq ≠ 0 ∧
    ((ctxAt s w.ctx).arch.h[3]).bind = w.seq := by decide +kernel

theorem witness_LadderOperations_reach (l : LadderCmd) (m : List (Nat × Nat)) :
    (∀ q ∈ ([(0x1000, 512), (0x1200, 512), (0x4000, 64), (0x4100, 64), (0x8000, 384)] : List (Nat × Nat)),
      Reaches (laddering l m) 0 1 id q.1 q.2) ∧
    Apart id [(0x1000, 512), (0x1200, 512), (0x4100, 64), (0x4000, 64)] ∧ Apart id [(0x1000, 512), (0x4100, 64), (0x4000, 64)] ∧
    Apart id [(0x1000, 512), (0x8000, 384)] := by
  refine ⟨fun q hq => reaches_low _ _ rfl _ _ ?_, apart_id _ (by decide), apart_id _ (by decide), apart_id _ (by decide)⟩
  revert q
  decide

/-- A ladder of four tokens, slot 0 empty; a pool of four blocks of 256 bytes at 0x20000, block 2 on top of the stack at 0x3000. -/
def fourTokens : List (Nat × Nat) := [(0x1010, 0x4100), (0x1188, 4), (0x1190, 0x11), (0x1198, 0x8000), (0x11B0, 0x2000), (0x4100, 0x200),
  (0x4108, 1), (0x2000, 0x20000), (0x2008, 4 * 2 ^ 32 + 256), (0x2010, 0x3000), (0x2018, 1), (0x3000, 2)]
/-- Keys 1 and 2, values 3 and 1/2 in the scratchpad; summary 1 in slot 0; powers 1/2. -/
def tokenMem : List (Nat × Nat) := [(localKey 0 0 0x100, 0x400000003F800000), (localKey 0 0 0x200, 0x3F00000040400000),
  (0x4040, 0x3F8000003F800000), (0x4080, 0x3F8000003F800000), (0x4088, 0x3F8000003F800000), (0x8000, 0x3F0000003F000000)]
/-- An append in FP32 of the key at 0x100 and the value at 0x200, with a budget of 1. -/
def appendCmd : LadderCmd := ladderCmd 0x42 (BitVec.ofNat 64 (0x100 + 0x200 * 2 ^ 19 + 2 ^ 38))

theorem witness_LadderOperations_append : ∀ m ∈ [fourTokens, fiveTokens], let l := appendCmd
    let w := ladderWork l
    let s := laddering l (m ++ tokenMem)
    let word (a i : Nat) : Nat := numAt s id (a + 8 * i) 8
    let held : Desc := (List.range 64).map (word 0x1000)
    findWork s 0 5 = some w ∧ mayPerform s w = true ∧ coreOf w.ctx = 0 ∧ (coreAt s 0).work = [w] ∧ w.acks = 0 ∧ w.ring = none ∧ s.bad = [] ∧
    l.op = 0x42 ∧ l.idx = 0 ∧ l.inTask = false ∧ l.x.getLsbD 62 = false ∧ l.x.toNat / 2 ^ 44 % 16 = 0 ∧
    l.x.toNat % 2 ^ 19 + 8 ≤ 0x60000 ∧ l.x.toNat / 2 ^ 19 % 2 ^ 19 + 8 ≤ 0x60000 ∧ l.hd.geom.toNat = 0x11 ∧ held.bad = false ∧
    word 0x1000 48 = 0 ∧ word 0x1000 49 < 2 ^ 48 - 1 ∧
    (∀ b ∈ held.present, word b.2.1 0 / 256 % 64 = b.1 ∧ word b.2.1 0 % 2 = 0 ∧ word b.2.1 0 / 4 % 64 = 0 ∧
      word b.2.1 0 / 2 ^ 14 % 4 = 0 ∧ 0 < word b.2.1 1 ∧ word b.2.1 1 < 2 ^ 32 ∧ word b.2.1 6 = 0 ∧ word b.2.1 7 = 0) ∧
    0 < l.x.toNat / 2 ^ 38 % 64 ∧ word 0x1000 53 / 2 % 2 = 0 ∧ word 0x1000 1 = 0 ∧ (m = fourTokens ↔ word 0x1000 0 = 0) := by decide +kernel

theorem witness_LadderOperations_new : let s := laddering appendCmd (fourTokens ++ tokenMem)
    let word (a i : Nat) : Nat := numAt s id (a + 8 * i) 8
    word 0x1000 54 = 0x2000 ∧ 144 ≤ word 0x2000 1 % 2 ^ 32 ∧ 0 < word 0x2000 3 ∧ word 0x2000 3 ≤ word 0x2000 1 / 2 ^ 32 ∧
    word 0x2000 0 % 256 = 0 ∧ word 0x2000 2 % 4 = 0 ∧ (∀ i < 8, 4 ≤ i → word 0x2000 i = 0) ∧ numAt s id 0x3000 4 = 2 ∧
    2 < word 0x2000 1 / 2 ^ 32 := by decide +kernel

theorem witness_LadderOperations_merge : let s := laddering appendCmd (fiveTokens ++ tokenMem)
    let word (a i : Nat) : Nat := numAt s id (a + 8 * i) 8
    word 0x1000 0 = 0x4000 ∧ word 0x1000 51 = 0x8000 ∧ word 0x4000 1 = 1 ∧ word 0x4000 2 = 0 ∧ word 0x4000 3 = 0 := by decide +kernel

theorem witness_LadderOperations_append_reach (l : LadderCmd) (m : List (Nat × Nat)) :
    (∀ q ∈ ([(0x1000, 512), (0x4100, 64), (0x2000, 64), (0x3000, 4), (0x20200, 144), (0x4000, 144), (0x8000, 8)] : List (Nat × Nat)),
      Reaches (laddering l m) 0 1 id q.1 q.2) ∧
    Apart id [(0x1000, 512), (0x2000, 64), (0x3000, 4), (0x20200, 144), (0x4100, 64)] ∧
    Apart id [(0x1000, 512), (0x8000, 8), (0x4000, 144), (0x4100, 64)] := by
  refine ⟨fun q hq => reaches_low _ _ rfl _ _ ?_, apart_id _ (by decide), apart_id _ (by decide)⟩
  revert q
  decide

/-- A cell at 0x40000: two slots of four elements, the first filled with maximum 1, sum 2 and elements 3, or none filled. -/
def cellMem (one : Bool) : List (Nat × Nat) := (0x40000, 4 + 2 * 2 ^ 16) :: if one then [(0x40008, 1), (0x400C0, 0x400000003F800000),
  (0x40100, 0x4040000040400000), (0x40108, 0x4040000040400000)] else []
/-- A record at offset 0x100: maximum 2, sum 1, elements 5. -/
def recordMem (nan : Bool) : List (Nat × Nat) := [(localKey 0 0 0x100, if nan then 0x3F8000007FC00000 else 0x3F80000040000000),
  (localKey 0 0 0x140, 0x40A0000040A00000), (localKey 0 0 0x148, 0x40A0000040A00000)]
def cellCmd (op : BitVec 8) (y : Word) (idx : Nat) : LadderCmd := { ladderCmd op 0x40000 with y := y, idx := idx }

theorem witness_LadderOperations_cells : ∀ q ∈ ([(0x50, 4 + 2 * 2 ^ 16, 0, false, false), (0x51, 0x100, 0, false, false), (0x51, 0x100, 1, true, false),
      (0x51, 0x100, 1, true, true), (0x51, 0x100, 2, true, false), (0x51, 0x100, 0, true, false), (0x52, 0x100, 0, true, false)] :
      List (BitVec 8 × Word × Nat × Bool × Bool)),
    let l := cellCmd q.1 q.2.1 q.2.2.1
    let w := ladderWork l
    let s := laddering l (cellMem q.2.2.2.1 ++ recordMem q.2.2.2.2)
    let word (i : Nat) : Nat := numAt s id (0x40000 + 8 * i) 8
    findWork s 0 5 = some w ∧ mayPerform s w = true ∧ coreOf w.ctx = 0 ∧ (coreAt s 0).work = [w] ∧ w.acks = 0 ∧ w.ring = none ∧ s.bad = [] ∧
    l.op = q.1 ∧ l.idx = q.2.2.1 ∧ word 0 % 2 ^ 9 = 4 ∧ word 0 / 2 ^ 16 % 2 ^ 7 = 2 ∧ word 0 / 2 ^ 9 % 2 ^ 7 = 0 ∧ word 0 / 2 ^ 23 % 2 = 0 ∧
    word 0 < 2 ^ 38 ∧ word 2 < 4 ∧ (∀ i < 8, 3 ≤ i → word i = 0) ∧ word 1 = (if q.2.2.2.1 then 1 else 0) ∧ 0x100 + 80 ≤ 0x60000 ∧
    meets (claimedTiles (coreAt s 0)) 0x100 80 = false ∧ (ctxAt s w.ctx).run ≠ .halted ∧
    ((num32 (BitVec.ofNat 32 (leVal (arbRead s 0 0x100 4)))).isNan = q.2.2.2.2) := by decide +kernel

theorem witness_LadderOperations_cell_bad : let s := laddering (cellCmd 0x51 0x100 0) [(0x40000, 4)]
    numAt s id 0x40000 8 / 2 ^ 16 % 2 ^ 7 = 0 := by decide +kernel

theorem witness_LadderOperations_cell_reach (l : LadderCmd) (m : List (Nat × Nat)) :
    Reaches (laddering l m) 0 1 id 0x40000 (64 + 3 * 128) ∧ Reaches (laddering l m) 0 1 id (0x40000 + 64 + 1 * 128) 80 ∧
    Reaches (laddering l m) 0 1 id 0x40000 (128 + 16) ∧ Reaches (laddering l m) 0 1 id 0x40000 64 ∧ Apart id [(0x40000, 64), (0x400C0, 80)] ∧
    Apart id [(0x40000, 64 + 3 * 128)] ∧ Apart id [(0x40000, 144)] :=
  ⟨reaches_low _ _ rfl _ _ (by decide), reaches_low _ _ rfl _ _ (by decide), reaches_low _ _ rfl _ _ (by decide),
    reaches_low _ _ rfl _ _ (by decide), apart_id _ (by decide), apart_id _ (by decide), apart_id _ (by decide)⟩

/-! ### Encoding and the step -/

/-- `ADDI s11, s0, 1`, placed where the next step fetches; an event due before it, or none. -/
def placed : State := State.withFetchWord State.reset 32 0x222C0001
def eventful (i : Instr) : State := { State.reset with agenda := [⟨0, i⟩] }

/-- `ERET` outside handler mode, placed where the next step fetches. -/
def faulty : State := State.withFetchWord State.reset 32 0x87000000

theorem witness_RoundTrip : (Instr.bfxS 5 1 32 31).wf = true ∧ (encode (.bfxS 5 1 32 31)).isSome = true ∧
    (Instr.nop true).wf = true ∧ (encode (.nop true)).isSome = true := by decide

theorem witness_StepRunsDecoded : (∀ i ∈ ([.thermalSample, .nop false] : List Instr), (takeDue (eventful i)).map (·.1) = some i) ∧
    (encode .thermalSample).isNone = true ∧ (encode (.nop false)).isNone = false ∧ takeDue State.reset = none ∧
    coreRuns State.reset State.reset.turn = false ∧ takeDue placed = none ∧ coreRuns placed placed.turn = true ∧
    coreRuns (prepare placed placed.turn) placed.turn = true ∧ (choose (prepare placed placed.turn) placed.turn).1 = .issues 0 ∧
    (let u := (choose (prepare placed placed.turn) placed.turn).2
     standingFault (ctxAt u 0) = none ∧ faultStands (ctxAt u 0) = false ∧ (coreAt u (coreOf 0)).rolling = none ∧ (ctxAt u 0).arch.xfer = none ∧ u.flow = .issued ∧
     (ctxAt u 0).arch.loops = [] ∧
     (bundleAt u 0).map (fun r => match r with
       | .ok b => (b.cairn, b.len, b.ops)
       | .error _ => (true, 0, [])) = some (false, 2, [(0, .addi 11 0 1)])) := by decide +kernel

theorem witness_StepRunsDecoded_fault : takeDue faulty = none ∧ coreRuns faulty faulty.turn = true ∧
    coreRuns (prepare faulty faulty.turn) faulty.turn = true ∧ (choose (prepare faulty faulty.turn) faulty.turn).1 = .issues 0 ∧
    (let u := (choose (prepare faulty faulty.turn) faulty.turn).2
     faultStands (ctxAt u 0) = false ∧ standingFault (ctxAt u 0) = some (mkFault 0x06 2 (some 0) 0 0 0)) := by decide +kernel

theorem witness_StepKeepsInv : memWf State.reset.mem = true ∧ memWf placed.mem = true := by decide +kernel

theorem witness_StepKeepsInv_step : Safety.Inv State.reset ∧ GoesOn (step State.reset) := ⟨by unfold Safety.Inv; decide +kernel, _, rfl⟩
/-! ### A launch that passes every check -/

/-- Tables that map everything to itself; a start vector of job 7 with one record, of context 0; an image with one section of one
empty bundle, as firmware or not, and its digest, computed outside the model (R342). -/
def launchMem (firmware : Bool) : List Host.Cell :=
  [(0, 0xB), (0x100, 7), (0x106, 1), (0x111, 0x40), (0x800, 1), (0x1000, 0x42), (0x1001, 0x58), (0x1002, 0x39), (0x1004, 1),
   (0x1008, 1)] ++ (if firmware then [(0x1010, 2)] else []) ++
  [(0x1018, 0x34), (0x1019, 1), (0x1120, 0x30), (0x1121, 1), (0x1128, 1)] ++
  ((List.range 64).map (0x1134 + ·)).zip (leBytes 64 (if firmware then
    0x7B58CC6F7F84FA44DD0E068325B6FC730C12477769F8E26077A6EE2564C82182A49A4261D34BC29A23F4E196A6F553DDCDD092AC3203554A1DDC0CFF239C0A9F
    else
    0xB45B179DD32221EF05D78D2C30C8682CE112067F1D848EBF4848EE62BA44D804FA0DE280716EF44462B0BC363C3DE5E11729B5B5F0E909A8FC09464F4118D23A))

def launching (firmware : Bool) : State := { hearing [] with mem := launchMem firmware }

/-- The image is in order, and so is every other check: the vector, the entry, the addresses, the device and its cores. -/
theorem witness_JobLaunch_start : (launching false).modules.getLsbD 0 = true ∧ (launching false).fwOk = true ∧
    (launching false).hbmFail = false ∧ imgFlags (launching false) 0x1000 / 2 % 2 = 0 ∧
    startStatus (launching false) 7 0x100 0x1000 0x800 0 = 0 := by decide +kernel

theorem witness_JobLaunch_firmware : (inHbm 0x1000 && 0x1000 % 256 == 0 && !imageBad (launching true) 0x1000 &&
    imgFlags (launching true) 0x1000 / 2 % 2 == 1) = true ∧ ({ launching true with ready := false } : State).ready = false := by
  decide +kernel

/-- The same launch with a pool table at the second gibibyte, which lies in host memory. -/
def launchingHost : State := { launching false with
  mem := (launchMem false).foldl (fun m q => memWrite m q.1 [q.2]) [(8, 0xB), (13, 0x80), (0x11B, 0x40)] }

def startArgs : List Byte := leBytes 8 0x100 ++ leBytes 8 0x1000 ++ leBytes 8 0x800 ++ leBytes 8 0

theorem witness_JobLaunch_reads : ((startNow 0 5 startArgs none { launching false with want := [] }).want.any fun q => q.type = 0) = false := by
  decide +kernel

theorem witness_JobLaunch_reads_host : let s : State := { launchingHost with hbmFail := true }
    ((startNow 0 5 startArgs none { s with want := [] }).want.any fun q => q.type = 0) = true ∧ s.modules.getLsbD 0 = true ∧ s.fwOk = true := by
  decide +kernel

/-- A job of lower priority on core 0, with a copy that waits for the host: the core cannot be had yet. -/
def holding : State :=
  { small (fun c => { c with run := .started }) (fun x => { x with job := some 1, work := [hostCopy] }) with
    jobs := [placedJob, { aJob with jpri := 1 }] }

theorem witness_JobLaunch_held : findJob holding 7 = some { aJob with jpri := 1 } ∧ admissible holding { aJob with jpri := 1 } = true ∧
    (takeCores holding { aJob with jpri := 1 } (namedCores aJob.recs)).isNone = true := by decide +kernel

/-- SHA-512 of the three bytes "abc" (R342), the standard's own example. -/
theorem test_sha512 : sha512 [0x61, 0x62, 0x63] =
    0x9FA44CA54FC99A2A0EE83C6423444D45BDEBFEA3233CBA36A8C14F272A9992219AD3554BE6EE9E0AA27EA9894EFAE612314120AE497341CCBA7A6193A135AFDD := by
  decide +kernel

/-! ### Results worked out by hand -/

/-- What a step leaves in context 0: program counter, clock, results in flight with their landing cycles. -/
def after (o : Host.Outcome State Fault Refusal) : Option (Word × Word × List (Nat × Landing)) :=
  match o with
  | .next t => some ((ctxAt t 0).arch.pc, (ctxAt t 0).arch.sched, (ctxAt t 0).flight.map fun f => (f.due, f.act))
  | .fault _ => none
  | .refused _ => none

/-- `ADDI s11, s0, 1` as the first instruction after reset: two syllables on, its result due in cycle 1 (R24, R77). -/
theorem test_first_step : after (step (State.withFetchWord State.reset 32 0x222C0001)) = some (2, 1, [(1, .sreg 11 1)]) := by
  decide +kernel

/-- The words of R116 and R117: a 32-bit sum that wraps to the most negative number; its quotient by −1, and by 0. -/
theorem test_add_w : after (exec (.add 5 1 2 0 false true) (regs fun a => { a with s := (a.s.set 1 0x7FFFFFFF).set 2 1 })) =
    some (0, 0, [(1, .sreg 5 0xFFFFFFFF80000000)]) := by decide +kernel
theorem test_div_s : after (exec (.divS 5 1 2 0 false false) nearlyFull) =
    (after (.next nearlyFull)).map fun q => (q.1, q.2.1, q.2.2 ++ [(12, .sreg 5 0x8000000000000000)]) := by decide +kernel
theorem test_div_u : after (exec (.divU 5 1 0 0 false false) (regs fun a => { a with s := a.s.set 1 7 })) =
    some (0, 0, [(12, .sreg 5 0xFFFFFFFFFFFFFFFF)]) := by decide +kernel
theorem test_shl : after (exec (.shl 5 1 2 0 false false) (regs fun a => { a with s := (a.s.set 1 3).set 2 65 })) =
    some (0, 0, [(1, .sreg 5 6)]) := by decide +kernel
theorem test_lui : after (exec (.lui 5 1 0x20D0) (regs fun a => { a with s := a.s.set 1 0xFFFFFFFF08020100 })) =
    some (0, 0, [(1, .sreg 5 0x20D008020100)]) := by decide +kernel
theorem test_bfxS : after (exec (.bfxS 5 1 4 3) (regs fun a => { a with s := a.s.set 1 0x80 })) =
    some (0, 0, [(1, .sreg 5 0xFFFFFFFFFFFFFFF8)]) := by decide +kernel

/-- Rounding (R84, R85): 1 + 2^−24 is halfway to the next number and goes to the even one; 1 + 2^−24 + 2^−25 goes up. -/
theorem test_fadd_tie : fpAdd .rne (num32 0x3F800000) (num32 0x33800000) = ⟨0x3F800000, fNX⟩ ∧
    fpAdd .rne (num32 0x3F800000) (num32 0x33C00000) = ⟨0x3F800001, fNX⟩ ∧
    fpAdd .rup (num32 0x3F800000) (num32 0x33800000) = ⟨0x3F800001, fNX⟩ := by decide +kernel
/-- 3.0 × 0.5 is exact; the greatest number doubled overflows to infinity. -/
theorem test_fmul : fpMul .rne (num32 0x40400000) (num32 0x3F000000) = ⟨0x3FC00000, 0⟩ ∧
    fpMul .rne (num32 0x7F7FFFFF) (num32 0x40000000) = ⟨0x7F800000, fOF ||| fNX⟩ := by decide +kernel
/-- 2.5 in E2M1 lies between 2 and 3, codes 4 and 5, and goes to the even code (R80, R84). -/
theorem test_convert_e2m1 : (convert 0 5 false .rne false 0x40200000).bits = 4 ∧ (convert 5 0 false .rne false 5).bits = 0x40400000 := by
  decide +kernel

/-- A store's bytes come least significant first (R123). -/
theorem test_store : (match exec (.stH 2 1 0 0) (regs fun a => { a with s := (a.s.set 1 0x100).set 2 0xABCD }) with
    | .next t => t.mem
    | .fault _ => []
    | .refused _ => []) = [(localKey 0 0 0x100, 0xCD), (localKey 0 0 0x101, 0xAB)] := by decide +kernel

/-- Trap entry and return (R133, R134): the bundle after TRAP is saved, and ERET goes there. -/
theorem test_trap : (match exec (.trap 5) trapping with
    | .next t => ((curArch t).tcause, (curArch t).hm, t.flow)
    | .fault _ => (0, false, .issued)
    | .refused _ => (0, false, .issued)) = (0x50001, true, .jumped 0x40) := by decide +kernel

/-- The item after the first of a 2 by 3 by 5 tile space: order 0 moves x first, order 4 moves z first (R47, R48). -/
theorem test_tiles : tileItem ⟨1, 0, 2, 3, 5, 0, true, 0, 0, 0⟩ 1 = 1 ∧
    tileItem ⟨1, 4, 2, 3, 5, 0, true, 0, 0, 0⟩ 1 = 0x40000000000 := by decide +kernel

end Sys2Proof.Tests
end

section
/-! PROOFS. The scope of the model: no step stops the machine, and the state after reset. -/

namespace Sys2Proof.Machine

open Sys2Proof.Safety

/-! ### What operations and events answer -/

theorem execPowerOn_goesOn (f : Bool) (m : BitVec 8) (b : Bool) (c : BitVec 256) (p : BitVec 16) (s : State) :
    GoesOn (execPowerOn f m b c p s) := by
  cases f <;> exact ⟨_, rfl⟩

/-- The meanings of `Instr` are of two kinds. An event is in no bundle, so it has no encoding, and it answers a next state at once; every
other operation runs in a slot. -/
theorem exec_event_or_slot (i : Instr) :
    (encode i = none ∧ ∀ s, GoesOn (exec i s)) ∨
      ∃ (probe : State → Probe) (effect : State → State), exec i = runSlot probe effect := by
  cases i
  case powerOn f m b c p => exact .inl ⟨rfl, execPowerOn_goesOn f m b c p⟩
  case transformBeat | domainBarrierRelease | flagWriteArrives | wnextServe | thermalHoldTimeout | holdRequest | abortDelivery |
      resultLands | landingDataArrives | quantExpiry | contextPromotion | deferredRefusal | amoPerform | copyComplete |
      drenIncrement | decoderWatchdog | mmaStepRetire | drainComplete | ladderOpComplete | thermalSample | sliceExpiry |
      coreRestore | grantFloorMet | jobAdmit | shadowSave | budgetPeriod | patrolScrubVisit | busTest | rollback |
      rollbackPassTimeout | hostRead | hostWrite | rdata | ack | start | tlbinv | mread | mwrite | attest | reservedHostType |
      hostAnswerTimeout | remoteWrite | writeAcknowledgement | flag | barrierArrival | barrierRelease | svethAckTimeout |
      svethCrcMismatch | ucieModuleRetrainFail | ucieRetrainingSucceeds | engineFault | haltedEngineResult =>
    exact .inl ⟨rfl, fun _ => ⟨_, rfl⟩⟩
  all_goals exact .inr ⟨_, _, rfl⟩

/-- No operation and no event stops the machine. -/
theorem exec_goesOn (i : Instr) (s : State) : GoesOn (exec i s) := by
  rcases exec_event_or_slot i with ⟨-, h⟩ | ⟨probe, effect, h⟩
  · exact h s
  · rw [h]
    exact runSlot_goesOn probe effect s

/-! ### Going on through a bundle -/

theorem goesOn_next (s : State) : GoesOn (.next s) := ⟨s, rfl⟩

/-- What goes on, goes on to what goes on from every state. -/
theorem bindOut_goesOn {o : Host.Outcome State Fault Refusal} {f : State → Host.Outcome State Fault Refusal} (ho : GoesOn o)
    (hf : ∀ s, GoesOn (f s)) : GoesOn (bindOut o f) := by
  obtain ⟨t, rfl⟩ := ho
  exact hf t

/-- The checks of a bundle go on to their end. -/
theorem checkOps_goesOn (k : Fin 1024) (base : Nat) (ops : List (Fin 8 × Instr)) (s : State) :
    GoesOn (checkOps k base ops s) := by
  induction ops generalizing s with
  | nil => exact goesOn_next s
  | cons q r ih => exact bindOut_goesOn (exec_goesOn q.2 _) ih

theorem effectOps_goesOn (k : Fin 1024) (base : Nat) (ops : List (Fin 8 × Instr)) (s : State) :
    GoesOn (effectOps k base ops s) := by
  induction ops generalizing s with
  | nil => exact goesOn_next s
  | cons q r ih => exact bindOut_goesOn (exec_goesOn q.2 _) ih

theorem runMany_goesOn (k : Fin 1024) (b : Bundle) (s : State) : GoesOn (runMany k b s) := by
  refine bindOut_goesOn (checkOps_goesOn k _ b.ops _) fun t => ?_
  dsimp only
  split
  · exact effectOps_goesOn k _ _ _
  · exact goesOn_next _

theorem runBundle_goesOn (k : Fin 1024) (b : Bundle) (s : State) : GoesOn (runBundle k b s) := by
  unfold runBundle
  split
  · exact exec_goesOn _ _
  · exact exec_goesOn _ _
  · exact runMany_goesOn k b s

theorem issueNext_goesOn (k : Fin 1024) (s : State) : GoesOn (issueNext k s) := by
  unfold issueNext
  dsimp only
  split
  · exact goesOn_next _
  · exact goesOn_next _
  · next b _ =>
    split
    · exact goesOn_next _
    · exact bindOut_goesOn (runBundle_goesOn k b s) fun _ => goesOn_next _

theorem runContext_goesOn (k : Fin 1024) (s : State) : GoesOn (runContext k s) := by
  unfold runContext
  dsimp only
  split
  · exact goesOn_next _
  · split
    · exact goesOn_next _
    · exact issueNext_goesOn k s

theorem coreTurn_goesOn (c : Fin 256) (s : State) : GoesOn (coreTurn c s) := by
  unfold coreTurn
  dsimp only
  split
  · split
    · exact goesOn_next _
    · split
      · exact goesOn_next _
      · exact goesOn_next _
      · exact runContext_goesOn _ _
  · exact goesOn_next s

/-! ### What is due by itself at a cycle's end -/

/-- Every act of the list is the meaning of some `Instr`. -/
def Meanings (l : List Act) : Prop := ∀ f ∈ l, ∃ i, f = exec i

theorem meanings_nil : Meanings [] := fun _ h => nomatch h

theorem meanings_singleton (i : Instr) : Meanings [exec i] := fun _ h => ⟨i, List.mem_singleton.1 h⟩

theorem meanings_append {l m : List Act} (hl : Meanings l) (hm : Meanings m) : Meanings (l ++ m) := fun f h =>
  (List.mem_append.1 h).elim (hl f) (hm f)

theorem meanings_flatMap {α : Type} {l : List α} {g : α → List Act} (h : ∀ x, Meanings (g x)) : Meanings (l.flatMap g) := by
  intro f hf
  obtain ⟨x, -, hx⟩ := List.mem_flatMap.1 hf
  exact h x f hx

theorem meanings_filterMap {α : Type} {l : List α} {g : α → Option Act} (h : ∀ x, ∀ f ∈ g x, ∃ i, f = exec i) :
    Meanings (l.filterMap g) := by
  intro f hf
  obtain ⟨x, -, hx⟩ := List.mem_filterMap.1 hf
  exact h x f hx

theorem meanings_map {α : Type} {l : List α} (g : α → Instr) : Meanings (l.map fun x => exec (g x)) := by
  intro f hf
  obtain ⟨x, -, rfl⟩ := List.mem_map.1 hf
  exact ⟨g x, rfl⟩

theorem meanings_ite (p : Prop) [Decidable p] {l m : List Act} (hl : Meanings l) (hm : Meanings m) :
    Meanings (if p then l else m) := by
  split
  · exact hl
  · exact hm

/-- The event in which a piece of work performs is one that the agenda can name. -/
theorem workEventOf_exec (w : Work) : ∀ f ∈ workEventOf w, ∃ i, f = exec i := by
  unfold workEventOf
  cases w.kind with
  | load _ | l1op _ _ _ | spart _ _ | spload _ _ _ | rowload _ _ _ => rintro _ ⟨⟩; exact ⟨.landingDataArrives _ _, rfl⟩
  | amo _ _ => rintro _ ⟨⟩; exact ⟨.amoPerform _ _, rfl⟩
  | vstg _ _ => rintro _ ⟨⟩; exact ⟨.deferredRefusal _ _, rfl⟩
  | flagw _ _ _ _ _ _ _ => rintro _ ⟨⟩; exact ⟨.flagWriteArrives _ _, rfl⟩
  | copy _ => rintro _ ⟨⟩; exact ⟨.copyComplete _ _, rfl⟩
  | drain _ => rintro _ ⟨⟩; exact ⟨.drainComplete _ _, rfl⟩
  | spawn _ | gload _ _ _ | vtab _ _ => rintro _ ⟨⟩; exact ⟨.ladderOpComplete _ _, rfl⟩
  | ladder l =>
    dsimp only
    split
    · rintro _ ⟨⟩; exact ⟨.landingDataArrives _ _, rfl⟩
    · rintro _ ⟨⟩; exact ⟨.ladderOpComplete _ _, rfl⟩
  | wnext _ => rintro _ ⟨⟩

theorem sliceEvents_meanings (s : State) (l : List Work) : Meanings (sliceEvents s l) :=
  meanings_flatMap fun _ =>
    meanings_append (meanings_map fun q : Nat × Fin 1024 => .holdRequest q.2) (meanings_filterMap workEventOf_exec)

theorem workEvents_meanings (s : State) : Meanings (workEvents s) :=
  meanings_append (sliceEvents_meanings s _) (meanings_filterMap workEventOf_exec)

theorem overdueEvents_meanings (s : State) : Meanings (overdueEvents s) := by
  refine meanings_filterMap fun w f hf => ?_
  split at hf
  all_goals split at hf
  · exact ⟨.thermalHoldTimeout w.ctx, (Option.some.inj hf).symm⟩
  · exact nomatch hf
  · exact ⟨.hostAnswerTimeout (coreOf w.ctx) w.seq, (Option.some.inj hf).symm⟩
  · exact nomatch hf

theorem portEvents_meanings (s : State) : Meanings (portEvents s) := by
  refine meanings_filterMap fun p f hf => ?_
  obtain ⟨-, -, h⟩ := Option.map_eq_some_iff.1 hf
  exact ⟨.svethAckTimeout p, h.symm⟩

theorem coreEvents_meanings (s : State) (c : Fin 256) : Meanings (coreEvents s c) :=
  meanings_append (meanings_append (meanings_append (meanings_append
    (meanings_ite _ (meanings_singleton (.mmaStepRetire c)) meanings_nil)
    (meanings_ite _ (meanings_singleton (.rollbackPassTimeout c)) meanings_nil))
    (meanings_ite _ (meanings_singleton (.grantFloorMet c)) meanings_nil))
    (meanings_ite _ (meanings_singleton (.sliceExpiry c)) meanings_nil))
    (meanings_ite _ (meanings_singleton (.coreRestore c)) meanings_nil)

theorem ctxEvents_meanings (s : State) (k : Fin 1024) : Meanings (ctxEvents s k) := by
  unfold ctxEvents
  dsimp only
  split
  · exact meanings_nil
  · exact meanings_ite _ meanings_nil (meanings_singleton (.haltedEngineResult k))
  · exact meanings_nil

theorem poolEvents_meanings (s : State) : Meanings (poolEvents s) := by
  refine meanings_flatMap fun t => meanings_filterMap fun p f hf => ?_
  split at hf
  · exact nomatch hf
  · exact ⟨.wnextServe t p, (Option.some.inj hf).symm⟩

theorem barrierEvents_meanings (s : State) : Meanings (barrierEvents s) := by
  refine meanings_flatMap fun j => meanings_flatMap fun l => meanings_filterMap fun u f hf => ?_
  dsimp only at hf
  split at hf
  · exact ⟨.domainBarrierRelease j.id l u, (Option.some.inj hf).symm⟩
  · exact nomatch hf

theorem admitEvents_meanings (s : State) : Meanings (admitEvents s) := by
  refine meanings_flatMap fun p => meanings_filterMap fun j f hf => ?_
  split at hf
  · exact ⟨.jobAdmit j.id, (Option.some.inj hf).symm⟩
  · exact nomatch hf

theorem drenEvents_meanings (s : State) : Meanings (drenEvents s) := by
  unfold drenEvents
  split
  · next i _ => exact meanings_singleton (.drenIncrement i)
  · exact meanings_nil

/-- Whatever happens by itself is an event that the agenda can name. -/
theorem autoEvents_meanings (s : State) : Meanings (autoEvents s) :=
  meanings_append (meanings_append (meanings_append (meanings_append (meanings_append (meanings_append (meanings_append
    (meanings_append (meanings_append (meanings_append
    (meanings_ite _ (meanings_singleton .budgetPeriod) meanings_nil)
    (meanings_ite _ (meanings_singleton .thermalSample) meanings_nil))
    (meanings_flatMap (ctxEvents_meanings s))) (meanings_flatMap (coreEvents_meanings s))) (overdueEvents_meanings s))
    (workEvents_meanings s)) (drenEvents_meanings s)) (poolEvents_meanings s)) (barrierEvents_meanings s))
    (portEvents_meanings s)) (admitEvents_meanings s)

theorem runActs_goesOn {l : List Act} (hl : Meanings l) (s : State) : GoesOn (runActs l s) := by
  induction l generalizing s with
  | nil => exact goesOn_next s
  | cons f r ih =>
    obtain ⟨i, rfl⟩ := hl f List.mem_cons_self
    exact bindOut_goesOn (exec_goesOn i s) (ih fun g hg => hl g (List.mem_cons_of_mem _ hg))

/-! ### The step -/

theorem endTurn_goesOn (s : State) : GoesOn (endTurn s) := by
  unfold endTurn
  dsimp only
  split
  · exact goesOn_next _
  · split
    · exact bindOut_goesOn (runActs_goesOn (autoEvents_meanings _) _) fun _ => goesOn_next _
    · exact goesOn_next _

theorem happen_goesOn (i : Instr) (s : State) : GoesOn (happen i s) := by
  unfold happen
  split
  · exact bindOut_goesOn (exec_goesOn i s) fun _ => goesOn_next _
  · exact goesOn_next s

theorem step_goesOn (s : State) : GoesOn (step s) := by
  unfold step
  split
  · exact happen_goesOn _ _
  · exact bindOut_goesOn (coreTurn_goesOn _ s) endTurn_goesOn

/-- Settles O58: the meaning of every `Instr` answers a next state (`exec_goesOn`), and a step only puts meanings in sequence. -/
theorem neverStops : Obligations.NeverStops := step_goesOn

/-! ### The state after reset -/

@[simp] theorem byteAt_reset (a : Nat) : byteAt State.reset a = 0 := rfl

@[simp] theorem ctxAt_reset (k : Fin 1024) : ctxAt State.reset k = Ctx.reset := by
  simp [ctxAt, State.reset]

@[simp] theorem coreAt_reset (c : Fin 256) : coreAt State.reset c = Core.reset := by
  simp [coreAt, State.reset]

theorem statusWord_reset : statusWord Arch.reset = 0 := by decide

/-- No bank is allocated after reset (R224). -/
theorem bank_reset (e : Fin 8) : Core.reset.e[e].al = false := by
  simp [Core.reset, Bank.reset]

/-- The thermal thresholds after reset (R365). -/
theorem thresh_reset (i : Fin 4) : State.reset.thresh[i] = 0x0154 := by
  simp [State.reset]

/-- Settles O60: every context and core of the state after reset is the one context and the one core that the model gives. -/
theorem resetState : Obligations.ResetState := by
  refine ⟨memWf_nil, byteAt_reset, rfl, rfl, fun k => ?_, fun c => ?_, rfl, rfl, thresh_reset, rfl⟩
  · rw [ctxAt_reset]
    exact ⟨rfl, rfl, statusWord_reset, rfl, rfl, rfl, rfl, rfl⟩
  · rw [coreAt_reset]
    exact ⟨rfl, rfl, bank_reset⟩

end Sys2Proof.Machine
end

section
/-! PROOFS. The work distributor (R23): a hot request is not held for a cooler one that is not where the distributor looks for it. -/

namespace Sys2Proof.Machine

/-- What a turn of the distributor to a pool answers: the queue of each job that has asked is served. -/
theorem exec_wnextServe (t : Fin 4) (p : Fin 16) (s : State) :
    exec (.wnextServe t p) s = .next ((((requestsOf s t p).map (·.job)).eraseDups).foldl (serveQueue t p) s) := rfl

/-- Job 1, its pool 0 a tile space of one item. -/
def oneTileJob : Job := { placedJob with pools := placedJob.pools.set 0 ⟨1, 0, 1, 1, 1, 0, true, 0, 0, 0⟩ }

/-- A request of context `k` of job 1 to pool 0, with issue number `q`, not judged yet. -/
def freshRequest (k : Fin 1024) (q : Nat) : Work :=
  { newWork State.reset 0x1D 0 0 none 0 (.wnext 0) [] 0 32 with ctx := k, seq := q, job := 1 }

/-- Job 1 runs on cores 0 and 1, of which the column of core 0 is hot (0x155 is above the threshold 0x154). Context 0 has asked pool 0,
and so has context 4 of core 1, but its request stands in a saved image of core 1 instead of among the work of the running core. -/
def coolRequestAstray : State :=
  let s := modCore State.reset 0 fun x => { x with job := some 1, work := [freshRequest 0 5] }
  let s := modCore s 1 fun x => { x with job := some 1 }
  { s with
    jobs := [oneTileJob]
    saved := [⟨1, 1, [], Core.reset.o, Core.reset.e, none, [freshRequest 4 6], 0, [], 0⟩]
    temps := s.temps.set 0 0x155 }

theorem requestsOf_coolRequestAstray : requestsOf coolRequestAstray 0 0 = [freshRequest 0 5, freshRequest 4 6] := by
  decide +kernel

theorem hot_coolRequestAstray : hot coolRequestAstray 0 = true ∧ hot coolRequestAstray 1 = false := by decide +kernel

theorem exec_coolRequestAstray : exec (.wnextServe 0 0) coolRequestAstray = .next (serveQueue 0 0 coolRequestAstray 1) := by
  have oneQueue : ([freshRequest 0 5, freshRequest 4 6].map (·.job)).eraseDups = [1] := by decide +kernel
  rw [exec_wnextServe, requestsOf_coolRequestAstray, oneQueue, List.foldl_cons, List.foldl_nil]

/-- Core 1 runs job 1, so the cooler request is to be admitted among that core's work, where it is not found: no request waits in the
queue as one of a cool column, and the hot one is released in the turn in which it was held, and served. -/
theorem work_served_coolRequestAstray : (coreAt (serveQueue 0 0 coolRequestAstray 1) 0).work = [] := by decide +kernel

/-- Refutes O52. Its clause on a hot request beside a cooler one asks where the hot request stands (`w` is among the work of its core),
but not where the cooler one does, and `modRequest` changes a request only in the place to which its context and job point. In
`coolRequestAstray` the cooler request stands elsewhere; the hot one is then served, and none is held afterwards. -/
theorem not_workDistribution : ¬ Obligations.WorkDistribution := by
  intro holds
  have heldBesideCooler := (holds coolRequestAstray 0 0 0 0 0 (freshRequest 0 5) oneTileJob).2.2.2.1
  obtain ⟨hotCol, coolCol⟩ := hot_coolRequestAstray
  obtain ⟨u, hu, z, hz, -⟩ := heldBesideCooler (freshRequest 4 6) requestsOf_coolRequestAstray (by decide +kernel) rfl rfl hotCol
    coolCol (by decide) rfl rfl
  rw [exec_coolRequestAstray] at hu
  obtain rfl := Host.Outcome.next.inj hu
  rw [show coreOf (freshRequest 0 5).ctx = 0 from rfl, work_served_coolRequestAstray] at hz
  exact List.not_mem_nil hz

end Sys2Proof.Machine
end

section
/-! PROOFS. The selector of a core (R32 to R34): which contexts are ready, which is promoted, and which is selected. -/

namespace Sys2Proof.Machine

/-! ### The best of a list, the first of equals -/

/-- Of the best so far and one more, the one with the higher key, and the earlier of two with the same. -/
def keepHigher {α : Type} (key : α → Nat) (best : Option α) (i : α) : Option α :=
  match best with
  | none => some i
  | some j => if key j < key i then some i else some j

theorem keepHigher_cases {α : Type} (key : α → Nat) (best : Option α) (i : α) :
    (keepHigher key best i = some i ∧ ∀ j, best = some j → key j < key i) ∨
      ∃ j, best = some j ∧ key i ≤ key j ∧ keepHigher key best i = some j := by
  cases best with
  | none => exact .inl ⟨rfl, nofun⟩
  | some j =>
    by_cases h : key j < key i
    · exact .inl ⟨by simp [keepHigher, h], by rintro _ ⟨⟩; exact h⟩
    · exact .inr ⟨j, rfl, Nat.le_of_not_lt h, by simp [keepHigher, h]⟩

/-- The best is one of those compared. -/
theorem mem_of_foldl_keepHigher {α : Type} (key : α → Nat) {l : List α} {best : Option α} {y : α}
    (h : l.foldl (keepHigher key) best = some y) : y ∈ l ∨ best = some y := by
  induction l generalizing best with
  | nil => exact .inr h
  | cons i r ih =>
    rcases ih h with hy | hy
    · exact .inl (List.mem_cons_of_mem _ hy)
    · rcases keepHigher_cases key best i with ⟨e, -⟩ | ⟨j, hj, -, e⟩
      · exact .inl (by simp [Option.some.inj (hy.symm.trans e)])
      · exact .inr (hj.trans (e.symm.trans hy))

/-- No key of those compared is higher than that of the best. -/
theorem le_foldl_keepHigher {α : Type} (key : α → Nat) {l : List α} {best : Option α} {k : α} (h : k ∈ l ∨ best = some k) :
    ∃ y, l.foldl (keepHigher key) best = some y ∧ key k ≤ key y := by
  induction l generalizing best k with
  | nil => exact ⟨k, h.resolve_left List.not_mem_nil, Nat.le_refl _⟩
  | cons i r ih =>
    by_cases hr : k ∈ r
    · exact ih (.inl hr)
    · have first : ∃ j, keepHigher key best i = some j ∧ key k ≤ key j := by
        rcases h with h | rfl
        · obtain rfl : k = i := (List.mem_cons.1 h).resolve_right hr
          rcases keepHigher_cases key best k with ⟨e, -⟩ | ⟨j, -, hle, e⟩
          · exact ⟨k, e, Nat.le_refl _⟩
          · exact ⟨j, e, hle⟩
        · rcases keepHigher_cases key (some k) i with ⟨e, hlt⟩ | ⟨j, hj, -, e⟩
          · exact ⟨i, e, (hlt k rfl).le⟩
          · exact ⟨j, e, (congrArg key (Option.some.inj hj)).le⟩
      obtain ⟨j, hj, hle⟩ := first
      obtain ⟨y, hy, hjy⟩ := ih (.inr hj)
      exact ⟨y, hy, hle.trans hjy⟩

/-! ### Ready and promoted contexts -/

/-- The wait count and the priority of a context of a core (R32). -/
def waitsOf (s : State) (c : Fin 256) (i : Fin 4) : Nat := (ctxAt s (ctxId c i)).waitCount
def prioOf (s : State) (c : Fin 256) (i : Fin 4) : Nat := (ctxAt s (ctxId c i)).arch.prio.toNat

@[simp] theorem mem_readyOf (s : State) (c : Fin 256) (i : Fin 4) : i ∈ readyOf s c ↔ ctxReady s (ctxId c i) = true := by
  simp [readyOf]

theorem bestPromoted_eq (s : State) (c : Fin 256) :
    bestPromoted s c = ((readyOf s c).filter fun i => decide (1024 ≤ waitsOf s c i)).foldl (keepHigher (waitsOf s c)) none := by
  rw [List.foldl_filter]
  unfold bestPromoted
  congr 1
  funext b i
  have promoted : (decide (1024 ≤ waitsOf s c i) = true) = ¬ (ctxAt s (ctxId c i)).waitCount < promoteAt := by
    simp only [decide_eq_true_eq, Nat.not_lt]
    rfl
  simp only [promoted, ite_not]
  cases b <;> rfl

theorem bestPromoted_some {s : State} {c : Fin 256} {i : Fin 4} (h : bestPromoted s c = some i) :
    ctxReady s (ctxId c i) = true ∧ 1024 ≤ waitsOf s c i := by
  rw [bestPromoted_eq] at h
  simpa using (mem_of_foldl_keepHigher _ h).resolve_right nofun

theorem le_bestPromoted {s : State} {c : Fin 256} {k : Fin 4} (hr : ctxReady s (ctxId c k) = true) (hk : 1024 ≤ waitsOf s c k) :
    ∃ y, bestPromoted s c = some y ∧ waitsOf s c k ≤ waitsOf s c y := by
  rw [bestPromoted_eq]
  exact le_foldl_keepHigher _ (.inl (by simp [hr, hk]))

theorem bestPromoted_none {s : State} {c : Fin 256} (h : ∀ k, ctxReady s (ctxId c k) = true → waitsOf s c k < 1024) :
    bestPromoted s c = none :=
  Option.eq_none_iff_forall_ne_some.2 fun i hi =>
    Nat.not_lt.2 (bestPromoted_some hi).2 (h i (bestPromoted_some hi).1)

theorem handedOver_some (s : State) (c : Fin 256) (h : Fin 4) :
    handedOver s c = some h ↔
      (coreAt s c).holder = some h ∧ (coreAt s c).streak = 0 ∧ ctxReady s (ctxId c h) = true ∧ 1024 ≤ waitsOf s c h := by
  simp only [handedOver, Option.filter_eq_some_iff, and_assoc, Bool.and_eq_true, beq_iff_eq, decide_eq_true_eq]
  rfl

theorem handedOver_none_of_streak {s : State} {c : Fin 256} (h : (coreAt s c).streak ≠ 0) : handedOver s c = none :=
  Option.eq_none_iff_forall_ne_some.2 fun i hi => h ((handedOver_some s c i).1 hi).2.1

theorem handedOver_none {s : State} {c : Fin 256} (h : ∀ k, ctxReady s (ctxId c k) = true → waitsOf s c k < 1024) :
    handedOver s c = none :=
  Option.eq_none_iff_forall_ne_some.2 fun i hi => by
    obtain ⟨-, -, hr, hw⟩ := (handedOver_some s c i).1 hi
    exact Nat.not_lt.2 hw (h i hr)

/-! ### The turn of the highest priority -/

/-- Every context of a core has a place in the round robin. -/
theorem mem_robin (last : Option (Fin 4)) (i : Fin 4) : i ∈ robin last := by
  revert last i
  decide

theorem nextInTurn_eq (s : State) (c : Fin 256) :
    nextInTurn s c = ((robin (coreAt s c).last).filter (readyOf s c).contains).foldl (keepHigher (prioOf s c)) none := by
  unfold nextInTurn
  dsimp only
  congr 1
  funext b i
  cases b <;> rfl

theorem nextInTurn_ready {s : State} {c : Fin 256} {i : Fin 4} (h : nextInTurn s c = some i) : ctxReady s (ctxId c i) = true := by
  rw [nextInTurn_eq] at h
  have hm := (mem_of_foldl_keepHigher _ h).resolve_right nofun
  simpa using (List.mem_filter.1 hm).2

theorem le_nextInTurn {s : State} {c : Fin 256} {k : Fin 4} (hr : ctxReady s (ctxId c k) = true) :
    ∃ y, nextInTurn s c = some y ∧ prioOf s c k ≤ prioOf s c y := by
  rw [nextInTurn_eq]
  exact le_foldl_keepHigher _ (.inl (List.mem_filter.2 ⟨mem_robin _ k, by simpa using hr⟩))

/-! ### The selected context -/

theorem selected_of_handedOver {s : State} {c : Fin 256} {h : Fin 4} (hh : handedOver s c = some h) : selected s c = some h := by
  simp [selected, hh]

theorem selected_of_promoted {s : State} {c : Fin 256} {i : Fin 4} (hh : handedOver s c = none) (hb : bestPromoted s c = some i) :
    selected s c = some i := by
  simp [selected, hh, hb]

theorem selected_of_holder {s : State} {c : Fin 256} {h : Fin 4} (hh : handedOver s c = none) (hb : bestPromoted s c = none)
    (hx : (coreAt s c).holder = some h) (hr : ctxReady s (ctxId c h) = true) : selected s c = some h := by
  simp [selected, hh, hb, hx, hr]

theorem selected_in_turn {s : State} {c : Fin 256} (hh : handedOver s c = none) (hb : bestPromoted s c = none)
    (hx : ∀ k, (coreAt s c).holder = some k → ctxReady s (ctxId c k) = false) : selected s c = nextInTurn s c := by
  cases hk : (coreAt s c).holder with
  | none => simp [selected, hh, hb, hk]
  | some k => simp [selected, hh, hb, hk, hx k hk]

/-- How the selected context came to be selected. -/
theorem selected_cases (s : State) (c : Fin 256) :
    (∃ h, handedOver s c = some h ∧ selected s c = some h) ∨ (∃ i, bestPromoted s c = some i ∧ selected s c = some i) ∨
      (∃ h, (coreAt s c).holder = some h ∧ ctxReady s (ctxId c h) = true ∧ selected s c = some h) ∨
      selected s c = nextInTurn s c := by
  cases hh : handedOver s c with
  | some h => exact .inl ⟨h, rfl, selected_of_handedOver hh⟩
  | none =>
    cases hb : bestPromoted s c with
    | some i => exact .inr (.inl ⟨i, rfl, selected_of_promoted hh hb⟩)
    | none =>
      by_cases hx : ∃ h, (coreAt s c).holder = some h ∧ ctxReady s (ctxId c h) = true
      · obtain ⟨h, hk, hr⟩ := hx
        exact .inr (.inr (.inl ⟨h, hk, hr, selected_of_holder hh hb hk hr⟩))
      · exact .inr (.inr (.inr (selected_in_turn hh hb fun k hk => by simpa using fun hr => hx ⟨k, hk, hr⟩)))

theorem selected_ready {s : State} {c : Fin 256} {i : Fin 4} (h : selected s c = some i) : ctxReady s (ctxId c i) = true := by
  rcases selected_cases s c with ⟨k, hk, e⟩ | ⟨k, hk, e⟩ | ⟨k, -, hr, e⟩ | e
  all_goals rw [h] at e
  · exact Option.some.inj e ▸ ((handedOver_some s c k).1 hk).2.2.1
  · exact Option.some.inj e ▸ (bestPromoted_some hk).1
  · exact Option.some.inj e ▸ hr
  · exact nextInTurn_ready e.symm

theorem selected_none {s : State} {c : Fin 256} (h : selected s c = none) (k : Fin 4) : ctxReady s (ctxId c k) = false := by
  rcases selected_cases s c with ⟨_, -, e⟩ | ⟨_, -, e⟩ | ⟨_, -, -, e⟩ | e
  all_goals rw [h] at e
  · exact nomatch e
  · exact nomatch e
  · exact nomatch e
  · by_contra hr
    obtain ⟨y, hy, -⟩ := le_nextInTurn (s := s) (c := c) (k := k) (by simpa using hr)
    exact nomatch e.trans hy

/-! ### Giving up the issue width -/

theorem rivalReady_iff (s : State) (c : Fin 256) (h : Fin 4) :
    rivalReady s c h = true ↔ ∃ k, k ≠ h ∧ ctxReady s (ctxId c k) = true ∧ prioOf s c h ≤ prioOf s c k := by
  simp [rivalReady, prioOf, and_left_comm]

theorem exec_quantExpiry (c : Fin 256) (s : State) : exec (.quantExpiry c) s = .next (expire false s c) := rfl

theorem exec_contextPromotion (c : Fin 256) (s : State) : exec (.contextPromotion c) s = .next (promote s c) := rfl

theorem expire_of_no_holder {s : State} {c : Fin 256} (yields : Bool) (h : (coreAt s c).holder = none) : expire yields s c = s := by
  simp [expire, h]

/-- The holder gives the width up after `QUANT` bundles, to a rival that is ready (R34). -/
theorem expire_quant {s : State} {c : Fin 256} {h : Fin 4} (hx : (coreAt s c).holder = some h) :
    expire false s c = if (coreAt s c).quant ≠ 0 ∧ (coreAt s c).quant.toNat ≤ (coreAt s c).streak ∧ rivalReady s c h = true then
      dropHolder s c else s := by
  simp [expire, hx, and_assoc]

theorem promote_none {s : State} {c : Fin 256} (h : bestPromoted s c = none) : promote s c = s := by
  simp [promote, h]

theorem promote_some {s : State} {c : Fin 256} {i : Fin 4} (h : bestPromoted s c = some i) :
    promote s c = if (coreAt s c).holder = some i ∨ ∃ k, handedOver s c = some k then s else dropHolder s c := by
  simp [promote, h, Option.isSome_iff_exists]

/-- Settles O51: each clause is one of the ways in which a context is selected, or the holder gives the width up. -/
theorem selection : Obligations.Selection := by
  intro s c i h prio ready x dropped
  refine ⟨selected_ready, fun hn k => selected_none hn k, fun hx hs hr hw => ?_, handedOver_none_of_streak, fun hh k hr hk => ?_,
    fun low => ⟨fun hx hr => ?_, fun hx hsel k hr => ?_⟩, fun hx => ?_, fun hx => ?_, fun low => ?_, fun hb => ?_⟩
  · exact selected_of_handedOver ((handedOver_some s c h).2 ⟨hx, hs, hr, hw⟩)
  · obtain ⟨y, hy, hle⟩ := le_bestPromoted hr hk
    exact ⟨y, selected_of_promoted hh hy, hle⟩
  · exact selected_of_holder (handedOver_none low) (bestPromoted_none low) hx hr
  · rw [selected_in_turn (handedOver_none low) (bestPromoted_none low) hx] at hsel
    obtain ⟨y, hy, hle⟩ := le_nextInTurn hr
    exact Option.some.inj (hy.symm.trans hsel) ▸ hle
  · rw [exec_quantExpiry, expire_quant hx]
    simp only [rivalReady_iff]
    rfl
  · rw [exec_quantExpiry, expire_of_no_holder false hx]
  · rw [exec_contextPromotion, promote_none (bestPromoted_none low)]
  · rw [exec_contextPromotion, promote_some hb]
    simp only [handedOver_some]
    rfl

end Sys2Proof.Machine
end

section
/-! PROOFS. The step: an event that is due or a core's turn, what a selected context does and what follows its bundle (R24, R31, R52);
the schedule clock as a context reads it (R25). -/

namespace Sys2Proof.Machine

open Sys2Proof.Safety

/-! ### Reading the schedule clock -/

theorem csrRead_sched (s : State) (k : Fin 1024) : csrRead s k 0x005 = (ctxAt s k).arch.sched := rfl

/-- A CSR that is read lands what it holds (R137). -/
theorem exec_csrr (d : Fin 64) (i : BitVec 12) (s : State) (h : Alone 1 s) :
    exec (.csrr d i) s = .next (land 1 (.sreg d (csrRead (issued s) s.cur i)) 0 (issued s)) :=
  runSlot_plain (csrProbe d i false) (fun s => land 1 (.sreg d (csrRead s s.cur i)) 0 s) s 1 h rfl (.inl rfl) (wrS_nodup d)
    (Nat.le_refl 1) rfl

/-- Settles O10: `SCHED` is the clock of the context that reads it, and a bundle that issues leaves its own clock as it is. -/
theorem schedReadsClock : Obligations.SchedReadsClock := by
  intro s d h
  have clock : (ctxAt (issued s) s.cur).arch.sched = (ctxAt s s.cur).arch.sched := congrArg Arch.sched (curArch_issued s)
  rw [exec_csrr d _ s h, csrRead_sched, clock]

/-! ### One step -/

theorem step_of_due {s u : State} {i : Instr} (h : takeDue s = some (i, u)) : step s = happen i u := by
  simp [step, h]

theorem step_of_turn {s : State} (h : takeDue s = none) : step s = bindOut (coreTurn s.turn s) endTurn := by
  simp [step, h]

theorem coreTurn_of_not_runs {s : State} {c : Fin 256} (h : coreRuns s c = false) : coreTurn c s = .next s := by
  simp [coreTurn, h]

theorem coreTurn_of_issues {s u : State} {c : Fin 256} {n : Fin 4} (hs : coreRuns s c = true)
    (hp : coreRuns (prepare s c) c = true) (hc : choose (prepare s c) c = (.issues n, u)) :
    coreTurn c s = runContext (ctxId c n) u := by
  simp [coreTurn, hs, hp, hc]

theorem runContext_of_standing {s : State} {k : Fin 1024} {f : FaultRec} (h : faultStands (ctxAt s k) = false)
    (hf : standingFault (ctxAt s k) = some f) :
    runContext k s = .next (useWidth (trapEnter k f (ctxAt s k).arch.pc s) k) := by
  simp [runContext, h, hf]

theorem runContext_of_no_fault {s : State} {k : Fin 1024} (h : faultStands (ctxAt s k) = false)
    (hf : standingFault (ctxAt s k) = none) : runContext k s = issueNext k s := by
  simp [runContext, h, hf]

/-- A core that does not roll back stops no bundle for its repeat flag (R398). -/
theorem stopsRollback_of_not_rolling {s : State} {k : Fin 1024} (h : (coreAt s (coreOf k)).rolling = none)
    (o : Host.Outcome State Fault Refusal) : stopsRollback s k o = false := by
  simp [stopsRollback, h]

/-- A bundle of one operation is that operation, and what follows a bundle. -/
theorem issueNext_of_one {s : State} {k : Fin 1024} {len : Nat} {m : Fin 8} {i : Instr}
    (hr : (coreAt s (coreOf k)).rolling = none) (hb : bundleAt s k = some (.ok ⟨false, len, [(m, i)]⟩)) :
    issueNext k s = bindOut (exec i (atSlot k s.seq .whole m s)) fun t => .next
      (finishBundle k (ctxAt s k).arch (BitVec.ofNat 64 (afterBundle s (coreOf k) (ctxAt s k).arch.pc.toNat)) s.seq t) := by
  simp [issueNext, hb, stopsRollback_of_not_rolling hr, runBundle]

theorem bindOut_bindOut_next (o : Host.Outcome State Fault Refusal) (f : State → State)
    (g : State → Host.Outcome State Fault Refusal) :
    bindOut (bindOut o fun t => .next (f t)) g = bindOut o fun t => g (f t) := by
  cases o <;> rfl

/-! ### What follows a bundle -/

theorem ctxAt_rollCount (s : State) (k j : Fin 1024) : ctxAt (rollCount s k) j = ctxAt s j := by
  unfold rollCount
  split <;> rfl

theorem rollCount_mem (s : State) (k : Fin 1024) : (rollCount s k).mem = s.mem := by
  unfold rollCount
  split <;> rfl

theorem useWidth_arch (s : State) (k : Fin 1024) : (ctxAt (useWidth s k) k).arch = (ctxAt s k).arch := by
  simp [useWidth, ctxAt_rollCount]

theorem useWidth_mem (s : State) (k : Fin 1024) : (useWidth s k).mem = s.mem := rollCount_mem s k

theorem loopNext_nil (next : Word) : loopNext next [] = (next, []) := rfl

/-- Without a transfer or a loop, control goes on past the bundle, and the clock by one (R24, R61, R63). -/
theorem advance_arch {k : Fin 1024} {old : Arch} {next : Word} {s : State} (hf : s.flow = .issued) (ho : old.xfer = none)
    (hx : (ctxAt s k).arch.xfer = none) (hl : (ctxAt s k).arch.loops = []) :
    (ctxAt (advance k old next s) k).arch = { (ctxAt s k).arch with pc := next, sched := (ctxAt s k).arch.sched + 1 } := by
  simp [advance, hf, ho, hx, hl, loopNext_nil]

/-- What follows a bundle that issued is the use of the width, and counts of its core. -/
theorem finishBundle_of_issued (k : Fin 1024) (old : Arch) (next : Word) (base : Nat) {s : State} (hf : s.flow = .issued) :
    finishBundle k old next base s = earn (countEvent (useWidth
      (advance k old next { s with phase := .whole, probes := [], seq := base + 8 }) k) (coreOf k) 0x0001 1) (coreOf k) := by
  simp [finishBundle, hf]

theorem finishBundle_arch_mem (k : Fin 1024) (old : Arch) (next : Word) (base : Nat) {s : State} (hf : s.flow = .issued) :
    (ctxAt (finishBundle k old next base s) k).arch =
      (ctxAt (advance k old next { s with phase := .whole, probes := [], seq := base + 8 }) k).arch ∧
    (finishBundle k old next base s).mem = (advance k old next { s with phase := .whole, probes := [], seq := base + 8 }).mem := by
  rw [finishBundle_of_issued k old next base hf]
  generalize advance k old next _ = t
  exact ⟨useWidth_arch t k, useWidth_mem t k⟩

/-- Settles O57: `step`, `coreTurn`, `runContext` and `issueNext` each take the branch that the hypotheses name. -/
theorem stepRunsDecoded : Obligations.StepRunsDecoded := by
  intro s u i n m len
  refine ⟨fun h => ?_, fun h hr => ?_, fun h hs hp hc => ?_⟩
  · rw [step_of_due h]
    rfl
  · rw [step_of_turn h, coreTurn_of_not_runs hr]
    rfl
  · intro k hk
    refine ⟨fun f hf => ?_, fun hf hr hb => ?_⟩
    · rw [step_of_turn h, coreTurn_of_issues hs hp hc, runContext_of_standing hk hf]
      rfl
    · intro next
      refine ⟨?_, fun t ht ho hx hl => ?_⟩
      · rw [step_of_turn h, coreTurn_of_issues hs hp hc, runContext_of_no_fault hk hf, issueNext_of_one hr hb,
          bindOut_bindOut_next]
      · obtain ⟨arch, mem⟩ := finishBundle_arch_mem k (ctxAt u k).arch next u.seq ht
        exact ⟨arch.trans (advance_arch ht ho hx hl), mem⟩

end Sys2Proof.Machine
end

section
/-! PROOFS. Lists put in order by a key, as the landing order of R26 puts results: grouped by rising key, each group in its own order. -/

namespace Sys2Proof.Machine

/-! ### Rising lists -/

theorem mem_insertOnce (n a : Nat) (l : List Nat) : a ∈ insertOnce n l ↔ a = n ∨ a ∈ l := by
  induction l with
  | nil => simp [insertOnce]
  | cons b r ih =>
    unfold insertOnce
    split
    · simp
    · split
      · next h => simp [h]
      · simp [ih, or_left_comm]

theorem insertOnce_pairwise (n : Nat) {l : List Nat} (h : l.Pairwise (· < ·)) : (insertOnce n l).Pairwise (· < ·) := by
  induction l with
  | nil => simp [insertOnce]
  | cons b r ih =>
    obtain ⟨hb, hr⟩ := List.pairwise_cons.1 h
    unfold insertOnce
    split
    · next hn =>
      refine List.pairwise_cons.2 ⟨fun a ha => ?_, h⟩
      rcases List.mem_cons.1 ha with rfl | ha
      · exact hn
      · exact Nat.lt_trans hn (hb a ha)
    · split
      · exact h
      · refine List.pairwise_cons.2 ⟨fun a ha => ?_, ih hr⟩
        rcases (mem_insertOnce n a r).1 ha with rfl | ha
        · omega
        · exact hb a ha

theorem foldl_insertOnce (l r : List Nat) (h : r.Pairwise (· < ·)) :
    (l.foldl (fun r n => insertOnce n r) r).Pairwise (· < ·) ∧
      ∀ a, a ∈ l.foldl (fun r n => insertOnce n r) r ↔ a ∈ l ∨ a ∈ r := by
  induction l generalizing r with
  | nil => exact ⟨h, by simp⟩
  | cons n l ih =>
    obtain ⟨hp, hm⟩ := ih (insertOnce n r) (insertOnce_pairwise n h)
    refine ⟨hp, fun a => ?_⟩
    rw [List.foldl_cons, hm, mem_insertOnce, List.mem_cons, or_left_comm, or_assoc]

theorem rising_pairwise (l : List Nat) : (rising l).Pairwise (· < ·) := (foldl_insertOnce l [] .nil).1

@[simp] theorem mem_rising (l : List Nat) (a : Nat) : a ∈ rising l ↔ a ∈ l := by
  have h := (foldl_insertOnce l [] .nil).2 a
  rwa [or_iff_left List.not_mem_nil] at h

theorem rising_nodup (l : List Nat) : (rising l).Nodup := (rising_pairwise l).imp Nat.ne_of_lt

/-! ### Grouping by a key -/

/-- A list in order of a key, the elements of one key in the order that `within` gives them. -/
def byKey {α : Type} (key : α → Nat) (within : List α → List α) (l : List α) : List α :=
  (rising (l.map key)).flatMap fun u => within (l.filter fun x => key x = u)

/-- The groups of keys that cover a list make the list. -/
theorem flatMap_filter_perm {α : Type} (key : α → Nat) (within : List α → List α) (hw : ∀ m, (within m).Perm m) (ks : List Nat)
    (hk : ks.Nodup) (l : List α) (hl : ∀ x ∈ l, key x ∈ ks) :
    (ks.flatMap fun u => within (l.filter fun x => key x = u)).Perm l := by
  induction ks generalizing l with
  | nil =>
    cases l with
    | nil => exact .refl _
    | cons x r => exact absurd (hl x List.mem_cons_self) List.not_mem_nil
  | cons u r ih =>
    obtain ⟨hu, hr⟩ := List.nodup_cons.1 hk
    let others := l.filter fun x => !decide (key x = u)
    have rest : (r.flatMap fun v => within (l.filter fun x => key x = v)) =
        r.flatMap fun v => within (others.filter fun x => key x = v) := by
      refine List.flatMap_congr fun v hv => ?_
      rw [List.filter_filter]
      refine congrArg within (List.filter_congr fun x _ => ?_)
      by_cases h : key x = v
      · have : v ≠ u := fun e => hu (e ▸ hv)
        simp [h, this]
      · simp [h]
    rw [List.flatMap_cons, rest]
    have covered : ∀ x ∈ others, key x ∈ r := fun x hx => by
      obtain ⟨hxl, hxu⟩ := List.mem_filter.1 hx
      exact (List.mem_cons.1 (hl x hxl)).resolve_left (by simpa using hxu)
    exact ((hw _).append (ih hr others covered)).trans (List.filter_append_perm _ l)

theorem byKey_perm {α : Type} (key : α → Nat) (within : List α → List α) (hw : ∀ m, (within m).Perm m) (l : List α) :
    (byKey key within l).Perm l :=
  flatMap_filter_perm key within hw _ (rising_nodup _) l fun x hx => by simpa using ⟨x, hx, rfl⟩

/-- Elements of rising keys, and within a key as its group has them. -/
theorem byKey_pairwise {α : Type} (key : α → Nat) (within : List α → List α) (hw : ∀ m, (within m).Perm m) (R : α → α → Prop)
    (l : List α) (hlt : ∀ x y, key x < key y → R x y) (hin : ∀ u, (within (l.filter fun x => key x = u)).Pairwise R) :
    (byKey key within l).Pairwise R := by
  have keyOf : ∀ u, ∀ x ∈ within (l.filter fun x => key x = u), key x = u := fun u x hx => by
    simpa using (List.mem_filter.1 ((hw _).mem_iff.1 hx)).2
  refine List.pairwise_flatMap.2 ⟨fun u _ => hin u, (rising_pairwise _).imp fun {u v} huv x hx y hy => hlt x y ?_⟩
  rw [keyOf u x hx, keyOf v y hy]
  exact huv

/-- Of distinct keys, at most one has a group that is not empty. -/
theorem flatMap_single {α : Type} (ks : List Nat) (hk : ks.Nodup) (g : Nat → List α) (d : Nat) (hg : ∀ u, u ≠ d → g u = [])
    (hd : d ∉ ks → g d = []) : ks.flatMap g = g d := by
  induction ks with
  | nil => exact (hd List.not_mem_nil).symm
  | cons u r ih =>
    obtain ⟨hu, hr⟩ := List.nodup_cons.1 hk
    rw [List.flatMap_cons]
    by_cases h : u = d
    · subst h
      have : r.flatMap g = [] := List.flatMap_eq_nil_iff.2 fun v hv => hg v fun e => hu (e ▸ hv)
      rw [this, List.append_nil]
    · rw [hg u h, List.nil_append]
      exact ih hr fun hn => hd fun hm => (List.mem_cons.1 hm).elim (fun e => h e.symm) hn

/-- The elements of one key stand as their group has them. -/
theorem filter_byKey {α : Type} (key : α → Nat) (within : List α → List α) (hw : ∀ m, (within m).Perm m) (l : List α) (d : Nat)
    (p : α → Bool) (hp : ∀ x, p x = true → key x = d) :
    (byKey key within l).filter p = (within (l.filter fun x => key x = d)).filter p := by
  have keyOf : ∀ u, ∀ x ∈ within (l.filter fun x => key x = u), key x = u := fun u x hx => by
    simpa using (List.mem_filter.1 ((hw _).mem_iff.1 hx)).2
  rw [byKey, List.filter_flatMap]
  refine flatMap_single _ (rising_nodup _) (fun u => (within (l.filter fun x => key x = u)).filter p) d (fun u hu => ?_) fun hd => ?_
  · refine List.filter_eq_nil_iff.2 fun x hx hpx => hu ?_
    rw [← keyOf u x hx, hp x hpx]
  · refine List.filter_eq_nil_iff.2 fun x hx hpx => hd ?_
    have hxl := List.mem_of_mem_filter ((hw _).mem_iff.1 hx)
    simpa using ⟨x, hxl, hp x hpx⟩

/-! ### Results in landing order -/

/-- Results in order of landing cycle, those of one cycle in the issue order of their operations (R26, R27). -/
def inLandingOrder (l : List Flight) : List Flight := byKey Flight.due (byKey Flight.seq id) l

theorem bySeq_perm (l : List Flight) : (byKey Flight.seq id l).Perm l := byKey_perm _ id (fun _ => .refl _) l

theorem inLandingOrder_perm (l : List Flight) : (inLandingOrder l).Perm l := byKey_perm _ _ bySeq_perm l

theorem inLandingOrder_pairwise (l : List Flight) :
    (inLandingOrder l).Pairwise fun f g => f.due < g.due ∨ (f.due = g.due ∧ f.seq ≤ g.seq) := by
  refine byKey_pairwise _ _ bySeq_perm _ l (fun _ _ h => .inl h) fun u => ?_
  have sameDue : ∀ f ∈ byKey Flight.seq id (l.filter fun x => x.due = u), f.due = u := fun f hf => by
    simpa using (List.mem_filter.1 ((bySeq_perm _).mem_iff.1 hf)).2
  have rises : (byKey Flight.seq id (l.filter fun x => x.due = u)).Pairwise fun f g => f.seq ≤ g.seq := by
    refine byKey_pairwise _ id (fun _ => .refl _) _ _ (fun _ _ h => h.le) fun q => ?_
    refine List.Pairwise.imp_of_mem (R := fun _ _ => True) (fun {f g} hf hg _ => ?_) (List.pairwise_of_forall fun _ _ => trivial)
    have sameSeq : ∀ x ∈ ((l.filter fun x => x.due = u).filter fun x => x.seq = q), x.seq = q := fun x hx => by
      simpa using (List.mem_filter.1 hx).2
    rw [sameSeq f hf, sameSeq g hg]
  exact rises.imp_of_mem fun {f g} hf hg h => .inr ⟨(sameDue f hf).trans (sameDue g hg).symm, h⟩

/-- Those of one operation in one cycle stand as they stood. -/
theorem filter_inLandingOrder (l : List Flight) (d q : Nat) :
    (inLandingOrder l).filter (fun f => decide (f.due = d) && decide (f.seq = q)) =
      l.filter fun f => decide (f.due = d) && decide (f.seq = q) := by
  have both : ∀ f : Flight, (decide (f.due = d) && decide (f.seq = q)) = true → f.due = d ∧ f.seq = q := by simp
  rw [inLandingOrder, filter_byKey _ _ bySeq_perm l d _ fun f h => (both f h).1,
    filter_byKey _ id (fun _ => .refl _) _ q _ fun f h => (both f h).2]
  simp only [id, List.filter_filter]
  refine List.filter_congr fun f _ => ?_
  cases decide (f.due = d) <;> cases decide (f.seq = q) <;> rfl

end Sys2Proof.Machine
end

section
/-! PROOFS. How results land (R26 to R30): what a register or CSR result changes, and that the results that are due land in landing
order. -/

namespace Sys2Proof.Machine

/-! ### Results that write registers and CSRs -/

/-- The results that write a register or a CSR, or nothing: not those of accumulator memory, and not a fence. -/
def isRegisterResult : Landing → Bool
  | .rowStore _ _ _ _ _ => false
  | .zeroBands _ _ => false
  | .matrix _ => false
  | .fence _ _ _ _ => false
  | _ => true

/-- Two states that a landing of context `k` cannot tell apart: its registers, the cores, memory and the other contexts are the same. -/
structure LandsAs (k : Fin 1024) (t u : State) : Prop where
  arch : (ctxAt t k).arch = (ctxAt u k).arch
  cores : ∀ c, coreAt t c = coreAt u c
  mem : t.mem = u.mem
  others : ∀ j, j ≠ k → ctxAt t j = ctxAt u j

theorem LandsAs.refl (k : Fin 1024) (s : State) : LandsAs k s s := ⟨rfl, fun _ => rfl, rfl, fun _ _ => rfl⟩

theorem LandsAs.trans {k : Fin 1024} {s t u : State} (h : LandsAs k s t) (g : LandsAs k t u) : LandsAs k s u :=
  ⟨h.arch.trans g.arch, fun c => (h.cores c).trans (g.cores c), h.mem.trans g.mem, fun j hj => (h.others j hj).trans (g.others j hj)⟩

/-- What no register or CSR result of context `k` changes. -/
structure KeepsRest (k : Fin 1024) (s t : State) : Prop where
  mem : t.mem = s.mem
  others : ∀ j, j ≠ k → ctxAt t j = ctxAt s j
  flight : (ctxAt t k).flight = (ctxAt s k).flight
  xops : (ctxAt t k).xops = (ctxAt s k).xops
  rolling : (coreAt t (coreOf k)).rolling = (coreAt s (coreOf k)).rolling

theorem KeepsRest.refl (k : Fin 1024) (s : State) : KeepsRest k s s := ⟨rfl, fun _ _ => rfl, rfl, rfl, rfl⟩

theorem KeepsRest.trans {k : Fin 1024} {s t u : State} (h : KeepsRest k s t) (g : KeepsRest k t u) : KeepsRest k s u :=
  ⟨g.mem.trans h.mem, fun j hj => (g.others j hj).trans (h.others j hj), g.flight.trans h.flight, g.xops.trans h.xops,
    g.rolling.trans h.rolling⟩

/-- A write of registers or CSRs of a context, which reads nothing else. -/
structure RegisterWrite (k : Fin 1024) (w : State → State) : Prop where
  respects : ∀ t u, LandsAs k t u → LandsAs k (w t) (w u)
  keeps : ∀ s, KeepsRest k s (w s)

theorem RegisterWrite.id (k : Fin 1024) : RegisterWrite k fun s => s := ⟨fun _ _ h => h, KeepsRest.refl k⟩

theorem RegisterWrite.comp {k : Fin 1024} {v w : State → State} (hv : RegisterWrite k v) (hw : RegisterWrite k w) :
    RegisterWrite k fun s => w (v s) :=
  ⟨fun t u h => hw.respects _ _ (hv.respects t u h), fun s => (hv.keeps s).trans (hw.keeps _)⟩

theorem RegisterWrite.modArch (k : Fin 1024) (f : Arch → Arch) : RegisterWrite k fun s => modArch s k f where
  respects t u h := by
    refine ⟨?_, h.cores, h.mem, fun j hj => ?_⟩
    · simp [h.arch]
    · rw [ctxAt_modArch_ne t k j f hj, ctxAt_modArch_ne u k j f hj, h.others j hj]
  keeps s := ⟨rfl, fun j hj => ctxAt_modArch_ne s k j f hj, by simp, by simp, rfl⟩

theorem RegisterWrite.modCore (k : Fin 1024) (g : Core → Core) (hg : ∀ c, (g c).rolling = c.rolling) :
    RegisterWrite k fun s => modCore s (coreOf k) g where
  respects t u h := by
    refine ⟨h.arch, fun c => ?_, h.mem, h.others⟩
    by_cases hc : c = coreOf k
    · subst hc
      simp [h.cores]
    · rw [coreAt_modCore_ne t _ c g hc, coreAt_modCore_ne u _ c g hc, h.cores]
  keeps s := ⟨rfl, fun _ _ => rfl, rfl, rfl, by simp [hg]⟩

theorem RegisterWrite.ite {k : Fin 1024} (p : Prop) [Decidable p] {v w : State → State} (hv : RegisterWrite k v)
    (hw : RegisterWrite k w) : RegisterWrite k fun s => if p then v s else w s := by
  split
  · exact hv
  · exact hw

theorem csrWrite_registerWrite (k : Fin 1024) (i : BitVec 12) (x c : Word) (w : Bool) :
    RegisterWrite k fun s => csrWrite s k i x c w :=
  .ite _ (.modArch k _) <| .ite _ (.modCore k _ fun _ => rfl) <| .ite _ (.modArch k _) <| .ite _ (.modArch k _) <|
    .ite _ (.modArch k _) <| .ite _ (.modArch k _) <| .ite _ (.modArch k _) <| .ite _ (.modArch k _) <| .ite _ (.modArch k _) <|
    .ite _ (.modArch k _) <| .ite _ (.modArch k _) <| .ite _ (.modCore k _ fun _ => rfl) <|
    .ite _ (.modCore k _ fun _ => rfl) (.id k)

/-- What the write of CSR `i` leaves of a context's registers: the files `v`, `p`, `m`, `w`, and the flags unless it is theirs (R68). -/
structure KeepsFiles (i : BitVec 12) (a b : Arch) : Prop where
  v : b.v = a.v
  p : b.p = a.p
  m : b.m = a.m
  w : b.w = a.w
  fstat : i.toNat ≠ 0x021 → b.fstat = a.fstat
  astat : i.toNat ≠ 0x020 → b.astat = a.astat

theorem KeepsFiles.refl (i : BitVec 12) (a : Arch) : KeepsFiles i a a := ⟨rfl, rfl, rfl, rfl, fun _ => rfl, fun _ => rfl⟩

/-- `PRIO`, and the registers of the handler, are no part of them. -/
theorem KeepsFiles.handler {i : BitVec 12} {a : Arch} {prio : BitVec 2} {tvec tcause tbun tslot tval0 tval1 tval2 : Word} :
    KeepsFiles i a { a with prio, tvec, tcause, tbun, tslot, tval0, tval1, tval2 } :=
  ⟨rfl, rfl, rfl, rfl, fun _ => rfl, fun _ => rfl⟩

theorem keepsFiles_modArch {i : BitVec 12} {k : Fin 1024} {s : State} {f : Arch → Arch} (h : ∀ a, KeepsFiles i a (f a)) :
    KeepsFiles i (ctxAt s k).arch (ctxAt (modArch s k f) k).arch := by
  rw [ctxAt_modArch]
  exact h _

theorem keepsFiles_ite {i : BitVec 12} {k : Fin 1024} {a : Arch} (p : Prop) [Decidable p] {v w : State}
    (hv : p → KeepsFiles i a (ctxAt v k).arch) (hw : KeepsFiles i a (ctxAt w k).arch) :
    KeepsFiles i a (ctxAt (if p then v else w) k).arch := by
  split
  · next h => exact hv h
  · exact hw

theorem csrWrite_keepsFiles (s : State) (k : Fin 1024) (i : BitVec 12) (x c : Word) (w : Bool) :
    KeepsFiles i (ctxAt s k).arch (ctxAt (csrWrite s k i x c w) k).arch :=
  have handler {f : Arch → Arch} (h : ∀ a, KeepsFiles i a (f a)) {p : Prop} (_ : p) := keepsFiles_modArch (s := s) (k := k) h
  keepsFiles_ite _ (handler fun _ => .handler) <| keepsFiles_ite _ (fun _ => .refl i _) <|
    keepsFiles_ite _ (handler fun _ => .handler) <| keepsFiles_ite _ (handler fun _ => .handler) <|
    keepsFiles_ite _ (handler fun _ => .handler) <| keepsFiles_ite _ (handler fun _ => .handler) <|
    keepsFiles_ite _ (handler fun _ => .handler) <| keepsFiles_ite _ (handler fun _ => .handler) <|
    keepsFiles_ite _ (handler fun _ => .handler) <|
    keepsFiles_ite _ (fun h => handler (fun _ => ⟨rfl, rfl, rfl, rfl, fun _ => rfl, fun hn => absurd h hn⟩) h) <|
    keepsFiles_ite _ (fun h => handler (fun _ => ⟨rfl, rfl, rfl, rfl, fun hn => absurd h hn, fun _ => rfl⟩) h) <|
    keepsFiles_ite _ (fun _ => .refl i _) <| keepsFiles_ite _ (fun _ => .refl i _) (.refl i _)

/-! ### One landing -/

theorem landAct_csr (k : Fin 1024) (i : BitVec 12) (x c : Word) (w : Bool) (s : State) :
    landAct k (.csr i x c w) s = csrWrite s k i x c w := rfl

/-- A register result is a write of the context's registers, and a CSR result one of the CSR (R26, R137). -/
theorem landAct_cases {act : Landing} (k : Fin 1024) (h : isRegisterResult act = true) :
    (∃ i x c w, act = .csr i x c w) ∨ ∀ s, landAct k act s = modArch s k (landReg act) := by
  cases act
  case csr i x c w => exact .inl ⟨i, x, c, w, rfl⟩
  case rowStore | zeroBands | matrix | fence => exact nomatch h
  all_goals exact .inr fun _ => rfl

theorem landAct_registerWrite {act : Landing} (k : Fin 1024) (h : isRegisterResult act = true) :
    RegisterWrite k (landAct k act) := by
  rcases landAct_cases k h with ⟨i, x, c, w, rfl⟩ | e
  · exact csrWrite_registerWrite k i x c w
  · rw [funext e]
    exact .modArch k _

/-- A result lands, with the `FSTAT` and `ASTAT` bits of its operation. -/
def landOne (k : Fin 1024) (s : State) (f : Flight) : State :=
  modArch (landAct k f.act s) k fun a => raiseAstat f.aflags (raiseFlags f.flags a)

/-- Results land one after another. -/
def landed (k : Fin 1024) (s : State) (l : List Flight) : State := l.foldl (landOne k) s

theorem landOne_registerWrite {f : Flight} (k : Fin 1024) (h : isRegisterResult f.act = true) :
    RegisterWrite k fun s => landOne k s f :=
  (landAct_registerWrite k h).comp (.modArch k _)

theorem landed_cons (k : Fin 1024) (s : State) (f : Flight) (r : List Flight) :
    landed k s (f :: r) = landed k (landOne k s f) r := rfl

theorem landed_append (k : Fin 1024) (s : State) (l r : List Flight) : landed k s (l ++ r) = landed k (landed k s l) r :=
  List.foldl_append

theorem landed_registerWrite {l : List Flight} (k : Fin 1024) (h : ∀ f ∈ l, isRegisterResult f.act = true) :
    RegisterWrite k fun s => landed k s l := by
  induction l with
  | nil => exact .id k
  | cons f r ih =>
    exact (landOne_registerWrite k (h f List.mem_cons_self)).comp (ih fun g hg => h g (List.mem_cons_of_mem _ hg))

theorem sign_of_not_rolling {s : State} {k : Fin 1024} (h : (coreAt s (coreOf k)).rolling = none) (act : Landing) :
    sign s k act = s := by
  simp [sign, h]

theorem rowStoreFault_register {s : State} {k : Fin 1024} {f : Flight} (h : isRegisterResult f.act = true) :
    rowStoreFault s k f = none := by
  unfold rowStoreFault
  split
  · next e => rw [e] at h; exact nomatch h
  · rfl

theorem stepFault_register {s : State} {k : Fin 1024} {f : Flight} (h : isRegisterResult f.act = true) :
    stepFault s k f = f.fault := by
  unfold stepFault
  split
  · next e => rw [e] at h; exact nomatch h
  · next e => rw [e] at h; exact nomatch h
  · rfl

theorem flightReady_register {s : State} {k : Fin 1024} {f : Flight} (h : isRegisterResult f.act = true) :
    flightReady s k f = f.ready := by
  unfold flightReady
  split
  · next e => rw [e] at h; exact nomatch h
  · rfl

/-- Outside a rollback, a landing is its write and its flags, and a note of what a shadow save has to write again (R42). -/
theorem landFlight_register {s : State} {k : Fin 1024} {f : Flight} (h : isRegisterResult f.act = true)
    (hr : (coreAt s (coreOf k)).rolling = none) :
    landFlight k f s = landOne k { s with dirty := addDirty s.dirty (landedUnits s k f) } f := by
  have notRolling : (coreAt { s with dirty := addDirty s.dirty (landedUnits s k f) } (coreOf k)).rolling = none := hr
  simp only [landFlight, sign_of_not_rolling notRolling, rowStoreFault_register h]
  rfl

/-! ### The results of an operation, of a cycle, of every cycle -/

/-- `t` is `s` with the results `l` landed one after another and `rest` still in flight. -/
structure LandedTo (k : Fin 1024) (s t : State) (l rest : List Flight) : Prop where
  asLanded : LandsAs k t (landed k s l)
  flight : (ctxAt t k).flight = rest
  xops : (ctxAt t k).xops = []
  rolling : (coreAt t (coreOf k)).rolling = none

theorem LandedTo.trans {k : Fin 1024} {s t u : State} {l m r q : List Flight} (h : LandedTo k s t l r) (g : LandedTo k t u m q)
    (hm : ∀ f ∈ m, isRegisterResult f.act = true) : LandedTo k s u (l ++ m) q := by
  refine ⟨?_, g.flight, g.xops, g.rolling⟩
  rw [landed_append]
  exact g.asLanded.trans ((landed_registerWrite k hm).respects _ _ h.asLanded)

theorem foldl_landFlight {k : Fin 1024} {l : List Flight} (s : State) (h : ∀ f ∈ l, isRegisterResult f.act = true)
    (hr : (coreAt s (coreOf k)).rolling = none) :
    LandsAs k (l.foldl (fun s f => landFlight k f s) s) (landed k s l) ∧
      KeepsRest k s (l.foldl (fun s f => landFlight k f s) s) := by
  induction l generalizing s with
  | nil => exact ⟨.refl k s, .refl k s⟩
  | cons f r ih =>
    have hf := h f List.mem_cons_self
    have hr' := fun g hg => h g (List.mem_cons_of_mem f hg)
    let noted : State := { s with dirty := addDirty s.dirty (landedUnits s k f) }
    have same : LandsAs k noted s := ⟨rfl, fun _ => rfl, rfl, fun _ _ => rfl⟩
    have one : LandsAs k (landFlight k f s) (landOne k s f) := by
      rw [landFlight_register hf hr]
      exact (landOne_registerWrite k hf).respects _ _ same
    have kept : KeepsRest k s (landFlight k f s) := by
      rw [landFlight_register hf hr]
      exact KeepsRest.trans (t := noted) ⟨rfl, fun _ _ => rfl, rfl, rfl, rfl⟩ ((landOne_registerWrite k hf).keeps noted)
    obtain ⟨as, keeps⟩ := ih (landFlight k f s) hr' (kept.rolling.trans hr)
    exact ⟨as.trans ((landed_registerWrite k hr').respects _ _ one), kept.trans keeps⟩

/-- A result that is ready to land, in a register or a CSR, when it is due by cycle `t`. -/
def Lands (t : Nat) (f : Flight) : Prop := f.due ≤ t → f.ready = true ∧ f.fault = none ∧ isRegisterResult f.act = true

theorem Lands.mono {t u : Nat} {f : Flight} (h : Lands t f) (hu : u ≤ t) : Lands u f := fun hf => h (Nat.le_trans hf hu)

/-- What operation `q` has due by cycle `t`, and what is then left in flight. -/
def dueOf (t q : Nat) (l : List Flight) : List Flight := (l.filter fun f => f.due ≤ t).filter fun f => f.seq = q
def leftBy (t q : Nat) (l : List Flight) : List Flight := l.filter fun f => !(decide (f.due ≤ t) && decide (f.seq = q))

theorem mem_dueOf {t q : Nat} {l : List Flight} {f : Flight} : f ∈ dueOf t q l ↔ f ∈ l ∧ f.due ≤ t ∧ f.seq = q := by
  simp only [dueOf, List.mem_filter, decide_eq_true_eq, and_assoc]

/-- Which results of an operation land: those due by cycle `t` that have their data. -/
theorem landsNow_eq {s : State} {k : Fin 1024} {t : Nat} (q : Nat) {f : Flight} (hf : Lands t f) :
    (decide (f.seq = q) && decide (f.due ≤ t) && flightReady s k f) = (decide (f.due ≤ t) && decide (f.seq = q)) := by
  by_cases hd : f.due ≤ t
  · obtain ⟨ready, -, reg⟩ := hf hd
    simp [hd, flightReady_register reg, ready]
  · simp [hd]

theorem stepFault_of_lands {s : State} {k : Fin 1024} {t : Nat} {f : Flight} (hf : Lands t f) (hd : f.due ≤ t) :
    stepFault s k f = none := by
  obtain ⟨-, fault, reg⟩ := hf hd
  rw [stepFault_register reg, fault]

/-- The results of an operation that are due leave the landing buffer and land; there are no beats to carry out after them. -/
theorem landOperation_eq {s : State} {k : Fin 1024} (t q : Nat) (hl : ∀ f ∈ (ctxAt s k).flight, Lands t f) :
    let left := setCtx s k { ctxAt s k with flight := leftBy t q (ctxAt s k).flight }
    let u := (dueOf t q (ctxAt s k).flight).foldl (fun s f => landFlight k f s) left
    (ctxAt u k).xops = [] → landOperation k t q s = u := by
  intro left u noBeats
  have go : ((ctxAt s k).flight.filter fun f =>
      decide (f.seq = q) && decide (f.due ≤ t) && flightReady s k f && (stepFault s k f).isNone) =
      dueOf t q (ctxAt s k).flight := by
    rw [dueOf, List.filter_filter]
    refine List.filter_congr fun f hf => ?_
    rw [landsNow_eq q (hl f hf)]
    by_cases hd : f.due ≤ t
    · simp [hd, stepFault_of_lands (hl f hf) hd]
    · simp [hd]
  have marked : ((ctxAt s k).flight.filterMap fun f =>
      if decide (f.seq = q) && decide (f.due ≤ t) && flightReady s k f then (match stepFault s k f with
        | some e => some { f with fault := some e, act := .nothing, counts := false }
        | none => none)
      else some f) = leftBy t q (ctxAt s k).flight := by
    rw [leftBy, ← List.filterMap_eq_filter]
    refine List.filterMap_congr fun f hf => ?_
    rw [landsNow_eq q (hl f hf)]
    by_cases hm : f.due ≤ t ∧ f.seq = q
    · simp [Option.guard, hm.1, hm.2, stepFault_of_lands (hl f hf) hm.1]
    · have : (decide (f.due ≤ t) && decide (f.seq = q)) = false := by simpa using hm
      simp [Option.guard, this]
  have beatsAfter : ∃ beat, landOperation k t q s = (ctxAt u k).xops.foldl beat u := by
    apply Exists.intro
    simp only [u, left, ← go, ← marked]
    rfl
  obtain ⟨beat, e⟩ := beatsAfter
  rw [e, noBeats, List.foldl_nil]

/-- What one operation has due lands, in the order of its results. -/
theorem landOperation_landedTo {s : State} {k : Fin 1024} (t q : Nat) (hx : (ctxAt s k).xops = [])
    (hr : (coreAt s (coreOf k)).rolling = none) (hl : ∀ f ∈ (ctxAt s k).flight, Lands t f) :
    LandedTo k s (landOperation k t q s) (dueOf t q (ctxAt s k).flight) (leftBy t q (ctxAt s k).flight) := by
  let left := setCtx s k { ctxAt s k with flight := leftBy t q (ctxAt s k).flight }
  have reg : ∀ f ∈ dueOf t q (ctxAt s k).flight, isRegisterResult f.act = true := fun f hf =>
    (hl f (mem_dueOf.1 hf).1 (mem_dueOf.1 hf).2.1).2.2
  have same : LandsAs k left s := ⟨by simp [left], fun _ => rfl, rfl, fun j hj => ctxAt_setCtx_ne s k j _ hj⟩
  obtain ⟨as, keeps⟩ := foldl_landFlight left reg hr
  have noBeats := keeps.xops.trans (show (ctxAt left k).xops = [] by simp [left, hx])
  rw [landOperation_eq t q hl noBeats]
  exact ⟨as.trans ((landed_registerWrite k reg).respects _ _ same), keeps.flight.trans (by simp [left]), noBeats,
    keeps.rolling.trans hr⟩

/-- What several operations have due lands, operation by operation. -/
theorem landOperations_landedTo {k : Fin 1024} (t : Nat) (qs : List Nat) (hq : qs.Nodup) (s : State)
    (hx : (ctxAt s k).xops = []) (hr : (coreAt s (coreOf k)).rolling = none) (hl : ∀ f ∈ (ctxAt s k).flight, Lands t f) :
    LandedTo k s (qs.foldl (fun s q => landOperation k t q s) s) (qs.flatMap fun q => dueOf t q (ctxAt s k).flight)
      ((ctxAt s k).flight.filter fun f => !(decide (f.due ≤ t) && decide (f.seq ∈ qs))) := by
  induction qs generalizing s with
  | nil => exact ⟨.refl k s, by simp, hx, hr⟩
  | cons q r ih =>
    obtain ⟨hqr, hrn⟩ := List.nodup_cons.1 hq
    have one := landOperation_landedTo t q hx hr hl
    have hl' : ∀ f ∈ (ctxAt (landOperation k t q s) k).flight, Lands t f := fun f hf =>
      hl f (List.mem_of_mem_filter (one.flight ▸ hf))
    have rest := ih hrn _ one.xops one.rolling hl'
    rw [one.flight] at rest
    have dues : (r.flatMap fun v => dueOf t v (leftBy t q (ctxAt s k).flight)) = r.flatMap fun v => dueOf t v (ctxAt s k).flight := by
      refine List.flatMap_congr fun v hv => ?_
      have hvq : v ≠ q := fun e => hqr (e ▸ hv)
      simp only [dueOf, leftBy, List.filter_filter]
      refine List.filter_congr fun f _ => ?_
      by_cases h : f.seq = v
      · simp [h, hvq]
      · simp [h]
    have left : ((leftBy t q (ctxAt s k).flight).filter fun f => !(decide (f.due ≤ t) && decide (f.seq ∈ r))) =
        (ctxAt s k).flight.filter fun f => !(decide (f.due ≤ t) && decide (f.seq ∈ q :: r)) := by
      rw [leftBy, List.filter_filter]
      refine List.filter_congr fun f _ => ?_
      by_cases h : f.due ≤ t
      · simp [h, List.mem_cons, Bool.and_comm]
      · simp [h]
    rw [dues, left] at rest
    refine one.trans rest fun f hf => ?_
    obtain ⟨v, -, hv⟩ := List.mem_flatMap.1 hf
    obtain ⟨hf, hd, -⟩ := mem_dueOf.1 hv
    exact (hl f hf hd).2.2

theorem beatReads_of_no_beats {s : State} {k : Fin 1024} (t : Nat) (h : (ctxAt s k).xops = []) : beatReads k t s = s := by
  have same : ({ ctxAt s k with xops := [] } : Ctx) = ctxAt s k := by rw [← h]
  simp [beatReads, modCtx, h, same]

/-- What a context has due by a cycle lands, in the issue order of the operations. -/
theorem landCycle_landedTo {s : State} {k : Fin 1024} (u : Nat) (hx : (ctxAt s k).xops = [])
    (hr : (coreAt s (coreOf k)).rolling = none) (hl : ∀ f ∈ (ctxAt s k).flight, Lands u f) :
    LandedTo k s (landCycle k u s) (byKey Flight.seq id ((ctxAt s k).flight.filter fun f => f.due ≤ u))
      ((ctxAt s k).flight.filter fun f => !decide (f.due ≤ u)) := by
  let qs := rising (((ctxAt s k).flight.filter fun f => f.due ≤ u).map Flight.seq)
  have ops := landOperations_landedTo u qs (rising_nodup _) s hx hr hl
  have cycle : landCycle k u s = qs.foldl (fun s q => landOperation k u q s) s := by
    have : landCycle k u s = beatReads k u (qs.foldl (fun s q => landOperation k u q s) s) := by
      simp [landCycle, hx, qs]
    rw [this, beatReads_of_no_beats u ops.xops]
  have left : ((ctxAt s k).flight.filter fun f => !(decide (f.due ≤ u) && decide (f.seq ∈ qs))) =
      (ctxAt s k).flight.filter fun f => !decide (f.due ≤ u) := by
    refine List.filter_congr fun f hf => ?_
    by_cases h : f.due ≤ u
    · have : f.seq ∈ qs := (mem_rising _ _).2 (List.mem_map.2 ⟨f, List.mem_filter.2 ⟨hf, by simpa using h⟩, rfl⟩)
      simp [h, this]
    · simp [h]
  rw [cycle, ← left]
  exact ops

/-- Cycle after cycle, what is due in each lands, in the issue order of the operations. -/
theorem landCycles_landedTo {k : Fin 1024} {t : Nat} (us : List Nat) (hu : us.Pairwise (· < ·)) (ht : ∀ u ∈ us, u ≤ t) (s : State)
    (hx : (ctxAt s k).xops = []) (hr : (coreAt s (coreOf k)).rolling = none) (hl : ∀ f ∈ (ctxAt s k).flight, Lands t f)
    (hc : ∀ f ∈ (ctxAt s k).flight, ∀ u ∈ us, f.due ≤ u → f.due ∈ us) :
    LandedTo k s (us.foldl (fun s u => landCycle k u s) s)
      (us.flatMap fun u => byKey Flight.seq id ((ctxAt s k).flight.filter fun f => f.due = u))
      ((ctxAt s k).flight.filter fun f => !decide (f.due ∈ us)) := by
  induction us generalizing s with
  | nil => exact ⟨.refl k s, by simp, hx, hr⟩
  | cons u r ih =>
    obtain ⟨hur, hrp⟩ := List.pairwise_cons.1 hu
    have htu := ht u List.mem_cons_self
    have one := landCycle_landedTo u hx hr fun f hf => (hl f hf).mono htu
    have later : ∀ f ∈ (ctxAt s k).flight, (f.due ≤ u ↔ f.due = u) := fun f hf => by
      refine ⟨fun h => ?_, Nat.le_of_eq⟩
      refine (List.mem_cons.1 (hc f hf u List.mem_cons_self h)).resolve_right fun hm => ?_
      exact absurd (hur _ hm) (Nat.not_lt.2 h)
    have left : ∀ f ∈ (ctxAt (landCycle k u s) k).flight, f ∈ (ctxAt s k).flight ∧ u < f.due := fun f hf => by
      rw [one.flight] at hf
      simpa using hf
    have rest := ih hrp (fun v hv => ht v (List.mem_cons_of_mem _ hv)) _ one.xops one.rolling (fun f hf => hl f (left f hf).1)
      fun f hf v hv hd => (List.mem_cons.1 (hc f (left f hf).1 v (List.mem_cons_of_mem _ hv) hd)).resolve_left
        (Nat.ne_of_gt (left f hf).2)
    rw [one.flight] at rest
    have now_ : ((ctxAt s k).flight.filter fun f => f.due ≤ u) = (ctxAt s k).flight.filter fun f => f.due = u :=
      List.filter_congr fun f hf => by simp only [later f hf]
    have dues : (r.flatMap fun v => byKey Flight.seq id (((ctxAt s k).flight.filter fun f => !decide (f.due ≤ u)).filter
        fun f => f.due = v)) = r.flatMap fun v => byKey Flight.seq id ((ctxAt s k).flight.filter fun f => f.due = v) := by
      refine List.flatMap_congr fun v hv => congrArg _ ?_
      rw [List.filter_filter]
      refine List.filter_congr fun f _ => ?_
      by_cases h : f.due = v
      · have := hur v hv
        simp [h, this]
      · simp [h]
    have remain : (((ctxAt s k).flight.filter fun f => !decide (f.due ≤ u)).filter fun f => !decide (f.due ∈ r)) =
        (ctxAt s k).flight.filter fun f => !decide (f.due ∈ u :: r) := by
      rw [List.filter_filter]
      refine List.filter_congr fun f hf => ?_
      simp only [later f hf, List.mem_cons, Bool.decide_or, Bool.not_or, Bool.and_comm]
    rw [dues, remain] at rest
    rw [now_] at one
    refine one.trans rest fun f hf => ?_
    obtain ⟨v, hv, hf⟩ := List.mem_flatMap.1 hf
    obtain ⟨hf, hd⟩ := List.mem_filter.1 ((bySeq_perm _).mem_iff.1 hf)
    exact (hl f hf ((of_decide_eq_true hd).trans_le (ht v (List.mem_cons_of_mem _ hv)))).2.2

/-- Everything of a context that is due by a cycle lands, in landing order (R26, R27). -/
theorem landUpTo_landedTo {s : State} {k : Fin 1024} (t : Nat) (hx : (ctxAt s k).xops = [])
    (hr : (coreAt s (coreOf k)).rolling = none) (hl : ∀ f ∈ (ctxAt s k).flight, Lands t f) :
    LandedTo k s (landUpTo k t s) (inLandingOrder ((ctxAt s k).flight.filter fun f => f.due ≤ t))
      ((ctxAt s k).flight.filter fun f => !decide (f.due ≤ t)) := by
  let due := (ctxAt s k).flight.filter fun f => f.due ≤ t
  let us := rising (due.map Flight.due)
  have mem_us : ∀ u, u ∈ us ↔ ∃ f ∈ (ctxAt s k).flight, f.due ≤ t ∧ f.due = u := fun u => by
    simp [us, due, and_assoc]
  have cycles := landCycles_landedTo us (rising_pairwise _) (fun u hu => by
    obtain ⟨f, -, hd, rfl⟩ := (mem_us u).1 hu
    exact hd) s hx hr hl fun f hf u hu hd => by
      obtain ⟨g, -, hg, rfl⟩ := (mem_us u).1 hu
      exact (mem_us _).2 ⟨f, hf, hd.trans hg, rfl⟩
  have upTo : landUpTo k t s = us.foldl (fun s u => landCycle k u s) s := by
    simp only [landUpTo, hx, us, due, List.flatMap_nil, List.append_nil, List.filter_map]
    rfl
  have order : (us.flatMap fun u => byKey Flight.seq id ((ctxAt s k).flight.filter fun f => f.due = u)) = inLandingOrder due := by
    refine List.flatMap_congr fun u hu => congrArg _ ?_
    obtain ⟨g, -, hg, rfl⟩ := (mem_us u).1 hu
    rw [List.filter_filter]
    refine List.filter_congr fun f _ => ?_
    by_cases h : f.due = g.due
    · simp [h, hg]
    · simp [h]
  have left : ((ctxAt s k).flight.filter fun f => !decide (f.due ∈ us)) = (ctxAt s k).flight.filter fun f => !decide (f.due ≤ t) := by
    refine List.filter_congr fun f hf => ?_
    have : f.due ∈ us ↔ f.due ≤ t := ⟨fun h => by
      obtain ⟨g, -, hg, e⟩ := (mem_us _).1 h
      exact e ▸ hg, fun h => (mem_us _).2 ⟨f, hf, h, rfl⟩⟩
    simp only [this]
  rw [upTo, ← order, ← left]
  exact cycles

/-! ### The event -/

theorem exec_resultLands (k : Fin 1024) (s : State) : exec (.resultLands k) s =
    .next (if (ctxAt s k).run = .started && !frozen s k then landUpTo k (beatClock s k) s else s) := rfl

theorem beatClock_of_started {s : State} {k : Fin 1024} (h : (ctxAt s k).run = .started) :
    beatClock s k = (ctxAt s k).arch.sched.toNat := by
  simp [beatClock, h]

/-- A context is frozen by a due result without its data (R30). -/
theorem frozen_of_missing {s : State} {k : Fin 1024} {f : Flight} (hf : f ∈ (ctxAt s k).flight)
    (hd : f.due ≤ (ctxAt s k).arch.sched.toNat) (hr : f.ready = false) (hreg : isRegisterResult f.act = true) :
    frozen s k = true := by
  refine List.any_eq_true.2 ⟨f, hf, ?_⟩
  rw [flightReady_register hreg, hr]
  simpa using hd

theorem not_frozen {s : State} {k : Fin 1024} (hl : ∀ f ∈ (ctxAt s k).flight, Lands (ctxAt s k).arch.sched.toNat f) :
    frozen s k = false := by
  refine List.any_eq_false.2 fun f hf => ?_
  by_cases hd : f.due ≤ (ctxAt s k).arch.sched.toNat
  · obtain ⟨ready, -, reg⟩ := hl f hf hd
    simp [flightReady_register reg, ready]
  · simp [hd]

theorem exec_resultLands_frozen {s : State} {k : Fin 1024} (h : frozen s k = true) : exec (.resultLands k) s = .next s := by
  simp [exec_resultLands, h]

/-- With nothing due, nothing lands. -/
theorem exec_resultLands_not_due {s : State} {k : Fin 1024} (hx : (ctxAt s k).xops = [])
    (hd : ∀ f ∈ (ctxAt s k).flight, (ctxAt s k).arch.sched.toNat < f.due) : exec (.resultLands k) s = .next s := by
  by_cases hr : (ctxAt s k).run = .started
  · have noCycle : (((ctxAt s k).flight.map (·.due)).filter fun u => decide (u ≤ (ctxAt s k).arch.sched.toNat)) = [] :=
      List.filter_eq_nil_iff.2 fun u hu => by
        obtain ⟨f, hf, rfl⟩ := List.mem_map.1 hu
        simpa using hd f hf
    have : landUpTo k (ctxAt s k).arch.sched.toNat s = s := by
      simp only [landUpTo, hx, noCycle]
      rfl
    rw [exec_resultLands, beatClock_of_started hr, this, ite_self]
  · simp [exec_resultLands, hr]

theorem exec_resultLands_due {s : State} {k : Fin 1024} (hr : (ctxAt s k).run = .started)
    (hl : ∀ f ∈ (ctxAt s k).flight, Lands (ctxAt s k).arch.sched.toNat f) :
    exec (.resultLands k) s = .next (landUpTo k (ctxAt s k).arch.sched.toNat s) := by
  simp [exec_resultLands, hr, not_frozen hl, beatClock_of_started hr]

end Sys2Proof.Machine
end

section
/-! PROOFS. What each kind of result writes (R26, R56, R57, R67), and the order in which results land (R26 to R30). -/

namespace Sys2Proof.Machine

/-! ### Lanes of a vector register -/

/-- Fields that fit make a number that fits. -/
theorem packNat_lt (w : Nat) (f : Nat → Nat) (hf : ∀ i, f i < 2 ^ w) (n : Nat) : packNat w f n < 2 ^ (w * n) := by
  induction n with
  | zero => simp [packNat]
  | succ n ih =>
    have top : f n * 2 ^ (w * n) ≤ (2 ^ w - 1) * 2 ^ (w * n) := Nat.mul_le_mul_right _ (Nat.le_sub_one_of_lt (hf n))
    have one : 2 ^ (w * n) ≤ 2 ^ w * 2 ^ (w * n) := Nat.le_mul_of_pos_left _ (Nat.two_pow_pos w)
    rw [packNat, Nat.mul_succ, Nat.add_comm (w * n), Nat.pow_add]
    rw [Nat.sub_mul, Nat.one_mul] at top
    omega

/-- A field of a packed number. -/
theorem packNat_field (w : Nat) (f : Nat → Nat) (hf : ∀ i, f i < 2 ^ w) {n j : Nat} (hj : j < n) :
    packNat w f n / 2 ^ (w * j) % 2 ^ w = f j := by
  induction n with
  | zero => exact absurd hj (Nat.not_lt_zero j)
  | succ n ih =>
    rw [packNat]
    rcases Nat.lt_succ_iff_lt_or_eq.1 hj with h | rfl
    · have split_ : 2 ^ (w * n) = 2 ^ (w * (n - j - 1)) * 2 ^ w * 2 ^ (w * j) := by
        rw [← Nat.pow_add, ← Nat.pow_add, ← Nat.mul_succ, ← Nat.mul_add]
        congr 2
        omega
      rw [split_, ← Nat.mul_assoc, Nat.add_mul_div_right _ _ (Nat.two_pow_pos _), ← Nat.mul_assoc, Nat.add_mul_mod_self_right]
      exact ih h
    · rw [Nat.add_mul_div_right _ _ (Nat.two_pow_pos _), Nat.div_eq_of_lt (packNat_lt w f hf j), Nat.zero_add,
        Nat.mod_eq_of_lt (hf j)]

/-- The register that holds a packed number holds all of it. -/
theorem toNat_packNat (w n : Nat) (f : Nat → Nat) (hf : ∀ i, f i < 2 ^ w) :
    (BitVec.ofNat (w * n) (packNat w f n)).toNat = packNat w f n := by
  rw [BitVec.toNat_ofNat, Nat.mod_eq_of_lt (packNat_lt w f hf n)]

/-- A lane of a register that is made of lanes (R65). -/
theorem elem_ofLanes (f : Nat → BitVec 32) {j : Nat} (hj : j < 64) : elem (ofLanes f) 32 j = f j := by
  apply BitVec.eq_of_toNat_eq
  have value : (ofLanes f).toNat = packNat 32 (fun i => (f i).toNat) 64 :=
    toNat_packNat 32 64 (fun i => (f i).toNat) fun i => (f i).isLt
  rw [elem, BitVec.extractLsb'_toNat, value, Nat.shiftRight_eq_div_pow]
  exact packNat_field 32 (fun i => (f i).toNat) (fun i => (f i).isLt) hj

theorem elem_mergeLanes (old x : VReg) (lanes : Word) {j : Nat} (hj : j < 64) :
    elem (mergeLanes old x lanes) 32 j = if lanes.getLsbD j then elem x 32 j else elem old 32 j :=
  elem_ofLanes _ hj

/-! ### Register writes: what they write, and what they leave -/

theorem wS_eq (a : Arch) (i : Fin 64) (x : Word) : wS a i x = { a with s := (wS a i x).s } := by
  unfold wS
  split <;> rfl

theorem wP_eq (a : Arch) (i : Fin 16) (x : Bool) : wP a i x = { a with p := (wP a i x).p } := by
  unfold wP
  split <;> rfl

theorem wM_eq (a : Arch) (i : Fin 16) (x lanes : Word) : wM a i x lanes = { a with m := (wM a i x lanes).m } := by
  unfold wM
  split <;> rfl

theorem rV_wV (a : Arch) (i : Fin 64) (x : VReg) (lanes : Word) :
    rV (wV a i x lanes) i = if lanes = BitVec.allOnes 64 then x else mergeLanes (rV a i) x lanes := by
  simp [rV, wV]

theorem rV_wV_ne (a : Arch) (i j : Fin 64) (x : VReg) (lanes : Word) (h : j ≠ i) : rV (wV a i x lanes) j = rV a j := by
  simp only [rV, wV, Fin.getElem_fin]
  exact Vector.getElem_set_ne i.isLt j.isLt fun e => h (Fin.ext e.symm)

/-- The named lanes of a vector register are written, the others stay (R57). -/
theorem elem_wV (a : Arch) (i : Fin 64) (x : VReg) (lanes : Word) {j : Nat} (hj : j < 64) :
    elem (rV (wV a i x lanes) i) 32 j = if lanes.getLsbD j then elem x 32 j else elem (rV a i) 32 j := by
  rw [rV_wV]
  split
  · next h =>
    have named : lanes.getLsbD j = true := by rw [h, BitVec.getLsbD_allOnes]; exact decide_eq_true hj
    rw [if_pos named]
  · exact elem_mergeLanes _ _ _ hj

theorem rM_wM (a : Arch) (i : Fin 16) (x lanes : Word) (h : i ≠ 0) :
    rM (wM a i x lanes) i = (x &&& lanes) ||| (rM a i &&& ~~~lanes) := by
  simp [rM, wM, h]

theorem rM_wM_ne (a : Arch) (i j : Fin 16) (x lanes : Word) (h : j ≠ i) : rM (wM a i x lanes) j = rM a j := by
  unfold rM wM
  split
  · rfl
  · split
    · rfl
    · simp only [Fin.getElem_fin]
      exact Vector.getElem_set_ne i.isLt j.isLt fun e => h (Fin.ext e.symm)

/-- The named bits of a mask register are written, the others stay (R57). -/
theorem getLsbD_wM (a : Arch) (i : Fin 16) (x lanes : Word) (h : i ≠ 0) {j : Nat} (hj : j < 64) :
    (rM (wM a i x lanes) i).getLsbD j = if lanes.getLsbD j then x.getLsbD j else (rM a i).getLsbD j := by
  rw [rM_wM a i x lanes h]
  simp only [BitVec.getLsbD_or, BitVec.getLsbD_and, BitVec.getLsbD_not, hj, decide_true, Bool.true_and]
  cases lanes.getLsbD j <;> simp

theorem vector_set_ne {α : Type} {n : Nat} (v : Vector α n) (i j : Fin n) (x : α) (h : j ≠ i) : (v.set i x)[j] = v[j] := by
  simp only [Fin.getElem_fin]
  exact Vector.getElem_set_ne i.isLt j.isLt fun e => h (Fin.ext e.symm)

/-! ### A register result: the registers it leaves -/

theorem landReg_rS {act : Landing} {d : Fin 64} (h : ∀ x, act ≠ .sreg d x) (a : Arch) : rS (landReg act a) d = rS a d := by
  cases act
  case sreg e x => exact rS_wS_ne a e d x fun he => h x (he ▸ rfl)
  case preg e x => rw [landReg, wP_eq]; rfl
  case mreg e x l => rw [landReg, wM_eq]; rfl
  all_goals rfl

theorem landReg_rV {act : Landing} {d : Fin 64} (h : ∀ x l, act ≠ .vreg d x l) (a : Arch) : rV (landReg act a) d = rV a d := by
  cases act
  case vreg e x l => exact rV_wV_ne a e d x l fun he => h x l (he ▸ rfl)
  case sreg e x => rw [landReg, wS_eq]; rfl
  case preg e x => rw [landReg, wP_eq]; rfl
  case mreg e x l => rw [landReg, wM_eq]; rfl
  all_goals rfl

theorem landReg_rP {act : Landing} {d : Fin 16} (h : ∀ x, act ≠ .preg d x) (a : Arch) : rP (landReg act a) d = rP a d := by
  cases act
  case preg e x => exact rP_wP_ne a e d x fun he => h x (he ▸ rfl)
  case sreg e x => rw [landReg, wS_eq]; rfl
  case mreg e x l => rw [landReg, wM_eq]; rfl
  all_goals rfl

theorem landReg_rM {act : Landing} {d : Fin 16} (h : ∀ x l, act ≠ .mreg d x l) (a : Arch) : rM (landReg act a) d = rM a d := by
  cases act
  case mreg e x l => exact rM_wM_ne a e d x l fun he => h x l (he ▸ rfl)
  case sreg e x => rw [landReg, wS_eq]; rfl
  case preg e x => rw [landReg, wP_eq]; rfl
  all_goals rfl

theorem landReg_w {act : Landing} {d : Fin 8} (h : ∀ x y, act ≠ .wreg d x y) (a : Arch) : (landReg act a).w[d] = a.w[d] := by
  cases act
  case wreg e x y => exact vector_set_ne a.w e d x fun he => h x y (he ▸ rfl)
  case sreg e x => rw [landReg, wS_eq]
  case preg e x => rw [landReg, wP_eq]
  case mreg e x l => rw [landReg, wM_eq]
  all_goals rfl

/-- No register result touches the flags, the clock or the program counter. -/
theorem landReg_status (act : Landing) (a : Arch) :
    (landReg act a).fstat = a.fstat ∧ (landReg act a).astat = a.astat ∧ (landReg act a).pc = a.pc := by
  cases act
  case sreg e x => rw [landReg, wS_eq]; exact ⟨rfl, rfl, rfl⟩
  case preg e x => rw [landReg, wP_eq]; exact ⟨rfl, rfl, rfl⟩
  case mreg e x l => rw [landReg, wM_eq]; exact ⟨rfl, rfl, rfl⟩
  all_goals exact ⟨rfl, rfl, rfl⟩

/-! ### Results one after another: what none of them writes stays -/

/-- A view of the registers that neither the CSR results nor the register results of a list change. -/
theorem landAct_keeps {β : Type} (view : Arch → β) {k : Fin 1024} {act : Landing} (hact : isRegisterResult act = true) (s : State)
    (hcsr : ∀ i x c w, act = .csr i x c w → view (ctxAt (csrWrite s k i x c w) k).arch = view (ctxAt s k).arch)
    (hreg : ∀ a, view (landReg act a) = view a) : view (ctxAt (landAct k act s) k).arch = view (ctxAt s k).arch := by
  rcases landAct_cases k hact with ⟨i, x, c, w, rfl⟩ | e
  · exact hcsr i x c w rfl
  · rw [e, ctxAt_modArch]
    exact hreg _

theorem landOne_arch (k : Fin 1024) (s : State) (f : Flight) :
    (ctxAt (landOne k s f) k).arch = raiseAstat f.aflags (raiseFlags f.flags (ctxAt (landAct k f.act s) k).arch) := by
  simp [landOne]

theorem landed_keeps {β : Type} (view : Arch → β) {k : Fin 1024} {l : List Flight} (s : State)
    (hl : ∀ f ∈ l, isRegisterResult f.act = true)
    (hflags : ∀ x y a, view (raiseAstat x (raiseFlags y a)) = view a)
    (hcsr : ∀ f ∈ l, ∀ i x c w, f.act = .csr i x c w → ∀ s, view (ctxAt (csrWrite s k i x c w) k).arch = view (ctxAt s k).arch)
    (hreg : ∀ f ∈ l, ∀ a, view (landReg f.act a) = view a) : view (ctxAt (landed k s l) k).arch = view (ctxAt s k).arch := by
  induction l generalizing s with
  | nil => rfl
  | cons f r ih =>
    have inRest {P : Flight → Prop} (h : ∀ g ∈ f :: r, P g) : ∀ g ∈ r, P g := fun g hg => h g (List.mem_cons_of_mem _ hg)
    have hf := List.mem_cons_self (a := f) (l := r)
    rw [landed_cons, ih _ (inRest hl) (inRest hcsr) (inRest hreg), landOne_arch, hflags]
    exact landAct_keeps view (hl f hf) s (fun i x c w e => hcsr f hf i x c w e s) (hreg f hf)

/-- The flags of results add up in `FSTAT` when none of them writes that CSR (R90). -/
theorem landed_fstat {k : Fin 1024} {l : List Flight} (s : State) (hl : ∀ f ∈ l, isRegisterResult f.act = true)
    (hw : ∀ f ∈ l, ∀ x c w, f.act ≠ .csr 0x021 x c w) :
    (ctxAt (landed k s l) k).arch.fstat = l.foldl (fun x f => x ||| f.flags.setWidth 64) (ctxAt s k).arch.fstat := by
  induction l generalizing s with
  | nil => rfl
  | cons f r ih =>
    have inRest {P : Flight → Prop} (h : ∀ g ∈ f :: r, P g) : ∀ g ∈ r, P g := fun g hg => h g (List.mem_cons_of_mem _ hg)
    have hf := List.mem_cons_self (a := f) (l := r)
    have kept : (ctxAt (landAct k f.act s) k).arch.fstat = (ctxAt s k).arch.fstat :=
      landAct_keeps Arch.fstat (hl f hf) s (fun i x c w e => (csrWrite_keepsFiles s k i x c w).fstat fun hi =>
        hw f hf x c w (e.trans (by rw [BitVec.eq_of_toNat_eq (x := i) (y := 0x021) hi]))) fun a => (landReg_status f.act a).1
    rw [landed_cons, ih _ (inRest hl) (inRest hw), landOne_arch, List.foldl_cons, ← kept]
    rfl

/-- So do the accumulator flags in `ASTAT` (R163). -/
theorem landed_astat {k : Fin 1024} {l : List Flight} (s : State) (hl : ∀ f ∈ l, isRegisterResult f.act = true)
    (hw : ∀ f ∈ l, ∀ x c w, f.act ≠ .csr 0x020 x c w) :
    (ctxAt (landed k s l) k).arch.astat = l.foldl (fun x f => x ||| f.aflags) (ctxAt s k).arch.astat := by
  induction l generalizing s with
  | nil => rfl
  | cons f r ih =>
    have inRest {P : Flight → Prop} (h : ∀ g ∈ f :: r, P g) : ∀ g ∈ r, P g := fun g hg => h g (List.mem_cons_of_mem _ hg)
    have hf := List.mem_cons_self (a := f) (l := r)
    have kept : (ctxAt (landAct k f.act s) k).arch.astat = (ctxAt s k).arch.astat :=
      landAct_keeps Arch.astat (hl f hf) s (fun i x c w e => (csrWrite_keepsFiles s k i x c w).astat fun hi =>
        hw f hf x c w (e.trans (by rw [BitVec.eq_of_toNat_eq (x := i) (y := 0x020) hi]))) fun a => (landReg_status f.act a).2.1
    rw [landed_cons, ih _ (inRest hl) (inRest hw), landOne_arch, List.foldl_cons, ← kept]
    rfl

end Sys2Proof.Machine
end

section
/-! PROOFS. The order in which results land (R26 to R30): the clauses on registers, on every kind of result, and on a frozen context. -/

namespace Sys2Proof.Machine

/-! ### The last write of a scalar register -/

/-- After the last of the results that land in a scalar register, it holds that result's value. -/
theorem landed_rS_last {k : Fin 1024} (s : State) (l r : List Flight) (f : Flight) {d : Fin 64} {x : Word} (hd : d ≠ 0)
    (hf : f.act = .sreg d x) (hreg : ∀ g ∈ r, isRegisterResult g.act = true) (hcsr : ∀ g ∈ r, ∀ i x c w, g.act ≠ .csr i x c w)
    (hr : ∀ g ∈ r, ∀ y, g.act ≠ .sreg d y) : rS (ctxAt (landed k s (l ++ f :: r)) k).arch d = x := by
  have later := landed_keeps (k := k) (rS · d) (landOne k (landed k s l) f) hreg (fun _ _ _ => rfl)
    (fun g hg i x c w e => absurd e (hcsr g hg i x c w)) fun g hg a => landReg_rS (hr g hg) a
  rw [landed_append, landed_cons, later, landOne_arch, hf]
  have written : (ctxAt (landAct k (.sreg d x) (landed k s l)) k).arch = wS (ctxAt (landed k s l) k).arch d x := ctxAt_modArch .. ▸ rfl
  rw [written]
  exact rS_wS _ d x hd

/-! ### What `LandingOrder` asks of a due result -/

theorem isRegisterResult_sreg {act : Landing} {d : Fin 64} {x : Word} (h : act = .sreg d x) : isRegisterResult act = true := by
  rw [h]
  rfl

/-- The due results of a context, landed, leave memory and the other contexts alone. -/
theorem LandedTo.keeps {k : Fin 1024} {s t : State} {l rest : List Flight} (h : LandedTo k s t l rest)
    (hl : ∀ f ∈ l, isRegisterResult f.act = true) : t.mem = s.mem ∧ ∀ j, j ≠ k → ctxAt t j = ctxAt s j := by
  have kept := (landed_registerWrite k hl).keeps s
  exact ⟨h.asLanded.mem.trans kept.mem, fun j hj => (h.asLanded.others j hj).trans (kept.others j hj)⟩

theorem foldl_or_perm {n : Nat} (g : Flight → BitVec n) {l m : List Flight} (h : l.Perm m) (x : BitVec n) :
    l.foldl (fun x f => x ||| g f) x = m.foldl (fun x f => x ||| g f) x :=
  haveI : RightCommutative fun (x : BitVec n) (f : Flight) => x ||| g f := ⟨fun x a b => by
    rw [BitVec.or_assoc, BitVec.or_assoc, BitVec.or_comm (g a)]⟩
  h.foldl_eq x

/-- Of results in landing order, each after one of them is due no earlier, and if in the same cycle then no earlier issued. -/
theorem after_inLandingOrder {due l r : List Flight} {f g : Flight} (h : inLandingOrder due = l ++ f :: r) (hg : g ∈ r) :
    f.due < g.due ∨ (f.due = g.due ∧ f.seq ≤ g.seq) := by
  have order := inLandingOrder_pairwise due
  rw [h] at order
  exact (List.pairwise_cons.1 (List.pairwise_append.1 order).2.1).1 g hg

/-- Of two results for one scalar register that come of different operations, the later remains (R27). -/
theorem landed_rS_latest {k : Fin 1024} (s : State) (due : List Flight) (hdist : due.Pairwise fun f g => f.seq ≠ g.seq)
    (hact : ∀ f ∈ due, ∃ d x, f.act = .sreg d x) {f : Flight} (hf : f ∈ due) {d : Fin 64} {x : Word} (hd : d ≠ 0)
    (hfa : f.act = .sreg d x)
    (hlast : ∀ g ∈ due, ∀ y, g.act = .sreg d y → g.due < f.due ∨ (g.due = f.due ∧ g.seq ≤ f.seq)) :
    rS (ctxAt (landed k s (inLandingOrder due)) k).arch d = x := by
  obtain ⟨l, r, e⟩ := List.append_of_mem ((inLandingOrder_perm due).mem_iff.2 hf)
  have inDue : ∀ g ∈ r, g ∈ due := fun g hg => (inLandingOrder_perm due).mem_iff.1 (e ▸ List.mem_append_right l (List.mem_cons_of_mem f hg))
  have distinct : (inLandingOrder due).Pairwise fun f g => f.seq ≠ g.seq :=
    hdist.perm (inLandingOrder_perm due).symm fun h => h.symm
  rw [e]
  refine landed_rS_last s l r f hd hfa (fun g hg => ?_) (fun g hg i y c w ha => ?_) fun g hg y ha => ?_
  · obtain ⟨d', y, ha⟩ := hact g (inDue g hg)
    exact isRegisterResult_sreg ha
  · obtain ⟨d', y', ha'⟩ := hact g (inDue g hg)
    exact nomatch ha'.symm.trans ha
  · have notSame : f.seq ≠ g.seq := by
      rw [e] at distinct
      exact (List.pairwise_cons.1 (List.pairwise_append.1 distinct).2.1).1 g hg
    have after := after_inLandingOrder e hg
    have before := hlast g (inDue g hg) y ha
    omega

theorem landed_rS_other {k : Fin 1024} (s : State) (due : List Flight) (hact : ∀ f ∈ due, ∃ d x, f.act = .sreg d x) {d : Fin 64}
    (hd : ∀ f ∈ due, ∀ x, f.act ≠ .sreg d x) :
    rS (ctxAt (landed k s due) k).arch d = rS (ctxAt s k).arch d :=
  landed_keeps (rS · d) s (fun f hf => by obtain ⟨_, _, ha⟩ := hact f hf; exact isRegisterResult_sreg ha) (fun _ _ _ => rfl)
    (fun f hf i x c w e => by obtain ⟨_, _, ha⟩ := hact f hf; exact nomatch ha.symm.trans e) fun f hf a => landReg_rS (hd f hf) a

/-! ### The files that results leave alone -/

theorem landed_rV {k : Fin 1024} (s : State) {l : List Flight} (hl : ∀ f ∈ l, isRegisterResult f.act = true) {d : Fin 64}
    (hd : ∀ f ∈ l, ∀ x y, f.act ≠ .vreg d x y) : rV (ctxAt (landed k s l) k).arch d = rV (ctxAt s k).arch d :=
  landed_keeps (rV · d) s hl (fun _ _ _ => rfl)
    (fun _ _ i x c w _ u => congrArg (·[d]) (csrWrite_keepsFiles u k i x c w).v) fun f hf a => landReg_rV (hd f hf) a

theorem landed_rP {k : Fin 1024} (s : State) {l : List Flight} (hl : ∀ f ∈ l, isRegisterResult f.act = true) {d : Fin 16}
    (hd : ∀ f ∈ l, ∀ x, f.act ≠ .preg d x) : rP (ctxAt (landed k s l) k).arch d = rP (ctxAt s k).arch d :=
  landed_keeps (rP · d) s hl (fun _ _ _ => rfl)
    (fun _ _ i x c w _ u => by simp only [rP, (csrWrite_keepsFiles u k i x c w).p]) fun f hf a => landReg_rP (hd f hf) a

theorem landed_rM {k : Fin 1024} (s : State) {l : List Flight} (hl : ∀ f ∈ l, isRegisterResult f.act = true) {d : Fin 16}
    (hd : ∀ f ∈ l, ∀ x y, f.act ≠ .mreg d x y) : rM (ctxAt (landed k s l) k).arch d = rM (ctxAt s k).arch d :=
  landed_keeps (rM · d) s hl (fun _ _ _ => rfl)
    (fun _ _ i x c w _ u => by simp only [rM, (csrWrite_keepsFiles u k i x c w).m]) fun f hf a => landReg_rM (hd f hf) a

theorem landed_w {k : Fin 1024} (s : State) {l : List Flight} (hl : ∀ f ∈ l, isRegisterResult f.act = true) {d : Fin 8}
    (hd : ∀ f ∈ l, ∀ x y, f.act ≠ .wreg d x y) : (ctxAt (landed k s l) k).arch.w[d] = (ctxAt s k).arch.w[d] :=
  landed_keeps (fun a => a.w[d]) s hl (fun _ _ _ => rfl)
    (fun _ _ i x c w _ u => congrArg (·[d]) (csrWrite_keepsFiles u k i x c w).w) fun f hf a => landReg_w (hd f hf) a

/-- Settles O15: what is due lands in landing order (`landUpTo_landedTo`), each result by its register write (`landReg`) or its CSR
write, and a result due without its data stops all of it (`frozen_of_missing`). -/
theorem landingOrder : Obligations.LandingOrder := by
  refine ⟨?scalar, ?every, ⟨?write, fun s k i x c w => landAct_csr k i x c w s, ?writes⟩, ?frozen⟩
  case scalar =>
    intro s k run noX noRoll distinct T scalar
    have lands : ∀ f ∈ (ctxAt s k).flight, Lands T f := fun f hf hd => by
      obtain ⟨ready, fault, d, x, ha⟩ := scalar f hf hd
      exact ⟨ready, fault, isRegisterResult_sreg ha⟩
    let due := (ctxAt s k).flight.filter fun f => f.due ≤ T
    have mem_due : ∀ f, f ∈ due ↔ f ∈ (ctxAt s k).flight ∧ f.due ≤ T := fun f => by simp [due]
    have scalars : ∀ f ∈ inLandingOrder due, ∃ d x, f.act = .sreg d x := fun f hf =>
      have hf := (mem_due f).1 ((inLandingOrder_perm due).mem_iff.1 hf)
      (scalar f hf.1 hf.2).2.2
    have reg : ∀ f ∈ inLandingOrder due, isRegisterResult f.act = true := fun f hf => by
      obtain ⟨d, x, ha⟩ := scalars f hf
      exact isRegisterResult_sreg ha
    have arrived := landUpTo_landedTo T noX noRoll lands
    obtain ⟨mem, others⟩ := arrived.keeps reg
    refine ⟨_, exec_resultLands_due run lands, mem, ?_, fun d hd => ⟨fun f hf x hdue ha hlast => ?_, fun none_ => ?_⟩, rfl,
      fun i => ?_, fun i => ?_, fun i => ?_, ?_, others⟩
    · rw [arrived.flight]
      exact List.filter_congr fun f _ => by rw [← decide_not]; simp only [Nat.not_le]
    · rw [arrived.asLanded.arch]
      exact landed_rS_latest s due (distinct.filter _) (fun g hg => scalars g ((inLandingOrder_perm due).mem_iff.2 hg))
        ((mem_due f).2 ⟨hf, hdue⟩) hd ha fun g hg y hga => hlast g ((mem_due g).1 hg).1 y ((mem_due g).1 hg).2 hga
    · rw [arrived.asLanded.arch]
      exact landed_rS_other s _ scalars fun f hf x =>
        have hf := (mem_due f).1 ((inLandingOrder_perm due).mem_iff.1 hf)
        none_ f hf.1 x hf.2
    · rw [arrived.asLanded.arch]
      exact landed_rV s reg fun f hf x y e => by obtain ⟨_, _, ha⟩ := scalars f hf; exact nomatch ha.symm.trans e
    · rw [arrived.asLanded.arch]
      exact landed_rP s reg fun f hf x e => by obtain ⟨_, _, ha⟩ := scalars f hf; exact nomatch ha.symm.trans e
    · rw [arrived.asLanded.arch]
      exact landed_rM s reg fun f hf x y e => by obtain ⟨_, _, ha⟩ := scalars f hf; exact nomatch ha.symm.trans e
    · rw [arrived.asLanded.arch]
      exact landed_keeps Arch.pc s reg (fun _ _ _ => rfl)
        (fun f hf i x c w e => by obtain ⟨_, _, ha⟩ := scalars f hf; exact nomatch ha.symm.trans e)
        fun f _ a => (landReg_status f.act a).2.2
  case every =>
    intro s k run noX noRoll a due writes ready
    have mem_due : ∀ f, f ∈ due ↔ f ∈ (ctxAt s k).flight ∧ f.due ≤ a.sched.toNat := fun f => by simp [due]
    have kind : ∀ f ∈ due, isRegisterResult f.act = true := fun f hf => by
      have h := (ready f hf).2.2
      cases e : f.act
      case rowStore | zeroBands | matrix | fence => rw [e] at h; exact h.elim
      all_goals rfl
    have lands : ∀ f ∈ (ctxAt s k).flight, Lands a.sched.toNat f := fun f hf hd =>
      have hf := (mem_due f).2 ⟨hf, hd⟩
      ⟨(ready f hf).1, (ready f hf).2.1, kind f hf⟩
    have perm := inLandingOrder_perm due
    have inDue : ∀ {P : Flight → Prop}, (∀ f ∈ due, P f) → ∀ f ∈ inLandingOrder due, P f := fun h f hf => h f (perm.mem_iff.1 hf)
    have reg := inDue kind
    have arrived := landUpTo_landedTo a.sched.toNat noX noRoll lands
    obtain ⟨mem, others⟩ := arrived.keeps reg
    refine ⟨_, inLandingOrder due, exec_resultLands_due run lands, perm, inLandingOrder_pairwise due, filter_inLandingOrder due,
      arrived.asLanded.arch, arrived.asLanded.cores, mem, others, arrived.flight, fun hw => ?_, fun hw => ?_, fun d hd => ?_, fun d hd => ?_,
      fun d hd => ?_, fun d hd => ?_⟩
    · rw [arrived.asLanded.arch, ← foldl_or_perm (fun f => f.flags.setWidth 64) perm]
      exact landed_fstat s reg (inDue fun f hf x c w e => hw f hf (by simp only [writes, e]))
    · rw [arrived.asLanded.arch, ← foldl_or_perm (fun f => f.aflags) perm]
      exact landed_astat s reg (inDue fun f hf x c w e => hw f hf (by simp only [writes, e]))
    · rw [arrived.asLanded.arch]
      exact landed_rV s reg (inDue hd)
    · rw [arrived.asLanded.arch]
      exact landed_rP s reg (inDue hd)
    · rw [arrived.asLanded.arch]
      exact landed_rM s reg (inDue hd)
    · rw [arrived.asLanded.arch]
      exact landed_w s reg (inDue hd)
  case write =>
    intro s k x h
    cases x
    case csr | rowStore | zeroBands | matrix => exact h.elim
    all_goals rfl
  case frozen =>
    refine fun s k => ⟨exec_resultLands_not_due, fun ⟨f, hf, hd, hr, d, x, ha⟩ => ?_⟩
    have stops := frozen_of_missing hf hd hr (isRegisterResult_sreg ha)
    exact ⟨exec_resultLands_frozen stops, by simp [ctxReady, stops]⟩
  case writes =>
    intro a
    refine ⟨fun d x => ?_, fun d x lanes => ?_, fun d x lanes => ?_, fun d x => ?_, fun d x => ?_, fun i k x => ?_, fun r x => ?_,
      fun g n => ?_, fun g n => ?_, fun x => rfl, fun n x => rfl, fun h x => rfl, fun k => rfl⟩
    · refine ⟨?_, (landReg_status _ a).1, rfl, rS_wS a d x, fun i hi => rS_wS_ne a d i x hi⟩
      rw [landReg, wS_eq]
    · exact ⟨rfl, fun i hi => rV_wV_ne a d i x lanes hi, fun j hj => elem_wV a d x lanes hj⟩
    · refine ⟨?_, fun i hi => rM_wM_ne a d i x lanes hi, rfl, fun hd j hj => getLsbD_wM a d x lanes hd hj⟩
      rw [landReg, wM_eq]
    · exact ⟨fun i hi => rP_wP_ne a d i x hi, rfl, rP_wP a d x⟩
    · exact ⟨rfl, fun _ _ => rfl⟩
    · exact ⟨by simp [landReg], fun j hj => vector_set_ne a.a i j _ hj⟩
    · refine ⟨?_, ?_, ?_, ?_, ?_, ?_, fun fld b q hq => vector_set_ne a.d r q _ hq⟩
      all_goals simp [landReg, frameField]
    · exact ⟨by simp [landReg], fun h hh => vector_set_ne a.g g h _ hh⟩
    · exact ⟨by simp [landReg], fun h hh => vector_set_ne a.g g h _ hh⟩

end Sys2Proof.Machine
end

section
/-! PROOFS. What the accesses of home slices leave alone (R168, R179, R358): they change memory and its marks, the slices and the
messages to the host, and a read not even memory. -/

namespace Sys2Proof.Machine

/-! ### Messages to the host -/

/-- Messages that are posted leave the device under tags, each as it is otherwise. -/
theorem postMsgs_eq (ms : List HostMsg) (s : State) : ∃ sent tag,
    (postMsgs ms s).2 = { s with outbox := s.outbox ++ sent, txTag := tag } ∧ sent.map HostMsg.type = ms.map HostMsg.type := by
  suffices h : ∀ (l : List (BitVec 16)) (s : State), ∃ sent tag,
      (ms.foldl (fun q m => (q.1 ++ [q.2.txTag], { sendHost q.2 [{ m with tag := q.2.txTag }] with txTag := nextTag q.2.txTag }))
        (l, s)).2 = { s with outbox := s.outbox ++ sent, txTag := tag } ∧ sent.map HostMsg.type = ms.map HostMsg.type from h [] s
  induction ms with
  | nil => exact fun l s => ⟨[], s.txTag, by simp, rfl⟩
  | cons m r ih =>
    intro l s
    obtain ⟨sent, tag, e, types⟩ := ih (l ++ [s.txTag])
      { sendHost s [{ m with tag := s.txTag }] with txTag := nextTag s.txTag }
    refine ⟨{ m with tag := s.txTag } :: sent, tag, ?_, by simp [types]⟩
    rw [List.foldl_cons, e]
    simp [sendHost]

theorem type_of_map_type {sent ms : List HostMsg} (h : sent.map HostMsg.type = ms.map HostMsg.type) {t : BitVec 4}
    (ht : ∀ q ∈ ms, q.type = t) : ∀ q ∈ sent, q.type = t := fun q hq => by
  obtain ⟨m, hm, e⟩ := List.mem_map.1 (h ▸ List.mem_map_of_mem hq : q.type ∈ ms.map HostMsg.type)
  exact e ▸ ht m hm

theorem wantMsgs_eq (s : State) (ms : List HostMsg) : wantMsgs s ms = { s with want := s.want ++ ms } := by
  cases ms <;> simp [wantMsgs]

theorem writeMsgs_type (pa : Nat) (bs : List Byte) : ∀ q ∈ writeMsgs pa bs, q.type = 1 := fun q hq => by
  obtain ⟨i, -, rfl⟩ := List.mem_map.1 hq
  rfl

theorem lineWrites_type (s : State) (l : SliceLine) : ∀ q ∈ lineWrites s l, q.type = 1 := fun q hq => by
  unfold lineWrites at hq
  split at hq
  · obtain ⟨i, -, hq⟩ := List.mem_flatMap.1 hq
    split at hq
    · exact writeMsgs_type _ _ q hq
    · exact nomatch hq
  · exact nomatch hq

/-! ### Accesses of home slices -/

/-- `t` is `s` after accesses of home slices: besides memory and its marks, the slices and the messages to the host, nothing has
changed, and what has been sent are `WRITE`s. -/
structure SliceAccess (s t : State) : Prop where
  rest : t = { s with
    mem := t.mem, bad := t.bad, soft := t.soft, dirty := t.dirty, slices := t.slices, outbox := t.outbox, txTag := t.txTag, want := t.want }
  outbox : ∃ ws, t.outbox = s.outbox ++ ws ∧ ∀ q ∈ ws, q.type = 1

theorem SliceAccess.refl (s : State) : SliceAccess s s := ⟨rfl, [], by simp, nofun⟩

theorem SliceAccess.trans {s t u : State} (h : SliceAccess s t) (g : SliceAccess t u) : SliceAccess s u := by
  refine ⟨g.rest.trans ?_, ?_⟩
  · exact congrArg (fun y : State => { y with
      mem := u.mem, bad := u.bad, soft := u.soft, dirty := u.dirty, slices := u.slices, outbox := u.outbox, txTag := u.txTag,
      want := u.want }) h.rest
  · obtain ⟨ws, e, hw⟩ := h.outbox
    obtain ⟨vs, d, hv⟩ := g.outbox
    refine ⟨ws ++ vs, by rw [d, e, List.append_assoc], fun q hq => ?_⟩
    exact (List.mem_append.1 hq).elim (hw q) (hv q)

theorem SliceAccess.foldl {α : Type} {f : State → α → State} (h : ∀ s x, SliceAccess s (f s x)) (l : List α) (s : State) :
    SliceAccess s (l.foldl f s) := by
  induction l generalizing s with
  | nil => exact .refl s
  | cons x r ih => exact (h s x).trans (ih _)

theorem SliceAccess.ctxs {s t : State} (h : SliceAccess s t) : t.ctxs = s.ctxs := by rw [h.rest]
theorem SliceAccess.cores {s t : State} (h : SliceAccess s t) : t.cores = s.cores := by rw [h.rest]
theorem SliceAccess.jobs {s t : State} (h : SliceAccess s t) : t.jobs = s.jobs := by rw [h.rest]
theorem SliceAccess.par {s t : State} (h : SliceAccess s t) : t.par = s.par := by rw [h.rest]
theorem SliceAccess.hbmFail {s t : State} (h : SliceAccess s t) : t.hbmFail = s.hbmFail := by rw [h.rest]
theorem SliceAccess.ready {s t : State} (h : SliceAccess s t) : t.ready = s.ready := by rw [h.rest]

/-- `t` is `s` after reads of home slices: memory and its marks are as they were, and what the reads want of the host are `READ`s. -/
structure ReadsOnly (s t : State) : Prop extends SliceAccess s t where
  mem : t.mem = s.mem
  bad : t.bad = s.bad
  want : ∃ rs, t.want = s.want ++ rs ∧ ∀ q ∈ rs, q.type = 0

theorem ReadsOnly.refl (s : State) : ReadsOnly s s := ⟨.refl s, rfl, rfl, [], by simp, nofun⟩

theorem ReadsOnly.trans {s t u : State} (h : ReadsOnly s t) (g : ReadsOnly t u) : ReadsOnly s u := by
  refine ⟨h.toSliceAccess.trans g.toSliceAccess, g.mem.trans h.mem, g.bad.trans h.bad, ?_⟩
  obtain ⟨rs, e, hr⟩ := h.want
  obtain ⟨qs, d, hq⟩ := g.want
  refine ⟨rs ++ qs, by rw [d, e, List.append_assoc], fun q hm => ?_⟩
  exact (List.mem_append.1 hm).elim (hr q) (hq q)

theorem ReadsOnly.foldl {α : Type} {f : State → α → State} (h : ∀ s x, ReadsOnly s (f s x)) (l : List α) (s : State) :
    ReadsOnly s (l.foldl f s) := by
  induction l generalizing s with
  | nil => exact .refl s
  | cons x r ih => exact (h s x).trans (ih _)

/-- So is a fold that collects what it reads. -/
theorem ReadsOnly.foldl_snd {α β : Type} {f : β × State → α → β × State} (h : ∀ q x, ReadsOnly q.2 (f q x).2) (l : List α)
    (q : β × State) : ReadsOnly q.2 (l.foldl f q).2 := by
  induction l generalizing q with
  | nil => exact .refl q.2
  | cons x r ih => exact (h q x).trans (ih _)

/-- A change of the slices, and of the correctable marks, is one. -/
theorem ReadsOnly.slices (s : State) (soft : List Nat) (slices : Vector Slice 256) :
    ReadsOnly s { s with soft, slices } := ⟨⟨rfl, [], by simp, nofun⟩, rfl, rfl, [], by simp, nofun⟩

theorem ReadsOnly.modSlice (s : State) (u : Fin 256) (f : Slice → Slice) : ReadsOnly s (modSlice s u f) := .slices s s.soft _

theorem ReadsOnly.countSlice (s : State) (u : Fin 256) (e n : Nat) : ReadsOnly s (countSlice s u e n) := .modSlice s u _

theorem ReadsOnly.posts {s : State} {ms : List HostMsg} (h : ∀ q ∈ ms, q.type = 1) : ReadsOnly s (postMsgs ms s).2 := by
  obtain ⟨sent, tag, e, types⟩ := postMsgs_eq ms s
  rw [e]
  exact ⟨⟨rfl, sent, rfl, type_of_map_type types h⟩, rfl, rfl, [], by simp, nofun⟩

theorem ReadsOnly.wants {s : State} {ms : List HostMsg} (h : ∀ q ∈ ms, q.type = 0) : ReadsOnly s (wantMsgs s ms) := by
  rw [wantMsgs_eq]
  exact ⟨⟨rfl, [], by simp, nofun⟩, rfl, rfl, ms, rfl, h⟩

theorem ReadsOnly.ite {s t u : State} (p : Prop) [Decidable p] (ht : ReadsOnly s t) (hu : ReadsOnly s u) :
    ReadsOnly s (if p then t else u) := by
  split
  · exact ht
  · exact hu

/-! ### The accesses of the model -/

theorem correctWords_readsOnly (s : State) (u : Fin 256) (a n : Nat) : ReadsOnly s (correctWords s u a n) :=
  .ite _ (.refl s) (.trans (.slices s _ s.slices) (.countSlice _ u _ _))

/-- The counts of a line that is evicted (R366). -/
def countEviction (s : State) (u : Fin 256) (l : SliceLine) : State :=
  let s := if l.dirty ≠ 0 then countSlice s u 0x0102 1 else s
  if l.rank ≠ 0 then countSlice s u 0x0107 1 else s

/-- A victim's dirty sectors go to the host. -/
theorem evicted_readsOnly (s : State) (u : Fin 256) (l : SliceLine) :
    ReadsOnly s (postMsgs (lineWrites (countEviction s u l) l) (countEviction s u l)).2 := by
  have written : ReadsOnly s (if l.dirty ≠ 0 then countSlice s u 0x0102 1 else s) := .ite _ (.countSlice ..) (.refl s)
  have counted : ReadsOnly s (countEviction s u l) := written.trans (.ite (l.rank ≠ 0) (.countSlice _ u 0x0107 1) (.refl _))
  exact counted.trans (.posts (lineWrites_type _ l))

/-- A sector takes its place in the cache. -/
theorem sliceTouch_readsOnly (s : State) (pa : Nat) (write : Bool) (rank : Option Nat) : ReadsOnly s (sliceTouch s pa write rank) := by
  have counted := (ReadsOnly.countSlice s (homeOf pa) 0x0100 1).trans
    (.ite (sliceHas (countSlice s (homeOf pa) 0x0100 1) pa = true) (.refl _) (.countSlice _ (homeOf pa) 0x0101 1))
  unfold sliceTouch
  dsimp only
  generalize (if sliceHas (countSlice s (homeOf pa) 0x0100 1) pa = true then countSlice s (homeOf pa) 0x0100 1
    else countSlice (countSlice s (homeOf pa) 0x0100 1) (homeOf pa) 0x0101 1) = t at counted ⊢
  split
  · exact counted.trans (.modSlice ..)
  · split
    · exact counted
    · refine counted.trans (.trans ?_ (.modSlice ..))
      split
      · exact evicted_readsOnly t (homeOf pa) _
      · exact .refl t

theorem homeRead_readsOnly (s : State) (pa n : Nat) (rank : Option Nat) : ReadsOnly s (homeRead s pa n rank).2 := by
  unfold homeRead
  dsimp only
  refine .trans (.wants fun q hq => ?_) (.trans (sliceTouch_readsOnly _ pa false rank) (correctWords_readsOnly ..))
  split at hq
  · exact nomatch hq
  · split at hq <;> exact List.mem_singleton.1 hq ▸ rfl

theorem touchRange_readsOnly (s : State) (pa n : Nat) : ReadsOnly s (touchRange s pa n) :=
  .foldl (fun s _ => homeRead_readsOnly s _ _ none) _ s

set_option smartUnfolding false in
/-- One level of a walk: what it answers, or the table it goes on from, is settled by memory and its marks, and its read is all that
happens. (The recursion stands inside a match, which keeps smart unfolding from getting at the body.) -/
theorem walk_ends_or_descends (va l a : Nat) (w : State) :
    (∃ r, ∀ s, s.mem = w.mem → s.bad = w.bad → walk va l a s = (r, (homeRead s (a + 8 * levelIndex va l) 8 none).2)) ∨
    ∃ k t, l = k + 1 ∧
      ∀ s, s.mem = w.mem → s.bad = w.bad → walk va l a s = walk va k t (homeRead s (a + 8 * levelIndex va l) 8 none).2 := by
  by_cases h : badAt w (a + 8 * levelIndex va l) 8 = true
  · refine .inl ⟨.error ⟨0x0019, 0⟩, fun s _ hbad => ?_⟩
    have hs : badAt s (a + 8 * levelIndex va l) 8 = true := by rw [badAt, hbad]; exact h
    cases l <;> exact if_pos hs
  · have hs (s : State) (hbad : s.bad = w.bad) : ¬ badAt s (a + 8 * levelIndex va l) 8 = true := by rw [badAt, hbad]; exact h
    have entry (s : State) (hmem : s.mem = w.mem) :
        (homeRead s (a + 8 * levelIndex va l) 8 none).1 = memRead w.mem (a + 8 * levelIndex va l) 8 := by rw [← hmem]; rfl
    cases e : entryOf l (leVal (memRead w.mem (a + 8 * levelIndex va l) 8)) with
    | bad =>
      refine .inl ⟨.error ⟨0x0018, BitVec.ofNat 16 l⟩, fun s hmem hbad => ?_⟩
      cases l <;> exact (if_neg (hs s hbad)).trans (by rw [entry s hmem, e])
    | leaf base writable =>
      refine .inl ⟨.ok ⟨Fin.ofNat 3 l, base, writable⟩, fun s hmem hbad => ?_⟩
      cases l <;> exact (if_neg (hs s hbad)).trans (by rw [entry s hmem, e])
    | table t =>
      cases l with
      | zero =>
        refine .inl ⟨.error ⟨0x0018, BitVec.ofNat 16 0⟩, fun s hmem hbad => ?_⟩
        exact (if_neg (hs s hbad)).trans (by rw [entry s hmem, e])
      | succ k =>
        refine .inr ⟨k, t, rfl, fun s hmem hbad => ?_⟩
        exact (if_neg (hs s hbad)).trans (by rw [entry s hmem, e]; rfl)

theorem walk_readsOnly (va l a : Nat) (s : State) : ReadsOnly s (walk va l a s).2 := by
  have entry := homeRead_readsOnly s (a + 8 * levelIndex va l) 8 none
  induction l generalizing a s with
  | zero =>
    obtain ⟨r, e⟩ | ⟨k, t, hk, -⟩ := walk_ends_or_descends va 0 a s
    · simpa only [e s rfl rfl] using entry
    · exact nomatch hk
  | succ l ih =>
    obtain ⟨r, e⟩ | ⟨k, t, hk, e⟩ := walk_ends_or_descends va (l + 1) a s
    · simpa only [e s rfl rfl] using entry
    · rw [e s rfl rfl]
      obtain rfl := Nat.succ.inj hk
      exact entry.trans (ih _ _ (homeRead_readsOnly ..))

theorem rootXlate_readsOnly (s : State) (root va : Nat) (write : Bool) : ReadsOnly s (rootXlate s root va write).2 := by
  unfold rootXlate
  split
  · exact .refl s
  · have walked := walk_readsOnly va 3 root s
    split <;> next e => rw [e] at walked; exact walked

theorem rootRefusal_readsOnly (root : Nat) (write : Bool) (l : List Nat) (s : State) :
    ReadsOnly s (rootRefusal root write l s).2 := by
  induction l generalizing s with
  | nil => exact .refl s
  | cons a r ih =>
    have walked := rootXlate_readsOnly s root a write
    unfold rootRefusal
    split
    · next e => rw [e] at walked; exact walked
    · next e => rw [e] at walked; exact walked.trans (ih _)

theorem touchPages_readsOnly (s : State) (root va n : Nat) (write : Bool) : ReadsOnly s (touchPages s root va n write) :=
  rootRefusal_readsOnly root write _ s

/-- One piece of a read through the tables: its bytes follow those already read, as zeros where it does not translate. -/
def rootPiece (root : Nat) (q : List Byte × State) (p : Word × Nat) : List Byte × State :=
  match rootXlate q.2 root p.1.toNat false with
  | (.ok pa, s) => (q.1 ++ (homeRead s pa p.2 none).1, (homeRead s pa p.2 none).2)
  | (.error _, s) => (q.1 ++ List.replicate p.2 0, s)

theorem rootRead_eq (s : State) (root : Nat) (va : Word) (n : Nat) :
    rootRead s root va n = (pieces va n).foldl (rootPiece root) ([], s) := rfl

theorem rootPiece_readsOnly (root : Nat) (q : List Byte × State) (p : Word × Nat) : ReadsOnly q.2 (rootPiece root q p).2 := by
  have walked := rootXlate_readsOnly q.2 root p.1.toNat false
  unfold rootPiece
  split
  · next pa t e =>
    rw [e] at walked
    have piece : ReadsOnly t (homeRead t pa p.2 none).2 := homeRead_readsOnly ..
    dsimp only at walked ⊢
    exact walked.trans piece
  · next e =>
    rw [e] at walked
    exact walked

theorem rootRead_readsOnly (s : State) (root : Nat) (va : Word) (n : Nat) : ReadsOnly s (rootRead s root va n).2 := by
  rw [rootRead_eq]
  exact .foldl_snd (rootPiece_readsOnly root) (pieces va n) ([], s)

end Sys2Proof.Machine
end

section
/-! PROOFS. What the checks of a `START` find is settled by memory and its marks (R359, R391), and their accesses only read. -/

namespace Sys2Proof.Machine

/-! ### What translations and reads answer -/

theorem walk_congr {s w : State} (hmem : s.mem = w.mem) (hbad : s.bad = w.bad) (va l a : Nat) :
    (walk va l a s).1 = (walk va l a w).1 := by
  induction l generalizing a s w with
  | zero =>
    obtain ⟨r, e⟩ | ⟨k, t, hk, -⟩ := walk_ends_or_descends va 0 a w
    · rw [e s hmem hbad, e w rfl rfl]
    · exact nomatch hk
  | succ l ih =>
    obtain ⟨r, e⟩ | ⟨k, t, hk, e⟩ := walk_ends_or_descends va (l + 1) a w
    · rw [e s hmem hbad, e w rfl rfl]
    · obtain rfl := Nat.succ.inj hk
      have hs := homeRead_readsOnly s (a + 8 * levelIndex va (l + 1)) 8 none
      have hw := homeRead_readsOnly w (a + 8 * levelIndex va (l + 1)) 8 none
      rw [e s hmem hbad, e w rfl rfl]
      exact ih (hs.mem.trans (hmem.trans hw.mem.symm)) (hs.bad.trans (hbad.trans hw.bad.symm)) t

theorem rootXlate_congr {s w : State} (hmem : s.mem = w.mem) (hbad : s.bad = w.bad) (root va : Nat) (write : Bool) :
    (rootXlate s root va write).1 = (rootXlate w root va write).1 := by
  have walked := walk_congr hmem hbad va 3 root
  unfold rootXlate
  split
  · rfl
  · generalize walk va 3 root s = a at walked ⊢
    generalize walk va 3 root w = b at walked ⊢
    obtain ⟨r, s'⟩ := a
    obtain ⟨r', w'⟩ := b
    obtain rfl : r = r' := walked
    cases r <;> rfl

theorem rootRefusal_congr {s w : State} (hmem : s.mem = w.mem) (hbad : s.bad = w.bad) (root : Nat) (write : Bool) (l : List Nat) :
    (rootRefusal root write l s).1 = (rootRefusal root write l w).1 := by
  induction l generalizing s w with
  | nil => rfl
  | cons a r ih =>
    have walked := rootXlate_congr hmem hbad root a write
    have hs := rootXlate_readsOnly s root a write
    have hw := rootXlate_readsOnly w root a write
    have rest := ih (hs.mem.trans (hmem.trans hw.mem.symm)) (hs.bad.trans (hbad.trans hw.bad.symm))
    unfold rootRefusal
    split <;> split <;> simp_all

theorem rootPiece_congr {q r : List Byte × State} (h : q.1 = r.1) (hmem : q.2.mem = r.2.mem) (hbad : q.2.bad = r.2.bad) (root : Nat)
    (p : Word × Nat) : (rootPiece root q p).1 = (rootPiece root r p).1 := by
  have walked := rootXlate_congr hmem hbad root p.1.toNat false
  have hq := (rootXlate_readsOnly q.2 root p.1.toNat false).mem
  have hr := (rootXlate_readsOnly r.2 root p.1.toNat false).mem
  unfold rootPiece
  generalize rootXlate q.2 root p.1.toNat false = x at walked hq ⊢
  generalize rootXlate r.2 root p.1.toNat false = y at walked hr ⊢
  obtain ⟨a, s⟩ := x
  obtain ⟨b, t⟩ := y
  obtain rfl : a = b := walked
  have same : s.mem = t.mem := hq.trans (hmem.trans hr.symm)
  cases a with
  | error e => exact congrArg (· ++ List.replicate p.2 0) h
  | ok pa =>
    show q.1 ++ memRead s.mem pa p.2 = r.1 ++ memRead t.mem pa p.2
    rw [h, same]

theorem rootRead_congr {s w : State} (hmem : s.mem = w.mem) (hbad : s.bad = w.bad) (root : Nat) (va : Word) (n : Nat) :
    (rootRead s root va n).1 = (rootRead w root va n).1 := by
  suffices h : ∀ (l : List (Word × Nat)) (q r : List Byte × State), q.1 = r.1 → q.2.mem = r.2.mem → q.2.bad = r.2.bad →
      (l.foldl (rootPiece root) q).1 = (l.foldl (rootPiece root) r).1 from h (pieces va n) ([], s) ([], w) rfl hmem hbad
  intro l
  induction l with
  | nil => exact fun _ _ h _ _ => h
  | cons p l ih =>
    intro q r h hmem hbad
    have hq := rootPiece_readsOnly root q p
    have hr := rootPiece_readsOnly root r p
    exact ih _ _ (rootPiece_congr h hmem hbad root p) (hq.mem.trans (hmem.trans hr.mem.symm)) (hq.bad.trans (hbad.trans hr.bad.symm))

/-! ### The checks of a `START`, whatever is wanted of the host -/

theorem pagesOk_want (s : State) (w : List HostMsg) (root va n : Nat) (write : Bool) :
    pagesOk { s with want := w } root va n write = pagesOk s root va n write := by
  unfold pagesOk
  rw [rootRefusal_congr (s := { s with want := w }) (w := s) rfl rfl]

theorem poolWord_want (s : State) (w : List HostMsg) (root tab n : Nat) :
    poolWord { s with want := w } root tab n = poolWord s root tab n := by
  unfold poolWord
  rw [rootRead_congr (s := { s with want := w }) (w := s) rfl rfl]

theorem rootBad_want (s : State) (w : List HostMsg) (root : Nat) (va : Word) (n : Nat) :
    rootBad { s with want := w } root va n = rootBad s root va n := by
  unfold rootBad
  simp only [rootXlate_congr (s := { s with want := w }) (w := s) rfl rfl]
  rfl

theorem poolsBad_want (s : State) (w : List HostMsg) (root tab : Nat) :
    poolsBad { s with want := w } root tab = poolsBad s root tab := by
  unfold poolsBad
  simp only [rootBad_want, poolWord_want]

theorem addressBad_want (s : State) (w : List HostMsg) (vec img root notify : Nat) :
    addressBad { s with want := w } vec img root notify = addressBad s vec img root notify := by
  unfold addressBad
  simp only [pagesOk_want]
  rfl

theorem startStatus_want (s : State) (w : List HostMsg) (j : BitVec 32) (vec img root notify : Nat) :
    startStatus { s with want := w } j vec img root notify = startStatus s j vec img root notify := by
  unfold startStatus
  simp only [pagesOk_want, poolsBad_want, addressBad_want]
  rfl

/-! ### The accesses of the checks -/

theorem touchStart_readsOnly (s : State) (vec img root : Nat) : ReadsOnly s (touchStart s vec img root) := by
  unfold touchStart
  refine .ite _ (.refl s) ?_
  extract_lets image vector tab table data
  have hvector : ReadsOnly s vector := (touchRange_readsOnly s img _).trans (touchRange_readsOnly image vec _)
  have htable : ReadsOnly vector table := .ite _ (.refl vector) (rootRead_readsOnly ..)
  have hdata : ReadsOnly table data := .foldl (fun s i => touchPages_readsOnly ..) _ table
  exact hvector.trans (.ite _ (.refl vector) ((htable.trans hdata).trans (touchPages_readsOnly ..)))

end Sys2Proof.Machine
end

section
/-! PROOFS. O49: a `START` that is refused, waits for the host or is accepted, and a waiting job that starts (R35 to R37, R359, R391). -/

namespace Sys2Proof.Machine

/-! ### An action and the host memory that it needs -/

/-- Whether the messages that are wanted hold a read. -/
def wantsRead (s : State) : Bool := s.want.any fun q => q.type = 0

theorem newAsk_error (what : AskKind) : (newAsk what).error = none := rfl

/-- An action that needs bytes of host memory sends its reads and waits for them; it does nothing else. -/
theorem runAsk_reads {s : State} {what : AskKind} {act : Option (BitVec 16) → State → State} (o : Owner)
    (h : wantsRead (act none { s with want := [] }) = true) : ∃ a ms tag,
      runAsk s (newAsk what) o act = { s with outbox := s.outbox ++ ms, txTag := tag, asks := s.asks ++ [a] } ∧
      a.what = what ∧ ms ≠ [] ∧ ∀ q ∈ ms, q.type = 0 := by
  unfold runAsk
  dsimp only
  rw [newAsk_error]
  generalize act none { s with want := [] } = r at h ⊢
  generalize hreads : List.eraseDups (α := HostMsg) _ = reads
  have mem_reads (q : HostMsg) : q ∈ reads ↔ q ∈ r.want ∧ q.type = 0 := by
    rw [← hreads, List.mem_eraseDups]
    simp [newAsk]
  have some_read : reads ≠ [] := by
    obtain ⟨q, hq, hread⟩ := List.any_eq_true.1 h
    exact List.ne_nil_of_mem ((mem_reads q).2 ⟨hq, of_decide_eq_true hread⟩)
  obtain ⟨sent, tag, e, ht⟩ := postMsgs_eq reads s
  rw [if_pos ⟨some_read, rfl⟩, e]
  refine ⟨_, sent, tag, rfl, rfl, ?_, type_of_map_type ht fun q hq => ((mem_reads q).1 hq).2⟩
  rintro rfl
  exact some_read (List.map_eq_nil_iff.1 ht.symm)

/-- One that needs none is carried out; what it writes in host memory is sent behind its other messages. -/
theorem runAsk_carriedOut {s : State} {what : AskKind} {act : Option (BitVec 16) → State → State} (o : Owner)
    (h : wantsRead (act none { s with want := [] }) = false) : ∃ sent tag posts,
      runAsk s (newAsk what) o act = { act none { s with want := [] } with
        outbox := (act none { s with want := [] }).outbox ++ sent, txTag := tag, want := s.want, posts := posts } ∧
      sent.map HostMsg.type = ((act none { s with want := [] }).want.filter fun m => m.type = 1).map HostMsg.type := by
  unfold runAsk
  dsimp only
  rw [newAsk_error]
  generalize act none { s with want := [] } = r at h ⊢
  generalize hreads : List.eraseDups (α := HostMsg) _ = reads
  have no_read : reads = [] := by
    refine List.eq_nil_iff_forall_not_mem.2 fun q hq => ?_
    rw [← hreads, List.mem_eraseDups] at hq
    obtain ⟨hq, hread⟩ := List.mem_filter.1 hq
    exact List.any_eq_false.1 h q hq (by simpa [newAsk] using hread)
  rw [if_neg fun x => x.1 no_read]
  obtain ⟨sent, tag, e, ht⟩ := postMsgs_eq (r.want.filter fun m => m.type = 1) { r with want := [] }
  rw [e]
  exact ⟨sent, tag, _, rfl, ht⟩

/-- What neither the action nor a message changes is as it was. -/
theorem runAsk_keeps {α : Type} (f : State → α) (s : State) (what : AskKind) (o : Owner) (act : Option (BitVec 16) → State → State)
    (hf : ∀ (t : State) outbox txTag want posts asks, f { t with outbox, txTag, want, posts, asks } = f t)
    (h : f (act none { s with want := [] }) = f s) : f (runAsk s (newAsk what) o act) = f s := by
  cases hr : wantsRead (act none { s with want := [] }) with
  | true =>
    obtain ⟨a, ms, tag, e, -⟩ := runAsk_reads (what := what) o hr
    rw [e]
    exact hf s ..
  | false =>
    obtain ⟨sent, tag, posts, e, -⟩ := runAsk_carriedOut (what := what) o hr
    rw [e]
    exact (hf (act none { s with want := [] }) ..).trans h

/-! ### What a `START` does -/

theorem exec_start_heard {s : State} {m : Fin 8} (hm : s.modules.getLsbD m.val = true) (hf : s.fwOk = true) (t : BitVec 16)
    (id : BitVec 32) (x : List Byte) :
    exec (.start m t id x) s = .next (runAsk s (newAsk (.start m t x)) (.job (startJob s x)) (startNow m t x)) := by
  show execStart m t id x s = _
  have heard : hears s m = true := by simp [hears, hm, hf]
  simp [execStart, heard]

/-- The state after the accesses of its checks. -/
def checked (s : State) (x : List Byte) : State := touchStart s (startWord x 0) (startWord x 1) (startWord x 2)

theorem checked_readsOnly (s : State) (x : List Byte) : ReadsOnly s (checked s x) := touchStart_readsOnly ..

theorem startNow_hbmFail {s : State} (h : s.hbmFail = true) (m : Fin 8) (t : BitVec 16) (x : List Byte) :
    startNow m t x none s = sendAck (checked s x) t 6 := by
  have fails := (checked_readsOnly s x).hbmFail.trans h
  exact if_pos fails

theorem startNow_firmware {s : State} {x : List Byte} (h : s.hbmFail = false) (hf : startFirmware s x = true) (hr : s.ready = false) (m : Fin 8)
    (t : BitVec 16) : startNow m t x none s = sendAck (checked s x) t 6 := by
  have works : ¬ (checked s x).hbmFail = true := by rw [(checked_readsOnly s x).hbmFail, h]; exact Bool.false_ne_true
  have early : ¬ (checked s x).ready = true := by rw [(checked_readsOnly s x).ready, hr]; exact Bool.false_ne_true
  exact (if_neg works).trans ((if_pos hf).trans (if_neg early))

theorem startNow_image {s : State} {x : List Byte} (h : s.hbmFail = false) (hf : startFirmware s x = false) (m : Fin 8) (t : BitVec 16) :
    startNow m t x none s =
      if startStatus s (startJob s x) (startWord x 0) (startWord x 1) (startWord x 2) (startWord x 3) ≠ 0 then sendAck (checked s x) t
        (startStatus s (startJob s x) (startWord x 0) (startWord x 1) (startWord x 2) (startWord x 3))
      else acceptStart (checked s x) (startJob s x) (startWord x 0) (startWord x 1) (startWord x 2) (startWord x 3) m t := by
  have works : ¬ (checked s x).hbmFail = true := by rw [(checked_readsOnly s x).hbmFail, h]; exact Bool.false_ne_true
  exact (if_neg works).trans (if_neg (Bool.eq_false_iff.1 hf))

/-- A `START` that the checks refuse: besides the answer, it has only read. -/
theorem start_answers {s : State} {m : Fin 8} {t : BitVec 16} {x : List Byte} {n : Nat} (hm : s.modules.getLsbD m.val = true)
    (hf : s.fwOk = true) (id : BitVec 32) (h : startNow m t x none { s with want := [] } = sendAck (checked { s with want := [] } x) t n)
    (noRead : wantsRead (startNow m t x none { s with want := [] }) = false) : ∃ (u : State) (ws : List HostMsg), exec (.start m t id x) s = .next u ∧
      u.outbox = s.outbox ++ ws ++ [⟨3, t, 0, BitVec.ofNat 32 n, []⟩] ∧ (∀ q ∈ ws, q.type = 1) ∧ u.mem = s.mem ∧ u.ctxs = s.ctxs ∧
      u.jobs = s.jobs := by
  obtain ⟨sent, tag, posts, e, types⟩ := runAsk_carriedOut (what := .start m t x) (.job (startJob s x)) noRead
  have read := checked_readsOnly { s with want := [] } x
  rw [h] at e types noRead
  obtain ⟨rs, hrs, reads⟩ := read.want
  obtain ⟨ws, hws, writes⟩ := read.outbox
  obtain rfl : sent = [] := by
    refine List.map_eq_nil_iff.1 (types.trans (List.map_eq_nil_iff.2 (List.filter_eq_nil_iff.2 fun q hq => ?_)))
    have hread := reads q (Eq.mp (congrArg (q ∈ ·) hrs) hq)
    rw [hread]
    decide
  refine ⟨_, ws, exec_start_heard hm hf t id x, ?_, writes, ?_, ?_, ?_⟩ <;> rw [e]
  · show (checked _ x).outbox ++ _ ++ [] = _
    rw [hws, List.append_nil]
  · exact read.mem
  · exact read.ctxs
  · exact read.jobs

/-! ### The data segments of an accepted image -/

theorem homeWrite_sliceAccess (s : State) (pa : Nat) (bs : List Byte) (rank : Option Nat) : SliceAccess s (homeWrite s pa bs rank) := by
  have wanted (ms : List HostMsg) : SliceAccess s (wantMsgs s ms) := by
    rw [wantMsgs_eq]
    exact ⟨rfl, [], by simp, nofun⟩
  have written (t : State) : SliceAccess t (putBytes t pa bs) := ⟨rfl, [], by simp [putBytes], nofun⟩
  unfold homeWrite
  dsimp only
  exact (((wanted _).trans (correctWords_readsOnly ..).toSliceAccess).trans (written _)).trans
    (sliceTouch_readsOnly _ pa true rank).toSliceAccess

/-- The contexts and the jobs. -/
def ctxsAndJobs (s : State) : Vector Ctx 1024 × List Job := (s.ctxs, s.jobs)

theorem SliceAccess.ctxsAndJobs {s t : State} (h : SliceAccess s t) : ctxsAndJobs t = ctxsAndJobs s :=
  Prod.ext h.ctxs h.jobs

theorem homePost_ctxsAndJobs (o : Owner) (s : State) (pa : Nat) (bs : List Byte) : ctxsAndJobs (homePost o s pa bs) = ctxsAndJobs s :=
  runAsk_keeps ctxsAndJobs s _ o _ (fun _ _ _ _ _ _ => rfl) (homeWrite_sliceAccess ..).ctxsAndJobs

theorem rootWrite_ctxsAndJobs (o : Owner) (s : State) (root : Nat) (va : Word) (bs : List Byte) :
    ctxsAndJobs (rootWrite o s root va bs) = ctxsAndJobs s := by
  unfold rootWrite
  suffices h : ∀ (l : List (Word × Nat)) (f : List Byte × State → Word × Nat → List Byte × State) (q : List Byte × State),
      (∀ q p, ctxsAndJobs (f q p).2 = ctxsAndJobs q.2) → ctxsAndJobs (l.foldl f q).2 = ctxsAndJobs q.2 by
    refine h _ _ (bs, s) fun q p => ?_
    have walked := (rootXlate_readsOnly q.2 root p.1.toNat true).ctxsAndJobs
    split
    · next e =>
      rw [e] at walked
      dsimp only at walked ⊢
      exact (homePost_ctxsAndJobs ..).trans walked
    · next e =>
      rw [e] at walked
      exact walked
  intro l f
  induction l with
  | nil => exact fun _ _ => rfl
  | cons p l ih => exact fun q hf => (ih _ hf).trans (hf q p)

theorem foldl_keeps {α β : Type} (f : State → α) {g : State → β → State} (h : ∀ s x, f (g s x) = f s) (l : List β) (s : State) :
    f (l.foldl g s) = f s := by
  induction l generalizing s with
  | nil => rfl
  | cons x l ih => exact (ih _).trans (h s x)

theorem placeData_ctxsAndJobs (s : State) (img root : Nat) (j : BitVec 32) : ctxsAndJobs (placeData s img root j) = ctxsAndJobs s := by
  refine foldl_keeps ctxsAndJobs (fun s i => ?_) (List.range (imgNdata s img)) s
  have read := (touchRange_readsOnly s (img + (imgData s img i).2.1) (imgData s img i).2.2).ctxsAndJobs
  exact (rootWrite_ctxsAndJobs ..).trans read

theorem acceptStart_jobs (s : State) (j : BitVec 32) (vec img root notify : Nat) (m : Fin 8) (t : BitVec 16) :
    (acceptStart s j vec img root notify m t).jobs = s.jobs ++ [newJob s j vec img root notify m t] :=
  congrArg (· ++ [newJob s j vec img root notify m t]) (congrArg Prod.snd (placeData_ctxsAndJobs s img root j))

theorem acceptStart_ctxs (s : State) (j : BitVec 32) (vec img root notify : Nat) (m : Fin 8) (t : BitVec 16) :
    (acceptStart s j vec img root notify m t).ctxs = s.ctxs :=
  congrArg Prod.fst (placeData_ctxsAndJobs s img root j)

theorem recsOf_congr {s w : State} (h : s.mem = w.mem) (vec : Nat) : recsOf s vec = recsOf w vec := by
  simp [recsOf, recAt, vecBits, recBits, h]

/-- A `START` that the checks pass: its job waits for its cores. -/
theorem start_accepts {s : State} {m : Fin 8} {t : BitVec 16} {x : List Byte} (hm : s.modules.getLsbD m.val = true)
    (hf : s.fwOk = true) (id : BitVec 32)
    (h : startNow m t x none { s with want := [] } = acceptStart (checked { s with want := [] } x) (startJob s x) (startWord x 0)
      (startWord x 1) (startWord x 2) (startWord x 3) m t)
    (noRead : wantsRead (startNow m t x none { s with want := [] }) = false) : ∃ (u : State) (job : Job), exec (.start m t id x) s = .next u ∧
      u.jobs = s.jobs ++ [job] ∧ job.id = startJob s x ∧ job.phase = .waiting ∧ job.recs = recsOf s (startWord x 0) ∧
      job.answer = some (m, t) ∧ u.ctxs = s.ctxs := by
  obtain ⟨sent, tag, posts, e, -⟩ := runAsk_carriedOut (what := .start m t x) (.job (startJob s x)) noRead
  have read := checked_readsOnly { s with want := [] } x
  rw [h] at e
  refine ⟨_, newJob (checked { s with want := [] } x) (startJob s x) (startWord x 0) (startWord x 1) (startWord x 2) (startWord x 3) m t,
    exec_start_heard hm hf t id x, ?_, rfl, rfl, recsOf_congr read.mem _, rfl, ?_⟩ <;> rw [e]
  · dsimp only
    rw [acceptStart_jobs, read.jobs]
  · dsimp only
    rw [acceptStart_ctxs, read.ctxs]

/-- While the checks need bytes of host memory, a `START` does nothing but read them. -/
theorem start_reads {s : State} {m : Fin 8} {t : BitVec 16} {x : List Byte} (hm : s.modules.getLsbD m.val = true)
    (hf : s.fwOk = true) (id : BitVec 32) (h : wantsRead (startNow m t x none { s with want := [] }) = true) : ∃ (u : State) (a : Ask) (ms : List HostMsg),
      exec (.start m t id x) s = .next u ∧ u.asks = s.asks ++ [a] ∧ a.what = .start m t x ∧ u.outbox = s.outbox ++ ms ∧
      (∀ q ∈ ms, q.type = 0) ∧ ms ≠ [] ∧ u.mem = s.mem ∧ u.ctxs = s.ctxs ∧ u.jobs = s.jobs := by
  obtain ⟨a, ms, tag, e, what, some_read, reads⟩ := runAsk_reads (what := .start m t x) (.job (startJob s x)) h
  exact ⟨_, a, ms, (exec_start_heard hm hf t id x).trans (congrArg _ e), rfl, what, rfl, reads, some_read, rfl, rfl, rfl⟩

end Sys2Proof.Machine
end

section
/-! PROOFS. O49, continued: the cores and the contexts of a job that starts (R36 to R38). -/

namespace Sys2Proof.Machine

/-! ### The contexts of a core -/

theorem exists_ctxId_iff (c : Fin 256) (k : Fin 1024) : (∃ i ∈ List.finRange 4, ctxId c i = k) ↔ coreOf k = c := by
  constructor
  · rintro ⟨i, -, rfl⟩
    exact Fin.ext (by simp [coreOf, ctxId]; omega)
  · rintro rfl
    exact ⟨subOf k, List.mem_finRange _, Fin.ext (by simp [coreOf, ctxId, subOf]; omega)⟩

theorem foldl_setCtx_eq {α : Type} (f : α → Fin 1024) (g : Fin 1024 → Ctx) (l : List α) (s : State) :
    ∃ v, l.foldl (fun s i => setCtx s (f i) (g (f i))) s = { s with ctxs := v } := by
  induction l generalizing s with
  | nil => exact ⟨s.ctxs, rfl⟩
  | cons i l ih =>
    obtain ⟨v, e⟩ := ih (setCtx s (f i) (g (f i)))
    exact ⟨v, e⟩

theorem ctxAt_foldl_setCtx {α : Type} (f : α → Fin 1024) (g : Fin 1024 → Ctx) (l : List α) (s : State) (k : Fin 1024) :
    ((∃ i ∈ l, f i = k) → ctxAt (l.foldl (fun s i => setCtx s (f i) (g (f i))) s) k = g k) ∧
    ((¬ ∃ i ∈ l, f i = k) → ctxAt (l.foldl (fun s i => setCtx s (f i) (g (f i))) s) k = ctxAt s k) := by
  induction l generalizing s with
  | nil => exact ⟨fun ⟨_, hi, _⟩ => absurd hi List.not_mem_nil, fun _ => rfl⟩
  | cons i l ih =>
    obtain ⟨here, there⟩ := ih (setCtx s (f i) (g (f i)))
    by_cases later : ∃ i ∈ l, f i = k
    · refine ⟨fun _ => here later, fun none => absurd ?_ none⟩
      obtain ⟨n, hn, e⟩ := later
      exact ⟨n, List.mem_cons_of_mem _ hn, e⟩
    · by_cases now : f i = k
      · subst now
        exact ⟨fun _ => (there later).trans (ctxAt_setCtx ..), fun none => absurd ⟨i, List.mem_cons_self, rfl⟩ none⟩
      · refine ⟨fun ⟨n, hn, e⟩ => ?_, fun _ => (there later).trans (ctxAt_setCtx_ne s _ _ _ (Ne.symm now))⟩
        obtain rfl | hn := List.mem_cons.1 hn
        · exact absurd e now
        · exact absurd ⟨n, hn, e⟩ later

/-! ### A core that is taken for the first time -/

theorem setCore_coreAt (s : State) (c : Fin 256) : setCore s c (coreAt s c) = s := by
  simp [setCore, coreAt]

theorem clearLocal_sliceAccess (s : State) (c : Fin 256) : SliceAccess s (clearLocal s c) :=
  ⟨rfl, [], by simp [clearLocal], nofun⟩

/-- Filling the instruction store takes accesses of home slices, and sets the core. -/
theorem fillCode_eq (s : State) (c : Fin 256) (img : Nat) : ∃ w x, SliceAccess s w ∧ fillCode s c img = setCore w c x := by
  unfold fillCode
  split
  · exact ⟨s, _, .refl s, (setCore_coreAt s c).symm⟩
  · next off n _ =>
    refine ⟨_, _, ?_, rfl⟩
    exact (touchRange_readsOnly s (img + off) (4 * min n (0x80000 / 4))).toSliceAccess.trans ⟨rfl, [], by simp [putBytes], nofun⟩

/-- `t` is `s` after the cores `cs` have been taken for job `j`, to issue from cycle `ready` on: each is the job's and its contexts are in
their launch state, and no other core or context has changed. -/
structure Launched (j : Job) (ready : Nat) (cs : List (Fin 256)) (s t : State) : Prop where
  core : ∀ c ∈ cs, (coreAt t c).job = some j.id ∧ (coreAt t c).busyUntil = ready
  others : ∀ c, c ∉ cs → coreAt t c = coreAt s c
  started : ∀ k, coreOf k ∈ cs → ctxAt t k = launchCtx j k
  elsewhere : ∀ k, coreOf k ∉ cs → ctxAt t k = ctxAt s k
  outbox : ∃ ws, t.outbox = s.outbox ++ ws ∧ ∀ q ∈ ws, q.type = 1
  jobs : t.jobs = s.jobs
  par : t.par = s.par

theorem Launched.nil (j : Job) (ready : Nat) (s : State) : Launched j ready [] s s :=
  ⟨nofun, fun _ _ => rfl, nofun, fun _ _ => rfl, ⟨[], by simp, nofun⟩, rfl, rfl⟩

theorem Launched.cons {j : Job} {ready : Nat} {c : Fin 256} {cs : List (Fin 256)} {s t u : State} (h : Launched j ready [c] s t)
    (g : Launched j ready cs t u) : Launched j ready (c :: cs) s u := by
  have one {d : Fin 256} (hd : d ∈ c :: cs) (hn : d ∉ cs) : d ∈ [c] :=
    List.mem_singleton.2 ((List.mem_cons.1 hd).resolve_right hn)
  have apart {d : Fin 256} (hd : d ∉ c :: cs) : d ∉ [c] ∧ d ∉ cs := by simpa using hd
  refine ⟨fun d hd => ?_, fun d hd => ?_, fun k hk => ?_, fun k hk => ?_, ?_, g.jobs.trans h.jobs, g.par.trans h.par⟩
  · by_cases hn : d ∈ cs
    · exact g.core d hn
    · rw [g.others d hn]
      exact h.core d (one hd hn)
  · exact (g.others d (apart hd).2).trans (h.others d (apart hd).1)
  · by_cases hn : coreOf k ∈ cs
    · exact g.started k hn
    · exact (g.elsewhere k hn).trans (h.started k (one hk hn))
  · exact (g.elsewhere k (apart hk).2).trans (h.elsewhere k (apart hk).1)
  · obtain ⟨ws, e, hw⟩ := h.outbox
    obtain ⟨vs, d, hv⟩ := g.outbox
    exact ⟨ws ++ vs, by rw [d, e, List.append_assoc], fun q hq => (List.mem_append.1 hq).elim (hw q) (hv q)⟩

theorem launchCore_launched (s : State) (j : Job) (ready : Nat) (c : Fin 256) : Launched j ready [c] s (launchCore s j ready c) := by
  obtain ⟨w, x, filled, hw⟩ := fillCode_eq (clearLocal s c) c j.image.toNat
  have access := (clearLocal_sliceAccess s c).trans filled
  obtain ⟨v, hv⟩ := foldl_setCtx_eq (ctxId c) (launchCtx j) (List.finRange 4) (setCore w c x)
  have contexts := ctxAt_foldl_setCtx (ctxId c) (launchCtx j) (List.finRange 4) (setCore w c x)
  simp only [exists_ctxId_iff] at contexts
  unfold launchCore
  rw [hw]
  dsimp only
  refine ⟨fun d hd => ?_, fun d hd => ?_, fun k hk => ?_, fun k hk => ?_, ?_, ?_, ?_⟩
  · obtain rfl := List.mem_singleton.1 hd
    rw [coreAt_modCore]
    exact ⟨rfl, rfl⟩
  · have other : d ≠ c := fun e => hd (List.mem_singleton.2 e)
    rw [coreAt_modCore_ne _ _ _ _ other, hv]
    exact (coreAt_setCore_ne w c d x other).trans (congrArg (·[d]) access.cores)
  · rw [ctxAt_modCore]
    exact (contexts k).1 (List.mem_singleton.1 hk)
  · rw [ctxAt_modCore, (contexts k).2 fun e => hk (List.mem_singleton.2 e)]
    exact congrArg (·[k]) access.ctxs
  · rw [hv]
    exact access.outbox
  · rw [hv]
    exact access.jobs
  · rw [hv]
    exact access.par

theorem launchCores_launched (s : State) (j : Job) (ready : Nat) (cs : List (Fin 256)) :
    Launched j ready cs s (cs.foldl (fun s c => launchCore s j ready c) s) := by
  induction cs generalizing s with
  | nil => exact .nil j ready s
  | cons c cs ih => exact .cons (launchCore_launched s j ready c) (ih _)

/-! ### A context with a record -/

theorem mem_namedCores {recs : List StartRec} {r : StartRec} (h : r ∈ recs) : coreOf r.ctx ∈ namedCores recs := by
  simp only [namedCores, List.mem_filter, List.mem_finRange, true_and, List.any_eq_true]
  exact ⟨r, h, by simp⟩

theorem find_record {recs : List StartRec} {r : StartRec} (h : r ∈ recs) (only : ∀ q ∈ recs, q.ctx = r.ctx → q = r) :
    (recs.find? fun q => q.ctx = r.ctx) = some r := by
  cases e : recs.find? fun q => q.ctx = r.ctx with
  | none => exact absurd (decide_eq_true rfl) (List.find?_eq_none.1 e r h)
  | some q => exact congrArg some (only q (List.mem_of_find?_eq_some e) (by simpa using List.find?_some e))

theorem launchCtx_of_record {j : Job} {r : StartRec} (h : r ∈ j.recs) (only : ∀ q ∈ j.recs, q.ctx = r.ctx → q = r) :
    (launchCtx j r.ctx).run = .started ∧ (launchCtx j r.ctx).arch = launchArch j r := by
  unfold launchCtx
  rw [find_record h only]
  exact ⟨rfl, rfl⟩

theorem launchArch_args (j : Job) (r : StartRec) (i : Fin 8) : (launchArch j r).s[i.val + 1]'(by omega) = r.args[i] := by
  have inRange : 1 ≤ i.val + 1 ∧ i.val + 1 ≤ 8 := by omega
  simp [launchArch, inRange]

/-! ### JOB_ADMIT -/

theorem exec_jobAdmit (id : BitVec 32) (s : State) : exec (.jobAdmit id) s = execJobAdmit id s := rfl

/-- A job on free cores takes none from another. -/
theorem takeCores_free {s : State} (j : Job) {cs : List (Fin 256)} (h : ∀ c ∈ cs, (coreAt s c).job = none) :
    takeCores s j cs = some s := by
  induction cs with
  | nil => rfl
  | cons c cs ih =>
    unfold takeCores
    rw [h c List.mem_cons_self]
    exact ih fun d hd => h d (List.mem_cons_of_mem _ hd)

/-- When nothing has been heard of barriers, none is counted again. -/
theorem recount_of_par_nil {s : State} (h : s.par = []) (id : BitVec 32) : recount s id = s := by
  simp [recount, h]

theorem idleArrive_of_par_nil {s : State} {id : BitVec 32} {x : Job} (h : s.par = []) (hx : findJob s id = some x) :
    idleArrive s id = s := by
  simp [idleArrive, h, hx]

theorem findJob_modJob {s : State} {id : BitVec 32} {j : Job} {f : Job → Job} (h : findJob s id = some j)
    (hf : ∀ x, (f x).id = x.id) : findJob (modJob s id f) id = some (f j) := by
  have sameId : ((fun x : Job => decide (x.id = id)) ∘ fun x => if x.id = id then f x else x) = fun x => decide (x.id = id) := by
    funext x
    by_cases hx : x.id = id <;> simp [hx, hf]
  have hid : j.id = id := by simpa using List.find?_some h
  unfold findJob modJob at *
  rw [List.find?_map, sameId, h]
  simp [hid]

/-- The answer to a `START`, when there is one. -/
def answered (j : Job) (t : State) : State := match j.answer with
  | some (_, a) => sendAck t a 0
  | none => t

theorem answered_eq (j : Job) (t : State) : ∃ ms, answered j t = { t with outbox := t.outbox ++ ms } := by
  unfold answered
  split
  · exact ⟨_, rfl⟩
  · exact ⟨[], by simp⟩

/-- The state in which the cores of a job are launched. -/
def running (s : State) (id : BitVec 32) : State := modJob s id fun x => { x with phase := .running }

/-- The cycle from which all of some cores issue (R36). -/
def readyCycle (s : State) (cs : List (Fin 256)) : Nat := cs.foldl (fun t c => max t (coreAt s c).busyUntil) s.cycle

theorem exec_jobAdmit_free {s : State} {id : BitVec 32} {j : Job} (hj : findJob s id = some j) (ha : admissible s j = true)
    (hfree : ∀ c ∈ namedCores j.recs, (coreAt s c).job = none) : exec (.jobAdmit id) s = .next (idleArrive (recount (answered j
      ((namedCores j.recs).foldl (fun t c => launchCore t j (readyCycle (running s id) (namedCores j.recs)) c) (running s id))) id) id) := by
  rw [exec_jobAdmit, execJobAdmit, hj]
  dsimp only
  rw [ha, takeCores_free j hfree]
  rfl

/-- A job that starts on free cores: they and their contexts are launched, then its `START` is answered. -/
theorem jobAdmit_starts {s : State} {id : BitVec 32} {j : Job} (hj : findJob s id = some j) (ha : admissible s j = true)
    (hp : s.par = []) (hfree : ∀ c ∈ namedCores j.recs, (coreAt s c).job = none) : ∃ t ready,
      exec (.jobAdmit id) s = .next (answered j t) ∧ Launched j ready (namedCores j.recs) (running s id) t ∧
      findJob (answered j t) id = some { j with phase := .running } := by
  have launched := launchCores_launched (running s id) j (readyCycle (running s id) (namedCores j.recs)) (namedCores j.recs)
  have started := exec_jobAdmit_free hj ha hfree
  generalize (namedCores j.recs).foldl (fun t c => launchCore t j (readyCycle (running s id) (namedCores j.recs)) c) (running s id) = t
    at launched started
  obtain ⟨ms, e⟩ := answered_eq j t
  have par : (answered j t).par = [] := by rw [e]; exact launched.par.trans hp
  have found : findJob (answered j t) id = some { j with phase := .running } := by
    rw [e, ← findJob_modJob (f := fun x => { x with phase := .running }) hj fun _ => rfl]
    exact congrArg (fun l : List Job => l.find? fun x => decide (x.id = id)) launched.jobs
  rw [recount_of_par_nil par, idleArrive_of_par_nil par found] at started
  exact ⟨t, _, started, launched, found⟩

/-- Settles O49. The checks of a `START` only read; what they find, and so each answer, is settled by memory and its marks. A job
that may start on free cores launches them one after another, each leaving the others alone. -/
theorem jobLaunch : Obligations.JobLaunch := by
  unfold Obligations.JobLaunch
  intro s m t id x j v firmware named status reads answers
  have hstatus : startStatus { s with want := [] } named (v 0) (v 1) (v 2) (v 3) = status := startStatus_want ..
  refine ⟨fun hm hf => ⟨fun hhbm => ?_, fun hhbm hfw hready => ?_, fun hhbm hfw hst => ?_, fun hreads => ?_, fun hhbm hfw hst noRead => ?_⟩,
    fun hj ha => ?_, fun hj ha ht => ?_, fun hj ha hp hfree => ?_⟩
  · exact start_answers hm hf id (startNow_hbmFail (s := { s with want := [] }) hhbm m t x)
  · exact start_answers hm hf id (startNow_firmware (s := { s with want := [] }) hhbm hfw hready m t)
  · have image := startNow_image (s := { s with want := [] }) hhbm hfw m t
    refine start_answers hm hf id (image.trans ((if_pos ?_).trans (congrArg _ hstatus)))
    exact fun e => hst (hstatus.symm.trans e)
  · exact start_reads hm hf id hreads
  · have image := startNow_image (s := { s with want := [] }) hhbm hfw m t
    exact start_accepts hm hf id (image.trans (if_neg (not_not_intro (hstatus.trans hst)))) noRead
  · simp [exec_jobAdmit, execJobAdmit, hj, ha]
  · simp [exec_jobAdmit, execJobAdmit, hj, ha, ht]
  · obtain ⟨w, ready, started, launched, found⟩ := jobAdmit_starts hj ha hp hfree
    obtain ⟨ms, e⟩ := answered_eq j w
    have core (c : Fin 256) : coreAt (answered j w) c = coreAt w c := by rw [e]; rfl
    have ctx (k : Fin 1024) : ctxAt (answered j w) k = ctxAt w k := by rw [e]; rfl
    refine ⟨_, started, ⟨_, found, rfl, rfl⟩, fun a hanswer => ?_, fun c hc d hd => ?_, fun c hc => ?_, fun c hc => ?_,
      fun r hr only => ?_⟩
    · obtain ⟨ws, sent, writes⟩ := launched.outbox
      refine ⟨ws, ?_, writes⟩
      simp only [answered, hanswer]
      exact congrArg (· ++ _) sent
    · rw [core, core, (launched.core c hc).2, (launched.core d hd).2]
    · rw [core, (launched.core c hc).1]
      simpa using List.find?_some hj
    · exact (core c).trans (launched.others c hc)
    · obtain ⟨run, arch⟩ := launchCtx_of_record hr only
      rw [ctx, launched.started _ (mem_namedCores hr), arch]
      exact ⟨run, rfl, rfl, rfl, launchArch_args j r⟩

end Sys2Proof.Machine
end

section
/-! PROOFS. Restoring a core (R40): a mark of a bad word that begins ahead of a local memory of the core outlives its clearing. -/

namespace Sys2Proof.Machine

/-- Job 1, its tables at 0x10000. -/
def mappedJob : Job := { placedJob with root := 0x10000, snapbase := 0, image := 0, sppages := 0, phase := .running }

/-- What is kept of a core without contexts that was saved for job 1. -/
def bareSave : SavedCore := ⟨1, 0, [], Core.reset.o, Core.reset.e, none, [], 0, [], 0⟩

/-- Core 0 is free, and job 1 is saved there; its tables at 0x10000 and 0x2000 map the first 64 KiB, and its image there holds a 1 as the
first byte of the flag file. A mark begins on the byte ahead of the core's flag file. -/
def strayMark : State := { State.reset with
  mem := [(0x100, 1), (0x2000, 3), (0x10000, 1), (0x10001, 0x20)]
  bad := [localKey 3 0 0 - 1]
  jobs := [mappedJob]
  saved := [bareSave] }

theorem exec_coreRestore (c : Fin 256) (s : State) : exec (.coreRestore c) s = .next (giveCore c s) := rfl

/-- Core 0 is free, nothing holds up its restore, and the next saved job is job 1. -/
theorem strayMark_free : (coreAt strayMark 0).job = none ∧ (coreAt strayMark 0).retired = false ∧ restoring strayMark 0 = false ∧
    settledFor strayMark (.core 0) = true ∧ nextSaved strayMark 0 = some (bareSave, mappedJob) ∧
    findSaved strayMark 1 0 = some bareSave ∧ findJob strayMark 1 = some mappedJob := by decide +kernel

/-- Its image needs no byte of host memory, and no word of it is in error. -/
theorem strayMark_readable : ((restoreNow 1 0 none strayMark).want.any fun q => q.type = 0) = false ∧
    restoreFails none strayMark mappedJob bareSave = false := by decide +kernel

theorem image_strayMark : (readImage mappedJob 0 0xC0 256 strayMark).1.head? = some 1 := by decide +kernel

/-- The bad word that the mark names is written in part, so the byte of it that lies in the flag file keeps the 0 of the clearing. -/
theorem flagFile_restored_strayMark : (memRead (giveCore 0 strayMark).mem (localKey 3 0 0) 256).head? = some 0 := by decide +kernel

/-- Refutes O50. A restore is to leave the flag file as its image has it, in every state; but a bad word that is written in part keeps
its bytes (R393), and the clearing of a core's local memories drops only marks that begin in them. The mark of `strayMark` begins on the
byte ahead of the flag file and reaches into it. No code word begins there (R392): what the statement lacks is the hypothesis that the
marks of its state name code words. -/
theorem not_coreScheduling : ¬ Obligations.CoreScheduling := by
  intro holds
  obtain ⟨free, inUse, noRestore, settled, next, saved, job⟩ := strayMark_free
  obtain ⟨noRead, readable⟩ := strayMark_readable
  have idle : ¬ (restoring strayMark 0 = true ∨ settledFor strayMark (.core 0) = false) := by simp [noRestore, settled]
  obtain ⟨-, -, -, restored, -, -⟩ := holds strayMark 0 bareSave mappedJob strayMark rfl
  obtain ⟨-, restores, -⟩ := restored free inUse next idle saved job
  obtain ⟨t, ht, -, -, -, -, -, flagFile, -⟩ := restores noRead readable
  rw [exec_coreRestore] at ht
  obtain rfl := Host.Outcome.next.inj ht
  have heads : (memRead (giveCore 0 strayMark).mem (localKey 3 0 0) 256).head? = (readImage mappedJob 0 0xC0 256 strayMark).1.head? :=
    congrArg List.head? flagFile
  rw [flagFile_restored_strayMark, image_strayMark] at heads
  exact absurd heads (by decide)

end Sys2Proof.Machine
end

section
/-! PROOFS. The fields of an encoded word (R55): a word is a sum of digits, and a field holds the digit that stands in it. -/

namespace Sys2Proof

/-! ### The fields of a sum of digits -/

/-- `x` is a multiple of `M`. For a power of two: the bits of `x` below it are 0. -/
def Clear (M x : Nat) : Prop := M ∣ x

/-- The opcode byte of a syllable (R55). -/
def opcode (w : Nat) : Nat := w / 16777216

section
variable {x m lo n c M : Nat}

/-- Of numerals, said by `gcd`, which `simp` evaluates. -/
@[simp] theorem clear_ofNat (k : Nat) [OfNat Nat k] : Clear M (no_index (OfNat.ofNat k)) ↔ Nat.gcd M (OfNat.ofNat k) = M :=
  Nat.gcd_eq_left_iff_dvd.symm

@[simp] theorem clear_mul {v : Nat} (hm : Clear M m) : Clear M (v * m) := Nat.dvd_mul_left_of_dvd hm v

@[simp] theorem clear_add_mul {v : Nat} (hm : Clear M m) : Clear M (x + v * m) ↔ Clear M x :=
  (Nat.dvd_add_iff_left (clear_mul hm)).symm

theorem add_mul_div (v : Fin c) (hM : Clear (c * m) M) (hx : Clear (c * m) x) : (x + v.val * m) / M = x / M := by
  obtain ⟨t, rfl⟩ := hM
  obtain ⟨q, rfl⟩ := hx
  rcases Nat.eq_zero_or_pos m with rfl | hm
  · simp
  · have hc : 0 < c * m := Nat.mul_pos v.pos hm
    have hv : v.val * m < c * m := Nat.mul_lt_mul_of_pos_right v.isLt hm
    rw [← Nat.div_div_eq_div_mul _ (c * m), ← Nat.div_div_eq_div_mul _ (c * m), Nat.mul_add_div hc, Nat.div_eq_of_lt hv,
      Nat.add_zero, Nat.mul_div_cancel_left _ hc]

@[simp] theorem opcode_ofNat (k : Nat) [OfNat Nat k] : opcode (no_index (OfNat.ofNat k)) = OfNat.ofNat k / 16777216 := rfl

@[simp] theorem opcode_add_mul (v : Fin c) (hM : Clear (c * m) 16777216) (hx : Clear (c * m) x) :
    opcode (x + v.val * m) = opcode x := add_mul_div v hM hx

@[simp] theorem opcode_mul (v : Fin c) (hM : Clear (c * m) 16777216) : opcode (v.val * m) = 0 := by
  rw [← Nat.zero_add (v.val * m), opcode_add_mul v hM (Nat.dvd_zero _), opcode, Nat.zero_div]

@[simp] theorem opcode_add (v : Fin c) (hM : Clear c 16777216) (hx : Clear c x) : opcode (x + v.val) = opcode x := by
  simpa only [Nat.mul_one] using opcode_add_mul (m := 1) v (by rwa [Nat.mul_one]) (by rwa [Nat.mul_one])

theorem fld_of_clear (hx : Clear (2 ^ (lo + n)) x) : fld x lo n = 0 := by
  obtain ⟨q, rfl⟩ := hx
  rw [fld, Nat.pow_add, Nat.mul_assoc, Nat.mul_div_cancel_left _ (by positivity), Nat.mul_mod_right]

@[simp] theorem fld_ofNat (k : Nat) [OfNat Nat k] : fld (no_index (OfNat.ofNat k)) lo n = OfNat.ofNat k / 2 ^ lo % 2 ^ n := rfl

/-- A digit above a field does not reach it. -/
@[simp] theorem fld_add_mul_above {v : Nat} (hm : Nat.gcd (2 ^ (lo + n)) m = 2 ^ (lo + n)) : fld (x + v * m) lo n = fld x lo n := by
  obtain ⟨q, rfl⟩ := Nat.gcd_eq_left_iff_dvd.mp hm
  rw [fld, fld, show x + v * (2 ^ (lo + n) * q) = x + 2 ^ lo * (2 ^ n * (v * q)) by ring, Nat.add_mul_div_left _ _ (by positivity),
    Nat.add_mul_mod_self_left]

@[simp] theorem fld_mul_above {v : Nat} (hm : Nat.gcd (2 ^ (lo + n)) m = 2 ^ (lo + n)) : fld (v * m) lo n = 0 :=
  fld_of_clear (Nat.dvd_mul_left_of_dvd (Nat.gcd_eq_left_iff_dvd.mp hm) v)

/-- A digit below a field does not reach it. -/
@[simp] theorem fld_add_mul_below (v : Fin c) (hM : Nat.gcd (c * m) (2 ^ lo) = c * m) (hx : Clear (c * m) x) :
    fld (x + v.val * m) lo n = fld x lo n := by
  rw [fld, fld, add_mul_div v (Nat.gcd_eq_left_iff_dvd.mp hM) hx]

@[simp] theorem fld_add_below (v : Fin c) (hM : Nat.gcd c (2 ^ lo) = c) (hx : Clear c x) : fld (x + v.val) lo n = fld x lo n := by
  simpa only [Nat.mul_one] using fld_add_mul_below (m := 1) v (by rwa [Nat.mul_one]) (by rwa [Nat.mul_one])

/-- A digit in a field is what the field holds. -/
@[simp] theorem fld_add_mul (v : Fin c) (hm : m = 2 ^ lo) (hc : c ≤ 2 ^ n) (hx : Clear (2 ^ (lo + n)) x) :
    fld (x + v.val * m) lo n = v.val := by
  subst hm
  obtain ⟨q, rfl⟩ := hx
  rw [fld, show 2 ^ (lo + n) * q + v.val * 2 ^ lo = 2 ^ lo * (2 ^ n * q + v.val) by ring,
    Nat.mul_div_cancel_left _ (by positivity), Nat.mul_add_mod, Nat.mod_eq_of_lt (v.isLt.trans_le hc)]

@[simp] theorem fld_add (v : Fin c) (hc : c ≤ 2 ^ n) (hx : Clear (2 ^ n) x) : fld (x + v.val) 0 n = v.val := by
  simpa only [Nat.mul_one] using fld_add_mul (m := 1) (lo := 0) v rfl hc (by rwa [Nat.zero_add])

@[simp] theorem fld_mul (v : Fin c) (hm : m = 2 ^ lo) (hc : c ≤ 2 ^ n) : fld (v.val * m) lo n = v.val := by
  simpa only [Nat.zero_add] using fld_add_mul (x := 0) v hm hc (Nat.dvd_zero _)

/-- A digit at the head of a word below a field does not reach it. -/
@[simp] theorem fld_mul_below (v : Fin c) (hM : Nat.gcd (c * m) (2 ^ lo) = c * m) : fld (v.val * m) lo n = 0 := by
  rw [← Nat.zero_add (v.val * m), fld_add_mul_below v hM (Nat.dvd_zero _), fld_of_clear (Nat.dvd_zero _)]

end

/-! ### Operands as digits -/

/-- The digit of a flag. -/
def bitDigit (b : Bool) : Fin 2 := if b then 1 else 0

@[simp] theorem bit_eq_digit (b : Bool) : bit b = (bitDigit b).val := by cases b <;> rfl
theorem bit_lt_two (b : Bool) : bit b < 2 := by cases b <;> decide

@[simp] theorem bitDigit_beq_one (b : Bool) : ((bitDigit b).val == 1) = b := by cases b <;> rfl
@[simp] theorem bitDigit_beq_zero (b : Bool) : ((bitDigit b).val == 0) = !b := by cases b <;> rfl

/-- The digit of a word of `n` bits. -/
def wordDigit {n : Nat} (x : BitVec n) : Fin (2 ^ n) := x.toFin

theorem toNat_eq_digit {n : Nat} (x : BitVec n) : x.toNat = (wordDigit x).val := rfl
@[simp] theorem ofFin_wordDigit {n : Nat} (x : BitVec n) : BitVec.ofFin (wordDigit x) = x := rfl

/-- The digit of a slice number of SPART (R130), which takes six bits of its field. -/
def sliceDigit (i : Fin 17) : Fin 64 := i.castLE (by decide)

theorem val_eq_sliceDigit (i : Fin 17) : i.val = (sliceDigit i).val := rfl
@[simp] theorem sliceDigit_lt (i : Fin 17) : (sliceDigit i).val < 17 := i.isLt
@[simp] theorem num_sliceDigit (i : Fin 17) : num 17 (sliceDigit i).val = i := Fin.ofNat_val_eq_self i

@[simp] theorem num_val (n : Nat) [NeZero n] (x : Fin n) : num n x.val = x := by simp [num]

/-! ### Words that agree above a bit -/

/-- `w` and `W` have the same bits from bit `s` upward. -/
def AgreeAbove (s w W : Nat) : Prop := w / 2 ^ s = W / 2 ^ s

theorem AgreeAbove.of_eq {w W : Nat} (h : W = w) : AgreeAbove 0 w W := h ▸ rfl

theorem AgreeAbove.fld_eq {s w W lo n : Nat} (h : AgreeAbove s w W) (hs : s ≤ lo) : fld w lo n = fld W lo n := by
  obtain ⟨t, rfl⟩ := Nat.exists_eq_add_of_le hs
  rw [fld, fld, Nat.pow_add, ← Nat.div_div_eq_div_mul, ← Nat.div_div_eq_div_mul, h]

theorem AgreeAbove.opcode_eq {s w W : Nat} (h : AgreeAbove s w W) (hs : s ≤ 24) : opcode w = opcode W := by
  obtain ⟨t, ht⟩ := Nat.exists_eq_add_of_le hs
  have split : 16777216 = 2 ^ s * 2 ^ t := by rw [← Nat.pow_add, ← ht]
  rw [opcode, opcode, split, ← Nat.div_div_eq_div_mul, ← Nat.div_div_eq_div_mul, h]

end Sys2Proof
end

section
/-! PROOFS. How the encoder carries an immediate (R53, R54, R58, R59): in its field, lent by the header, or in an extension; each way
reads back as the immediate. -/

namespace Sys2Proof

/-- Whether a syllable `w` of format `f` may carry its immediate as `x` (R54, R58). -/
def Format.carries (f : Format) (w : Nat) : Imm → Bool
  | .bare => !f.consumes w
  | .lend l => f.lendable && decide (l < 65536)
  | .ext _ => f.consumes w

theorem carries_ri_bare {w : Nat} (h : w % 4096 ≠ 0x800) : Format.ri.carries w .bare = true := by
  simpa [Format.carries, Format.consumes] using h

theorem carries_ri_ext {w e : Nat} (h : w % 4096 = 0x800) : Format.ri.carries w (.ext e) = true := by
  simpa [Format.carries, Format.consumes] using h

theorem carries_lend {f : Format} {w l : Nat} (hf : f.lendable = true) (hl : l < 65536) : f.carries w (.lend l) = true := by
  simpa [Format.carries, hf] using hl

/-- A number of `n + 1` bits in two's complement, cut to those bits and extended by its sign, is itself. -/
theorem signExtend_ofNat {m n a : Nat} {x : BitVec m} (hn : n < m) (hlo : -2 ^ n ≤ x.toInt) (hhi : x.toInt < 2 ^ n)
    (ha : a % 2 ^ (n + 1) = x.toNat % 2 ^ (n + 1)) : (BitVec.ofNat (n + 1) a).signExtend m = x := by
  have low : BitVec.ofNat (n + 1) a = x.signExtend (n + 1) := by
    rw [BitVec.signExtend_eq_setWidth_of_le x hn]
    exact BitVec.eq_of_toNat_eq (by simpa using ha)
  apply BitVec.eq_of_toInt_eq
  rw [BitVec.toInt_signExtend_of_le hn, low, BitVec.toInt_signExtend, Nat.min_eq_left hn]
  apply Int.bmod_eq_of_le <;> push_cast <;> omega

section
variable {s t : Fin 8} {W w n : Nat} {x : Imm}

/-- A number below the sign bit of an RI field is read as itself. -/
theorem riImm_bare_spec (h : fld w 0 12 < 2048) :
    (riImm w .bare).toNat = fld w 0 12 ∧ Format.ri.carries w .bare = true := by
  have field : fld w 0 12 = w % 4096 := by simp [fld]
  rw [field] at h ⊢
  have small : (BitVec.ofNat 32 (w % 4096)).toNat = w % 4096 := by rw [BitVec.toNat_ofNat]; omega
  have int : (BitVec.ofNat 32 (w % 4096)).toInt = (w % 4096 : Nat) := by rw [BitVec.toInt_eq_toNat_of_lt] <;> omega
  have value : riImm w .bare = BitVec.ofNat 32 (w % 4096) :=
    signExtend_ofNat (n := 11) (by decide) (by omega) (by omega) (by omega)
  exact ⟨by rw [value, small], carries_ri_bare (by omega)⟩

theorem encRI_spec {i : BitVec 32} (h : encRI s W i = ⟨t, w, x⟩) (hW : Clear 4096 W) :
    s = t ∧ AgreeAbove 12 w W ∧ riImm w x = i ∧ Format.ri.carries w x = true := by
  obtain ⟨q, rfl⟩ := hW
  rw [encRI] at h
  split at h <;> obtain ⟨rfl, rfl, rfl⟩ := Encoded.mk.inj h
  next fits =>
    have field : (4096 * q + i.toNat % 4096) % 4096 ≠ 0x800 := by rw [BitVec.toInt_eq_toNat_cond] at fits; omega
    exact ⟨rfl, by simp only [AgreeAbove]; omega, signExtend_ofNat (n := 11) (by decide) (by omega) (by omega) (by omega),
      carries_ri_bare field⟩
  next => exact ⟨rfl, by simp only [AgreeAbove]; omega, by simp [riImm], carries_ri_ext (by omega)⟩

theorem encLow_spec (h : encLow s W n = ⟨t, w, x⟩) (hW : Clear 4096 W) (hn : n < 4096) :
    s = t ∧ AgreeAbove 12 w W ∧ riLow w x = n ∧ rowImm w x = some n ∧ (n < 2048 → (riImm w x).toNat = n) ∧
      Format.ri.carries w x = true := by
  obtain ⟨q, rfl⟩ := hW
  rw [encLow] at h
  split at h <;> obtain ⟨rfl, rfl, rfl⟩ := Encoded.mk.inj h
  next sentinel =>
    exact ⟨rfl, by simp only [AgreeAbove]; omega, by simp [riLow, sentinel], by simp [rowImm, sentinel], by omega,
      carries_ri_ext (by omega)⟩
  next =>
    have field : (4096 * q + n) % 4096 = n := by omega
    have zero : fld (4096 * q + n) 0 12 = n := by simpa [fld] using field
    exact ⟨rfl, by simp only [AgreeAbove]; omega, field, by simp only [rowImm, field],
      fun small => (riImm_bare_spec (by rw [zero]; exact small)).1.trans zero, carries_ri_bare (by omega)⟩

theorem encRow_spec {v : BitVec 20} (h : encRow s W n v = ⟨t, w, x⟩) (hW : Clear 4096 W) (hn : n < 4096) :
    s = t ∧ AgreeAbove 12 w W ∧ riLow w x = n ∧ viewRow w x = v ∧ Format.ri.carries w x = true := by
  obtain ⟨q, rfl⟩ := hW
  rw [encRow] at h
  split at h <;> obtain ⟨rfl, rfl, rfl⟩ := Encoded.mk.inj h
  next first =>
    exact ⟨rfl, by simp only [AgreeAbove]; omega, by simp only [riLow]; omega, first.1.symm, carries_ri_bare (by omega)⟩
  next =>
    have row : (v.toNat * 4096 + n) / 4096 = v.toNat := by omega
    exact ⟨rfl, by simp only [AgreeAbove]; omega, by simp only [riLow]; omega, by simp [viewRow, row], carries_ri_ext (by omega)⟩

theorem encMem_spec {o : BitVec 32} (h : encMem s W o = ⟨t, w, x⟩) (hW : fld W 4 8 = 0) :
    s = t ∧ AgreeAbove 12 w W ∧ fld w 0 4 = fld W 0 4 ∧ memOff w x = o ∧ Format.mem.carries w x = true := by
  rw [fld] at hW
  rw [encMem] at h
  split at h <;> obtain ⟨rfl, rfl, rfl⟩ := Encoded.mk.inj h
  next fits =>
    have field : fld (W + o.toNat % 256 * 16) 4 8 = o.toNat % 256 := by rw [fld]; omega
    have notSentinel : o.toNat % 256 ≠ 0x80 := by rw [BitVec.toInt_eq_toNat_cond] at fits; omega
    exact ⟨rfl, by simp only [AgreeAbove]; omega, by simp only [fld]; omega,
      signExtend_ofNat (n := 7) (by decide) (by omega) (by omega) (by rw [field]; omega),
      by simpa [Format.carries, Format.consumes, field] using notSentinel⟩
  next =>
    have field : fld (W + 0x80 * 16) 4 8 = 0x80 := by rw [fld]; omega
    exact ⟨rfl, by simp only [AgreeAbove]; omega, by simp only [fld]; omega, by simp [memOff],
      by simp [Format.carries, Format.consumes, field]⟩

theorem encLnd_spec {o : BitVec 24} {d : BitVec 16} (h : encLnd s W o d = ⟨t, w, x⟩) (hW : fld W 4 8 = 0) :
    s = t ∧ AgreeAbove 12 w W ∧ fld w 0 4 = fld W 0 4 ∧ lndOff w x = o ∧ lndDist x = d ∧ Format.lnd.carries w x = true := by
  rw [fld] at hW
  obtain ⟨rfl, rfl, rfl⟩ := Encoded.mk.inj h
  have field : fld (W + o.toNat % 256 * 16) 4 8 = o.toNat % 256 := by rw [fld]; omega
  refine ⟨rfl, by simp only [AgreeAbove]; omega, by simp only [fld]; omega, BitVec.eq_of_toNat_eq ?_, BitVec.eq_of_toNat_eq ?_, rfl⟩
  · rw [lndOff, field, BitVec.toNat_ofNat]
    omega
  · rw [lndDist, BitVec.toNat_ofNat]
    omega

theorem encBr_spec {o : BitVec 35} (h : encBr W o = ⟨t, w, x⟩) (hW : Clear 524288 W) :
    0 = t ∧ AgreeAbove 19 w W ∧ brDisp w x = o ∧ Format.br.carries w x = true := by
  obtain ⟨q, rfl⟩ := hW
  rw [encBr] at h
  split at h <;> obtain ⟨rfl, rfl, rfl⟩ := Encoded.mk.inj h
  next fits =>
    exact ⟨rfl, by simp only [AgreeAbove]; omega, signExtend_ofNat (n := 18) (by decide) (by omega) (by omega) (by omega), rfl⟩
  next =>
    refine ⟨rfl, by simp only [AgreeAbove]; omega, BitVec.eq_of_toNat_eq ?_, carries_lend rfl (by omega)⟩
    rw [brDisp, BitVec.toNat_ofNat]
    omega

theorem encJmp_spec {o : BitVec 35} (h : encJmp W o = ⟨t, w, x⟩) (hW : Clear 524288 W) :
    0 = t ∧ AgreeAbove 19 w W ∧ jmpDisp w x = o ∧ Format.br.carries w x = true := by
  obtain ⟨q, rfl⟩ := hW
  rw [encJmp] at h
  split at h <;> obtain ⟨rfl, rfl, rfl⟩ := Encoded.mk.inj h
  next =>
    refine ⟨rfl, by simp only [AgreeAbove]; omega, BitVec.eq_of_toNat_eq ?_, rfl⟩
    rw [jmpDisp, BitVec.toNat_ofNat]
    omega
  next =>
    refine ⟨rfl, by simp only [AgreeAbove]; omega, BitVec.eq_of_toNat_eq ?_, carries_lend rfl (by omega)⟩
    rw [jmpDisp, BitVec.toNat_ofNat]
    omega

theorem encK_spec {i : BitVec 22} (h : encK W i = ⟨t, w, x⟩) (hW : Clear 64 W) :
    7 = t ∧ AgreeAbove 6 w W ∧ kImm w x = i ∧ Format.engK.carries w x = true := by
  obtain ⟨q, rfl⟩ := hW
  rw [encK] at h
  split at h <;> obtain ⟨rfl, rfl, rfl⟩ := Encoded.mk.inj h
  next =>
    refine ⟨rfl, by simp only [AgreeAbove]; omega, BitVec.eq_of_toNat_eq ?_, rfl⟩
    rw [kImm, BitVec.toNat_ofNat]
    omega
  next =>
    refine ⟨rfl, by simp only [AgreeAbove]; omega, BitVec.eq_of_toNat_eq ?_, carries_lend rfl (by omega)⟩
    rw [kImm, BitVec.toNat_ofNat]
    omega
end

end Sys2Proof
end

section
/-! PROOFS. A bundle of one syllable (R52 to R54): its header, and what decodes it. -/

namespace Sys2Proof

/-! ### The header -/

/-- Whether 16 bits hold the bits that a lend gives (R53). -/
def Imm.fits : Imm → Prop
  | .lend l => l < 65536
  | .bare | .ext _ => True

/-- The words that follow the syllable of a bundle of one: its extension. -/
def Imm.words : Imm → List Nat
  | .ext x => [x]
  | .bare | .lend _ => []

/-- The bits that a header lends to a syllable with this immediate. -/
def Imm.lent : Imm → Option Nat
  | .lend l => some l
  | .bare | .ext _ => none

theorem Imm.fits_of_carries {f : Format} {w : Nat} {x : Imm} (h : f.carries w x = true) : x.fits := by
  cases x with
  | bare => trivial
  | ext => trivial
  | lend l => exact of_decide_eq_true (p := l < 65536) (Bool.and_elim_right h)

/-- The bits of a header below its MASK, for a bundle of one syllable without CAIRN (R53). -/
def headerLow (s : Fin 8) : Imm → Nat
  | .bare => 0
  | .lend l => 2 ^ 20 + s.val * 2 ^ 17 + l
  | .ext _ => 2 ^ 22

theorem encodeHeader_eq (e : Encoded) : encodeHeader e false = 2 ^ (7 - e.slot.val) * 2 ^ 24 + headerLow e.slot e.imm := by
  obtain ⟨s, w, x⟩ := e
  rw [encodeHeader, ← Nat.pow_add, show 7 - s.val + 24 = 31 - s.val by omega]
  cases x <;> rfl

theorem headerLow_lt {s : Fin 8} {x : Imm} (h : x.fits) : headerLow s x < 2 ^ 24 := by
  cases x with
  | bare => simp [headerLow]
  | ext => simp [headerLow]
  | lend l => simp only [headerLow, Imm.fits] at *; omega

theorem fld_mul_pow_add {v r s lo n : Nat} (hr : r < 2 ^ s) : fld (v * 2 ^ s + r) (s + lo) n = fld v lo n := by
  rw [fld, fld, Nat.pow_add, ← Nat.div_div_eq_div_mul, Nat.mul_comm, Nat.mul_add_div (by positivity), Nat.div_eq_of_lt hr,
    Nat.add_zero]

theorem maskBit_eq (n m : Fin 8) : (fld (2 ^ (7 - n.val)) (7 - m.val) 1 == 1) = decide (m = n) := by revert n m; decide

theorem maskSlots_eq (n : Fin 8) {r : Nat} (hr : r < 2 ^ 24) : maskSlots (2 ^ (7 - n.val) * 2 ^ 24 + r) = [n] := by
  have one : (List.finRange 8).filter (fun m => decide (m = n)) = [n] := by revert n; decide
  rw [← one, maskSlots]
  refine List.filter_congr fun m _ => ?_
  rw [show 31 - m.val = 24 + (7 - m.val) by omega, fld_mul_pow_add hr, maskBit_eq]

theorem fld_below_mask (v : Nat) {r lo n : Nat} (h : lo + n ≤ 24) : fld (v * 2 ^ 24 + r) lo n = fld r lo n := by
  have above : Nat.gcd (2 ^ (lo + n)) (2 ^ 24) = 2 ^ (lo + n) := Nat.gcd_eq_left (Nat.pow_dvd_pow 2 h)
  rw [Nat.add_comm, fld_add_mul_above above]

/-- The header names the slot, has no CAIRN bit and no reserved bit, and counts the extensions (R53). -/
theorem encodeHeader_fields {e : Encoded} (h : e.imm.fits) :
    maskSlots (encodeHeader e false) = [e.slot] ∧ fld (encodeHeader e false) 21 1 = 0 ∧ fld (encodeHeader e false) 16 1 = 0 ∧
      fld (encodeHeader e false) 22 2 = e.imm.words.length := by
  obtain ⟨s, w, x⟩ := e
  rw [encodeHeader_eq]
  simp only [maskSlots_eq s (headerLow_lt h), fld_below_mask, Nat.reduceAdd, Nat.reduceLeDiff, true_and]
  cases x with
  | bare => simp [headerLow, fld, Imm.words]
  | ext => simp [headerLow, fld, Imm.words]
  | lend l => simp only [headerLow, Imm.fits, Imm.words, fld, List.length_nil] at *; omega

/-- What the header lends goes to the slot; its lend bits are 0 when it lends nothing (R53, R54). -/
theorem encodeHeader_lend {e : Encoded} (h : e.imm.fits) :
    lendTo (encodeHeader e false) e.slot = e.imm.lent ∧
      (e.imm.lent = none →
        fld (encodeHeader e false) 20 1 = 0 ∧ fld (encodeHeader e false) 17 3 = 0 ∧ fld (encodeHeader e false) 0 16 = 0) ∧
      (e.imm.lent ≠ none → fld (encodeHeader e false) 20 1 = 1 ∧ fld (encodeHeader e false) 17 3 = e.slot.val) := by
  obtain ⟨s, w, x⟩ := e
  rw [lendTo, encodeHeader_eq]
  simp only [fld_below_mask, Nat.reduceAdd, Nat.reduceLeDiff]
  cases x with
  | bare => simp [headerLow, fld, Imm.lent]
  | ext => simp [headerLow, fld, Imm.lent]
  | lend l =>
    have flag : fld (headerLow s (.lend l)) 20 1 = 1 := by simp only [headerLow, Imm.fits, fld] at *; omega
    have slot : fld (headerLow s (.lend l)) 17 3 = s.val := by simp only [headerLow, Imm.fits, fld] at *; omega
    have bits : fld (headerLow s (.lend l)) 0 16 = l := by simp only [headerLow, Imm.fits, fld] at *; omega
    simp [flag, slot, bits, Imm.lent]

/-! ### The syllable -/

/-- The syllable of `e` decodes to `i`, and its format may carry its immediate as `e` carries it. -/
structure Reads (e : Encoded) (i : Instr) : Prop where
  decodes : decodeSyllable (slotKind e.slot.val) e.word e.imm = some i
  carried : (format (slotKind e.slot.val) (e.word / 16777216)).carries e.word e.imm = true

section
variable {e : Encoded} (h : (format (slotKind e.slot.val) (e.word / 16777216)).carries e.word e.imm = true)
include h

theorem lendLegal_encodeHeader : lendLegal (encodeHeader e false) [e.slot] [e.word] = true := by
  obtain ⟨-, noLend, aLend⟩ := encodeHeader_lend (Imm.fits_of_carries h)
  obtain ⟨s, w, x⟩ := e
  cases x with
  | bare => obtain ⟨flag, slot, bits⟩ := noLend rfl; simp [lendLegal, flag, slot, bits]
  | ext => obtain ⟨flag, slot, bits⟩ := noLend rfl; simp [lendLegal, flag, slot, bits]
  | lend l =>
    obtain ⟨flag, slot⟩ := aLend (by simp [Imm.lent])
    simp [lendLegal, flag, slot, Bool.and_elim_left h]

theorem takeImms_encodeHeader :
    takeImms (encodeHeader e false) [e.slot] [e.word] e.imm.words = some ([(e.slot, e.word, e.imm)], []) := by
  obtain ⟨lend, -⟩ := encodeHeader_lend (Imm.fits_of_carries h)
  obtain ⟨s, w, x⟩ := e
  dsimp only at lend h ⊢
  generalize encodeHeader ⟨s, w, x⟩ false = header at *
  cases x with
  | bare => rw [Format.carries, Bool.not_eq_true'] at h; simp [takeImms, lend, h, Imm.lent, Imm.words]
  | lend l => simp [takeImms, lend, Imm.lent, Imm.words]
  | ext y => rw [Format.carries] at h; simp [takeImms, lend, h, Imm.lent, Imm.words]

end

theorem decodeBundle_of_reads {e : Encoded} {i : Instr} (h : Reads e i) :
    decodeBundle (encodeHeader e false :: e.word :: e.imm.words) = .ok ⟨false, 2 + e.imm.words.length, [(e.slot, i)]⟩ := by
  obtain ⟨decodes, carried⟩ := h
  obtain ⟨mask, cairn, reserved, exts⟩ := encodeHeader_fields (Imm.fits_of_carries carried)
  have legal := lendLegal_encodeHeader carried
  have imms := takeImms_encodeHeader carried
  have ops : decodeOps [(e.slot, e.word, e.imm)] = .ok [(e.slot, i)] := by simp [decodeOps, decodes]
  generalize encodeHeader e false = header at *
  simp [decodeBundle, bundleLen, mask, cairn, reserved, exts, legal, imms, ops, Nat.add_comm]

theorem decodeBundle_nop (c : Bool) : decodeBundle [bit c * 2 ^ 21] = .ok ⟨c, 1, [(0, .nop c)]⟩ := by cases c <;> rfl

/-- Every instruction with an encoding but NOP is encoded as a header, a syllable and its extension (R52). -/
theorem encodeSyllable_of_encode {i : Instr} {ws : List Nat} (hi : ∀ c, i ≠ .nop c) (h : encode i = some ws) :
    ∃ e, encodeSyllable i = some e ∧ ws = encodeHeader e false :: e.word :: e.imm.words := by
  rw [encode.eq_def] at h
  split at h
  next c => exact absurd rfl (hi c)
  next =>
    obtain ⟨⟨s, w, x⟩, he, rfl⟩ := Option.map_eq_some_iff.mp h
    exact ⟨_, he, by cases x <;> rfl⟩

end Sys2Proof
end

section
/-! PROOFS. Every well-formed operation decodes from its encoding (R55, R58, R78), by the layout of its syllable. -/

namespace Sys2Proof

/-- How an entry lays out the operands in its syllable (R55, R58, R78). -/
inductive Layout where
  /-- S slot, every operand in its field of the word. -/
  | scalar
  /-- The same in a V slot. -/
  | vector
  /-- The same in the M, a C, the X or the K slot. -/
  | engine
  /-- Fields that leave no bit of the syllable unused or no value illegal. -/
  | full
  /-- The first of two operations that share an opcode value. -/
  | first
  /-- The second of the two. -/
  | second
  /-- A number below 64 in the field of an RI immediate. -/
  | number
  /-- A signed RI immediate. -/
  | signed
  /-- An unsigned number as RI immediate. -/
  | unsigned
  /-- Position and width of a bit field as RI immediate (R118). -/
  | bits
  /-- The formats of a conversion as RI immediate (R121, R148). -/
  | formats
  /-- An accumulator row as RI immediate (R162). -/
  | row
  /-- A part and a view row as RI immediate (R150). -/
  | view
  /-- A MEM offset. -/
  | mem
  /-- A LND offset and landing distance. -/
  | lnd
  /-- A signed displacement. -/
  | branch
  /-- An unsigned target. -/
  | jump
  /-- A K immediate. -/
  | count
  /-- A landing distance that the header lends. -/
  | lent
  /-- No syllable. -/
  | none

/-- The layout of each slot operation; NOP, which is a header only (R52), and the events have none. -/
def Instr.layout : Instr → Layout
  | .add .. | .sub .. | .mul .. | .mulhS .. | .mulhU .. | .divS .. | .divU .. | .remS .. | .remU .. | .and .. | .or .. | .xor ..
    | .andn .. | .shl .. | .shr .. | .sra .. | .rotl .. | .clz .. | .ctz .. | .popc .. | .minS .. | .minU .. | .maxS .. | .maxU ..
    | .sel .. | .pand .. | .por .. | .pxor .. | .pnot .. | .cmpEq .. | .cmpNe .. | .cmpLt .. | .cmpGe .. | .cmpLtu .. | .cmpGeu ..
    | .cmpTst .. | .cmpTstn .. | .fadd .. | .fmul .. | .ffma .. | .fcmpEq .. | .fcmpLt .. | .fcmpLe .. | .fcmpUn ..
    | .fminmaxMin .. | .fminmaxMax .. | .l1inv .. | .l1wb .. | .amoAdd .. | .amoAnd .. | .amoOr .. | .amoXor .. | .amoMin ..
    | .amoMax .. | .amoSwap .. | .amoCas .. | .redAdd .. | .redAnd .. | .redOr .. | .redMin .. | .redMax .. | .amopop .. | .jmpr ..
    | .ret .. | .eret .. | .halt .. | .yield .. => .scalar
  | .vadd .. | .vsub .. | .vmul .. | .vfma .. | .vfms .. | .vmin .. | .vmax .. | .vabs .. | .vneg .. | .vsel .. | .vand ..
    | .vor .. | .vxor .. | .vshl .. | .vshr .. | .vsra .. | .vexp2 .. | .vlog2 .. | .vrcp .. | .vrsq .. | .vcmpEq .. | .vcmpNe ..
    | .vcmpLt .. | .vcmpLe .. | .vcmpGt .. | .vcmpGe .. | .vpermb .. | .vpermw .. | .vbcast .. | .viota .. | .vredadd ..
    | .vredmax .. | .vredmin .. | .vtrip .. | .vlds .. | .vgath .. | .vscat .. | .mand .. | .mor .. | .mnot ..
    | .mpopc .. => .vector
  | .mma .. | .mtile .. | .mzero .. | .mdrain .. | .mring .. | .acalloc .. | .acfree .. | .acown .. | .cpset .. | .rinit ..
    | .xcvt .. | .xzvc .. | .fmtw .. | .sclld .. | .fence .. | .fencex .. | .dsyncWord .. | .dsyncPhrase .. | .dsyncClause ..
    | .dsyncSentence .. | .dsyncParagraph .. | .fladd .. | .flwait .. | .wrot .. | .lnew .. | .lbind .. | .lappend .. | .lcarry ..
    | .lfork .. | .ltrunc .. | .ldrop .. | .lread .. | .lwalk .. | .lkeep .. | .mcinit .. | .mcdep .. | .mcget .. | .tspawn ..
    | .tbegin .. | .tcommit .. | .tcommitOrd .. | .tabort .. | .vcall .. | .vinv .. | .vret .. | .gload .. | .vtab ..
    | .tstat .. => .engine
  | .xexp .. | .xtrn .. | .xfill .. | .cpy .. | .cpym .. | .cpyr .. | .cpyx .. | .cpf .. | .cpwb .. | .flset .. => .full
  | .rlandRedo .. | .vcmpUn .. | .vcmpOrd .. | .dfrm .. => .first
  | .rlandSet .. | .vcmpLtu .. | .vcmpGeu .. | .dfrmAdd .. => .second
  | .sext .. | .zext .. | .shli .. | .shri .. | .srai .. | .spart .. | .vextr .. => .number
  | .addi .. | .andi .. | .ori .. | .xori .. | .lui .. | .movi .. | .loop .. => .signed
  | .trap .. | .csrr .. | .csrw .. | .csrs .. | .csrc .. => .unsigned
  | .bfxS .. | .bfxU .. | .bfi .. => .bits
  | .fcvt .. | .vcvt .. => .formats
  | .vlda .. | .vsta .. => .row
  | .vqnt .. | .vdq .. => .view
  | .ldB .. | .ldH .. | .ldW .. | .ldD .. | .ldBz .. | .ldHz .. | .ldWz .. | .stB .. | .stH .. | .stW .. | .stD .. | .vld ..
    | .vst .. | .vstg .. => .mem
  | .ldlW .. | .ldlWz .. | .ldlD .. | .vldl .. => .lnd
  | .br .. | .call .. => .branch
  | .jmp .. => .jump
  | .await .. | .release .. => .count
  | .wnext .. | .lcnt .. => .lent
  | _ => .none

section
variable {s : Fin 8} {w o : Nat} {x : Imm} {i j : Instr} {z : Bool}

theorem legal_eq_some (hz : z = true) (hj : j = i) (hwf : i.wf = true) : legal z j = some i := by
  rw [legal, hz, hj, hwf]; rfl

theorem legal_eq_none (hz : z = false) : legal z j = none := by rw [legal, hz]; rfl

theorem orElse_left {a b : Option Instr} (h : a = some i) : (a <|> b) = some i := by rw [h]; rfl

theorem orElse_right {a b : Option Instr} (ha : a = none) (h : b = some i) : (a <|> b) = some i := by rw [ha, h]; rfl

/-- The opcode value names the row of the table that decodes the syllable, and its format. -/
theorem reads_of_opcode (ho : opcode w = o) (hc : (format (slotKind s.val) o).carries w x = true)
    (hd : decodeSyllable (slotKind s.val) w x = some i) : Reads ⟨s, w, x⟩ i :=
  ⟨hd, by subst ho; exact hc⟩
end

/-! The slots that an encoded operation is put in: S, V0 and K here, each with the table of its map (R78). -/

theorem decodeSyllable_S (w : Nat) (x : Imm) : decodeSyllable (slotKind (0 : Fin 8).val) w x = decodeS w x := rfl
theorem decodeSyllable_V (w : Nat) (x : Imm) : decodeSyllable (slotKind (1 : Fin 8).val) w x = decodeV w x := rfl
theorem decodeSyllable_K (w : Nat) (x : Imm) : decodeSyllable (slotKind (7 : Fin 8).val) w x = decodeK w x := rfl

/-! ### Layout by layout

In each layout the digits of the word give its opcode value, the opcode value the row of the slot's table, and the digits again the
fields that the row reads; where the immediate is carried, the word agrees with that sum of digits above the immediate's field. -/

section
variable {i : Instr} {e : Encoded} (hwf : i.wf = true) (he : encodeSyllable i = some e)
include hwf he

theorem reads_scalar (h : i.layout = .scalar) : Reads e i := by
  obtain ⟨s, w, x⟩ := e
  cases i <;> cases h
  all_goals
    obtain ⟨rfl, hw, rfl⟩ := Encoded.mk.inj (Option.some.inj he)
    have ho := (AgreeAbove.of_eq hw).opcode_eq (by decide)
    simp at ho
    refine reads_of_opcode ho rfl ?_
    rewrite [decodeSyllable_S, decodeS, show w / 16777216 = _ from ho]
    refine legal_eq_some ?_ ?_ hwf
    all_goals simp [← hw]

theorem reads_vector (h : i.layout = .vector) : Reads e i := by
  obtain ⟨s, w, x⟩ := e
  cases i <;> cases h
  all_goals
    obtain ⟨rfl, hw, rfl⟩ := Encoded.mk.inj (Option.some.inj he)
    have ho := (AgreeAbove.of_eq hw).opcode_eq (by decide)
    simp at ho
    refine reads_of_opcode ho rfl ?_
    rewrite [decodeSyllable_V, decodeV, show w / 16777216 = _ from ho]
    refine legal_eq_some ?_ ?_ hwf
    all_goals simp [← hw]

theorem reads_engine (h : i.layout = .engine) : Reads e i := by
  obtain ⟨s, w, x⟩ := e
  cases i <;> cases h
  all_goals
    obtain ⟨rfl, hw, rfl⟩ := Encoded.mk.inj (Option.some.inj he)
    have ho := (AgreeAbove.of_eq hw).opcode_eq (by decide)
    simp [toNat_eq_digit] at ho
    refine reads_of_opcode ho rfl ?_
    delta decodeSyllable decodeM decodeC decodeX decodeK
    rewrite [show w / 16777216 = _ from ho]
    refine legal_eq_some ?_ ?_ hwf
    all_goals simp [← hw, toNat_eq_digit]

/-! `full`: the table asks for no check. -/

omit hwf in
theorem reads_full (h : i.layout = .full) : Reads e i := by
  obtain ⟨s, w, x⟩ := e
  cases i <;> cases h
  all_goals
    obtain ⟨rfl, hw, rfl⟩ := Encoded.mk.inj (Option.some.inj he)
    have ho := (AgreeAbove.of_eq hw).opcode_eq (by decide)
    simp [toNat_eq_digit] at ho
    refine reads_of_opcode ho rfl ?_
    delta decodeSyllable decodeC decodeX decodeK
    rewrite [show w / 16777216 = _ from ho]
    refine congrArg some (?_ : _ = _)
    simp [← hw, toNat_eq_digit]

theorem reads_first (h : i.layout = .first) : Reads e i := by
  obtain ⟨s, w, x⟩ := e
  cases i <;> cases h
  all_goals
    obtain ⟨rfl, hw, rfl⟩ := Encoded.mk.inj (Option.some.inj he)
    have ho := (AgreeAbove.of_eq hw).opcode_eq (by decide)
    simp at ho
    refine reads_of_opcode ho rfl ?_
    delta decodeSyllable decodeS decodeV decodeK
    rewrite [show w / 16777216 = _ from ho]
    refine orElse_left (legal_eq_some ?_ ?_ hwf)
    all_goals simp [← hw]

theorem reads_number (h : i.layout = .number) : Reads e i := by
  obtain ⟨s, w, x⟩ := e
  cases i <;> cases h
  all_goals
    obtain ⟨rfl, hw, rfl⟩ := Encoded.mk.inj (Option.some.inj he)
    have ho := (AgreeAbove.of_eq hw).opcode_eq (by decide)
    simp [val_eq_sliceDigit] at ho
    have small : fld w 0 12 < 64 := by simp [← hw, val_eq_sliceDigit]
    obtain ⟨himm, carried⟩ := riImm_bare_spec (Nat.lt_trans small (by decide))
    refine reads_of_opcode ho carried ?_
    delta decodeSyllable decodeS decodeV
    rewrite [show w / 16777216 = _ from ho]
    refine legal_eq_some ?_ ?_ hwf
    all_goals rw [himm]; simp [← hw, val_eq_sliceDigit]

theorem reads_signed (h : i.layout = .signed) : Reads e i := by
  obtain ⟨s, w, x⟩ := e
  cases i <;> cases h
  all_goals
    obtain ⟨rfl, hw, himm, carried⟩ := encRI_spec (Option.some.inj he) (by simp)
    have ho := hw.opcode_eq (by decide)
    simp at ho
    refine reads_of_opcode ho carried ?_
    rewrite [decodeSyllable_S, decodeS, show w / 16777216 = _ from ho]
    refine legal_eq_some ?_ ?_ hwf
    all_goals simp [hw.fld_eq, himm]

theorem reads_unsigned (h : i.layout = .unsigned) : Reads e i := by
  obtain ⟨s, w, x⟩ := e
  cases i <;> cases h
  all_goals
    obtain ⟨rfl, hw, himm, carried⟩ := encRI_spec (Option.some.inj he) (by simp)
    have ho := hw.opcode_eq (by decide)
    simp at ho
    have value := congrArg BitVec.toNat himm
    rw [BitVec.toNat_setWidth_of_le (by decide)] at value
    refine reads_of_opcode ho carried ?_
    rewrite [decodeSyllable_S, decodeS, show w / 16777216 = _ from ho]
    have bound := lt_of_eq_of_lt value (BitVec.isLt _)
    exact legal_eq_some (by simpa [hw.fld_eq] using bound) (by simp [hw.fld_eq, value]) hwf

theorem reads_mem (h : i.layout = .mem) : Reads e i := by
  obtain ⟨s, w, x⟩ := e
  cases i <;> cases h
  all_goals
    obtain ⟨rfl, hw, hc, hoff, carried⟩ := encMem_spec (Option.some.inj he) (by simp)
    have ho := hw.opcode_eq (by decide)
    simp at ho
    refine reads_of_opcode ho carried ?_
    delta decodeSyllable decodeS decodeV
    rewrite [show w / 16777216 = _ from ho]
    refine legal_eq_some rfl ?_ hwf
    simp [hw.fld_eq, hc, hoff]

theorem reads_lnd (h : i.layout = .lnd) : Reads e i := by
  obtain ⟨s, w, x⟩ := e
  cases i <;> cases h
  all_goals
    obtain ⟨rfl, hw, hc, hoff, hdist, carried⟩ := encLnd_spec (Option.some.inj he) (by simp)
    have ho := hw.opcode_eq (by decide)
    simp at ho
    refine reads_of_opcode ho carried ?_
    delta decodeSyllable decodeS decodeV
    rewrite [show w / 16777216 = _ from ho]
    refine legal_eq_some rfl ?_ hwf
    simp [hw.fld_eq, hc, hoff, hdist]

/-- Position and width stand in rising order in the sum. -/
theorem reads_bits (h : i.layout = .bits) : Reads e i := by
  obtain ⟨s, w, x⟩ := e
  cases i <;> cases h
  all_goals
    obtain ⟨rfl, hw, hlow, -, -, carried⟩ := encLow_spec (Option.some.inj he) (by simp) (by omega)
    have ho := hw.opcode_eq (by decide)
    simp at ho
    rw [Nat.add_comm] at hlow
    refine reads_of_opcode ho carried ?_
    rewrite [decodeSyllable_S, decodeS, show w / 16777216 = _ from ho]
    refine legal_eq_some rfl ?_ hwf
    simp [hw.fld_eq, hlow]

theorem reads_formats (h : i.layout = .formats) : Reads e i := by
  obtain ⟨s, w, x⟩ := e
  cases i <;> cases h
  all_goals
    obtain ⟨rfl, hw, hlow, -, value, carried⟩ := encLow_spec (Option.some.inj he) (by simp) (by grind [bit_lt_two])
    have ho := hw.opcode_eq (by decide)
    simp at ho
    specialize value (by grind [bit_lt_two])
    refine reads_of_opcode ho carried ?_
    delta decodeSyllable decodeS decodeV
    rewrite [show w / 16777216 = _ from ho]
    refine legal_eq_some ?_ ?_ hwf
    · rw [value]; simp; omega
    · simp [hw.fld_eq, hlow]

theorem reads_row (h : i.layout = .row) : Reads e i := by
  obtain ⟨s, w, x⟩ := e
  cases i <;> cases h
  all_goals
    obtain ⟨rfl, hw, -, hrow, -, carried⟩ := encLow_spec (Option.some.inj he) (by simp) (by grind [bit_lt_two])
    have ho := hw.opcode_eq (by decide)
    simp at ho
    refine reads_of_opcode ho carried ?_
    rewrite [decodeSyllable_V, decodeV, show w / 16777216 = _ from ho, hrow]
    refine legal_eq_some ?_ ?_ hwf
  case vlda.refl.refine_1 => simp; omega
  case vsta.refl.refine_1 => rfl
  all_goals simp [hw.fld_eq]

theorem reads_view (h : i.layout = .view) : Reads e i := by
  obtain ⟨s, w, x⟩ := e
  cases i <;> cases h
  all_goals
    obtain ⟨rfl, hw, hlow, hview, carried⟩ := encRow_spec (Option.some.inj he) (by simp) (by omega)
    have ho := hw.opcode_eq (by decide)
    simp at ho
    refine reads_of_opcode ho carried ?_
    rewrite [decodeSyllable_V, decodeV, show w / 16777216 = _ from ho]
    refine legal_eq_some rfl ?_ hwf
    simp [hw.fld_eq, hlow, hview]

theorem reads_branch (h : i.layout = .branch) : Reads e i := by
  obtain ⟨s, w, x⟩ := e
  cases i <;> cases h
  all_goals
    obtain ⟨rfl, hw, hdisp, carried⟩ := encBr_spec (Option.some.inj he) (by simp)
    have ho := hw.opcode_eq (by decide)
    simp at ho
    refine reads_of_opcode ho carried ?_
    rewrite [decodeSyllable_S, decodeS, show w / 16777216 = _ from ho]
    refine legal_eq_some rfl ?_ hwf
    simp [hw.fld_eq, hdisp]

theorem reads_jump (h : i.layout = .jump) : Reads e i := by
  obtain ⟨s, w, x⟩ := e
  cases i <;> cases h
  obtain ⟨rfl, hw, hdisp, carried⟩ := encJmp_spec (Option.some.inj he) (by simp)
  have ho := hw.opcode_eq (by decide)
  simp at ho
  refine reads_of_opcode ho carried ?_
  rewrite [decodeSyllable_S, decodeS, show w / 16777216 = _ from ho]
  refine legal_eq_some rfl ?_ hwf
  simp [hw.fld_eq, hdisp]

theorem reads_count (h : i.layout = .count) : Reads e i := by
  obtain ⟨s, w, x⟩ := e
  cases i <;> cases h
  all_goals
    obtain ⟨rfl, hw, hcount, carried⟩ := encK_spec (Option.some.inj he) (by simp)
    have ho := hw.opcode_eq (by decide)
    simp at ho
    refine reads_of_opcode ho carried ?_
    rewrite [decodeSyllable_K, decodeK.eq_def, show w / 16777216 = _ from ho]
    refine legal_eq_some ?_ ?_ hwf
    all_goals simp [hw.fld_eq, hcount]

theorem reads_lent (h : i.layout = .lent) : Reads e i := by
  obtain ⟨s, w, x⟩ := e
  cases i <;> cases h
  all_goals
    obtain ⟨rfl, hw, rfl⟩ := Encoded.mk.inj (Option.some.inj he)
    have ho := (AgreeAbove.of_eq hw).opcode_eq (by decide)
    simp at ho
    refine reads_of_opcode ho (carries_lend rfl (BitVec.isLt _)) ?_
    rewrite [decodeSyllable_K, decodeK.eq_def, show w / 16777216 = _ from ho]
    refine legal_eq_some ?_ ?_ hwf
    all_goals simp [← hw]

/-- What sets the second operation apart is a bit that the first one leaves 0: a digit of its own, out of its place in the sum. -/
theorem reads_second (h : i.layout = .second) : Reads e i := by
  obtain ⟨s, w, x⟩ := e
  have one : bit true = 1 := rfl
  cases i <;> cases h
  all_goals obtain ⟨rfl, hw, rfl⟩ := Encoded.mk.inj (Option.some.inj he)
  case' rlandSet a p n =>
    replace hw : 0xa4000000 + a.val * 4096 + bit true * 64 + p.val * 4 + bit n * 2 = w := by omega
  case' vcmpLtu d a b p n =>
    replace hw : 0x1e000000 + d.val * 262144 + a.val * 4096 + b.val * 64 + p.val * 4 + bit n * 2 + bit true = w := by omega
  case' vcmpGeu d a b p n =>
    replace hw : 0x1f000000 + d.val * 262144 + a.val * 4096 + b.val * 64 + p.val * 4 + bit n * 2 + bit true = w := by omega
  case' dfrmAdd a f r =>
    replace hw : 0x2000000 + a.val * 4096 + bit true * 32 + f.val * 8 + r.val = w := by omega
  all_goals
    have ho := (AgreeAbove.of_eq hw).opcode_eq (by decide)
    simp at ho
    refine reads_of_opcode ho rfl ?_
    delta decodeSyllable decodeS decodeV decodeK
    rewrite [show w / 16777216 = _ from ho]
    refine orElse_right (legal_eq_none ?_) (legal_eq_some ?_ ?_ hwf)
  case rlandSet.refl.refine_1 =>
    have := bit_lt_two n
    have set : fld w 6 18 ≠ 0 := by rw [fld]; omega
    simp [set]
  all_goals simp [← hw]

omit hwf in
theorem layout_ne_none : i.layout ≠ .none := by
  intro h
  cases i <;> cases h <;> cases he

theorem reads_of_encodeSyllable : Reads e i := by
  cases h : i.layout with
  | scalar => exact reads_scalar hwf he h
  | vector => exact reads_vector hwf he h
  | engine => exact reads_engine hwf he h
  | full => exact reads_full he h
  | first => exact reads_first hwf he h
  | second => exact reads_second hwf he h
  | number => exact reads_number hwf he h
  | signed => exact reads_signed hwf he h
  | unsigned => exact reads_unsigned hwf he h
  | bits => exact reads_bits hwf he h
  | formats => exact reads_formats hwf he h
  | row => exact reads_row hwf he h
  | view => exact reads_view hwf he h
  | mem => exact reads_mem hwf he h
  | lnd => exact reads_lnd hwf he h
  | branch => exact reads_branch hwf he h
  | jump => exact reads_jump hwf he h
  | count => exact reads_count hwf he h
  | lent => exact reads_lent hwf he h
  | none => exact absurd h (layout_ne_none he)

end

theorem decodeBundle_encode {i : Instr} {ws : List Nat} (hwf : i.wf = true) (hi : ∀ c, i ≠ .nop c) (h : encode i = some ws) :
    ∃ n : Fin 8, decodeBundle ws = .ok ⟨false, ws.length, [(n, i)]⟩ := by
  obtain ⟨e, he, rfl⟩ := encodeSyllable_of_encode hi h
  have len : (encodeHeader e false :: e.word :: e.imm.words).length = 2 + e.imm.words.length := by simp; omega
  exact ⟨e.slot, len ▸ decodeBundle_of_reads (reads_of_encodeSyllable hwf he)⟩

/-- Settles O56: NOP by its header; every other operation by the layout of its syllable, whose immediate is read back as it is
carried and whose other operands are read back from their fields. -/
theorem roundTrip : Obligations.RoundTrip := by
  unfold Obligations.RoundTrip
  intro i ws hwf h
  by_cases hi : ∃ c, i = .nop c
  · obtain ⟨c, rfl⟩ := hi
    obtain rfl := Option.some.inj h
    exact ⟨0, c, decodeBundle_nop c, fun hc => by rw [hc]⟩
  · obtain ⟨n, decoded⟩ := decodeBundle_encode hwf (fun c hc => hi ⟨c, hc⟩) h
    exact ⟨n, false, decoded, nofun⟩

/-- Settles O55: each list of words is decoded by evaluation. -/
theorem decodeWords : Obligations.DecodeWords := by
  unfold Obligations.DecodeWords
  exact ⟨rfl, rfl, rfl, rfl, rfl, rfl, rfl⟩

end Sys2Proof
end

section
/-! PROOFS. Vector reductions (R97, R155): the pairwise tree splits at its root, so what holds of lanes and of the combination of two
halves holds of the whole; one result goes to every lane. -/

namespace Sys2Proof.Machine

open Sys2Proof.Safety

/-! ### The tree of R97 -/

section
variable (f : BitVec 32 → BitVec 32 → BitVec 32 × BitVec 6)

/-- A level of the tree pairs the values of an even part among themselves. -/
theorem treeLevel_append : ∀ {x : List (BitVec 32)} (y : List (BitVec 32)), Even x.length →
    (treeLevel f (x ++ y)).1 = (treeLevel f x).1 ++ (treeLevel f y).1
  | [], _, _ => rfl
  | [_], _, h => absurd h (by simp)
  | a :: b :: r, y, h => by
    have rest : Even r.length := by simpa [Nat.even_add_one] using h
    exact congrArg ((f a b).1 :: ·) (treeLevel_append y rest)

/-- A level of the tree halves the number of values. -/
theorem length_treeLevel : ∀ {m : Nat} {x : List (BitVec 32)}, x.length = 2 * m → (treeLevel f x).1.length = m
  | 0, [], _ => rfl
  | m + 1, _ :: _ :: r, h => by
    have rest : r.length = 2 * m := by simpa [Nat.mul_succ] using h
    exact congrArg (· + 1) (length_treeLevel rest)
  | m + 1, [_], h => by rw [List.length_singleton] at h; omega

/-- The root of the tree combines the trees of its two halves (R97). -/
theorem treeReduce_append {n : Nat} {x y : List (BitVec 32)} (hx : x.length = 2 ^ n) (hy : y.length = 2 ^ n) :
    (treeReduce f (n + 1) (x ++ y)).1 = (f (treeReduce f n x).1 (treeReduce f n y).1).1 := by
  induction n generalizing x y with
  | zero =>
    obtain ⟨a, rfl⟩ := List.length_eq_one_iff.1 hx
    obtain ⟨b, rfl⟩ := List.length_eq_one_iff.1 hy
    rfl
  | succ n ih =>
    rw [Nat.pow_succ'] at hx hy
    have even : Even x.length := hx ▸ even_two_mul _
    rw [treeReduce, treeLevel_append f y even]
    exact ih (length_treeLevel f hx) (length_treeLevel f hy)

variable {f}

/-- What the tree answers for single values, and for two parts together when it does for each, it answers for all. -/
theorem treeReduce_induction {motive : List (BitVec 32) → BitVec 32 → Prop} (one : ∀ z, motive [z] z)
    (node : ∀ x y v w, motive x v → motive y w → motive (x ++ y) (f v w).1) {n : Nat} {l : List (BitVec 32)}
    (hl : l.length = 2 ^ n) : motive l (treeReduce f n l).1 := by
  induction n generalizing l with
  | zero =>
    obtain ⟨z, rfl⟩ := List.length_eq_one_iff.1 hl
    exact one z
  | succ n ih =>
    rw [Nat.pow_succ'] at hl
    have left : (l.take (2 ^ n)).length = 2 ^ n := by rw [List.length_take]; omega
    have right : (l.drop (2 ^ n)).length = 2 ^ n := by rw [List.length_drop]; omega
    have whole := node _ _ _ _ (ih left) (ih right)
    rwa [← treeReduce_append f left right, List.take_append_drop] at whole

/-! Operations that raise no flag. -/

theorem treeLevel_no_flags (hf : ∀ x y, (f x y).2 = 0) : ∀ l : List (BitVec 32), (treeLevel f l).2 = 0
  | [] => rfl
  | [_] => rfl
  | x :: y :: r => by rw [treeLevel, hf, treeLevel_no_flags hf r]; rfl

theorem treeReduce_no_flags (hf : ∀ x y, (f x y).2 = 0) (n : Nat) (l : List (BitVec 32)) : (treeReduce f n l).2 = 0 := by
  induction n generalizing l with
  | zero => rfl
  | succ n ih => rw [treeReduce, ih, treeLevel_no_flags hf]; rfl

end

/-- A tree of sums is the sum: addition modulo 2^32 is associative. -/
theorem treeReduce_sum {n : Nat} {l : List (BitVec 32)} (hl : l.length = 2 ^ n) :
    (treeReduce (fun x y => (x + y, 0)) n l).1 = l.sum :=
  treeReduce_induction (motive := fun l v => v = l.sum) (fun z => by simp) (fun x y v w hv hw => by simp [hv, hw]) hl

/-- `g` chooses one of two values, at or after both in a preorder. -/
structure Chooses (le : BitVec 32 → BitVec 32 → Prop) (g : BitVec 32 → BitVec 32 → BitVec 32) : Prop where
  refl : ∀ x, le x x
  trans : ∀ x y z, le x y → le y z → le x z
  left : ∀ x y, le x (g x y)
  right : ∀ x y, le y (g x y)
  one : ∀ x y, g x y = x ∨ g x y = y

/-- A tree of such choices answers one of its values, at or after all of them. -/
theorem Chooses.treeReduce {le : BitVec 32 → BitVec 32 → Prop} {g : BitVec 32 → BitVec 32 → BitVec 32} (h : Chooses le g)
    {n : Nat} {l : List (BitVec 32)} (hl : l.length = 2 ^ n) :
    (treeReduce (fun x y => (g x y, 0)) n l).1 ∈ l ∧ ∀ z ∈ l, le z (treeReduce (fun x y => (g x y, 0)) n l).1 := by
  refine treeReduce_induction (motive := fun l v => v ∈ l ∧ ∀ z ∈ l, le z v) (fun z => ?_) (fun x y v w hv hw => ?_) hl
  · exact ⟨List.mem_singleton_self z, fun u hu => List.mem_singleton.1 hu ▸ h.refl z⟩
  · obtain ⟨memX, topX⟩ := hv
    obtain ⟨memY, topY⟩ := hw
    constructor
    · rcases h.one v w with e | e <;> rw [e]
      · exact List.mem_append_left y memX
      · exact List.mem_append_right x memY
    · intro z hz
      rcases List.mem_append.1 hz with hz | hz
      · exact h.trans _ _ _ (topX z hz) (h.left v w)
      · exact h.trans _ _ _ (topY z hz) (h.right v w)

/-- The greater of two signed values (R155). -/
theorem chooses_max : Chooses (fun x y => x.toInt ≤ y.toInt) (fun x y => if x.sle y then y else x) where
  refl _ := Int.le_refl _
  trans _ _ _ := Int.le_trans
  left x y := by simp only [BitVec.sle_iff_toInt_le]; split <;> omega
  right x y := by simp only [BitVec.sle_iff_toInt_le]; split <;> omega
  one x y := by split <;> simp

/-- The lesser of two signed values (R155). -/
theorem chooses_min : Chooses (fun x y => y.toInt ≤ x.toInt) (fun x y => if x.sle y then x else y) where
  refl _ := Int.le_refl _
  trans _ _ _ h k := Int.le_trans k h
  left x y := by simp only [BitVec.sle_iff_toInt_le]; split <;> omega
  right x y := by simp only [BitVec.sle_iff_toInt_le]; split <;> omega
  one x y := by split <;> simp

/-! ### The lanes that are reduced -/

/-- The 64 values of a reduction: those of the active lanes of v[a], and the identity `one` where a lane is off (R155). -/
def reducedLanes (r : Arch) (a : Fin 64) (p : Fin 16) (n : Bool) (one : BitVec 32) : List (BitVec 32) :=
  (List.range 64).map fun j => if (laneMask r p n).getLsbD j then elem (rV r a) 32 j else one

section
variable (r : Arch) (a : Fin 64) (p : Fin 16) (n : Bool)

theorem length_reducedLanes (one : BitVec 32) : (reducedLanes r a p n one).length = 2 ^ 6 := by simp [reducedLanes]

/-- An active lane's value is among those that are reduced. -/
theorem mem_reducedLanes_of_active (one : BitVec 32) {j : Nat} (hj : j < 64) (on : (laneMask r p n).getLsbD j = true) :
    elem (rV r a) 32 j ∈ reducedLanes r a p n one :=
  List.mem_map.2 ⟨j, List.mem_range.2 hj, if_pos on⟩

/-- A reduced value is an active lane's or the identity. -/
theorem active_or_one_of_mem_reducedLanes {one v : BitVec 32} (h : v ∈ reducedLanes r a p n one) :
    (∃ j < 64, (laneMask r p n).getLsbD j = true ∧ v = elem (rV r a) 32 j) ∨ v = one := by
  obtain ⟨j, hj, rfl⟩ := List.mem_map.1 h
  split
  · next on => exact .inl ⟨j, List.mem_range.1 hj, on, rfl⟩
  · exact .inr rfl

/-- The identity 0 of a sum adds nothing where a lane is off. -/
theorem sum_reducedLanes_zero : (reducedLanes r a p n 0).sum =
    (((List.range 64).filter fun j => (laneMask r p n).getLsbD j).map fun j => elem (rV r a) 32 j).sum := by
  rw [reducedLanes, List.sum_map_ite]
  simp

/-- The tree of choices over the lanes that are reduced answers an active lane's value or the identity, at or after every active
lane. -/
theorem Chooses.treeReduce_reducedLanes {le : BitVec 32 → BitVec 32 → Prop} {g : BitVec 32 → BitVec 32 → BitVec 32}
    (h : Chooses le g) (one : BitVec 32) :
    let v := (Machine.treeReduce (fun x y => (g x y, 0)) 6 (reducedLanes r a p n one)).1
    (∀ j < 64, (laneMask r p n).getLsbD j = true → le (elem (rV r a) 32 j) v) ∧
      ((∃ j < 64, (laneMask r p n).getLsbD j = true ∧ v = elem (rV r a) 32 j) ∨ v = one) := by
  obtain ⟨mem, top⟩ := h.treeReduce (length_reducedLanes r a p n one)
  exact ⟨fun j hj on => top _ (mem_reducedLanes_of_active r a p n one hj on), active_or_one_of_mem_reducedLanes r a p n mem⟩

end

/-! ### The operations -/

/-- An outcome that lands `v` in every lane of v[d], with flags `g`, at t + 6 (R155). -/
def LandsInEveryLane (s : State) (d : Fin 64) (v : BitVec 32) (g : BitVec 6) (o : Host.Outcome State Fault Refusal) : Prop :=
  ∃ u, o = .next (land 6 (.vreg d u (BitVec.allOnes 64)) g (issued s)) ∧ ∀ j < 64, elem u 32 j = v

section
variable {s : State} (h : Alone 1 s) (d a : Fin 64) (p : Fin 16) (n : Bool)
include h

/-- A reduction lands the value and the flags of its tree. -/
theorem reduceOp_lands (f : Arch → BitVec 32 → BitVec 32 → BitVec 32 × BitVec 6) (one : BitVec 32) :
    let t := treeReduce (f (curArch s)) 6 (reducedLanes (curArch s) a p n one)
    LandsInEveryLane s d t.1 t.2 (reduceOp f one d a p n s) :=
  ⟨_, vForm_next d 6 _ _ s h, fun _ hj => elem_ofLanes _ hj⟩

/-- A reduction by an operation without flags lands none. -/
theorem reduceOp_lands_no_flags (g : BitVec 32 → BitVec 32 → BitVec 32) (one : BitVec 32) :
    LandsInEveryLane s d (treeReduce (fun x y => (g x y, 0)) 6 (reducedLanes (curArch s) a p n one)).1 0
      (reduceOp (fun _ x y => (g x y, 0)) one d a p n s) := by
  have noFlags := treeReduce_no_flags (f := fun x y => (g x y, 0)) (fun _ _ => rfl) 6 (reducedLanes (curArch s) a p n one)
  simpa only [noFlags] using reduceOp_lands h d a p n (fun _ x y => (g x y, 0)) one

theorem vredadd_int_lands : LandsInEveryLane s d
    (((List.range 64).filter fun j => (laneMask (curArch s) p n).getLsbD j).map fun j => elem (rV (curArch s) a) 32 j).sum 0
    (exec (.vredadd d a p n true) s) := by
  rw [← sum_reducedLanes_zero, ← treeReduce_sum (length_reducedLanes (curArch s) a p n 0)]
  exact reduceOp_lands_no_flags h d a p n (· + ·) 0

theorem vredmax_int_lands : LandsInEveryLane s d
    (treeReduce (fun x y => (if x.sle y then y else x, 0)) 6 (reducedLanes (curArch s) a p n 0x80000000)).1 0
    (exec (.vredmax d a p n true) s) :=
  reduceOp_lands_no_flags h d a p n (fun x y => if x.sle y then y else x) 0x80000000

theorem vredmin_int_lands : LandsInEveryLane s d
    (treeReduce (fun x y => (if x.sle y then x else y, 0)) 6 (reducedLanes (curArch s) a p n 0x7FFFFFFF)).1 0
    (exec (.vredmin d a p n true) s) :=
  reduceOp_lands_no_flags h d a p n (fun x y => if x.sle y then x else y) 0x7FFFFFFF

end

/-- Settles O29: a reduction lands what its tree answers (`reduceOp_lands`), and by induction over the tree
(`treeReduce_induction`) that is the sum, or a chosen value, of the lanes. -/
theorem vectorReductions : Obligations.VectorReductions := by
  unfold Obligations.VectorReductions
  refine ⟨fun s d a p n h => ?_, fun f n x y hx hy => ⟨treeReduce_append f hx hy, fun _ => rfl⟩⟩
  exact ⟨vredadd_int_lands h d a p n,
    ⟨_, vredmax_int_lands h d a p n, chooses_max.treeReduce_reducedLanes (curArch s) a p n 0x80000000⟩,
    ⟨_, vredmin_int_lands h d a p n, chooses_min.treeReduce_reducedLanes (curArch s) a p n 0x7FFFFFFF⟩,
    reduceOp_lands h d a p n (fun r x y => lanesBy false fpAdd (· + ·) r x y) 0x80000000,
    reduceOp_lands_no_flags h d a p n (fpMinMax true) 0xFF800000,
    reduceOp_lands_no_flags h d a p n (fpMinMax false) 0x7F800000⟩

end Sys2Proof.Machine
end

section
/-! PROOFS. Scalar results (R57, R77, R116 to R119): what the integer, immediate, bit-field, select, compare and predicate operations
land, and that a predicated operation whose predicate fails lands nothing. -/

namespace Sys2Proof.Machine

open Sys2Proof.Safety

/-! ### The values of the operations on n bits -/

/-- R117: a quotient by 0 is all ones. -/
theorem divSigned_value (n : Nat) (x y : BitVec n) : divSigned n x y = if y = 0 then -1 else x.sdiv y := by
  split
  · next h => rw [divSigned, if_pos h]; exact BitVec.neg_one_eq_allOnes.symm
  · next h => exact divSigned_eq n x y h

theorem divUnsigned_value (n : Nat) (x y : BitVec n) : divUnsigned n x y = if y = 0 then -1 else x / y := by
  split
  · next h => rw [divUnsigned, if_pos h]; exact BitVec.neg_one_eq_allOnes.symm
  · next h => exact divUnsigned_eq n x y h

/-- R117: a remainder by 0 is the dividend. -/
theorem remSigned_value (n : Nat) (x y : BitVec n) : remSigned n x y = if y = 0 then x else x.srem y := by
  split
  · next h => rw [remSigned, if_pos h]
  · next h => exact remSigned_eq n x y h

theorem remUnsigned_value (n : Nat) (x y : BitVec n) : remUnsigned n x y = if y = 0 then x else x % y := by
  split
  · next h => rw [remUnsigned, if_pos h]
  · next h => exact remUnsigned_eq n x y h

/-- The 32-bit form of a quotient by 0 is all ones of 64 bits too. -/
theorem signExtend_ite_neg_one (p : Prop) [Decidable p] (x : BitVec 32) :
    (if p then -1 else x).signExtend 64 = if p then (-1 : Word) else x.signExtend 64 := by
  split
  · rfl
  · rfl

/-! ### Two-source operations and compares -/

section
variable {s : State} {p : Fin 16} {n : Bool} (h : Alone 1 s) (hg : guarded (curArch s) p n = true) (a b : Fin 64)
include h hg

/-- The 64-bit form of an RR operation lands the value of all 64 bits. -/
theorem rrOp_long (lat : Nat) {f : (n : Nat) → BitVec n → BitVec n → BitVec n} (d : Fin 64) {v : Word}
    (hv : f 64 (rS (curArch s) a) (rS (curArch s) b) = v) :
    rrOp lat f d a b p n false s = .next (land lat (.sreg d v) 0 (issued s)) := by
  rw [rrOp, sFormP_on d p n lat _ s h hg, ← hv]
  rfl

/-- The 32-bit form lands the value of the low halves, sign-extended. -/
theorem rrOp_short (lat : Nat) {f : (n : Nat) → BitVec n → BitVec n → BitVec n} (d : Fin 64) {v : Word}
    (hv : (f 32 ((rS (curArch s) a).setWidth 32) ((rS (curArch s) b).setWidth 32)).signExtend 64 = v) :
    rrOp lat f d a b p n true s = .next (land lat (.sreg d v) 0 (issued s)) := by
  rw [rrOp, sFormP_on d p n lat _ s h hg, ← hv]
  rfl

/-- The 64-bit form of a compare lands its condition on all 64 bits. -/
theorem cmpOp_long {f : (n : Nat) → BitVec n → BitVec n → Bool} (d : Fin 16) {v : Bool}
    (hv : f 64 (rS (curArch s) a) (rS (curArch s) b) = v) :
    cmpOp f d a b p n false s = .next (land 1 (.preg d v) 0 (issued s)) := by
  rw [cmpOp, pFormP_on d p n 1 _ s h hg, ← hv]
  rfl

/-- The 32-bit form lands its condition on the low halves. -/
theorem cmpOp_short {f : (n : Nat) → BitVec n → BitVec n → Bool} (d : Fin 16) {v : Bool}
    (hv : f 32 ((rS (curArch s) a).setWidth 32) ((rS (curArch s) b).setWidth 32) = v) :
    cmpOp f d a b p n true s = .next (land 1 (.preg d v) 0 (issued s)) := by
  rw [cmpOp, pFormP_on d p n 1 _ s h hg, ← hv]
  rfl

end

/-! ### Predicated operations whose predicate fails (R57) -/

section
variable {s : State} {p : Fin 16} {n : Bool} (h : Alone 0 s) (hg : guarded (curArch s) p n = false)
include h hg

/-- A predicated operation that is off, and asks for nothing while it is, issues and has no effect. -/
theorem runSlot_off {probe : State → Probe} (f : State → State) (hf : (probe s).faults = []) (hu : (probe s).unread = [])
    (hw : (probe s).writes.Nodup) (hr : (probe s).results = 0) (hm : (probe s).waits = []) :
    runSlot probe (predEffect p n f) s = .next (issued s) := by
  rw [runSlot_plain (n := 0) (ha := h) (hf := hf) (hu := .inl hu) (hw := hw) (hn := hr.le) (hm := by rw [hm]; rfl),
    predEffect_off p n f _ (by simpa using hg)]

theorem runNoProbe_off (f : State → State) : runSlot noProbe (predEffect p n f) s = .next (issued s) :=
  runSlot_off h hg f rfl rfl .nil rfl rfl

theorem rrOp_off (lat : Nat) (f : (n : Nat) → BitVec n → BitVec n → BitVec n) (d a b : Fin 64) (w : Bool) :
    rrOp lat f d a b p n w s = .next (issued s) := sFormP_off d p n lat _ s h hg

theorem cmpOp_off (f : (n : Nat) → BitVec n → BitVec n → Bool) (d : Fin 16) (a b : Fin 64) (w : Bool) :
    cmpOp f d a b p n w s = .next (issued s) := pFormP_off d p n 1 _ s h hg

theorem fcmpOp_off (f : Num → Num → Bool) (nv : Bool) (d : Fin 16) (a b : Fin 64) :
    fcmpOp f nv d a b p n s = .next (issued s) := fpFormP_off d p n 1 _ s h hg

theorem rangeForm_off (inv : Bool) (a b : Fin 64) : rangeForm inv a b p n s = .next (issued s) :=
  runSlot_off h hg _ (by simp [hg]) rfl .nil (predProbe_results_off p n [] 1 s hg) rfl

theorem amopop_off (d : Fin 64) : execAmopop d p n s = .next (issued s) :=
  runSlot_off h hg _ (by simp [hg]) rfl (wrS_nodup d) (predProbe_results_off p n (wrS d) 1 s hg) rfl

end

/-- Settles O1: each operation is `rrOp` of its function of n bits, whose value at 64 and at 32 bits is the one named. -/
theorem integerResults : Obligations.IntegerResults := by
  unfold Obligations.IntegerResults
  refine ⟨fun s d a b p n h hg => ?_, fun s d a b p n h hg => ?_⟩
  · refine ⟨rrOp_long h hg a b 1 d rfl, rrOp_short h hg a b 1 d rfl, rrOp_long h hg a b 1 d rfl, rrOp_short h hg a b 1 d rfl,
      rrOp_long h hg a b 3 d rfl, rrOp_short h hg a b 3 d rfl, rrOp_long h hg a b 3 d (mulHighS_eq 64 _ _),
      rrOp_short h hg a b 3 d (congrArg _ (mulHighS_eq 32 _ _)), rrOp_long h hg a b 3 d (mulHighU_eq 64 _ _),
      rrOp_short h hg a b 3 d (congrArg _ (mulHighU_eq 32 _ _)), rrOp_long h hg a b 12 d (divSigned_value 64 _ _), ?_,
      rrOp_long h hg a b 12 d (divUnsigned_value 64 _ _), ?_, rrOp_long h hg a b 12 d (remSigned_value 64 _ _), ?_,
      rrOp_long h hg a b 12 d (remUnsigned_value 64 _ _), ?_⟩
    · exact rrOp_short h hg a b 12 d (by rw [divSigned_value, signExtend_ite_neg_one])
    · exact rrOp_short h hg a b 12 d (by rw [divUnsigned_value, signExtend_ite_neg_one])
    · exact rrOp_short h hg a b 12 d (by rw [remSigned_value, apply_ite (BitVec.signExtend 64)])
    · exact rrOp_short h hg a b 12 d (by rw [remUnsigned_value, apply_ite (BitVec.signExtend 64)])
  · have long {i : (n : Nat) → BitVec n → BitVec n → BitVec n} {v : Word} := rrOp_long h hg a b (f := i) 1 d (v := v)
    have short {i : (n : Nat) → BitVec n → BitVec n → BitVec n} {v : Word} := rrOp_short h hg a b (f := i) 1 d (v := v)
    have long1 {i : (n : Nat) → BitVec n → BitVec n → BitVec n} {v : Word} := rrOp_long h hg a 0 (f := i) 1 d (v := v)
    have short1 {i : (n : Nat) → BitVec n → BitVec n → BitVec n} {v : Word} := rrOp_short h hg a 0 (f := i) 1 d (v := v)
    have least {m : Nat} {x y u v : BitVec m} : (if x.sle y then u else v) = if x.toInt ≤ y.toInt then u else v :=
      if_congr BitVec.sle_iff_toInt_le rfl rfl
    have leastU {m : Nat} {x y u v : BitVec m} : (if x.ule y then u else v) = if x.toNat ≤ y.toNat then u else v :=
      if_congr BitVec.ule_iff_toNat_le rfl rfl
    exact ⟨long rfl, short rfl, long rfl, short rfl, long rfl, short rfl, long rfl, short rfl, long rfl, short rfl, long rfl,
      short rfl, long rfl, short rfl, long (rotl_value 64 _ _), short (congrArg _ (rotl_value 32 _ _)),
      long1 (leadZeros_eq 64 _), short1 (congrArg _ (leadZeros_eq 32 _)), long1 (trailZeros_eq 64 _),
      short1 (congrArg _ (trailZeros_eq 32 _)), long1 (popCount_eq 64 _), short1 (congrArg _ (popCount_eq 32 _)),
      long least, short (congrArg _ least),
      long leastU, short (congrArg _ leastU),
      long least, short (congrArg _ least),
      long leastU, short (congrArg _ leastU)⟩

theorem bne_eq_decide_ne {α : Type} [DecidableEq α] (x y : α) : (x != y) = decide (x ≠ y) := by
  rw [bne, beq_eq_decide, decide_not]

/-! ### Immediates, bit fields, select -/

/-- Bit by bit, BFI takes its field from the source and every other bit from the destination (R118). -/
theorem getLsbD_bfi (x y : Word) {l m j : Nat} (hlm : l + m < 64) (hj : j < 64) :
    ((y &&& ~~~(bitField l m)) ||| ((x <<< l) &&& bitField l m)).getLsbD j =
      if l ≤ j ∧ j ≤ l + m then x.getLsbD (j - l) else y.getLsbD j := by
  rw [BitVec.getLsbD_or, BitVec.getLsbD_and, BitVec.getLsbD_and, BitVec.getLsbD_not, BitVec.getLsbD_shiftLeft,
    getLsbD_bitField l m j hlm hj]
  by_cases hl : l ≤ j
  · by_cases hm : j ≤ l + m
    · simp [hl, hm, hj]
    · simp [hm, hj]
  · simp [hl, hj]

/-- Settles O2: each operation is `sForm` of its value, and the values of fields are the ones of bit vectors. -/
theorem immediateResults : Obligations.ImmediateResults := by
  unfold Obligations.ImmediateResults
  refine ⟨fun s d a b l m k c i h hlm => ?_, fun s d a l m h hlm => ?_⟩
  · have lands (f : Arch → Word) {v : Word} (hv : f (curArch s) = v) :
        sForm d 1 f s = .next (land 1 (.sreg d v) 0 (issued s)) := by rw [sForm_next d 1 f s h, hv]
    exact ⟨lands (fun r => rS r a + imm64 i) rfl, lands (fun r => rS r a &&& imm64 i) rfl, lands (fun r => rS r a ||| imm64 i) rfl,
      lands (fun r => rS r a ^^^ imm64 i) rfl, lands (fun r => rS r a <<< k.val) rfl, lands (fun r => rS r a >>> k.val) rfl,
      lands (fun r => (rS r a).sshiftRight k.val) rfl,
      lands (fun r => (imm64 i <<< 32) ||| (rS r a &&& 0xFFFFFFFF)) (lui_value _ i), lands (fun _ => imm64 i) rfl,
      lands (fun r => signFrom (rS r a) k.val) (signFrom_zero _ _ k.isLt),
      lands (fun r => zeroFrom (rS r a) k.val) (zeroFrom_zero _ _ k.isLt),
      lands (fun r => signFrom (rS r a >>> l.val) m.val) (signFrom_eq _ _ _ hlm),
      lands (fun r => zeroFrom (rS r a >>> l.val) m.val) (zeroFrom_eq _ _ _ hlm),
      lands (fun r => if rP r c then rS r a else rS r b) rfl⟩
  · let field := bitField l.val m.val
    exact ⟨_, sForm_next d 1 (fun r => (rS r d &&& ~~~field) ||| ((rS r a <<< l.val) &&& field)) s h,
      fun j hj => getLsbD_bfi (rS (curArch s) a) (rS (curArch s) d) hlm hj⟩

/-! ### Compares and predicate logic; operations that are predicated off -/

/-- Settles O3: a compare is `cmpOp` of its condition, predicate logic is `pFormP`, and every predicated operation, off, is an effect
that does not happen. -/
theorem predicateResults : Obligations.PredicateResults := by
  unfold Obligations.PredicateResults
  refine ⟨fun s d e f p a b n h hg => ?_, fun s d a b q e f p n w h hg => ?_⟩
  · have long {c : (n : Nat) → BitVec n → BitVec n → Bool} {v : Bool} := cmpOp_long h hg a b (f := c) d (v := v)
    have short {c : (n : Nat) → BitVec n → BitVec n → Bool} {v : Bool} := cmpOp_short h hg a b (f := c) d (v := v)
    have logic (c : Arch → Bool) := pFormP_on d p n 1 c s h hg
    exact ⟨long (beq_eq_decide ..), short (beq_eq_decide ..), long (bne_eq_decide_ne _ _), short (bne_eq_decide_ne _ _),
      long rfl, short rfl, long rfl, short rfl, long rfl, short rfl, long rfl, short rfl,
      long (bne_eq_decide_ne _ _), short (bne_eq_decide_ne _ _), long (beq_eq_decide ..), short (beq_eq_decide ..),
      logic fun r => rP r e && rP r f, logic fun r => rP r e || rP r f, logic fun r => rP r e != rP r f, logic fun r => !rP r e⟩
  · have int {lat : Nat} {i : (n : Nat) → BitVec n → BitVec n → BitVec n} := rrOp_off h hg lat i d a b w
    have int1 {lat : Nat} {i : (n : Nat) → BitVec n → BitVec n → BitVec n} := rrOp_off h hg lat i d a 0 w
    have cmp {c : (n : Nat) → BitVec n → BitVec n → Bool} := cmpOp_off h hg c q a b w
    have logic (c : Arch → Bool) := pFormP_off q p n 1 c s h hg
    have arith (g : RMode → Num → Num → Res) :=
      fFormP_off d p n 4 (fun r => sFloat (g (rmodeOf r.fmt) (sNum r a) (sNum r b))) s h hg
    have fcmp (c : Num → Num → Bool) (nv : Bool) := fcmpOp_off h hg c nv q a b
    have pick (m : Bool) :=
      sFormP_off d p n 1 (fun r => (fpMinMax m ((rS r a).setWidth 32) ((rS r b).setWidth 32)).setWidth 64) s h hg
    simp only [List.forall_mem_cons]
    exact ⟨int, int, int, int, int, int, int, int, int, int, int, int, int, int, int, int, int, int1, int1, int1, int, int, int, int,
      cmp, cmp, cmp, cmp, cmp, cmp, cmp, cmp, logic fun r => rP r e && rP r f, logic fun r => rP r e || rP r f,
      logic fun r => rP r e != rP r f, logic fun r => !rP r e, arith fpAdd, arith fpMul, fcmp numEq false, fcmp numLt true,
      fcmp (fun x y => numLt x y || numEq x y) true, fcmp (fun x y => x.isNan || y.isNan) false, pick false, pick true,
      rangeForm_off h hg true a b, rangeForm_off h hg false a b, amopop_off h hg d, runNoProbe_off h hg _, runNoProbe_off h hg _,
      nofun⟩

end Sys2Proof.Machine
end

section
/-! PROOFS. Scalar floating point (R115, R120 to R122): what each operation lands, and the cases in which a sum or a product is invalid
or an exact zero. -/

namespace Sys2Proof.Machine

open Sys2Proof.Safety

/-! ### Special cases of one rounding to FP32 (R86, R90, R120) -/

/-- An invalid operation delivers the canonical NaN, with `NV`. -/
theorem deliver_invalid (r : RMode) : deliver r (.nan, true) = ⟨0x7FC00000, fNV⟩ := by cases r <;> rfl

/-- A zero is delivered as it is signed, with no flag. -/
theorem deliver_zero (r : RMode) (neg : Bool) (e : Int) :
    deliver r (.fin neg 0 e, false) = ⟨if neg then 0x80000000 else 0, 0⟩ := by
  cases neg <;> simp [deliver, toFp32, roundNum, roundFp, flagIf, FpFormat.signBit, fp32]

theorem mulNum_zero_inf (a b : Bool) (e : Int) : mulNum (.fin a 0 e) (.inf b) = (.nan, true) := rfl

theorem mulNum_inf_zero (a b : Bool) (e : Int) : mulNum (.inf b) (.fin a 0 e) = (.nan, true) := rfl

/-- An invalid product makes the fused operation invalid, whatever is added to it. -/
theorem fpFma_of_invalid {a b : Num} (h : mulNum a b = (.nan, true)) (r : RMode) (c : Num) : fpFma r a b c = ⟨0x7FC00000, fNV⟩ := by
  have sum : addNum r .nan c = (.nan, false) := rfl
  rw [fpFma, h]
  exact (congrArg (fun q => deliver r (q.1, true || q.2)) sum).trans (deliver_invalid r)

/-- Infinities of opposite signs have no sum. -/
theorem addNum_inf_opposite (r : RMode) (n : Bool) : addNum r (.inf n) (.inf !n) = (.nan, true) := by cases n <;> rfl

theorem numAt_opposite (n : Bool) (m : Nat) (e q : Int) : numAt n m e q + numAt (!n) m e q = 0 := by
  cases n <;> simp [numAt]

/-- A value and its opposite sum to the zero of the rounding mode. -/
theorem addNum_opposite (r : RMode) (n : Bool) {m : Nat} (hm : m ≠ 0) (e : Int) :
    addNum r (.fin n m e) (.fin (!n) m e) = (.fin (decide (r = .rdn)) 0 0, false) := by
  simp only [addNum, hm, false_and, if_false, numAt_opposite, if_true]

/-- Two zeros of one sign sum to it. -/
theorem addNum_zero_same (r : RMode) (n : Bool) (e : Int) : addNum r (.fin n 0 e) (.fin n 0 e) = (.fin n 0 0, false) := by
  simp [addNum]

/-! ### The operations -/

/-- A compare lands its condition, and raises `NV` for a NaN when its condition is an order (R122). -/
theorem fcmpOp_on {s : State} {p : Fin 16} {n : Bool} (h : Alone 1 s) (hg : guarded (curArch s) p n = true)
    (f : Num → Num → Bool) (nv : Bool) (d : Fin 16) (a b : Fin 64) :
    fcmpOp f nv d a b p n s = .next (land 1 (.preg d (f (sNum (curArch s) a) (sNum (curArch s) b)))
      (flagIf (nv && ((sNum (curArch s) a).isNan || (sNum (curArch s) b).isNan)) fNV) (issued s)) :=
  fpFormP_on d p n 1 _ s h hg

/-- Settles O4: each operation is a form whose value is the named one, and the special cases are those of the exact sum and product,
delivered. -/
theorem scalarFloatResults : Obligations.ScalarFloatResults := by
  unfold Obligations.ScalarFloatResults
  refine ⟨fun s d a b c q p n l t f h => ⟨?_, ?_, fun hg => ?_⟩, fun r n => ?_, fun r a b e => ⟨?_, ?_, fun c => ⟨?_, ?_⟩⟩,
    fun r n m e hm => ?_, fun r n e => ?_⟩
  · exact fForm_next d 4 (fun r => sFloat (fpFma (rmodeOf r.fmt) (sNum r a) (sNum r b) (sNum r c))) s h
  · rintro y rfl
    exact fForm_next d 2 (fun r =>
      let y := convert f.val t.val l (rmodeOf r.fmt) (fmtSat r.fmt)
        ((rS r a).toNat % 2 ^ (if f.val = 8 ∧ l then 64 else codeWidth f.val))
      (if t.val = 8 ∧ !l then (BitVec.ofNat 32 y.bits).signExtend 64 else BitVec.ofNat 64 y.bits, y.flags)) s h
  · have arith (g : RMode → Num → Num → Res) :=
      fFormP_on d p n 4 (fun r => sFloat (g (rmodeOf r.fmt) (sNum r a) (sNum r b))) s h hg
    have cmp (g : Num → Num → Bool) (nv : Bool) := fcmpOp_on h hg g nv q a b
    have pick (m : Bool) :=
      sFormP_on d p n 1 (fun r => (fpMinMax m ((rS r a).setWidth 32) ((rS r b).setWidth 32)).setWidth 64) s h hg
    exact ⟨arith fpAdd, arith fpMul, cmp numEq false, cmp numLt true, cmp (fun x y => numLt x y || numEq x y) true,
      cmp (fun x y => x.isNan || y.isNan) false, pick false, pick true⟩
  · rw [fpAdd, addNum_inf_opposite, deliver_invalid]
  · rw [fpMul, mulNum_zero_inf, deliver_invalid]
  · rw [fpMul, mulNum_inf_zero, deliver_invalid]
  · exact fpFma_of_invalid (mulNum_zero_inf a b e) r c
  · exact fpFma_of_invalid (mulNum_inf_zero a b e) r c
  · rw [fpAdd, addNum_opposite r n hm, deliver_zero]
    simp only [decide_eq_true_eq]
  · rw [fpAdd, addNum_zero_same, deliver_zero]

end Sys2Proof.Machine
end

section
/-! PROOFS. The faults of an operation alone in its bundle, taken in the order of R375, and what they leave of its effect. -/

namespace Sys2Proof.Machine

open Sys2Proof.Safety

/-! ### The first fault of a probe -/

/-- The first fault of a list in the order of the codes of R375. -/
def firstFault (fs : List FaultRec) : Option FaultRec := codeOrder.findSome? fun c => fs.find? fun f => f.code.toNat = c

theorem firstOf_one (p : Probe) (c : Nat) : firstOf [p] c = p.faults.find? fun f => f.code.toNat = c := by
  simp [firstOf]

theorem codeFault_one {p : Probe} (hu : p.unread = []) (c : Nat) : codeFault [p] c = p.faults.find? fun f => f.code.toNat = c := by
  have none : storeUnread [p] = none := by simp [storeUnread, hu]
  rw [codeFault, firstOf_one, none, ite_self, Option.or_none]

/-- An operation alone that writes no register twice and whose results fit has its first fault of R375, `DELAY` apart. -/
theorem bundleFault_first {s : State} {p : Probe} (hd : ∀ f ∈ p.faults, f.code.toNat ≠ 0x03) (hu : p.unread = [])
    (hw : p.writes.Nodup) (hn : inFlight (curCtx s) + p.results ≤ 32) {f : FaultRec} (hf : firstFault p.faults = some f) :
    bundleFault s [p] = some f := by
  have delay : firstOf [p] 0x03 = none := by
    rw [firstOf_one]
    exact List.find?_eq_none.2 fun g hg => by simpa using hd g hg
  have once : firstTwice [] ([p].flatMap (·.writes)) = none := by
    simpa using firstTwice_nodup [] p.writes hw (by simp)
  have room : ¬ 32 < inFlight (curCtx s) + ([p].map (·.results)).sum := by simpa using hn
  have first : codeOrder.findSome? (codeFault [p]) = some f := by
    rw [← hf]
    exact congrArg codeOrder.findSome? (funext fun c => codeFault_one hu c)
  simp only [bundleFault, delay, once, if_neg room, first]

/-- A fault that stands alone is the first, when its code is one of the order of R375. -/
theorem firstFault_one {f : FaultRec} (h : f.code.toNat ∈ codeOrder) : firstFault [f] = some f := by
  have found : (firstFault [f]).isSome := List.findSome?_isSome_iff.2 ⟨_, h, by simp⟩
  obtain ⟨g, hg⟩ := Option.isSome_iff_exists.1 found
  obtain ⟨c, -, hc⟩ := List.exists_of_findSome?_eq_some hg
  rw [hg, List.mem_singleton.1 (List.mem_of_find?_eq_some hc)]

theorem toNat_mkFault_code {code : Nat} (h : code ∈ codeOrder) (sub : Nat) (m : Option (Fin 8)) (x y z : Word) :
    (mkFault code sub m x y z).code.toNat = code := by
  have small : ∀ c ∈ codeOrder, c < 2 ^ 16 := by decide
  exact (BitVec.toNat_ofNat code 16).trans (Nat.mod_eq_of_lt (small code h))

section
variable {s : State} {probe : State → Probe} {effect : State → State}

/-- An operation alone that nothing stops or holds answers what its effect makes of the machine at issue. -/
theorem runSlot_does {n : Nat} {o : Host.Outcome State Fault Refusal} (ha : Alone n s) (hn : (probe s).results ≤ n)
    (hw : (probe s).writes.Nodup) (hu : (probe s).unread = [] ∨ (probe s).stores = []) (hf : (probe s).faults = [])
    (hm : waitsMet s s.cur [] [] (probe s).waits = true) (ho : .next (effect (issued s)) = o) : runSlot probe effect s = o := by
  rw [runSlot_plain probe effect s n ha hf hu hw hn hm, ho]

/-- An operation alone that finds a fault takes it (R375). -/
theorem runSlot_taken {n : Nat} (ha : Alone n s) (hn : (probe s).results ≤ n) (hw : (probe s).writes.Nodup)
    (hu : (probe s).unread = []) {f : FaultRec} (hd : ∀ f ∈ (probe s).faults, f.code.toNat ≠ 0x03)
    (hf : firstFault (probe s).faults = some f) : runSlot probe effect s = taken f s :=
  runSlot_fault probe effect s f ha.1 (bundleFault_first hd hu hw (by have := ha.2; omega) hf)

/-- The same for a probe with one fault. -/
theorem runSlot_taken_one {n code sub : Nat} {m : Option (Fin 8)} {x y z : Word} (ha : Alone n s) (hn : (probe s).results ≤ n)
    (hw : (probe s).writes.Nodup) (hu : (probe s).unread = []) (hf : (probe s).faults = [mkFault code sub m x y z])
    (hc : code ∈ codeOrder) : runSlot probe effect s = taken (mkFault code sub m x y z) s := by
  have is : (mkFault code sub m x y z).code.toNat = code := toNat_mkFault_code hc sub m x y z
  have delay : code ≠ 0x03 := fun e => absurd (e ▸ hc) (by decide)
  refine runSlot_taken ha hn hw hu (fun f h => ?_) (by rw [hf, firstFault_one (is.symm ▸ hc)])
  rw [hf, List.mem_singleton] at h
  rw [h, is]
  exact delay

/-- In a delay bundle, an operation that may not stand there faults with `DELAY` before anything else is looked at (R371, R375). -/
theorem runSlot_delay (hp : s.phase = .whole) (hx : (curArch s).xfer ≠ none) {more : List FaultRec}
    (hf : (probe s).faults = delayFault s ++ more) :
    runSlot probe effect s = taken (mkFault 0x03 s.slot.val (some s.slot) 0 0 0) s := by
  have delay : delayFault s = [mkFault 0x03 s.slot.val (some s.slot) 0 0 0] := if_pos (Option.isSome_iff_ne_none.2 hx)
  have first : firstOf [probe s] 0x03 = some (mkFault 0x03 s.slot.val (some s.slot) 0 0 0) := by
    rw [firstOf_one, hf, delay]
    rfl
  exact runSlot_fault probe effect s _ hp (by simp only [bundleFault, first])

end

theorem delayFault_none {s : State} (h : (curArch s).xfer = none) : delayFault s = [] := by simp [delayFault, h]

end Sys2Proof.Machine
end

section
/-! PROOFS. Control flow (R61 to R63, R131 to R136, R369 to R376): branches, loops, traps, returns, NOP, HALT and YIELD. -/

namespace Sys2Proof.Machine

open Sys2Proof.Safety

/-! ### The issuing context after an update -/

@[simp] theorem curCtx_pushFlight (s : State) (f : Flight) :
    curCtx (pushFlight s f) = { curCtx s with flight := (curCtx s).flight ++ [f] } := ctxAt_modCtx s s.cur _

@[simp] theorem curArch_pushFlight (s : State) (f : Flight) : curArch (pushFlight s f) = curArch s :=
  (congrArg Ctx.arch (curCtx_pushFlight s f) :)

@[simp] theorem curArch_land (lat : Nat) (act : Landing) (g : BitVec 6) (s : State) : curArch (land lat act g s) = curArch s :=
  curArch_pushFlight s _

@[simp] theorem nextBundle_issued (s : State) : nextBundle (issued s) = nextBundle s := by
  rw [nextBundle, curArch_issued]
  rfl

/-- At issue the other contexts stand as they stood. -/
theorem ctxAt_issued_ne {s : State} {k : Fin 1024} (h : k ≠ s.cur) : ctxAt (issued s) k = ctxAt s k :=
  ctxAt_modCtx_ne s s.cur k (fun c => { c with waits := [] }) h

/-! ### Transfers (R61, R131) -/

/-- The five transfers by a predicate: each has the checks of `branchProbe`, and writes at most one register. -/
theorem exec_transfer (a : Fin 64) (p : Fin 16) (n : Bool) (o : BitVec 35) :
    ∀ x ∈ ([.br p n o, .jmp p n o, .jmpr a p n, .call p n o, .ret a p n] : List Instr), ∃ (ws : List WReg) (f : State → State),
      ws.Nodup ∧ ws.length ≤ 1 ∧ ∀ s, exec x s = runSlot (branchProbe p n ws) (predEffect p n f) s := by
  simp only [List.forall_mem_cons]
  exact ⟨⟨[], _, .nil, Nat.zero_le 1, fun _ => rfl⟩, ⟨[], _, .nil, Nat.zero_le 1, fun _ => rfl⟩,
    ⟨[], _, .nil, Nat.zero_le 1, fun _ => rfl⟩, ⟨[⟨0, 63⟩], _, List.nodup_singleton _, Nat.le_refl 1, fun _ => rfl⟩,
    ⟨[], _, .nil, Nat.zero_le 1, fun _ => rfl⟩, nofun⟩

theorem branchProbe_results {s : State} {p : Fin 16} {n : Bool} {ws : List WReg} (hg : guarded (curArch s) p n = true)
    (hl : ws.length ≤ 1) : (branchProbe p n ws s).results ≤ 1 := (predProbe_results p n ws ws.length s hg).trans_le hl

section
variable {s : State} {p : Fin 16} {n : Bool} {ws : List WReg} (hws : ws.Nodup) (f : State → State)
include hws

theorem runBranch_off (h : Alone 0 s) (hg : guarded (curArch s) p n = false) (hx : (curArch s).xfer = none) :
    runSlot (branchProbe p n ws) (predEffect p n f) s = .next (issued s) :=
  runSlot_off h hg f (by simp [branchProbe, delayFault_none hx, hg]) rfl hws (predProbe_results_off p n ws _ s hg) rfl

variable (hl : ws.length ≤ 1) (h : Alone 1 s) (hg : guarded (curArch s) p n = true) (hx : (curArch s).xfer = none)
include hl h hg hx

/-- Near the end of an open body a taken transfer faults with LOOP 3. -/
theorem runBranch_lastThree (h3 : lastThree s = true) :
    runSlot (branchProbe p n ws) (predEffect p n f) s = taken (mkFault 0x0B 3 (some s.slot) 0 0 0) s :=
  runSlot_taken_one h (branchProbe_results hg hl) hws rfl
    (by simp [branchProbe, delayFault_none hx, hg, h3, slotFault]) (by decide)

/-- Elsewhere it has its effect. -/
theorem runBranch_on (h3 : lastThree s = false) :
    runSlot (branchProbe p n ws) (predEffect p n f) s = .next (f (issued s)) := by
  rw [runSlot_plain (n := 1) (ha := h) (hf := by simp [branchProbe, delayFault_none hx, h3]) (hu := .inl rfl) (hw := hws)
    (hn := branchProbe_results hg hl) (hm := rfl), predEffect_on p n f _ (by simpa using hg)]

end

/-- A transfer is taken: its target stands behind two delay bundles. -/
theorem branchTo_eq (t : Word) (closes : Bool) (u : State) :
    branchTo t closes u = modArch u u.cur fun r => { r with
      xfer := some ⟨t, 2, (curArch u).pc⟩,
      loops := if closes then (curArch u).loops.filter fun l => decide (l.first ≤ t) && decide (t < l.stop)
        else (curArch u).loops } := rfl

/-! ### What follows a bundle that has issued (R24, R61, R63) -/

section
variable {k : Fin 1024} {s : State} (hf : s.flow = .issued) (old : Arch) (n : Word)
include hf

theorem advance_sched : (ctxAt (advance k old n s) k).arch.sched = (ctxAt s k).arch.sched + 1 := by
  simp only [advance, ctxAt_modCtx, hf]
  split
  · split <;> rfl
  · split <;> rfl

/-- The bundle of a transfer is followed by the one after it in memory. -/
theorem advance_transfer {x : Transfer} (ho : old.xfer = none) (hx : (ctxAt s k).arch.xfer = some x) :
    (ctxAt (advance k old n s) k).arch = { (ctxAt s k).arch with sched := (ctxAt s k).arch.sched + 1, pc := n } := by
  simp [advance, hf, ho, hx]

/-- So is a delay bundle that is not the last. -/
theorem advance_delay {x : Transfer} (ho : old.xfer = some x) (hl : 1 < x.left) :
    (ctxAt (advance k old n s) k).arch = { (ctxAt s k).arch with
      sched := (ctxAt s k).arch.sched + 1, pc := n, xfer := some { x with left := x.left - 1 } } := by
  simp [advance, hf, ho, Nat.not_le.2 hl]

/-- The last delay bundle is followed by the target. -/
theorem advance_target {x : Transfer} (ho : old.xfer = some x) (hl : x.left ≤ 1) :
    (ctxAt (advance k old n s) k).arch = { (ctxAt s k).arch with
      sched := (ctxAt s k).arch.sched + 1, pc := x.target, xfer := none } := by
  simp [advance, hf, ho, hl]

/-- Without a transfer the open loops are tested. -/
theorem advance_loops (ho : old.xfer = none) (hx : (ctxAt s k).arch.xfer = none) :
    (ctxAt (advance k old n s) k).arch = { (ctxAt s k).arch with
      sched := (ctxAt s k).arch.sched + 1, pc := (loopNext n (ctxAt s k).arch.loops).1,
      loops := (loopNext n (ctxAt s k).arch.loops).2 } := by
  simp [advance, hf, ho, hx]

end

/-- Settles O5: the transfers are `branchTo` under one probe, and `advance` has one equation for each bundle on the way to the
target. -/
theorem transfers : Obligations.Transfers := by
  unfold Obligations.Transfers
  refine ⟨⟨fun s a p n o h hg hx x hm => ?_, fun s a p n o h hg hx h3 x hm => ?_, fun s a p n o h hg hx h3 => ?_⟩,
    fun k s old n t o hf => ⟨advance_sched hf old n, fun ho hx => ?_, fun ho => ?_, fun ho => ?_, fun ho hx => ?_⟩⟩
  · obtain ⟨ws, f, hws, -, he⟩ := exec_transfer a p n o x hm
    rw [he, runBranch_off hws f h hg hx]
  · obtain ⟨ws, f, hws, hl, he⟩ := exec_transfer a p n o x hm
    rw [he, runBranch_lastThree hws f hl h hg hx h3]
  · intro pc reg inside goes len i1 i2 back
    have on {ws : List WReg} (hws : ws.Nodup) (hl : ws.length ≤ 1) (f : State → State) := runBranch_on hws f hl h hg hx h3
    have goes_eq (t : Word) (closes : Bool) {u : State} (hu : curArch u = curArch s) (hc : u.cur = s.cur) :
        branchTo t closes u = goes t (if closes then inside t else (curArch s).loops) u := by
      rw [branchTo_eq, hu, hc]
    have arch : curArch (issued s) = curArch s := curArch_issued s
    refine ⟨?_, ?_, ?_, ?_, ?_⟩
    · refine (on .nil (Nat.zero_le 1) fun s => branchTo ((curArch s).pc + o.signExtend 64) true s).trans ?_
      rw [arch, goes_eq _ true arch rfl, if_pos rfl]
    · refine (on .nil (Nat.zero_le 1) fun s => branchTo (o.setWidth 64) true s).trans ?_
      rw [goes_eq _ true arch rfl, if_pos rfl]
    · refine (on .nil (Nat.zero_le 1) fun s => branchTo (rS (curArch s) a &&& 0xFFFFFFFF) true s).trans ?_
      rw [arch, goes_eq _ true arch rfl, if_pos rfl]
    · refine (on (List.nodup_singleton _) (Nat.le_refl 1) fun s =>
        branchTo ((curArch s).pc + o.signExtend 64) false (land 1 (.sreg 63 (BitVec.ofNat 64 (afterBundle s (coreOf s.cur)
          (afterBundle s (coreOf s.cur) (afterBundle s (coreOf s.cur) (curArch s).pc.toNat))))) 0 s)).trans ?_
      rw [arch, goes_eq _ false ((curArch_land ..).trans arch) rfl, if_neg Bool.false_ne_true]
      rfl
    · refine (on .nil (Nat.zero_le 1) fun s =>
        countEvent (branchTo (rS (curArch s) a &&& 0xFFFFFFFF) false s) (coreOf s.cur) 0x000B 1).trans ?_
      rw [arch, goes_eq _ false arch rfl, if_neg Bool.false_ne_true]
      rfl
  · rw [advance_transfer hf old n ho hx]
    exact ⟨rfl, hx, rfl⟩
  · rw [advance_delay hf old n ho (Nat.le_refl 2)]
    exact ⟨rfl, rfl, rfl⟩
  · rw [advance_target hf old n ho (Nat.le_refl 1)]
    exact ⟨rfl, rfl, rfl⟩
  · rw [advance_loops hf old n ho hx]
    exact ⟨rfl, rfl, hx⟩

end Sys2Proof.Machine
end

section
/-! PROOFS. Loops (R132), the entry into a handler and the return from it (R133, R134, R370 to R376), NOP, HALT and YIELD. -/

namespace Sys2Proof.Machine

open Sys2Proof.Safety

/-! ### Loops -/

/-- A loop with passes left leads back to its first bundle. -/
theorem loopNext_pass {l : Loop} (h : 1 < l.left.toNat) (r : List Loop) :
    loopNext l.stop (l :: r) = (l.first, { l with left := l.left - 1 } :: r) := by
  simp [loopNext, h]

/-- A loop on its last pass closes, and the one outside it is tested. -/
theorem loopNext_last {l : Loop} (h : l.left.toNat ≤ 1) (r : List Loop) : loopNext l.stop (l :: r) = loopNext l.stop r := by
  simp [loopNext, Nat.not_lt.2 h]

/-- At the end of another body a loop stays as it is. -/
theorem loopNext_other {l : Loop} {n : Word} (h : n ≠ l.stop) (r : List Loop) :
    loopNext n (l :: r) = ((loopNext n r).1, l :: (loopNext n r).2) := by
  simp [loopNext, Ne.symm h]

/-- The passes that a loop with count `c` has left after `k` of them. -/
theorem toNat_passes_left {c : BitVec 32} {k : Nat} (h : k ≤ c.toNat) : (c - BitVec.ofNat 32 k).toNat = c.toNat - k := by
  have small : k < 2 ^ 32 := h.trans_lt c.isLt
  rw [BitVec.toNat_sub_of_le (by rwa [BitVec.le_def, BitVec.toNat_ofNat, Nat.mod_eq_of_lt small]), BitVec.toNat_ofNat,
    Nat.mod_eq_of_lt small]

/-- After `k` passes of a body with a greater count its loop is open, with `k` passes less. -/
theorem loopNext_iterate (first stop : Word) (c : BitVec 32) (outer : List Loop) {k : Nat} (h : k < c.toNat) :
    (fun ls : List Loop => (loopNext stop ls).2)^[k] (⟨first, stop, c⟩ :: outer) =
      ⟨first, stop, c - BitVec.ofNat 32 k⟩ :: outer := by
  induction k with
  | zero => simp
  | succ k ih =>
    have more : 1 < (c - BitVec.ofNat 32 k).toNat := by
      rw [toNat_passes_left (by omega)]
      omega
    have step : c - BitVec.ofNat 32 k - 1 = c - BitVec.ofNat 32 (k + 1) := by
      rw [BitVec.ofNat_add, BitVec.sub_sub]
      rfl
    rw [Function.iterate_succ_apply', ih (by omega), ← step]
    exact congrArg Prod.snd (loopNext_pass (l := ⟨first, stop, c - BitVec.ofNat 32 k⟩) more outer)

/-- Settles O6: `LOOP` takes the first of its faults or opens its body, and a body's passes are counted by induction. -/
theorem loops : Obligations.Loops := by
  unfold Obligations.Loops
  refine ⟨fun s a i h hx => ?_, fun first stop c outer k hk => ?_⟩
  · intro c stop ls
    have before {fs : List FaultRec} : delayFault s ++ fs = fs := by rw [delayFault_none hx, List.nil_append]
    refine ⟨fun h4 => ?_, fun h4 hl => ?_, fun h4 hl => ?_⟩
    all_goals
      change execLoop a i s = _
      unfold execLoop
    · exact runSlot_taken_one h (Nat.le_refl 0) .nil rfl (before.trans (if_pos h4)) (by decide)
    · obtain ⟨l, r, hls, hlt⟩ := hl
      refine runSlot_taken_one h (Nat.le_refl 0) .nil rfl ((before.trans (if_neg (Nat.not_le.2 h4))).trans ?_) (by decide)
      change (curArch s).loops = l :: r at hls
      rw [hls]
      exact if_pos hlt
    · have none : (match (curArch s).loops with
          | l :: _ => if l.stop.toNat < stop.toNat then [slotFault s 0x0B 2 0 0 0] else []
          | [] => []) = [] := by
        split
        · next l r hls => exact if_neg (Nat.not_lt.2 (hl l r hls))
        · rfl
      refine runSlot_does h (Nat.le_refl 0) .nil (.inl rfl) ((before.trans (if_neg (Nat.not_le.2 h4))).trans none) rfl ?_
      rw [curArch_issued, nextBundle_issued]
      rfl
  · intro after
    have eq : after = ⟨first, stop, c - BitVec.ofNat 32 k⟩ :: outer := loopNext_iterate first stop c outer hk
    have left : (c - BitVec.ofNat 32 k).toNat = c.toNat - k := toNat_passes_left hk.le
    refine ⟨eq, fun h1 => ?_, fun h1 => ?_, fun n hn => ?_, fun n => rfl⟩
    · rw [eq, loopNext_pass (l := ⟨first, stop, c - BitVec.ofNat 32 k⟩) (by rw [left]; omega)]
    · rw [eq, loopNext_last (l := ⟨first, stop, c - BitVec.ofNat 32 k⟩) (by rw [left]; omega)]
    · rw [eq, loopNext_other hn]

/-! ### Taking an exception -/

/-- A context that enters its handler counts as issued by no handler what it has in flight. -/
def leftByHandler (c : Ctx) : Ctx := { c with
  flight := c.flight.map fun f => { f with handler := false }
  xops := c.xops.map fun x => { x with handler := false }
  deferred := c.deferred.map fun d => { d with handler := false } }

theorem ctxAt_enterRun (k : Fin 1024) (s : State) : ctxAt (enterRun k s) k = leftByHandler (ctxAt s k) :=
  ctxAt_modCtx s k leftByHandler

theorem ctxAt_enterRun_ne {k j : Fin 1024} (h : j ≠ k) (s : State) : ctxAt (enterRun k s) j = ctxAt s j :=
  ctxAt_modCtx_ne s k j leftByHandler h

/-- What a `TRAP` writes into its context's registers, and what it records of the entry (R133). -/
def trapped (i : BitVec 16) (next : Word) (c : Ctx) : Ctx := { c with
  arch := { c.arch with
    tcause := BitVec.ofNat 64 (i.toNat * 2 ^ 16 + 1), tbun := next, tslot := 16, tval0 := 0, tval1 := 0, tval2 := 0, hm := true },
  pending := none, entryBun := next, hidden := none }

theorem trapByInstr_eq (k : Fin 1024) (i : BitVec 16) (next : Word) {s : State} (hf : s.flow = .issued) :
    trapByInstr k i next s = countEvent { modCtx (enterRun k s) k (trapped i next) with
      flow := .jumped ((ctxAt s k).arch.tvec &&& 0xFFFFFFFF) } (coreOf k) 0x000D 1 := by
  have tvec : (ctxAt (modCtx (enterRun k s) k (trapped i next)) k).arch.tvec = (ctxAt s k).arch.tvec := by
    rw [ctxAt_modCtx, ctxAt_enterRun]
    rfl
  rw [← tvec]
  simp only [trapByInstr, hf]
  rfl

@[simp] theorem trapByInstr_cur (k : Fin 1024) (i : BitVec 16) (next : Word) (s : State) :
    (trapByInstr k i next s).cur = s.cur := rfl

theorem ctxAt_trapByInstr (k : Fin 1024) (i : BitVec 16) (next : Word) {s : State} (hf : s.flow = .issued) :
    ctxAt (trapByInstr k i next s) k = trapped i next (leftByHandler (ctxAt s k)) := by
  rw [trapByInstr_eq k i next hf, ctxAt_countEvent, ← ctxAt_enterRun]
  exact ctxAt_modCtx (enterRun k s) k (trapped i next)

theorem ctxAt_trapByInstr_ne {k j : Fin 1024} (h : j ≠ k) (i : BitVec 16) (next : Word) {s : State} (hf : s.flow = .issued) :
    ctxAt (trapByInstr k i next s) j = ctxAt s j := by
  rw [trapByInstr_eq k i next hf, ctxAt_countEvent]
  exact (ctxAt_modCtx_ne (enterRun k s) k j (trapped i next) h).trans (ctxAt_enterRun_ne h s)

/-- What an exception writes into its context (R370). -/
def handling (f : FaultRec) (bun : Word) (c : Ctx) : Ctx := { c with
  arch := { c.arch with
    tcause := causeWord f, tbun := bun, tslot := slotWord f, tval0 := f.v0, tval1 := f.v1, tval2 := f.v2, hm := true,
    xfer := none, pc := c.arch.tvec &&& 0xFFFFFFFF },
  pending := c.arch.xfer, entryBun := bun, hidden := f.replay, waits := [], holdFault := none, granted := false,
  asked := false, flagSeen := none, standing := none }

section
variable {k : Fin 1024} {s : State} (he : (ctxAt s k).arch.tvec.getLsbD 32 = true) (hh : (ctxAt s k).arch.hm = false)
  (f : FaultRec) (bun : Word)
include he hh

theorem trapEnter_eq : trapEnter k f bun s =
    countEvent { modCtx (enterRun k s) k (handling f bun) with flow := .diverted } (coreOf k) 0x000D 1 := by
  have arch : (ctxAt (enterRun k s) k).arch = (ctxAt s k).arch :=
    (congrArg Ctx.arch (ctxAt_enterRun k s) :)
  rw [trapEnter_enters k f bun s he hh, ← arch]
  rfl

theorem ctxAt_trapEnter : ctxAt (trapEnter k f bun s) k = handling f bun (leftByHandler (ctxAt s k)) := by
  rw [trapEnter_eq he hh f bun, ctxAt_countEvent, ← ctxAt_enterRun]
  exact ctxAt_modCtx (enterRun k s) k (handling f bun)

theorem ctxAt_trapEnter_ne {j : Fin 1024} (h : j ≠ k) : ctxAt (trapEnter k f bun s) j = ctxAt s j := by
  rw [trapEnter_eq he hh f bun, ctxAt_countEvent]
  exact (ctxAt_modCtx_ne (enterRun k s) k j (handling f bun) h).trans (ctxAt_enterRun_ne h s)

end

/-- A job that runs ends with the record it is given (R373). -/
theorem findJob_jobEnd {s : State} {id : BitVec 32} {j : Job} (h : findJob s id = some j) (hr : j.phase = .running) (r : EndRec) :
    findJob (jobEnd s id r) id = some { j with phase := .ending r } := by
  refine (findJob_modJob (f := fun x => match x.phase with
      | .running => { x with phase := .ending r }
      | .waiting => x
      | .ending q => if q.state = 0 then { x with phase := .ending r } else x
      | .telling _ _ _ => x) h fun x => ?_).trans ?_
  · split
    · rfl
    · rfl
    · split <;> rfl
    · rfl
  · rw [hr]

/-- The operations that may not stand in a delay bundle (R371): each looks for `DELAY` first. -/
theorem exec_not_delayed (a : Fin 64) (p : Fin 16) (n : Bool) (o : BitVec 35) (i : BitVec 16) (b : BitVec 32) :
    ∀ x ∈ ([.br p n o, .jmp p n o, .jmpr a p n, .call p n o, .ret a p n, .loop a b, .trap i, .eret p n] : List Instr),
      ∃ (probe : State → Probe) (effect : State → State),
        (∀ s, ∃ more, (probe s).faults = delayFault s ++ more) ∧ ∀ s, exec x s = runSlot probe effect s := by
  simp only [List.forall_mem_cons]
  exact ⟨⟨_, _, fun _ => ⟨_, rfl⟩, fun _ => rfl⟩, ⟨_, _, fun _ => ⟨_, rfl⟩, fun _ => rfl⟩, ⟨_, _, fun _ => ⟨_, rfl⟩, fun _ => rfl⟩,
    ⟨_, _, fun _ => ⟨_, rfl⟩, fun _ => rfl⟩, ⟨_, _, fun _ => ⟨_, rfl⟩, fun _ => rfl⟩, ⟨_, _, fun _ => ⟨_, rfl⟩, fun _ => rfl⟩,
    ⟨_, _, fun _ => ⟨_, rfl⟩, fun _ => rfl⟩, ⟨_, _, fun _ => ⟨_, rfl⟩, fun _ => rfl⟩, nofun⟩

/-- A `TRAP` with traps enabled and outside handler mode: it enters the handler from the machine at issue, with the loops as they
stand at the bundle that would issue next. -/
theorem exec_trap {s : State} (h : Alone 0 s) (hx : (curArch s).xfer = none) (he : (curArch s).tvec.getLsbD 32 = true)
    (hh : (curArch s).hm = false) (i : BitVec 16) :
    exec (.trap i) s = .next (trapByInstr s.cur i (loopNext (nextBundle s) (curArch s).loops).1
      (modArch (issued s) s.cur fun r => { r with loops := (loopNext (nextBundle s) (curArch s).loops).2 })) := by
  change execTrap i s = _
  unfold execTrap
  refine runSlot_does h (Nat.le_refl 0) .nil (.inl rfl) ?_ rfl ?_
  · simp [delayFault_none hx, he, hh]
  · simp only [issued_flow, nextBundle_issued, curArch_issued, issued_cur]

theorem ctxAt_modArch_issued (s : State) (f : Arch → Arch) :
    ctxAt (modArch (issued s) s.cur f) s.cur = { curCtx s with waits := [], arch := f (curArch s) } := by
  have at_issue : ctxAt (issued s) s.cur = { curCtx s with waits := [] } := curCtx_issued s
  rw [ctxAt_modArch, at_issue]
  rfl

/-- Settles O7: a `TRAP` that may issue is `trapByInstr` at the bundle that would issue next; an exception enters the handler or ends the
job (`trapEnter_eq`, `trapEnter_ends`); in a delay bundle `DELAY` comes first (`runSlot_delay`). -/
theorem trapEntry : Obligations.TrapEntry := by
  unfold Obligations.TrapEntry
  refine ⟨fun s i h hx he hh => ?_, fun k f bun s => ⟨fun he hh => ?_, fun hend j hj hr => ?_⟩,
    fun s a p n o i b hp hx x hm => ?_⟩
  · intro next
    obtain ⟨u, hu⟩ : ∃ u, u = modArch (issued s) s.cur fun r => { r with loops := next.2 } := ⟨_, rfl⟩
    have flow : u.flow = .issued := by rw [hu]; rfl
    have ctx : ctxAt u s.cur = { curCtx s with waits := [], arch := { curArch s with loops := next.2 } } := by
      rw [hu]
      exact ctxAt_modArch_issued s _
    have others (k : Fin 1024) (hk : k ≠ s.cur) : ctxAt u k = ctxAt s k := by
      rw [hu, ctxAt_modArch_ne _ _ _ _ hk, ctxAt_issued_ne hk]
    have mem : u.mem = s.mem := by rw [hu]; rfl
    have cur : (trapByInstr s.cur i next.1 u).cur = s.cur := by rw [trapByInstr_cur, hu, modArch_cur, issued_cur]
    have entered := ctxAt_trapByInstr s.cur i next.1 flow
    rw [ctx] at entered
    refine ⟨trapByInstr s.cur i next.1 u, by rw [hu]; exact exec_trap h hx he hh i, ?_, by rw [trapByInstr_mem, mem], ?_, ?_, ?_,
      fun k hk => ?_⟩
    · rw [trapByInstr_eq s.cur i next.1 flow, ctx]
      rfl
    · rw [curArch, cur, entered]
      rfl
    · rw [curCtx, cur, entered]
      rfl
    · rw [curCtx, cur, entered]
      rfl
    · rw [ctxAt_trapByInstr_ne hk i next.1 flow, others k hk]
  · rw [ctxAt_trapEnter he hh f bun]
    exact ⟨rfl, rfl, rfl, by rw [trapEnter_eq he hh f bun]; rfl, trapEnter_mem k f bun s,
      fun j hj => ctxAt_trapEnter_ne he hh f bun hj⟩
  · rw [trapEnter_ends k f bun s hend]
    exact ⟨_, findJob_jobEnd hj hr _, rfl, fun _ => rfl, rfl⟩
  · obtain ⟨probe, effect, hd, he⟩ := exec_not_delayed a p n o i b x hm
    obtain ⟨more, hf⟩ := hd s
    rw [he]
    exact runSlot_delay hp hx hf

/-! ### Returning from a handler (R134, R376) -/

/-- What a return makes of its context: a `TBUN` that the handler has left alone gets its pending transfer back, and what `RLAND`
recorded is due at the first bundle after (R139). -/
def returned (c : Ctx) : Ctx := { c with
  arch := { c.arch with hm := false, xfer := if c.arch.tbun == c.entryBun then c.pending else none },
  flight := c.flight.map fun f => if f.due = afterReturn then { f with due := c.arch.sched.toNat + 1 } else f,
  pending := none, hidden := none }

theorem ctxAt_trapReturn (k : Fin 1024) (s : State) : ctxAt (trapReturn k s) k = returned (ctxAt s k) := ctxAt_setCtx s k _

theorem ctxAt_trapReturn_ne {k j : Fin 1024} (h : j ≠ k) (s : State) : ctxAt (trapReturn k s) j = ctxAt s j :=
  ctxAt_setCtx_ne s k j _ h

section
variable {s : State} {p : Fin 16} {n : Bool}

theorem exec_eret_on (h : Alone 0 s) (hg : guarded (curArch s) p n = true) (hx : (curArch s).xfer = none)
    (hh : (curArch s).hm = true) : exec (.eret p n) s = .next (trapReturn s.cur (issued s)) := by
  change execEret p n s = _
  unfold execEret
  refine runSlot_does h (predProbe_results p n [] 0 s hg).le .nil (.inl rfl) (by simp [delayFault_none hx, hh]) rfl ?_
  rw [predEffect_on p n _ _ (by simpa using hg), issued_cur]

/-- Outside handler mode a return that is predicated on faults with PRIV (R371). -/
theorem exec_eret_priv {m : Nat} (h : Alone m s) (hg : guarded (curArch s) p n = true) (hx : (curArch s).xfer = none)
    (hh : (curArch s).hm = false) : exec (.eret p n) s = taken (mkFault 0x06 2 (some s.slot) 0 0 0) s := by
  change execEret p n s = _
  unfold execEret
  exact runSlot_taken_one h ((predProbe_results p n [] 0 s hg).trans_le (Nat.zero_le m)) .nil rfl
    (by simp [delayFault_none hx, hg, hh, slotFault]) (by decide)

end

/-- Settles O8: an `ERET` that may issue is `trapReturn`; else it faults with PRIV, and before that, in a delay bundle, with DELAY. -/
theorem Control.trapReturn : Obligations.TrapReturn := by
  unfold Obligations.TrapReturn
  refine fun s p n h hg => ⟨fun hx hh => ?_, fun hx hh => exec_eret_priv h hg hx hh, fun hx => ?_⟩
  · have ctx : ctxAt (issued s) s.cur = { curCtx s with waits := [] } := curCtx_issued s
    have back : curCtx (Machine.trapReturn s.cur (issued s)) = returned { curCtx s with waits := [] } := by
      rw [← ctx]
      exact ctxAt_trapReturn s.cur (issued s)
    refine ⟨_, exec_eret_on h hg hx hh, ?_, trapReturn_mem s.cur (issued s), ?_, congrArg Ctx.pending back, fun k hk => ?_⟩
    · change Flow.jumped (ctxAt (issued s) s.cur).arch.tbun = _
      rw [ctx]
      rfl
    · refine (congrArg Ctx.arch back).trans ?_
      simp only [returned, beq_iff_eq]
      rfl
    · rw [ctxAt_trapReturn_ne hk, ctxAt_issued_ne hk]
  · obtain ⟨probe, effect, hd, he⟩ := exec_not_delayed 0 p n 0 0 0 (.eret p n) (by simp)
    obtain ⟨more, hf⟩ := hd s
    rw [he]
    exact runSlot_delay h.1 hx hf

/-! ### NOP, HALT, YIELD (R135, R136, R396) -/

/-- A bundle with `CAIRN` looks at what is in flight as the bundle finds it. -/
theorem nothingInFlight_issued (s : State) : nothingInFlight (issued s) s.cur = nothingInFlight s s.cur := by
  have ctx : ctxAt (issued s) s.cur = { curCtx s with waits := [] } := curCtx_issued s
  unfold nothingInFlight
  rw [ctx]
  rfl

theorem takeCairn_issued (s : State) : takeCairn (issued s) =
    if nothingInFlight s s.cur = true ∧ (curCore s).rolling = none then
      modCtx (issued s) s.cur fun c =>
        { c with shadow := ⟨c.arch, c.pending, c.entryBun, c.hidden⟩, shadowBad := false, repeatFlag := false } else issued s := by
  simp only [takeCairn, issued_cur, nothingInFlight_issued, curCore_issued, Bool.and_eq_true, Option.isNone_iff_eq_none]

/-- An operation without checks, alone in its bundle, has its effect. -/
theorem runNoProbe_on {s : State} (h : Alone 0 s) (f : State → State) : runSlot noProbe f s = .next (f (issued s)) :=
  runSlot_does h (Nat.le_refl 0) .nil (.inl rfl) rfl rfl rfl

/-- A context that halts (R135). -/
def halted (cycle : Nat) (c : Ctx) : Ctx :=
  { discardResults c with run := .halted, haltCycle := cycle, amoq := [], deferred := [], waits := [], flagSeen := none }

/-- What is in flight of a context that halts: writes that R345 does not count, and bank writes (R135). -/
theorem mem_flight_discardResults (c : Ctx) (f : Flight) : f ∈ (discardResults c).flight ↔ f ∈ c.flight ∧ (f.counts = true →
    (∃ m, f.act = .matrix m) ∨ (∃ e r h a x, f.act = .rowStore e r h a x) ∨ ∃ e b, f.act = .zeroBands e b) := by
  rw [discardResults, List.mem_filter]
  cases f.counts
  · simp
  · cases f.act <;> simp

/-- Settles O9: none of the three asks for anything, so each has its effect. -/
theorem plainControl : Obligations.PlainControl := by
  unfold Obligations.PlainControl
  refine fun s p n h => ⟨runNoProbe_on h _, ?_, fun hg => ⟨?_, ?_⟩⟩
  · exact (runNoProbe_on h fun s => takeCairn s).trans (congrArg _ (takeCairn_issued s))
  · refine (runNoProbe_on h (predEffect p n fun s => modCore s (coreOf s.cur) fun c => { c with yielded := [subOf s.cur] })).trans ?_
    rw [predEffect_on p n _ _ (by simpa using hg), issued_cur]
  · have ctx : curCtx (modCtx (issued s) s.cur (halted s.cycle)) = halted s.cycle { curCtx s with waits := [] } := by
      rw [← curCtx_issued]
      exact ctxAt_modCtx (issued s) s.cur (halted s.cycle)
    refine ⟨modCtx (issued s) s.cur (halted s.cycle), ?_, congrArg Ctx.run ctx, congrArg Ctx.amoq ctx, congrArg Ctx.deferred ctx,
      (congrArg Ctx.arch ctx :), rfl, rfl, fun k hk => ?_, fun f => ?_⟩
    · refine (runNoProbe_on h (predEffect p n fun s => modCtx s s.cur (halted s.cycle))).trans ?_
      rw [predEffect_on p n _ _ (by simpa using hg)]
      rfl
    · rw [ctxAt_modCtx_ne _ _ _ _ hk, ctxAt_issued_ne hk]
    · rw [ctx]
      exact mem_flight_discardResults { curCtx s with waits := [] } f

end Sys2Proof.Machine
end

section
/-! PROOFS. The CSRs: what an access reads and sends, and which fields a write changes (R68 to R76, R137). -/

namespace Sys2Proof.Machine

open Sys2Proof.Safety

/-! ### Reading a CSR -/

/-- What a CSR reads as is settled by the context's registers, its core and the sample. -/
theorem csrRead_congr {s t : State} {k : Fin 1024} (ha : (ctxAt t k).arch = (ctxAt s k).arch)
    (hc : coreAt t (coreOf k) = coreAt s (coreOf k)) (hw : sampleWord t (coreOf k) = sampleWord s (coreOf k)) (i : BitVec 12) :
    csrRead t k i = csrRead s k i := by
  unfold csrRead
  rw [ha, hc, hw]

theorem csrRead_issued (s : State) (i : BitVec 12) : csrRead (issued s) s.cur i = csrRead s s.cur i :=
  csrRead_congr (curArch_issued s) rfl rfl i

/-! ### The fields that a write changes -/

/-- The value that a write leaves: `x` in the `RW` fields, `W1C` fields that `c` names cleared, the others as they stood. -/
def csrMix (i : BitVec 12) (x c old : Word) : Word := ((old &&& ~~~rwFields i) ||| (x &&& rwFields i)) &&& ~~~(c &&& w1cFields i)

/-- A mix of a value of `n` bits with a mask of `n` bits has `n` bits. -/
theorem setWidth_csrMix {n : Nat} (old : BitVec n) (i : BitVec 12) (x c : Word) (h : rwFields i = BitVec.ofNat 64 (2 ^ n - 1)) :
    ((csrMix i x c (old.setWidth 64)).setWidth n).setWidth 64 = csrMix i x c (old.setWidth 64) := by
  apply BitVec.eq_of_getLsbD_eq
  intro j hj
  by_cases hn : j < n
  · simp [hn, hj]
  · have mask : (rwFields i).getLsbD j = false := by
      rw [h, BitVec.getLsbD_ofNat, Nat.testBit_two_pow_sub_one]
      simp [hn]
    have high : old.getLsbD j = false := BitVec.getLsbD_of_ge old j (Nat.not_lt.1 hn)
    simp [csrMix, hn, mask, high]

/-- The CSRs outside the event counters that have fields that a program may write. -/
def writableCsrs : List (BitVec 12) := [0x003, 0x004, 0x010, 0x011, 0x012, 0x013, 0x014, 0x015, 0x016, 0x020, 0x021]

/-- Any other CSR is an event counter or its selector, or has no such field, and a write to it does nothing. -/
theorem csr_cases (i : BitVec 12) : i ∈ writableCsrs ∨ (0x040 ≤ i.toNat ∧ i.toNat < 0x050) ∨ (0x050 ≤ i.toNat ∧ i.toNat < 0x060) ∨
    (rwFields i = 0 ∧ w1cFields i = 0 ∧ ∀ s k x c, csrWrite s k i x c true = s) := by
  by_cases hm : i ∈ writableCsrs
  · exact .inl hm
  by_cases h4 : 0x040 ≤ i.toNat ∧ i.toNat < 0x050
  · exact .inr (.inl h4)
  by_cases h5 : 0x050 ≤ i.toNat ∧ i.toNat < 0x060
  · exact .inr (.inr (.inl h5))
  have ne : ∀ n ∈ writableCsrs, i.toNat ≠ n.toNat := fun n hn e => hm (BitVec.eq_of_toNat_eq e ▸ hn)
  simp only [writableCsrs, List.forall_mem_cons, BitVec.reduceToNat] at ne
  obtain ⟨h03, h04, h10, h11, h12, h13, h14, h15, h16, h20, h21, -⟩ := ne
  have ne20 : i ≠ 0x020 := fun e => h20 (congrArg BitVec.toNat e)
  have ne21 : i ≠ 0x021 := fun e => h21 (congrArg BitVec.toNat e)
  refine .inr (.inr (.inr ⟨?_, ?_, fun s k x c => ?_⟩))
  · simp [rwFields, *]
  · rw [w1cFields, if_neg ne20, if_neg ne21]
  · simp [csrWrite, *]

/-- The write of an event counter's selector. -/
theorem csrWrite_evsel {i : BitVec 12} (h : 0x040 ≤ i.toNat ∧ i.toNat < 0x050) (s : State) (k : Fin 1024) (x c : Word) :
    csrWrite s k i x c true = modCore s (coreOf k) fun y =>
      { y with evsel := y.evsel.set (Fin.ofNat 16 i.toNat) (csrMix i x c y.evsel[Fin.ofNat 16 i.toNat]) } := by
  have ne {n : Nat} (hn : n < 0x040) : i.toNat ≠ n := by omega
  simp [csrWrite, ne, h, csrMix]

/-- The write of an event counter. -/
theorem csrWrite_evcnt {i : BitVec 12} (h : 0x050 ≤ i.toNat ∧ i.toNat < 0x060) (s : State) (k : Fin 1024) (x c : Word) :
    csrWrite s k i x c true = modCore s (coreOf k) fun y => { y with
      evcnt := y.evcnt.set (Fin.ofNat 16 i.toNat) (csrMix i x c y.evcnt[Fin.ofNat 16 i.toNat]),
      evHold := y.evHold ||| (1#16 <<< (i.toNat % 16)) } := by
  have ne {n : Nat} (hn : n < 0x050) : i.toNat ≠ n := by omega
  have notSel : ¬ (0x040 ≤ i.toNat ∧ i.toNat < 0x050) := by omega
  simp only [csrWrite, ne, notSel, h, csrMix, if_true, if_false, Nat.reduceLT]
  simp

theorem csrRead_evsel {i : BitVec 12} (h : 0x040 ≤ i.toNat ∧ i.toNat < 0x050) (s : State) (k : Fin 1024) :
    csrRead s k i = (coreAt s (coreOf k)).evsel[Fin.ofNat 16 i.toNat] := by
  have ne {n : Nat} (hn : n < 0x040) : i.toNat ≠ n := by omega
  simp [csrRead, ne, h]

theorem csrRead_evcnt {i : BitVec 12} (h : 0x050 ≤ i.toNat ∧ i.toNat < 0x060) (s : State) (k : Fin 1024) :
    csrRead s k i = (coreAt s (coreOf k)).evcnt[Fin.ofNat 16 i.toNat] := by
  have ne {n : Nat} (hn : n < 0x050) : i.toNat ≠ n := by omega
  have notSel : ¬ (0x040 ≤ i.toNat ∧ i.toNat < 0x050) := by omega
  simp [csrRead, ne, h, notSel]

/-- A write changes the CSR that it names to the mix (R137). -/
theorem csrRead_csrWrite (s : State) (k : Fin 1024) (i : BitVec 12) (x c : Word) :
    csrRead (csrWrite s k i x c true) k i = csrMix i x c (csrRead s k i) := by
  obtain h | h | h | ⟨hrw, hw1, h⟩ := csr_cases i
  · simp only [writableCsrs, List.mem_cons, List.not_mem_nil, or_false] at h
    obtain rfl | rfl | rfl | rfl | rfl | rfl | rfl | rfl | rfl | rfl | rfl := h
    all_goals simp only [csrWrite, csrRead, BitVec.reduceToNat, Nat.reduceEqDiff, if_true, if_false, ctxAt_modArch, coreAt_modCore]
    · exact setWidth_csrMix (ctxAt s k).arch.prio 0x003 x c rfl
    · exact setWidth_csrMix (coreAt s (coreOf k)).quant 0x004 x c rfl
    all_goals rfl
  · rw [csrWrite_evsel h, csrRead_evsel h, csrRead_evsel h, coreAt_modCore]
    simp
  · rw [csrWrite_evcnt h, csrRead_evcnt h, csrRead_evcnt h, coreAt_modCore]
    simp
  · rw [h, csrMix, hrw, hw1]
    simp only [BitVec.ofNat_eq_ofNat, BitVec.and_zero, BitVec.or_zero]
    change _ = csrRead s k i &&& BitVec.allOnes 64 &&& BitVec.allOnes 64
    rw [BitVec.and_allOnes, BitVec.and_allOnes]

theorem ofNat_ne {i j : BitVec 12} {b : Nat} (hj : j ≠ i) (hi : b ≤ i.toNat ∧ i.toNat < b + 16) (h : b ≤ j.toNat ∧ j.toNat < b + 16) :
    Fin.ofNat 16 j.toNat ≠ Fin.ofNat 16 i.toNat := fun e => hj (BitVec.eq_of_toNat_eq (by
  have : j.toNat % 16 = i.toNat % 16 := congrArg Fin.val e
  omega))

/-- It leaves every other CSR as it is. -/
theorem csrRead_csrWrite_ne (s : State) (k : Fin 1024) {i j : BitVec 12} (hj : j ≠ i) (x c : Word) :
    csrRead (csrWrite s k i x c true) k j = csrRead s k j := by
  have ne : ¬ j.toNat = i.toNat := fun e => hj (BitVec.eq_of_toNat_eq e)
  obtain h | h | h | ⟨-, -, h⟩ := csr_cases i
  · simp only [writableCsrs, List.mem_cons, List.not_mem_nil, or_false] at h
    obtain rfl | rfl | rfl | rfl | rfl | rfl | rfl | rfl | rfl | rfl | rfl := h
    all_goals
      simp only [BitVec.reduceToNat] at ne
      simp only [csrWrite, BitVec.reduceToNat, Nat.reduceEqDiff, if_true, if_false, csrRead, if_neg ne, ctxAt_modArch,
        coreAt_modArch, ctxAt_modCore, coreAt_modCore]
      rfl
  · rw [csrWrite_evsel h]
    by_cases hr : 0x040 ≤ j.toNat ∧ j.toNat < 0x050
    · rw [csrRead_evsel hr, csrRead_evsel hr, coreAt_modCore]
      exact vector_set_ne _ _ _ _ (ofNat_ne hj h hr)
    · simp only [csrRead, if_neg hr, ctxAt_modCore, coreAt_modCore]
      rfl
  · rw [csrWrite_evcnt h]
    by_cases hr : 0x050 ≤ j.toNat ∧ j.toNat < 0x060
    · rw [csrRead_evcnt hr, csrRead_evcnt hr, coreAt_modCore]
      exact vector_set_ne _ _ _ _ (ofNat_ne hj h hr)
    · simp only [csrRead, if_neg hr, ctxAt_modCore, coreAt_modCore]
      rfl
  · rw [h]


/-- It leaves memory, the scalar registers, the results in flight and the other contexts as they are. -/
theorem csrWrite_keeps (s : State) (k : Fin 1024) (i : BitVec 12) (x c : Word) :
    (csrWrite s k i x c true).mem = s.mem ∧ (∀ j, j ≠ k → ctxAt (csrWrite s k i x c true) j = ctxAt s j) ∧
    (ctxAt (csrWrite s k i x c true) k).arch.s = (ctxAt s k).arch.s ∧ (ctxAt (csrWrite s k i x c true) k).flight = (ctxAt s k).flight := by
  obtain h | h | h | ⟨-, -, h⟩ := csr_cases i
  · simp only [writableCsrs, List.mem_cons, List.not_mem_nil, or_false] at h
    obtain rfl | rfl | rfl | rfl | rfl | rfl | rfl | rfl | rfl | rfl | rfl := h
    all_goals
      simp only [csrWrite, BitVec.reduceToNat, Nat.reduceEqDiff, if_true, if_false, ctxAt_modArch, ctxAt_modCore, and_true]
      exact ⟨rfl, fun j hj => by simp [ctxAt_modArch_ne _ _ _ _ hj]⟩
  · rw [csrWrite_evsel h]
    exact ⟨rfl, fun _ _ => rfl, rfl, rfl⟩
  · rw [csrWrite_evcnt h]
    exact ⟨rfl, fun _ _ => rfl, rfl, rfl⟩
  · rw [h]
    exact ⟨rfl, fun _ _ => rfl, rfl, rfl⟩

/-! ### The accesses -/

/-- An access that no fault stops answers what its effect makes of the machine at issue. -/
theorem runSlot_csr {s : State} (d : Fin 64) (i : BitVec 12) (write : Bool) (effect : State → State) (ha : Alone 1 s)
    (hm : handlerCsr i = true → (curArch s).hm = true) : runSlot (csrProbe d i write) effect s = .next (effect (issued s)) := by
  have allowed : (write && handlerCsr i && !(curArch s).hm) = false := by
    by_cases h : handlerCsr i = true
    · simp [hm h]
    · simp [h]
  have none : (csrProbe d i write s).faults = [] := by simp [csrProbe, allowed]
  exact runSlot_does ha (Nat.le_refl 1) (wrS_nodup d) (.inr rfl) none rfl rfl

/-- A handler's CSR faults with `PRIV` 1 when it is written outside handler mode (R371). -/
theorem runSlot_csr_priv {s : State} (d : Fin 64) {i : BitVec 12} (effect : State → State) (ha : Alone 1 s)
    (hi : handlerCsr i = true) (hm : (curArch s).hm = false) :
    runSlot (csrProbe d i true) effect s = taken (mkFault 0x06 1 (some s.slot) 0 0 0) s := by
  have found : (csrProbe d i true s).faults = [slotFault s 0x06 1 0 0 0] := by simp [csrProbe, hi, hm]
  exact runSlot_taken_one ha (Nat.le_refl 1) (wrS_nodup d) rfl found (by decide)

/-- Settles O11: by the CSRs that have writable fields, one by one; any other CSR ignores a write. -/
theorem csrAccess : Obligations.CsrAccess := by
  refine ⟨fun s d a i ha hm => ?_, fun s k i x c => ⟨csrRead_csrWrite s k i x c, fun j hj => csrRead_csrWrite_ne s k hj x c,
    csrWrite_keeps s k i x c⟩, by decide, by decide, by decide, by decide, by decide, by decide, by decide, by decide, by decide,
    by decide, by decide, fun i h1 h2 => ?_, fun i h1 h2 => ?_, fun i h => ?_⟩
  · intro old x reads sends
    have reg : rS (curArch (issued s)) a = x := by rw [curArch_issued]
    have read : csrRead (issued s) (issued s).cur i = old := csrRead_issued s i
    refine ⟨?_, ?_, ?_, ?_⟩
    · change execCsrr d i s = _
      rw [execCsrr, runSlot_csr d i false _ ha hm, read]
    · change execCsrw d a i s = _
      rw [execCsrw, runSlot_csr d i true _ ha hm, read, reg]
      rfl
    · change execCsrs d a i s = _
      rw [execCsrs, runSlot_csr d i true _ ha hm, read, reg]
      rfl
    · change execCsrc d a i s = _
      rw [execCsrc, runSlot_csr d i true _ ha hm, read, reg]
      rfl
  · have ne {n : Nat} (hn : n < 0x040) : i.toNat ≠ n := by omega
    have notCnt : ¬ (0x050 ≤ i.toNat ∧ i.toNat < 0x060) := by omega
    simp [rwFields, ne, h1, h2, notCnt]
  · have ne {n : Nat} (hn : n < 0x050) : i.toNat ≠ n := by omega
    simp [rwFields, ne, h1, h2]
  · obtain hm | hm | hm | ⟨hrw, hw, -⟩ := csr_cases i
    · have inside : ∀ n ∈ writableCsrs, ¬ (n.toNat ≤ 0x002 ∨ (0x005 ≤ n.toNat ∧ n.toNat ≤ 0x00F) ∨
          (0x017 ≤ n.toNat ∧ n.toNat < 0x020) ∨ (0x022 ≤ n.toNat ∧ n.toNat < 0x040) ∨ 0x060 ≤ n.toNat) := by
        simp [writableCsrs]
      exact absurd h (inside i hm)
    · omega
    · omega
    · exact ⟨hrw, hw⟩

end Sys2Proof.Machine
end

section
/-! PROOFS. The replay of a landing that faulted, and what only a handler may do (R138, R139, R371, R380). -/

namespace Sys2Proof.Machine

open Sys2Proof.Safety

/-! ### Withdrawing and recording a result -/

/-- An earlier replay is withdrawn unless it has performed or is gone. -/
theorem withdrawReplay_eq (h : Replay) (s : State) : withdrawReplay h s =
    if (findWork s (coreOf s.cur) h.seq).all fun x => x.performed then s else dropWork s (coreOf s.cur) h.seq := by
  unfold withdrawReplay
  cases findWork s (coreOf s.cur) h.seq <;> rfl

@[simp] theorem withdrawReplay_cur (h : Replay) (s : State) : (withdrawReplay h s).cur = s.cur := by
  rw [withdrawReplay_eq]
  split <;> rfl

@[simp] theorem withdrawReplay_mem (h : Replay) (s : State) : (withdrawReplay h s).mem = s.mem := by
  rw [withdrawReplay_eq]
  split <;> rfl

@[simp] theorem withdrawReplay_seq (h : Replay) (s : State) : (withdrawReplay h s).seq = s.seq := by
  rw [withdrawReplay_eq]
  split <;> rfl

@[simp] theorem curCtx_withdrawReplay (h : Replay) (s : State) : curCtx (withdrawReplay h s) = curCtx s := by
  rw [withdrawReplay_eq]
  split <;> rfl

theorem work_withdrawReplay (h : Replay) (s : State) : (curCore (withdrawReplay h s)).work =
    if (findWork s (coreOf s.cur) h.seq).all fun x => x.performed then (curCore s).work
    else (curCore s).work.filter fun x => decide (x.seq ≠ h.seq) := by
  rw [withdrawReplay_eq]
  split
  · rfl
  · exact (congrArg Core.work (coreAt_modCore ..) :)

/-- A context without the result that an earlier replay left to the first bundle after `ERET`. -/
def withoutReplay (c : Ctx) : Ctx := { c with flight := c.flight.filter fun f => f.due ≠ afterReturn }

/-- A scalar result that waits for the first bundle after `ERET`. -/
theorem curCtx_replayFlight (d : Fin 64) (x : Word) (ready : Bool) (src : Nat) (s : State) :
    curCtx (replayFlight (.sreg d x) ready src s) = { curCtx s with flight :=
      ((curCtx s).flight.filter fun f => decide (f.due ≠ afterReturn)) ++
        [⟨afterReturn, s.seq, true, .sreg d x, 0, 0, ready, src, none, false⟩] } := by
  change curCtx (pushFlight (modCtx s s.cur withoutReplay)
    ⟨afterReturn, s.seq, true, .sreg d x, 0, 0, ready, src, none, false⟩) = _
  have cleared : curCtx (modCtx s s.cur withoutReplay) = withoutReplay (curCtx s) := ctxAt_modCtx s s.cur withoutReplay
  rw [curCtx_pushFlight, cleared]
  rfl

@[simp] theorem replayFlight_cur (act : Landing) (ready : Bool) (src : Nat) (s : State) :
    (replayFlight act ready src s).cur = s.cur := by
  cases act <;> rfl

@[simp] theorem replayFlight_mem (act : Landing) (ready : Bool) (src : Nat) (s : State) :
    (replayFlight act ready src s).mem = s.mem := by
  cases act <;> rfl

@[simp] theorem replayFlight_seq (act : Landing) (ready : Bool) (src : Nat) (s : State) :
    (replayFlight act ready src s).seq = s.seq := by
  cases act <;> rfl

/-! ### The two instructions -/

section
variable {s : State} {p : Fin 16} {n : Bool}

/-- The handler of a landing fault of a load may supply its result and may replay it. -/
theorem rlandLegal_load {c : Ctx} {r : LoadReq} {dest : Landing} {cls : Fin 16} {q : Nat} (set : Bool)
    (hh : c.hidden = some ⟨.load r, dest, cls, q⟩) (hm : c.arch.hm = true) (h1 : 0x18 ≤ c.arch.tcause.toNat % 2 ^ 16)
    (h2 : c.arch.tcause.toNat % 2 ^ 16 ≤ 0x1C) : rlandLegal c set = true := by
  have fault : decide (0x18 ≤ c.arch.tcause.toNat % 2 ^ 16 ∧ c.arch.tcause.toNat % 2 ^ 16 ≤ 0x1C) = true := decide_eq_true ⟨h1, h2⟩
  simp only [rlandLegal, hh, hm, fault, Bool.true_or, Bool.true_and]

/-- A replay needs handler mode and a result that the fault left behind. -/
theorem rlandLegal_none {c : Ctx} (set : Bool) (h : c.arch.hm = false ∨ c.hidden = none) : rlandLegal c set = false := by
  obtain h | h := h <;> simp [rlandLegal, h]

theorem rlandProbe_results (set : Bool) : (rlandProbe set p n s).results ≤ 1 := by
  simp only [rlandProbe, predProbe, regProbe]
  split <;> [skip; exact Nat.zero_le 1]
  split
  · exact Nat.zero_le 1
  · exact Nat.le_refl 1

/-- A replay that may issue answers what its effect makes of the machine at issue. -/
theorem runSlot_rland {set : Bool} (effect : State → State) (ha : Alone 1 s) (hg : guarded (curArch s) p n = true)
    (hl : rlandLegal (curCtx s) set = true) :
    runSlot (rlandProbe set p n) (predEffect p n effect) s = .next (effect (issued s)) :=
  runSlot_does ha (rlandProbe_results set) .nil (.inl rfl) (by simp [rlandProbe, hl]) rfl
    (by rw [predEffect_on p n effect _ (by simpa using hg)])

/-- One with nothing to supply faults with `PRIV` 3 (R371). -/
theorem runSlot_rland_priv {set : Bool} (effect : State → State) (ha : Alone 1 s) (hg : guarded (curArch s) p n = true)
    (hl : rlandLegal (curCtx s) set = false) :
    runSlot (rlandProbe set p n) effect s = taken (mkFault 0x06 3 (some s.slot) 0 0 0) s :=
  runSlot_taken_one ha (rlandProbe_results set) .nil rfl (by simp [rlandProbe, hl, hg, slotFault]) (by decide)

end

section
variable {s : State} {p : Fin 16} {n : Bool} {d : Fin 64} {x0 : Word} {r : LoadReq} {cls : Fin 16} {q : Nat}

/-- `RLAND.SET` for a load: an earlier replay is withdrawn, and the value waits for the return. -/
theorem exec_rlandSet_load (a : Fin 64) (ha : Alone 1 s) (hg : guarded (curArch s) p n = true)
    (hl : rlandLegal (curCtx s) true = true) (hh : (curCtx s).hidden = some ⟨.load r, .sreg d x0, cls, q⟩) :
    exec (.rlandSet a p n) s = .next (replayFlight
      (.sreg d (extendTo r.size r.signed ((rS (curArch s) a).toNat % 2 ^ (8 * r.size)))) true 0
      (withdrawReplay ⟨.load r, .sreg d x0, cls, q⟩ (issued s))) := by
  have hidden : (curCtx (issued s)).hidden = some ⟨.load r, .sreg d x0, cls, q⟩ := (congrArg Ctx.hidden (curCtx_issued s)).trans hh
  change execRlandSet a p n s = _
  rw [execRlandSet, runSlot_rland _ ha hg hl]
  simp only [hidden, curArch_issued]
  rfl

/-- The access of a load that the handler sends once more, with the operands that the trap registers hold (R139). -/
def replayedLoad (s : State) (r : LoadReq) (cls : Fin 16) : Work :=
  let kind : WorkKind := .load { r with addr := (curArch s).tval0 }
  let v := (curArch s).tval2.toNat
  { newWork s (v / 2 ^ 32) 0 cls none 0 kind (replayFoot kind) (Fin.ofNat 64 (v / 2 ^ 26)) (BitVec.ofNat 16 v) with
    bun := BitVec.ofNat 64 (v / 2 ^ 44), slot := Fin.ofNat 8 (curArch s).tslot.toNat, handler := false }

/-- A context whose replay has gone out as the access numbered `q`. -/
def resent (h : Replay) (q : Nat) (c : Ctx) : Ctx := { c with
  amoq := c.amoq.map fun x => if x.seq = h.seq ∧ h.dest = .nothing then { x with seq := q, value := none } else x,
  hidden := some { h with seq := q } }

theorem curCtx_resend {u : State} (h : Replay) (q : Nat) (w : Work) :
    curCtx (pushWork (modCtx u u.cur (resent h q)) w) = resent h q (curCtx u) := ctxAt_modCtx u u.cur _

theorem work_resend {u : State} (h : Replay) (q : Nat) {w : Work} (hw : w.ctx = u.cur) :
    (curCore (pushWork (modCtx u u.cur (resent h q)) w)).work = (curCore u).work ++ [w] := by
  rw [pushWork, hw]
  exact (congrArg Core.work (coreAt_modCore ..) :)

/-- `RLAND.REDO` for a load: an earlier replay is withdrawn, the result waits for the return, and the access goes out. -/
theorem exec_rlandRedo_load (ha : Alone 1 s) (hg : guarded (curArch s) p n = true) (hl : rlandLegal (curCtx s) false = true)
    (hh : (curCtx s).hidden = some ⟨.load r, .sreg d x0, cls, q⟩) :
    exec (.rlandRedo p n) s = .next (pushWork (modCtx
      (replayFlight (.sreg d x0) false s.seq (withdrawReplay ⟨.load r, .sreg d x0, cls, q⟩ (issued s))) s.cur
      (resent ⟨.load r, .sreg d x0, cls, q⟩ s.seq)) (replayedLoad (issued s) r cls)) := by
  have hidden : (curCtx (issued s)).hidden = some ⟨.load r, .sreg d x0, cls, q⟩ := (congrArg Ctx.hidden (curCtx_issued s)).trans hh
  change execRlandRedo p n s = _
  rw [execRlandRedo, runSlot_rland _ ha hg hl]
  simp only [hidden, replayFlight_cur, replayFlight_seq, withdrawReplay_cur, withdrawReplay_seq]
  rfl

end

/-- Settles O12: the two replays through their effects, and each PRIV fault as the one fault that the check finds. -/
theorem handlerInstructions : Obligations.HandlerInstructions := by
  unfold Obligations.HandlerInstructions
  refine ⟨fun s a d x0 p n r cls q ha hg hm hh h1 h2 => ?_, fun s d a i p n ha => ⟨fun hm h1 h2 => ?_,
    fun hm hx hg => exec_eret_priv ha hg hx hm, fun hg hl => ?_⟩⟩
  · have legal (set : Bool) : rlandLegal (curCtx s) set = true := rlandLegal_load set hh hm h1 h2
    have flight : (curCtx (issued s)).flight = (curCtx s).flight := (congrArg Ctx.flight (curCtx_issued s) :)
    have left (x : Word) (ready : Bool) (src : Nat) :
        (curCtx (replayFlight (.sreg d x) ready src (withdrawReplay ⟨.load r, .sreg d x0, cls, q⟩ (issued s)))).flight =
          ((curCtx s).flight.filter fun f => decide (f.due ≠ afterReturn)) ++
            [⟨afterReturn, s.seq, true, .sreg d x, 0, 0, ready, src, none, false⟩] := by
      rw [curCtx_replayFlight, curCtx_withdrawReplay, withdrawReplay_seq, flight]
      rfl
    refine ⟨?_, ?_, fun u hu => ?_⟩
    · exact ⟨_, exec_rlandSet_load a ha hg (legal true) hh, by simp, left _ _ _⟩
    · have redo := exec_rlandRedo_load ha hg (legal false) hh
      have sent := work_withdrawReplay ⟨.load r, .sreg d x0, cls, q⟩ (issued s)
      have left := left x0 false s.seq
      have core : curCore (replayFlight (.sreg d x0) false s.seq (withdrawReplay ⟨.load r, .sreg d x0, cls, q⟩ (issued s))) =
          curCore (withdrawReplay ⟨.load r, .sreg d x0, cls, q⟩ (issued s)) := rfl
      have cur : (replayFlight (.sreg d x0) false s.seq (withdrawReplay ⟨.load r, .sreg d x0, cls, q⟩ (issued s))).cur = s.cur := by simp
      have mem : (replayFlight (.sreg d x0) false s.seq (withdrawReplay ⟨.load r, .sreg d x0, cls, q⟩ (issued s))).mem = s.mem := by simp
      have reg : (curArch (issued s)).tval0 = (curArch s).tval0 := congrArg Arch.tval0 (curArch_issued s)
      generalize replayFlight (.sreg d x0) false s.seq (withdrawReplay ⟨.load r, .sreg d x0, cls, q⟩ (issued s)) = u at *
      rw [← cur] at redo
      refine ⟨_, replayedLoad (issued s) r cls, redo, mem, ?_, ?_, ?_, ?_, rfl, rfl, rfl, rfl⟩
      · exact (congrArg Ctx.flight (curCtx_resend ..) :).trans left
      · rw [work_resend _ _ cur.symm, core, sent]
        rfl
      · exact (congrArg Ctx.hidden (curCtx_resend ..) :)
      · exact congrArg (fun x => WorkKind.load { r with addr := x }) reg
    · have returns : (ctxAt (trapReturn s.cur u) s.cur).flight = (returned (ctxAt u s.cur)).flight :=
        (congrArg Ctx.flight (ctxAt_trapReturn ..) :)
      rw [returns]
      exact congrArg (List.map _) hu
  · have handler : handlerCsr i = true := by simp [handlerCsr, h1, h2]
    exact ⟨runSlot_csr_priv d _ ha handler hm, runSlot_csr_priv d _ ha handler hm, runSlot_csr_priv d _ ha handler hm⟩
  · exact ⟨runSlot_rland_priv _ ha hg (rlandLegal_none true hl), runSlot_rland_priv _ ha hg (rlandLegal_none false hl)⟩

end Sys2Proof.Machine
end

section
/-! PROOFS. The scratchpad accesses of the slots: what a load brings, which bytes a store changes, and what each faults with or
waits for (R123, R124, R211, R221, R281, R393). -/

namespace Sys2Proof.Machine

open Sys2Proof.Safety

/-! ### Values -/

/-- The extension of a load copies the sign bit of a value of `n` bytes. -/
theorem extendTo_signed {n m : Nat} (hn : 8 * n = m + 1) (hm : m < 64) (x : Nat) :
    extendTo n true x = (BitVec.ofNat (m + 1) x).signExtend 64 := by
  have low : (BitVec.ofNat 64 x).extractLsb' 0 (m + 1) = BitVec.ofNat (m + 1) x := BitVec.eq_of_toNat_eq (by
    rw [BitVec.extractLsb'_toNat, Nat.shiftRight_zero, BitVec.toNat_ofNat, BitVec.toNat_ofNat]
    exact Nat.mod_mod_of_dvd x (Nat.pow_dvd_pow 2 hm))
  have shift : 64 - 8 * n = 63 - m := by omega
  rw [extendTo, if_pos rfl, shift, ← low]
  exact signFrom_zero _ m hm

theorem extendTo_unsigned {n x : Nat} (h : x < 256 ^ n) : extendTo n false x = (BitVec.ofNat (8 * n) x).setWidth 64 := by
  rw [show 256 = 2 ^ 8 from rfl, ← Nat.pow_mul] at h
  apply BitVec.eq_of_toNat_eq
  simp [extendTo, Nat.mod_eq_of_lt h]

/-- Byte `j` of a number. -/
theorem getD_leBytes {n j : Nat} (h : j < n) (x : Nat) : (leBytes n x).getD j 0 = BitVec.ofNat 8 (x / 256 ^ j) := by
  induction n generalizing x j with
  | zero => omega
  | succ n ih =>
    cases j with
    | zero => simp [leBytes]
    | succ j =>
      rw [leBytes, List.getD_cons_succ, ih (by omega), Nat.div_div_eq_div_mul, Nat.pow_succ']

theorem getD_leBytes_toNat {n j : Nat} (h : j < n) (x : Word) : (leBytes n x.toNat).getD j 0 = x.extractLsb' (8 * j) 8 := by
  apply BitVec.eq_of_toNat_eq
  rw [getD_leBytes h, BitVec.extractLsb'_toNat, BitVec.toNat_ofNat, Nat.shiftRight_eq_div_pow, Nat.pow_mul]

/-! ### What a write leaves -/

/-- A write byte by byte: those of a word in error that it covers in part stay (R393). -/
theorem memGet_putBytes_in (s : State) (a : Nat) (bs : List Byte) {j : Nat} (h : j < bs.length) :
    memGet (putBytes s a bs).mem (a + j) =
      if ∃ b ∈ badParts s a bs.length, b ≤ a + j ∧ a + j < b + codeWord b then memGet s.mem (a + j) else bs.getD j 0 := by
  have inside : a ≤ a + j ∧ a + j < a + bs.length := by omega
  by_cases hp : (badParts s a bs.length).isEmpty = true
  · have none : badParts s a bs.length = [] := List.isEmpty_iff.1 hp
    have clean : badPart s a bs.length = false := by simp [badPart, none]
    rw [putBytes_mem s a bs clean, memGet_write, if_pos inside, none, Nat.add_sub_cancel_left]
    simp
  · simp only [putBytes, hp, memGet_write]
    simp [h]

/-! ### The checks of an access -/

/-- `XORDER` comes before `CLAIM` in the order of R375. -/
theorem firstFault_xorder_claim {f g : FaultRec} (hf : f.code.toNat = 0x11) (hg : g.code.toNat = 0x10) :
    firstFault [f, g] = some g := by simp [firstFault, codeOrder, List.findSome?, List.find?, hf, hg]

section
variable {s : State} {x : Word} {n al : Nat}

theorem waitsMet_spad (s : State) (x : Word) (n : Nat) :
    waitsMet s s.cur [] [] (spadWaits s x n) = earlierDone s s.cur (spadKey (coreOf s.cur) x.toNat) n := Bool.and_true _

theorem spadOk_iff : spadOk x n al = true ↔ x.toNat + n ≤ 0x60000 ∧ x.toNat % al = 0 := by
  rw [spadOk, Bool.and_eq_true, decide_eq_true_iff, beq_iff_eq, spadSize]

theorem spadFaults_load (h : spadOk x n al = true) : spadFaults s x n al false = [] := by simp [spadFaults, h]

theorem spadFaults_store (h : spadOk x n al = true) (hc : meets (claimedTiles (curCore s)) x.toNat n = false)
    (hp : pendingSource s x.toNat n = none) : spadFaults s x n al true = [] := by simp [spadFaults, h, hc, hp]

theorem spadFaults_outside (store : Bool) (h : spadOk x n al = false) :
    spadFaults s x n al store = [mkFault 0x08 s.slot.val (some s.slot) x 0 0] := by simp [spadFaults, h, slotSub, slotFault]

theorem spadFaults_claimed (h : spadOk x n al = true) (hc : meets (claimedTiles (curCore s)) x.toNat n = true)
    (hp : pendingSource s x.toNat n = none) : spadFaults s x n al true = [mkFault 0x11 1 (some s.slot) x 0 0] := by
  simp [spadFaults, h, hc, hp, slotFault]

/-- Of the two faults of a store into a claimed tile that is also a source, `XORDER` comes first (R375). -/
theorem spadFaults_source (h : spadOk x n al = true) {c : Nat} (hp : pendingSource s x.toNat n = some c) :
    firstFault (spadFaults s x n al true) = some (mkFault 0x10 2 (some s.slot) (BitVec.ofNat 64 c) 0 0) ∧
    ∀ f ∈ spadFaults s x n al true, f.code.toNat ≠ 0x03 := by
  have order : (mkFault 0x10 2 (some s.slot) (BitVec.ofNat 64 c) 0 0).code.toNat = 0x10 := toNat_mkFault_code (by decide) ..
  have claim : (mkFault 0x11 1 (some s.slot) x 0 0).code.toNat = 0x11 := toNat_mkFault_code (by decide) ..
  cases hc : meets (claimedTiles (curCore s)) x.toNat n with
  | false =>
    have one : spadFaults s x n al true = [mkFault 0x10 2 (some s.slot) (BitVec.ofNat 64 c) 0 0] := by
      simp [spadFaults, h, hc, hp, slotFault]
    rw [one]
    exact ⟨firstFault_one (order.symm ▸ by decide), fun f hf => by rw [List.mem_singleton.1 hf, order]; decide⟩
  | true =>
    have two : spadFaults s x n al true =
        [mkFault 0x11 1 (some s.slot) x 0 0, mkFault 0x10 2 (some s.slot) (BitVec.ofNat 64 c) 0 0] := by
      simp [spadFaults, h, hc, hp, slotFault]
    rw [two]
    refine ⟨firstFault_xorder_claim claim order, fun f hf => ?_⟩
    obtain rfl | hf := List.mem_cons.1 hf
    · rw [claim]; decide
    · rw [List.mem_singleton.1 hf, order]; decide

end

section
variable {s : State} {probe : State → Probe} {effect : State → State} {n : Nat}

/-- An operation alone that no fault stops, and that what it asks for holds, waits (R31). -/
theorem runSlot_holds {m : Nat} (ha : Alone m s) (hn : (probe s).results ≤ m) (hw : (probe s).writes.Nodup)
    (hu : (probe s).unread = []) (hf : (probe s).faults = []) (hm : waitsMet s s.cur [] [] (probe s).waits = false) :
    runSlot probe effect s = .next (goWaiting (probe s).waits s) :=
  runSlot_wait probe effect s ha.1 (bundleFault_one s _ hf (.inl hu) hw (by have := ha.2; omega)) hm

end

@[simp] theorem memAddr_issued (s : State) (a : Fin 64) (o : BitVec 32) (n : Nat) : memAddr (issued s) a o n = memAddr s a o n := by
  rw [memAddr, curArch_issued, memAddr]

/-! ### Loads -/

section
variable {s : State} {d a : Fin 64} {o : BitVec 32} {c : Fin 16} {opc n : Nat} {signed : Bool}

/-- A load whose bytes are settled and sound lands their value (R123). -/
theorem loadForm_lands (ha : Alone 1 s) (hk : spadOk (memAddr s a o n) n n = true) (hu : Untouched s (memAddr s a o n).toNat n)
    (hb : badAt s (spadKey (coreOf s.cur) (memAddr s a o n).toNat) n = false) : loadForm opc n signed d a o c s =
      .next (land 3 (.sreg d (extendTo n signed (memVal s.mem (spadKey (coreOf s.cur) (memAddr s a o n).toNat) n))) 0 (issued s)) := by
  unfold loadForm
  refine runSlot_does ha (Nat.le_refl 1) (wrS_nodup d) (.inl rfl) (spadFaults_load hk) ((waitsMet_spad ..).trans hu) ?_
  have clean : badAt (issued s) (spadKey (coreOf s.cur) (memAddr s a o n).toNat) n = false := hb
  simp [clean]

/-- One whose bytes lie in a word in error lands SPDATA (R393). -/
theorem loadForm_spdata (ha : Alone 1 s) (hk : spadOk (memAddr s a o n) n n = true) (hu : Untouched s (memAddr s a o n).toNat n)
    (hb : badAt s (spadKey (coreOf s.cur) (memAddr s a o n).toNat) n = true) : loadForm opc n signed d a o c s =
      .next (landFault 3 (.sreg d 0) (spData (issued s) opc c d 3 0 (memAddr s a o n).toNat
        (.spload [some (memAddr s a o n).toNat] n signed) (.sreg d 0)) (issued s)) := by
  unfold loadForm
  refine runSlot_does ha (Nat.le_refl 1) (wrS_nodup d) (.inl rfl) (spadFaults_load hk) ((waitsMet_spad ..).trans hu) ?_
  have error : badAt (issued s) (spadKey (coreOf s.cur) (memAddr s a o n).toNat) n = true := hb
  simp [error]

theorem loadForm_waits (ha : Alone 1 s) (hk : spadOk (memAddr s a o n) n n = true) (hu : ¬ Untouched s (memAddr s a o n).toNat n) :
    loadForm opc n signed d a o c s = .next (goWaiting [.earlier (spadKey (coreOf s.cur) (memAddr s a o n).toNat) n] s) := by
  unfold loadForm
  exact runSlot_holds ha (Nat.le_refl 1) (wrS_nodup d) rfl (spadFaults_load hk) ((waitsMet_spad ..).trans (Bool.not_eq_true _ ▸ hu))

theorem loadForm_outside (ha : Alone 1 s) (hk : spadOk (memAddr s a o n) n n = false) : loadForm opc n signed d a o c s =
    taken (mkFault 0x08 s.slot.val (some s.slot) (memAddr s a o n) 0 0) s := by
  unfold loadForm
  exact runSlot_taken_one ha (Nat.le_refl 1) (wrS_nodup d) rfl (spadFaults_outside false hk) (by decide)

end

/-! ### Stores -/

/-- Noting a fault for later leaves the registers and the results in flight. -/
theorem ctxAt_defer (s : State) (k j : Fin 1024) (q : Nat) (h : Bool) (f : FaultRec) :
    (ctxAt (defer s k q h f) j).arch = (ctxAt s j).arch ∧ (ctxAt (defer s k q h f) j).flight = (ctxAt s j).flight := by
  by_cases e : j = k
  · subst e
    rw [defer, ctxAt_modCtx]
    split <;> exact ⟨rfl, rfl⟩
  · rw [defer, ctxAt_modCtx_ne _ _ _ _ e]
    exact ⟨rfl, rfl⟩

theorem ctxAt_issued_keeps (s : State) (k : Fin 1024) :
    (ctxAt (issued s) k).arch = (ctxAt s k).arch ∧ (ctxAt (issued s) k).flight = (ctxAt s k).flight := by
  by_cases e : k = s.cur
  · subst e
    exact ⟨curArch_issued s, (congrArg Ctx.flight (curCtx_issued s) :)⟩
  · rw [ctxAt_issued_ne e]
    exact ⟨rfl, rfl⟩

/-- The report of a store into part of a word in error leaves memory, cores and slices. -/
theorem reportPart_keeps (opc : Nat) (c : Fin 16) (off n : Nat) (s : State) :
    (reportPart opc c off n s).mem = s.mem ∧ (reportPart opc c off n s).bad = s.bad ∧ (reportPart opc c off n s).cores = s.cores ∧
    (reportPart opc c off n s).slices = s.slices ∧ (reportPart opc c off n s).cur = s.cur := by
  unfold reportPart
  split <;> exact ⟨rfl, rfl, rfl, rfl, rfl⟩

theorem ctxAt_reportPart (opc : Nat) (c : Fin 16) (off n : Nat) (s : State) (k : Fin 1024) :
    (ctxAt (reportPart opc c off n s) k).arch = (ctxAt s k).arch ∧ (ctxAt (reportPart opc c off n s) k).flight = (ctxAt s k).flight := by
  unfold reportPart
  split
  · exact ctxAt_defer ..
  · exact ⟨rfl, rfl⟩

section
variable {s : State} {d a : Fin 64} {o : BitVec 32} {c : Fin 16} {opc n : Nat}

/-- The machine after a store of `n` bytes of s[d] at offset `off`. -/
def stored (opc : Nat) (c : Fin 16) (off n : Nat) (d : Fin 64) (s : State) : State :=
  slotStore (reportPart opc c off n (issued s)) off (leBytes n (rS (curArch s) d).toNat)

/-- A store that nothing stops or holds writes its bytes at issue (R123). -/
theorem storeForm_stores (ha : Alone 0 s) (hk : spadOk (memAddr s a o n) n n = true) (hs : Storable s (memAddr s a o n).toNat n) :
    storeForm opc n d a o c s = .next (stored opc c (memAddr s a o n).toNat n d s) := by
  obtain ⟨hu, hc, hp⟩ := hs
  unfold storeForm
  refine runSlot_does ha (Nat.le_refl 0) .nil (.inl rfl) (spadFaults_store hk hc hp) ((waitsMet_spad ..).trans hu) ?_
  simp only [memAddr_issued, curArch_issued]
  rfl

theorem storeForm_waits (ha : Alone 0 s) (hk : spadOk (memAddr s a o n) n n = true) (hu : ¬ Untouched s (memAddr s a o n).toNat n)
    (hc : meets (claimedTiles (curCore s)) (memAddr s a o n).toNat n = false) (hp : pendingSource s (memAddr s a o n).toNat n = none) :
    storeForm opc n d a o c s = .next (goWaiting [.earlier (spadKey (coreOf s.cur) (memAddr s a o n).toNat) n] s) := by
  unfold storeForm
  exact runSlot_holds ha (Nat.le_refl 0) .nil rfl (spadFaults_store hk hc hp) ((waitsMet_spad ..).trans (Bool.not_eq_true _ ▸ hu))

theorem storeForm_outside {m : Nat} (ha : Alone m s) (hk : spadOk (memAddr s a o n) n n = false) : storeForm opc n d a o c s =
    taken (mkFault 0x08 s.slot.val (some s.slot) (memAddr s a o n) 0 0) s := by
  unfold storeForm
  exact runSlot_taken_one ha (Nat.zero_le m) .nil rfl (spadFaults_outside true hk) (by decide)

theorem storeForm_source {m : Nat} (ha : Alone m s) (hk : spadOk (memAddr s a o n) n n = true) {x : Nat}
    (hp : pendingSource s (memAddr s a o n).toNat n = some x) : storeForm opc n d a o c s =
    taken (mkFault 0x10 2 (some s.slot) (BitVec.ofNat 64 x) 0 0) s := by
  obtain ⟨first, delay⟩ := spadFaults_source hk hp
  unfold storeForm
  exact runSlot_taken ha (Nat.zero_le m) List.nodup_nil rfl delay first

theorem storeForm_claimed {m : Nat} (ha : Alone m s) (hk : spadOk (memAddr s a o n) n n = true)
    (hp : pendingSource s (memAddr s a o n).toNat n = none) (hc : meets (claimedTiles (curCore s)) (memAddr s a o n).toNat n = true) :
    storeForm opc n d a o c s = taken (mkFault 0x11 1 (some s.slot) (memAddr s a o n) 0 0) s := by
  unfold storeForm
  exact runSlot_taken_one ha (Nat.zero_le m) .nil rfl (spadFaults_claimed hk hc hp) (by decide)

theorem vld_outside (ha : Alone 1 s) (hk : spadOk (memAddr s a o 256) 256 64 = false) : exec (.vld d a o c) s =
    taken (mkFault 0x08 s.slot.val (some s.slot) (memAddr s a o 256) 0 0) s := by
  change execVld d a o c s = _
  unfold execVld
  exact runSlot_taken_one ha (Nat.le_refl 1) (by simp [regProbe, wrV]) rfl (spadFaults_outside false hk) (by decide)

theorem vst_outside {m : Nat} (ha : Alone m s) (hk : spadOk (memAddr s a o 256) 256 64 = false) : exec (.vst d a o c) s =
    taken (mkFault 0x08 s.slot.val (some s.slot) (memAddr s a o 256) 0 0) s := by
  change execVst d a o c s = _
  unfold execVst
  exact runSlot_taken_one ha (Nat.zero_le m) .nil rfl (spadFaults_outside true hk) (by decide)

theorem vst_source {m : Nat} (ha : Alone m s) (hk : spadOk (memAddr s a o 256) 256 64 = true) {x : Nat}
    (hp : pendingSource s (memAddr s a o 256).toNat 256 = some x) : exec (.vst d a o c) s =
    taken (mkFault 0x10 2 (some s.slot) (BitVec.ofNat 64 x) 0 0) s := by
  obtain ⟨first, delay⟩ := spadFaults_source hk hp
  change execVst d a o c s = _
  unfold execVst
  exact runSlot_taken ha (Nat.zero_le m) List.nodup_nil rfl delay first

theorem vst_claimed {m : Nat} (ha : Alone m s) (hk : spadOk (memAddr s a o 256) 256 64 = true)
    (hp : pendingSource s (memAddr s a o 256).toNat 256 = none)
    (hc : meets (claimedTiles (curCore s)) (memAddr s a o 256).toNat 256 = true) :
    exec (.vst d a o c) s = taken (mkFault 0x11 1 (some s.slot) (memAddr s a o 256) 0 0) s := by
  change execVst d a o c s = _
  unfold execVst
  exact runSlot_taken_one ha (Nat.zero_le m) .nil rfl (spadFaults_claimed hk hc hp) (by decide)

end

theorem leVal_lt (bs : List Byte) : leVal bs < 256 ^ bs.length := by
  induction bs with
  | nil => simp [leVal]
  | cons b r ih =>
    have := b.isLt
    rw [leVal, List.length_cons, Nat.pow_succ]
    omega

theorem memVal_lt (m : List Host.Cell) (a n : Nat) : memVal m a n < 256 ^ n := by
  have := leVal_lt (memRead m a n)
  rwa [memRead_length] at this

/-- Settles O16: the seven loads as one form with their values, and the accesses that fault by the check that they share. -/
theorem scratchpadLoads : Obligations.ScratchpadLoads := by
  unfold Obligations.ScratchpadLoads
  refine ⟨fun s d a o c ha => ?_, fun s d a o c ha => ?_⟩
  · intro loads
    have form {n opc : Nat} {signed : Bool} {v : Nat → Word} {i : Instr} (hi : exec i s = loadForm opc n signed d a o c s)
        (hv : ∀ x < 256 ^ n, extendTo n signed x = v x) : loads n i v := by
      have addr : rS (curArch s) a + BitVec.ofInt 64 (o.toInt * n) = memAddr s a o n := rfl
      simp only [loads, addr]
      intro hend hal
      have ok : spadOk (memAddr s a o n) n n = true := spadOk_iff.2 ⟨hend, hal⟩
      rw [hi]
      refine ⟨fun hu hb => ?_, loadForm_waits ha ok, fun hu hb => ⟨_, loadForm_spdata ha ok hu hb, rfl, rfl, ?_⟩⟩
      · rw [loadForm_lands ha ok hu hb, hv _ (memVal_lt ..)]
      · exact BitVec.ofNat_toNat 64 (memAddr s a o n)
    have ldB := form (i := .ldB d a o c) (opc := 0x60) rfl fun x _ => extendTo_signed (m := 7) rfl (by decide) x
    have ldH := form (i := .ldH d a o c) (opc := 0x61) rfl fun x _ => extendTo_signed (m := 15) rfl (by decide) x
    have ldW := form (i := .ldW d a o c) (opc := 0x62) rfl fun x _ => extendTo_signed (m := 31) rfl (by decide) x
    have ldD := form (i := .ldD d a o c) (opc := 0x63) rfl fun x _ =>
      (extendTo_signed (m := 63) rfl (by decide) x).trans (BitVec.signExtend_eq _)
    have ldBz := form (i := .ldBz d a o c) (opc := 0x64) rfl fun x hx => extendTo_unsigned hx
    have ldHz := form (i := .ldHz d a o c) (opc := 0x65) rfl fun x hx => extendTo_unsigned hx
    have ldWz := form (i := .ldWz d a o c) (opc := 0x66) rfl fun x hx => extendTo_unsigned hx
    exact ⟨ldB, ldH, ldW, ldD, ldBz, ldHz, ldWz⟩
  · intro at_ outside busy
    have bad {n m : Nat} (h : 0x60000 < (at_ n).toNat + n ∨ (at_ n).toNat % m ≠ 0) : spadOk (at_ n) n m = false := by
      rw [Bool.eq_false_iff, Ne, spadOk_iff]
      omega
    have load {n opc : Nat} {signed : Bool} {i : Instr} (hi : exec i s = loadForm opc n signed d a o c s) : outside n n i :=
      fun h => hi.trans (loadForm_outside ha (bad h))
    have store {n opc : Nat} {i : Instr} (hi : exec i s = storeForm opc n d a o c s) : outside n n i :=
      fun h => hi.trans (storeForm_outside ha (bad h))
    have stopped {n opc : Nat} {i : Instr} (hi : exec i s = storeForm opc n d a o c s) : busy n n i := fun h1 h2 =>
      ⟨fun x hx => hi.trans (storeForm_source ha (spadOk_iff.2 ⟨h1, h2⟩) hx),
        fun hp hc => hi.trans (storeForm_claimed ha (spadOk_iff.2 ⟨h1, h2⟩) hp hc)⟩
    exact ⟨load (opc := 0x61) rfl, load (opc := 0x65) rfl, load (opc := 0x60) rfl, load (opc := 0x64) rfl, load (opc := 0x62) rfl,
      load (opc := 0x66) rfl, load (opc := 0x63) rfl, store (opc := 0x67) rfl, store (opc := 0x68) rfl, store (opc := 0x69) rfl,
      store (opc := 0x6A) rfl, fun h => vld_outside ha (bad h), fun h => vst_outside ha (bad h), stopped (opc := 0x67) rfl,
      stopped (opc := 0x68) rfl, stopped (opc := 0x69) rfl, stopped (opc := 0x6A) rfl, fun h1 h2 =>
      ⟨fun x hx => vst_source ha (spadOk_iff.2 ⟨h1, h2⟩) hx, fun hp hc => vst_claimed ha (spadOk_iff.2 ⟨h1, h2⟩) hp hc⟩⟩

/-- Settles O17: a store is one write of the bytes of s[d], which leaves the rest of the machine. -/
theorem scratchpadStores : Obligations.ScratchpadStores := by
  unfold Obligations.ScratchpadStores
  intro s d a o c ha stores
  have form {n opc : Nat} {i : Instr} (hi : exec i s = storeForm opc n d a o c s) : stores n i := by
    have addr : rS (curArch s) a + BitVec.ofInt 64 (o.toInt * n) = memAddr s a o n := rfl
    simp only [stores, addr]
    intro hend hal
    have ok : spadOk (memAddr s a o n) n n = true := spadOk_iff.2 ⟨hend, hal⟩
    rw [hi]
    refine ⟨fun hs => ⟨_, storeForm_stores ha ok hs, ?_⟩, storeForm_waits ha ok⟩
    obtain ⟨mem, bad, cores, slices, cur⟩ := reportPart_keeps opc c (memAddr s a o n).toNat n (issued s)
    have length : (leBytes n (rS (curArch s) d).toNat).length = n := leBytes_length ..
    have write : stored opc c (memAddr s a o n).toNat n d s = putBytes (reportPart opc c (memAddr s a o n).toNat n (issued s))
        (spadKey (coreOf s.cur) (memAddr s a o n).toNat) (leBytes n (rS (curArch s) d).toNat) := by rw [stored, slotStore, cur]; rfl
    refine ⟨fun j hj => ?_, fun b hb => ?_, fun k => ?_, fun k => ?_, ?_, ?_⟩
    · change memGet (stored ..).mem _ = _
      rw [write, memGet_putBytes_in _ _ _ (length.symm ▸ hj), length, getD_leBytes_toNat hj, badParts, bad, mem]
      rfl
    · change memGet (stored ..).mem _ = _
      rw [write, memGet_putBytes_out _ _ _ _ (by rw [length]; exact hb), mem]
      rfl
    · exact (ctxAt_reportPart ..).1.trans (ctxAt_issued_keeps s k).1
    · exact (ctxAt_reportPart ..).2.trans (ctxAt_issued_keeps s k).2
    · exact cores
    · exact slices
  exact ⟨form (opc := 0x67) rfl, form (opc := 0x68) rfl, form (opc := 0x69) rfl, form (opc := 0x6A) rfl⟩

end Sys2Proof.Machine
end

section
/-! PROOFS. What goes out at issue with its result to come: landing loads, `VSTG`, L1 range operations and `SPART` (R125, R126,
R130, R160, R161). -/

namespace Sys2Proof.Machine

open Sys2Proof.Safety

/-! ### Work that goes out -/

section
variable (u : State) (lat : Nat) (act : Landing) (q : Nat) {w : Work}

theorem work_pushWork (h : w.ctx = u.cur) : (curCore (pushWork u w)).work = (curCore u).work ++ [w] := by
  rw [pushWork, h]
  exact (congrArg Core.work (coreAt_modCore ..) :)

theorem work_landLate_pushWork (h : w.ctx = u.cur) : (curCore (landLate lat act q (pushWork u w))).work = (curCore u).work ++ [w] :=
  work_pushWork u h

theorem curCtx_landLate_pushWork : curCtx (landLate lat act q (pushWork u w)) = { curCtx u with flight := (curCtx u).flight ++
    [⟨(curArch u).sched.toNat + lat, u.seq, true, act, 0, 0, false, q, none, (curArch u).hm⟩] } :=
  curCtx_pushFlight (pushWork u w) _

theorem curArch_landLate_pushWork : curArch (landLate lat act q (pushWork u w)) = curArch u :=
  (congrArg Ctx.arch (curCtx_landLate_pushWork u lat act q) :)

end

/-! ### Landing loads -/

@[simp] theorem lndAddr_issued (s : State) (a : Fin 64) (o : BitVec 24) (n : Nat) : lndAddr (issued s) a o n = lndAddr s a o n := by
  rw [lndAddr, curArch_issued, lndAddr]

theorem addressFault_ok {s : State} {ok : Bool} (x : Word) (h : ok = true) : addressFault s ok x = [] := if_pos h

section
variable {s : State} {d a : Fin 64} {o : BitVec 24} {t : BitVec 16} {c : Fin 16} {opc n : Nat} {signed : Bool}

/-- A landing load to a memory that it reaches goes out, and its result waits for the data. -/
theorem landForm_sends (ha : Alone 1 s) (hk : landAddrOk (lndAddr s a o n) n = true) : landForm opc n signed d a o t c s =
    .next (landLate t.toNat (.sreg d 0) s.seq (pushWork (issued s) (newWork (issued s) opc 0 c none 0
      (.load ⟨lndAddr s a o n, n, signed⟩) (footOf (lndAddr s a o n) n) d t))) := by
  unfold landForm
  refine runSlot_does ha (Nat.le_refl 1) (wrS_nodup d) (.inl rfl) (addressFault_ok _ hk) rfl ?_
  simp only [lndAddr_issued]
  rfl

end

theorem alone_reset : Alone 1 State.reset := by
  refine ⟨rfl, ?_⟩
  rw [curCtx, ctxAt_reset]
  decide

/-- Refutes O18: at power-on, `LDL.D` at address 0 goes out as a load of eight bytes that is not sign-extended; the statement has
its access marked as sign-extended, as that of `LDL.W` is. -/
theorem not_landingLoadsIssue : ¬ Obligations.LandingLoadsIssue := by
  unfold Obligations.LandingLoadsIssue
  intro h
  obtain ⟨-, -, ⟨sends, -⟩, -, -⟩ := h State.reset 0 0 0 0 1 0 alone_reset
  have zero : lndAddr State.reset 0 0 8 = 0 := by decide
  have ok : landAddrOk (lndAddr State.reset 0 0 8) 8 = true := by rw [zero]; decide
  have addr : rS (curArch State.reset) 0 + BitVec.ofInt 64 ((0 : BitVec 24).toInt * (8 : Nat)) = 0 := zero
  obtain ⟨u, w, goes, work, kind, -⟩ := sends (by beta_reduce; rw [addr]; decide)
  have is : exec (.ldlD 0 0 0 1 0) State.reset = _ := landForm_sends (opc := 0x6D) (signed := false) alone_reset ok
  obtain rfl := Host.Outcome.next.inj (goes.symm.trans is)
  have same := List.append_cancel_left (work.symm.trans (work_landLate_pushWork (issued State.reset) _ _ _ rfl))
  obtain rfl := List.head_eq_of_cons_eq same
  have signed := congrArg LoadReq.signed (WorkKind.load.inj kind)
  exact absurd signed (by decide)

/-! ### Range operations and `SPART` -/

section
variable {s : State} {a b : Fin 64} {p : Fin 16} {n inv : Bool}

/-- A range operation over global addresses goes out, and its result waits for every covered sector. -/
theorem rangeForm_sends (ha : Alone 1 s) (hg : guarded (curArch s) p n = true) (h1 : (rS (curArch s) a).toNat < 2 ^ 48)
    (h2 : (rS (curArch s) a).toNat + (rS (curArch s) b).toNat ≤ 2 ^ 48) : rangeForm inv a b p n s =
    .next (landLate 1 .nothing s.seq (pushWork (issued s) (newWork (issued s) (if inv then 0x6E else 0x6F) 0 0 none 0
      (.l1op (rS (curArch s) a) (rS (curArch s) b) inv)
      [((rS (curArch s) a).toNat, (rS (curArch s) a).toNat + (rS (curArch s) b).toNat)] 0 0))) := by
  have inside : isGlobal (rS (curArch s) a) = true := decide_eq_true h1
  have outside : decide (2 ^ 48 < (rS (curArch s) a).toNat + (rS (curArch s) b).toNat) = false := decide_eq_false (Nat.not_lt.2 h2)
  unfold rangeForm
  refine runSlot_does ha (predProbe_results p n [] 1 s hg).le .nil (.inl rfl) ?_ rfl ?_
  · simp only [inside, outside, Bool.not_true, Bool.false_or, Bool.and_false]
    rfl
  rw [predEffect_on p n _ _ (by simpa using hg)]
  simp only [curArch_issued]
  rfl

theorem rangeForm_operand (ha : Alone 1 s) (hg : guarded (curArch s) p n = true)
    (h : 2 ^ 48 ≤ (rS (curArch s) a).toNat ∨ 2 ^ 48 < (rS (curArch s) a).toNat + (rS (curArch s) b).toNat) :
    rangeForm inv a b p n s = taken (mkFault 0x0D s.slot.val (some s.slot) (rS (curArch s) a) 0 0) s := by
  have outside : (!isGlobal (rS (curArch s) a) || decide (2 ^ 48 < (rS (curArch s) a).toNat + (rS (curArch s) b).toNat)) = true := by
    simpa [isGlobal] using h
  unfold rangeForm
  exact runSlot_taken_one ha (predProbe_results p n [] 1 s hg).le .nil rfl (by simp only [hg, outside]; rfl) (by decide)

theorem exec_spart_sends {d : Fin 64} {i : Fin 17} (ha : Alone 1 s) (h : (rS (curArch s) a).toNat ≤ 255) : exec (.spart d a i) s =
    .next (landLate 1 (.sreg d 0) s.seq (pushWork (setRepeat (issued s))
      (newWork (issued s) 0x7E 0 0 none 0 (.spart (rS (curArch s) a).toNat i.val) [] d 1))) := by
  change execSpart d a i s = _
  unfold execSpart
  refine runSlot_does ha (Nat.le_refl 1) (wrS_nodup d) (.inl rfl) (if_neg (Nat.not_lt.2 h)) rfl ?_
  simp only [curArch_issued]
  rfl

theorem exec_spart_operand {d : Fin 64} {i : Fin 17} (ha : Alone 1 s) (h : 255 < (rS (curArch s) a).toNat) : exec (.spart d a i) s =
    taken (mkFault 0x0D s.slot.val (some s.slot) (rS (curArch s) a) 0 0) s := by
  change execSpart d a i s = _
  unfold execSpart
  exact runSlot_taken_one ha (Nat.le_refl 1) (wrS_nodup d) rfl (if_pos h) (by decide)

end

/-- A context whose bundle may not be repeated. -/
def repeated (c : Ctx) : Ctx := { c with repeatFlag := true }

theorem curCtx_setRepeat (s : State) : curCtx (setRepeat s) = repeated (curCtx s) := ctxAt_modCtx s s.cur repeated

/-- Settles O19: by the effect of each, or the one fault that its check finds. -/
theorem rangeAndSliceRequests : Obligations.RangeAndSliceRequests := by
  unfold Obligations.RangeAndSliceRequests
  refine ⟨fun s a b p n ha hg => ?_, fun s d a i ha => ⟨fun h => ?_, exec_spart_operand ha⟩⟩
  · intro x y goes
    have reg : curArch (issued s) = curArch s := curArch_issued s
    have flight : (curCtx (issued s)).flight = (curCtx s).flight := (congrArg Ctx.flight (curCtx_issued s) :)
    have form {inv : Bool} {i : Instr} (hi : exec i s = rangeForm inv a b p n s) : goes i inv := by
      refine ⟨fun h1 h2 => ⟨_, _, hi.trans (rangeForm_sends ha hg h1 h2), work_landLate_pushWork _ _ _ _ rfl, rfl, rfl, rfl, rfl,
        rfl, ?_, (curArch_landLate_pushWork ..).trans reg, rfl⟩, fun h => hi.trans (rangeForm_operand ha hg h)⟩
      rw [curCtx_landLate_pushWork, reg, flight]
      rfl
    exact ⟨form (inv := true) rfl, form (inv := false) rfl⟩
  · have ctx : curCtx (setRepeat (issued s)) = repeated { curCtx s with waits := [] } :=
      (curCtx_setRepeat _).trans (congrArg repeated (curCtx_issued s))
    have reg : curArch (setRepeat (issued s)) = curArch s := (congrArg Ctx.arch ctx :)
    refine ⟨_, _, exec_spart_sends ha h, work_landLate_pushWork _ _ _ _ rfl, rfl, rfl, rfl, ?_, ?_,
      (curArch_landLate_pushWork ..).trans reg, rfl⟩
    · rw [curCtx_landLate_pushWork, ctx]
      rfl
    · rw [curCtx_landLate_pushWork, ctx, reg]
      rfl

end Sys2Proof.Machine
end

section
/-! PROOFS. An atomic at issue (R128): a mark of a bad word that begins ahead of a sector keeps bytes of a dirty sector of L1 from
being written back whole. -/

namespace Sys2Proof.Machine

open Sys2Proof.Safety

/-! ### What the drop of a sector leaves -/

theorem cores_lostData (s : State) (c : Fin 256) (sub : Nat) : (lostData s c sub).cores = s.cores := rfl

theorem cores_postSector (c : Fin 256) (s : State) (pa : Nat) (bs : List Byte) : (postSector c s pa bs).cores = s.cores := by
  have write : (homeWrite { s with want := [] } pa bs none).cores = s.cores := (homeWrite_sliceAccess ..).cores
  unfold postSector homePost
  exact runAsk_keeps State.cores s _ _ _ (fun _ _ _ _ _ _ => rfl) write

theorem cores_l1WriteBack (c : Fin 256) (s : State) (l : L1Line) : (l1WriteBack (postSector c) c s l).cores = s.cores := by
  refine foldl_keeps State.cores (fun s i => ?_) (List.finRange 4) s
  split
  · rfl
  split
  · exact cores_lostData ..
  · exact cores_postSector ..

theorem tlb_modCore {g : Core → Core} (hg : ∀ y, (g y).tlb = y.tlb) (s : State) (c d : Fin 256) :
    (coreAt (modCore s c g) d).tlb = (coreAt s d).tlb := by
  by_cases e : d = c
  · rw [e, coreAt_modCore, hg]
  · rw [coreAt_modCore_ne _ _ _ _ e]

/-- A core of whose L1 the sectors that a test selects are clean, and with `inv` invalid. -/
def sweptL1 (inv : Bool) (hit : Nat → Bool) (y : Core) : Core := { y with l1 := (y.l1.map fun l =>
  let m := l1Mask hit l
  { l with dirty := l.dirty &&& ~~~m, valid := if inv then l.valid &&& ~~~m else l.valid }).filter fun l => l.valid ≠ 0 }

theorem tlb_l1Sweep (c d : Fin 256) (s : State) (inv : Bool) (hit : Nat → Bool) :
    (coreAt (l1Sweep (postSector c) s c inv hit) d).tlb = (coreAt s d).tlb := by
  change (coreAt (modCore _ c (sweptL1 inv hit)) d).tlb = _
  rw [tlb_modCore (g := sweptL1 inv hit) fun _ => rfl]
  have kept := foldl_keeps (g := fun t l => l1WriteBack (postSector c) c t { l with dirty := l.dirty &&& l1Mask hit l }) State.cores
    (fun t l => cores_l1WriteBack c t _) (coreAt s c).l1 s
  exact congrArg (fun cs : Vector Core 256 => cs[d].tlb) kept

/-- The drop of a sector changes no TLB. -/
theorem tlb_invalidateSector (x : Word) (s : State) (d : Fin 256) :
    (coreAt (invalidateSector x s) d).tlb = (coreAt s d).tlb := by
  unfold invalidateSector dropL1
  dsimp only
  split
  · split
    · exact tlb_l1Sweep ..
    · rfl
  · rfl

/-- A translation that the core's TLB holds is the one of the access. -/
theorem xlate_of_tlb {s : State} {c : Fin 256} {j : BitVec 32} {va : Nat} {e : TlbEntry}
    (h : tlbFind (coreAt s c).tlb j va = some e) :
    (xlate s c j va false).1 = .ok (e.base + va % 2 ^ pageBits e.level.val) := by
  have found : (tlbFind (coreAt s c).tlb j va).filter (fun e => !false || e.w) = some e := by rw [h]; rfl
  simp only [xlate, xlateEntry, found]

/-! ### An `AMO.ADD` -/

/-- The machine after an `AMO.ADD` has gone out, before the sector of its address is dropped. -/
def amoAddSent (z : Bool) (c : Fin 16) (a b : Fin 64) (s : State) : State :=
  let r := curArch s
  let w := newWork (setRepeat s) 0x70 0 c none 0 (.amo ⟨0x70, rS r a, z, rS r b, rS r 0⟩ true) (footOf (rS r a) (if z then 8 else 4)) 0 0
  modCtx (pushWork (setRepeat s) w) s.cur fun k => { k with amoq := k.amoq ++ [⟨s.seq, z, none, none⟩] }

theorem exec_amoAdd {s : State} {z : Bool} (c : Fin 16) {a : Fin 64} (b : Fin 64) (ha : Alone 0 s)
    (hq : (curCtx s).amoq.length < 16) (hg : (rS (curArch s) a).toNat < 2 ^ 48)
    (hz : (rS (curArch s) a).toNat % (if z then 8 else 4) = 0) :
    exec (.amoAdd z c a b) s = .next (invalidateSector (rS (curArch (issued s)) a) (amoAddSent z c a b (issued s))) := by
  have room : decide (16 ≤ (curCtx s).amoq.length) = false := decide_eq_false (Nat.not_le.2 hq)
  have reach : (isGlobal (rS (curArch s) a) && (rS (curArch s) a).toNat % (if z then 8 else 4) == 0) = true := by
    rw [isGlobal, decide_eq_true hg, hz]
    rfl
  change atomicForm 0x70 true z c a b 0 s = _
  unfold atomicForm
  exact runSlot_does ha (Nat.le_refl 0) .nil (.inl rfl) (by simp only [room, addressFault_ok _ reach]; rfl) rfl rfl

/-! ### The counterexample -/

/-- The L1 of core 0 holds the sector at 256 dirty, a 1 in its first byte; its TLB maps address 0 there. A mark begins on the byte ahead of
the sector. -/
def markAheadOfSector : State := { modCore State.reset 0 fun c => { c with
    l1 := [⟨0, 0, 0, 2, 2, [], Vector.replicate 4 1, 0⟩], tlb := [⟨0, 0, 0, 256, true⟩] } with bad := [255] }

theorem sent_markAheadOfSector : (curCtx markAheadOfSector).amoq.length < 16 ∧ rS (curArch markAheadOfSector) 0 = 0 ∧
    rS (curArch (issued markAheadOfSector)) 0 = 0 := by decide +kernel

/-- The write at issue leaves the bytes of the word that the mark names: the sector in memory keeps its 0. -/
theorem sector_markAheadOfSector :
    memVal (invalidateSector 0 (amoAddSent false 0 0 0 (issued markAheadOfSector))).mem 256 256 = 0 ∧
    tlbFind (coreAt (amoAddSent false 0 0 0 (issued markAheadOfSector)) 0).tlb 0 0 = some ⟨0, 0, 0, 256, true⟩ := by decide +kernel

/-- Refutes O20. The issue of an atomic is to leave a dirty sector of its core's L1 in memory whole, in every state; but a bad word that
is written in part keeps its bytes (R393), and the mark of `markAheadOfSector` begins on the byte ahead of the sector and reaches into it.
No code word begins there (R392): what the statement lacks is the hypothesis that the marks of its state name code words. -/
theorem not_atomics : ¬ Obligations.Atomics := by
  unfold Obligations.Atomics
  rintro ⟨sends, -⟩
  obtain ⟨room, addr, addr'⟩ := sent_markAheadOfSector
  obtain ⟨sector, tlb⟩ := sector_markAheadOfSector
  have alone : Alone 0 markAheadOfSector := by unfold Alone; decide +kernel
  obtain ⟨goes, -⟩ := sends markAheadOfSector false 0 0 0 0 alone _ List.mem_cons_self
  obtain ⟨u, w, is, -, dropped, -⟩ := goes (by rw [addr]; decide) (by rw [addr]; decide) fun _ => room
  have sent := exec_amoAdd (z := false) 0 0 alone room (by rw [addr]; decide) (by rw [addr]; decide)
  rw [addr] at is dropped
  rw [addr'] at sent
  have same := Host.Outcome.next.inj (is.symm.trans sent)
  have held : (coreAt u 0).tlb = (coreAt (amoAddSent false 0 0 0 (issued markAheadOfSector)) 0).tlb := by
    rw [← tlb_invalidateSector 0 u, same, tlb_invalidateSector]
  have place : (xlate u 0 0 0 false).1 = .ok 256 := xlate_of_tlb (held ▸ tlb)
  obtain ⟨-, -, whole⟩ := dropped 256 place
  have data : memVal (invalidateSector 0 u).mem 256 256 = (1 : VReg).toNat :=
    whole ⟨0, 0, 0, 2, 2, [], Vector.replicate 4 1, 0⟩ 1 (by decide +kernel) rfl rfl rfl (by decide)
  have one : (1 : VReg).toNat = 1 := BitVec.toNat_one (by decide)
  rw [same, sector, one] at data
  exact absurd data (by decide)

end Sys2Proof.Machine
end

section
/-! PROOFS. The data of a landing load (R28, R125, R278): how an access that asks nothing of the host performs, and where its bytes come
from. -/

namespace Sys2Proof.Machine

open Sys2Proof.Safety

/-! ### Work that performs without the host -/

/-- What the end of a command leaves: memory, what is wanted of the host, a context's results in flight and its return queue. -/
def resultsAt (k : Fin 1024) (s : State) : List Host.Cell × List HostMsg × List Flight × List AmoPlace :=
  (s.mem, s.want, (ctxAt s k).flight, (ctxAt s k).amoq)

theorem resultsAt_modRing (k j : Fin 1024) (s : State) (g : Fin 8) (f : Ring → Ring) :
    resultsAt k (modRing s j g f) = resultsAt k s := by
  unfold resultsAt modRing
  by_cases e : k = j
  · rw [e, ctxAt_modArch]
    rfl
  · rw [ctxAt_modArch_ne _ _ _ _ e]
    rfl

theorem resultsAt_dropWork (k : Fin 1024) (s : State) (c : Fin 256) (q : Nat) : resultsAt k (dropWork s c q) = resultsAt k s := rfl

theorem resultsAt_settleList (k : Fin 1024) (c : Fin 256) (l : List Work) (s : State) (o : List (Fin 1024 × Fin 8)) :
    resultsAt k (settleList s c o l) = resultsAt k s := by
  induction l generalizing s o with
  | nil => rfl
  | cons w l ih =>
    unfold settleList
    cases w.ring with
    | none =>
      dsimp only
      split
      · exact ih ..
      · exact ih ..
    | some g =>
      dsimp only
      split
      · exact ih ..
      split
      · exact ih ..
      split
      · exact ih ..
      · rw [ih, resultsAt_dropWork, resultsAt_modRing]

/-- A command that ends well changes only the work of its core and the rings. -/
theorem resultsAt_endCommand (k : Fin 1024) (s : State) (w : Work) : resultsAt k (endCommand s w none) = resultsAt k s :=
  resultsAt_settleList ..

/-- Work that asks nothing of the host performs at once. -/
theorem perform_of_no_want {s : State} {w : Work} (h : (performRaw { s with want := [] } w none).want = []) :
    perform s w = { performRaw { s with want := [] } w none with want := s.want } := by
  have reads : readsToSend w [] = [] := rfl
  unfold perform
  dsimp only
  rw [h, reads, List.filter_nil, if_neg (not_not_intro rfl), if_neg fun x => x.2 rfl]

theorem chargeCopy_of_not_copy {s : State} {w : Work} (h : ∀ x, w.kind ≠ .copy x) : chargeCopy s w = s := by
  unfold chargeCopy
  split
  · next x hx => exact absurd hx (h x)
  · rfl

theorem workEvent_performs {s : State} {c : Fin 256} {q : Nat} {w : Work} {sel : WorkKind → Bool} (hf : findWork s c q = some w)
    (hm : mayPerform s w = true) (hs : sel w.kind = true) (hc : ∀ x, w.kind ≠ .copy x) : workEvent sel c q s = perform s w := by
  simp only [workEvent, runWork, hf, hs, hm, if_true, chargeCopy_of_not_copy hc]

/-! ### Reads of global memory -/

theorem sliceTouch_want (s : State) (pa : Nat) (write : Bool) (rank : Option Nat) : (sliceTouch s pa write rank).want = s.want := by
  have count (t : State) (p : Prop) [Decidable p] (u : Fin 256) (e : Nat) : (if p then countSlice t u e 1 else t).want = t.want := by
    split <;> rfl
  have start : (if sliceHas (countSlice s (homeOf pa) 0x0100 1) pa = true then countSlice s (homeOf pa) 0x0100 1
    else countSlice (countSlice s (homeOf pa) 0x0100 1) (homeOf pa) 0x0101 1).want = s.want := by split <;> rfl
  unfold sliceTouch
  dsimp only
  generalize (if sliceHas (countSlice s (homeOf pa) 0x0100 1) pa = true then countSlice s (homeOf pa) 0x0100 1
    else countSlice (countSlice s (homeOf pa) 0x0100 1) (homeOf pa) 0x0101 1) = t at start ⊢
  split
  · exact start
  · split
    · exact start
    · rw [modSlice_want]
      split
      · obtain ⟨sent, tag, e, -⟩ := postMsgs_eq (lineWrites (countEviction t (homeOf pa) _) _) (countEviction t (homeOf pa) _)
        refine (congrArg State.want e).trans ?_
        exact ((count ..).trans (count ..)).trans start
      · exact start

theorem correctWords_want (s : State) (u : Fin 256) (a n : Nat) : (correctWords s u a n).want = s.want := by
  unfold correctWords
  dsimp only
  split <;> rfl

/-- A read of the device's own memory asks nothing of the host. -/
theorem homeRead_want {pa : Nat} (h : pa < 2 ^ 47) (s : State) (n : Nat) (rank : Option Nat) : (homeRead s pa n rank).2.want = s.want := by
  have device : isHost pa = false := decide_eq_false (Nat.not_le.2 h)
  unfold homeRead
  dsimp only
  rw [correctWords_want, sliceTouch_want, device]
  rfl

/-- `t` is `s` but for counters, TLBs, caches and what is wanted of the host. -/
structure KeepsData (s t : State) : Prop where
  mem : t.mem = s.mem
  bad : t.bad = s.bad
  ctxs : t.ctxs = s.ctxs
  l1 : ∀ d, (coreAt t d).l1 = (coreAt s d).l1

theorem KeepsData.refl (s : State) : KeepsData s s := ⟨rfl, rfl, rfl, fun _ => rfl⟩

theorem KeepsData.trans {s t u : State} (h : KeepsData s t) (g : KeepsData t u) : KeepsData s u :=
  ⟨g.mem.trans h.mem, g.bad.trans h.bad, g.ctxs.trans h.ctxs, fun d => (g.l1 d).trans (h.l1 d)⟩

theorem KeepsData.of_readsOnly {s t : State} (h : ReadsOnly s t) : KeepsData s t :=
  ⟨h.mem, h.bad, h.ctxs, fun d => by rw [coreAt, h.cores, coreAt]⟩

theorem KeepsData.modCore (s : State) (c : Fin 256) {g : Core → Core} (hg : ∀ y, (g y).l1 = y.l1) : KeepsData s (modCore s c g) := by
  refine ⟨rfl, rfl, rfl, fun d => ?_⟩
  by_cases e : d = c
  · rw [e, coreAt_modCore, hg]
  · rw [coreAt_modCore_ne _ _ _ _ e]

theorem KeepsData.countEvent (s : State) (c : Fin 256) (e n : Nat) : KeepsData s (countEvent s c e n) := .modCore s c fun _ => rfl

/-- A core with one more translation in its TLB. -/
def withTlb (e : TlbEntry) (y : Core) : Core := { y with tlb := tlbAdd 512 y.tlb e }

theorem KeepsData.withTlb (s : State) (c : Fin 256) (e : TlbEntry) : KeepsData s (Machine.modCore s c (Machine.withTlb e)) :=
  .modCore s c fun _ => rfl

theorem KeepsData.tlb2 (s : State) (x : Vector (List TlbEntry) 4) : KeepsData s { s with tlb2 := x } :=
  ⟨rfl, rfl, rfl, fun _ => rfl⟩

/-- A translation changes no data. -/
theorem xlateEntry_keepsData (s : State) (c : Fin 256) (j : BitVec 32) (va : Nat) (write : Bool) :
    KeepsData s (xlateEntry s c j va write).2 := by
  have counted := KeepsData.countEvent s c 0x0007 1
  unfold xlateEntry
  dsimp only
  split
  · exact .refl s
  split
  next e _ => exact counted.trans (.withTlb _ c e)
  split
  · exact counted
  next job _ =>
    have walked := counted.trans (.of_readsOnly (walk_readsOnly va 3 job.root.toNat (Machine.countEvent s c 0x0007 1)))
    split
    next e => rw [e] at walked; exact walked
    next e =>
      rw [e] at walked
      split
      · exact walked
      · exact walked.trans ((KeepsData.withTlb _ c _).trans (.tlb2 _ _))

theorem xlate_keepsData (s : State) (c : Fin 256) (j : BitVec 32) (va : Nat) (write : Bool) : KeepsData s (xlate s c j va write).2 := by
  have entry := xlateEntry_keepsData s c j va write
  unfold xlate
  split <;> next e => rw [e] at entry; exact entry

end Sys2Proof.Machine
end

section
/-! PROOFS. O23: where the data of a landing load comes from, and where it arrives (R28, R125, R278). -/

namespace Sys2Proof.Machine

open Sys2Proof.Safety

/-! ### Bytes -/

theorem leBytes_leVal (bs : List Byte) : leBytes bs.length (leVal bs) = bs := by
  induction bs with
  | nil => rfl
  | cons b r ih =>
    have low : (b.toNat + 256 * leVal r) % 256 = b.toNat := by have := b.isLt; omega
    have high : (b.toNat + 256 * leVal r) / 256 = leVal r := by have := b.isLt; omega
    rw [List.length_cons, leBytes, leVal, high, ih]
    refine congrArg (· :: r) (BitVec.eq_of_toNat_eq ?_)
    rw [BitVec.toNat_ofNat]
    exact low

/-- The bytes of a sector as a vector register holds it. -/
theorem vBytes_leVal {bs : List Byte} (h : bs.length = 256) : vBytes (BitVec.ofNat 2048 (leVal bs)) = bs := by
  have small : leVal bs < 2 ^ (8 * 256) := by
    have := leVal_lt bs
    rwa [h, show 256 ^ 256 = (2 ^ 8) ^ 256 from rfl, ← Nat.pow_mul] at this
  rw [vBytes, BitVec.toNat_ofNat, Nat.mod_eq_of_lt small, ← h]
  exact leBytes_leVal bs

/-- Part of what has been read. -/
theorem memRead_part (m : List Host.Cell) {a n b k : Nat} (h : b + k ≤ n) : ((memRead m a n).drop b).take k = memRead m (a + b) k := by
  rw [memRead_eq, memRead_eq]
  apply List.ext_getElem
  · simp
    omega
  · intro i h1 h2
    simp [Nat.add_assoc]

/-! ### The bytes of a load -/

/-- A load reads bytes that make the number `m`, asks nothing of the host, and changes neither memory nor a context. -/
def Brings (s : State) (v : Via) (r : LoadReq) (m : Nat) : Prop := ∃ bs t, loadBytes s v r = (.ok bs, t) ∧ leVal bs = m ∧
  t.mem = s.mem ∧ t.want = s.want ∧ t.ctxs = s.ctxs

theorem l1Alloc_empty {s : State} {c : Fin 256} (h : (coreAt s c).l1 = []) (pa : Nat) : ∃ g, l1Alloc s c pa = modCore s c g := by
  have none : l1Find (coreAt s c) pa = none := by rw [l1Find, h]; rfl
  unfold l1Alloc
  simp only [none, h, List.filter_nil, List.any_nil]
  exact ⟨_, rfl⟩

/-- What fills a line of L1 leaves the rest of the machine. -/
theorem filled_keeps (t : State) (p : Prop) [Decidable p] (c : Fin 256) (pa : Nat) (x : VReg) :
    (if p then t else l1SetSector t c pa x false).mem = t.mem ∧ (if p then t else l1SetSector t c pa x false).want = t.want ∧
    (if p then t else l1SetSector t c pa x false).ctxs = t.ctxs := by
  split <;> exact ⟨rfl, rfl, rfl⟩

/-- A sector that no line of L1 covers is filled from the device's own memory. -/
theorem l1Read_fill {s : State} {c : Fin 256} {pa n : Nat} (h : (coreAt s c).l1 = []) (hb : badAt s pa n = false) (hp : pa < 2 ^ 47) :
    ∃ t, l1Read s c pa n = (some (BitVec.ofNat 2048 (leVal (memRead s.mem (pa / 256 * 256) 256))), t) ∧
      t.mem = s.mem ∧ t.want = s.want ∧ t.ctxs = s.ctxs := by
  have miss : l1Sector (coreAt s c) pa n = none := by
    have none : l1Find (coreAt s c) pa = none := by rw [l1Find, h]; rfl
    simp [l1Sector, none]
  have sound : badAt (countEvent s c 0x0006 1) pa n = false := hb
  obtain ⟨g, alloc⟩ := l1Alloc_empty (((KeepsData.countEvent s c 0x0006 1).l1 c).trans h) pa
  have device : pa / 256 * 256 < 2 ^ 47 := by omega
  have read := homeRead_readsOnly (modCore (countEvent s c 0x0006 1) c g) (pa / 256 * 256) 256 none
  have want := homeRead_want device (modCore (countEvent s c 0x0006 1) c g) 256 none
  unfold l1Read
  simp only [miss, sound, Bool.false_eq_true, if_false, alloc]
  obtain ⟨mem, wants, ctxs⟩ := filled_keeps (homeRead (modCore (countEvent s c 0x0006 1) c g) (pa / 256 * 256) 256 none).2
    (badAt (modCore (countEvent s c 0x0006 1) c g) (pa / 256 * 256) 256 = true) c pa
    (BitVec.ofNat 2048 (leVal (memRead s.mem (pa / 256 * 256) 256)))
  exact ⟨_, rfl, mem.trans read.mem, wants.trans want, ctxs.trans read.ctxs⟩

section
variable {s : State} {v : Via} {r : LoadReq}

/-- An access to the device's own global memory goes where its translation leads. -/
theorem locate_global {x : Word} {n pa : Nat} {write : Bool} {u : State} (hg : x.toNat < 2 ^ 48)
    (hx : xlate s v.core v.job x.toNat write = (.ok pa, u)) (hp : pa < 2 ^ 47) : locate s v x n write = (.ok (.glob pa), u) := by
  have inside : isGlobal x = true := decide_eq_true hg
  have near (st : BitVec 16) : ¬ (2 ^ 47 ≤ pa ∧ st ≠ 0) := fun h => absurd h.1 (Nat.not_le.2 hp)
  simp only [locate, inside, if_true, hx]
  cases v.host with
  | none => rfl
  | some st => exact if_neg (near st)

/-- Global memory that no line of L1 covers. -/
theorem brings_global {pa : Nat} (hg : r.addr.toNat < 2 ^ 48) (hx : (xlate s v.core v.job r.addr.toNat false).1 = .ok pa)
    (hw : (xlate s v.core v.job r.addr.toNat false).2.want = s.want) (hp : pa < 2 ^ 47) (hi : pa % 256 + r.size ≤ 256)
    (hl : (coreAt s v.core).l1 = []) (hb : badAt s pa r.size = false) : Brings s v r (memVal s.mem pa r.size) := by
  have keeps := xlate_keepsData s v.core v.job r.addr.toNat false
  generalize hq : xlate s v.core v.job r.addr.toNat false = q at hx hw keeps
  obtain ⟨e, u⟩ := q
  obtain rfl : e = .ok pa := hx
  dsimp only at hw keeps
  have place : locate s v r.addr r.size false = (.ok (.glob pa), u) := locate_global hg hq hp
  have sound : badAt u pa r.size = false := by rw [badAt, keeps.bad]; exact hb
  obtain ⟨t, fill, mem, want, ctxs⟩ := l1Read_fill ((keeps.l1 v.core).trans hl) sound hp
  have bytes : loadBytes s v r =
      (.ok (((vBytes (BitVec.ofNat 2048 (leVal (memRead u.mem (pa / 256 * 256) 256)))).drop (pa % 256)).take r.size), t) := by
    simp only [loadBytes, place, fill]
  refine ⟨_, t, bytes, ?_, mem.trans keeps.mem, want.trans hw, ctxs.trans keeps.ctxs⟩
  have start : pa / 256 * 256 + pa % 256 = pa := by omega
  rw [vBytes_leVal (memRead_length ..), memRead_part _ hi, start, keeps.mem, memVal]

/-- A scratchpad that the job holds and whose buffers are empty. -/
theorem brings_spad {u : Fin 256} {off : Nat} (ha : r.addr.toNat = 0xF000000000000000 + u.val * 2 ^ 48 + off)
    (ho : off + r.size ≤ 0x60000) (hr : (coreAt s u).retired = false) (hh : holdsCore s v.job u = true)
    (hj : (coreAt s u).job = some v.job) (he : (coreAt s u).buf = []) (hb : badAt s (localKey 0 u.val off) r.size = false) :
    Brings s v r (memVal s.mem (localKey 0 u.val off) r.size) := by
  have outside : isGlobal r.addr = false := decide_eq_false (by omega)
  have lives : liveAt s v.job u = true := decide_eq_true hj
  have field : localAddr r.addr = some (0, u.val, off) := by
    have := u.isLt
    rw [localAddr, if_pos (by omega)]
    simp only [Option.some.injEq, Prod.mk.injEq]
    omega
  have core : Fin.ofNat 256 u.val = u := Fin.ext (Nat.mod_eq_of_lt u.isLt)
  have place : locate s v r.addr r.size false = (.ok (.unit 0 u off), s) := by
    simp only [locate, outside, field, core, hr, hh, lives]
    rfl
  have bytes : arbRead s u off r.size = memRead s.mem (localKey 0 u.val off) r.size := by rw [arbRead, he]; rfl
  have load : loadBytes s v r = (.ok (arbRead s u off r.size),
      arbTurn s ⟨off, [], 0, v.ctx, 0, 0, v.requester u⟩ u r.size) := by
    have notBank : ¬ ((0 : Nat) = 1 ∧ bankFree s v.job u off = true) := fun x => absurd x.1 (by decide)
    simp only [loadBytes, place, readPlace, hb, if_neg notBank]
    rfl
  exact ⟨_, _, load, congrArg leVal bytes, rfl, rfl, rfl⟩

end

/-! ### The arrival -/

/-- The result that waited for a piece of work, with its data. -/
def withData (f : Landing → Landing) (q : Nat) (x : Flight) : Flight :=
  if x.ready = false ∧ x.src = q then { x with ready := true, act := f x.act } else x

/-- What an arrival leaves: the data reaches the results that wait for it. -/
theorem resultsAt_arrive (s : State) (k : Fin 1024) (q : Nat) (f : Landing → Landing) : resultsAt k (arrive s k q f) =
    (s.mem, s.want, (ctxAt s k).flight.map (withData f q), (ctxAt s k).amoq) := by
  have waits (x : Flight) : (if !x.ready && x.src == q then { x with ready := true, act := f x.act } else x) = withData f q x := by
    unfold withData
    cases x.ready <;> simp
  rw [resultsAt, arrive, ctxAt_modCtx]
  simp only [waits]
  rfl

/-- A landing load that brings its bytes gives them to the results that wait for it. -/
theorem exec_landingDataArrives {s : State} {c : Fin 256} {q : Nat} {w : Work} {r : LoadReq} {m : Nat} (hf : findWork s c q = some w)
    (hm : mayPerform s w = true) (hk : w.kind = .load r) (hb : Brings { s with want := [] } (viaOf w) r m) :
    ∃ t bs, exec (.landingDataArrives c q) s = .next t ∧ leVal bs = m ∧ t.mem = s.mem ∧
      (ctxAt t w.ctx).flight = (ctxAt s w.ctx).flight.map (withData (loadLanding r.size r.signed bs) w.seq) := by
  obtain ⟨bs, u, load, value, mem, want, ctxs⟩ := hb
  have raw : performRaw { s with want := [] } w none = endCommand (arrive u w.ctx w.seq (loadLanding r.size r.signed bs)) w none := by
    simp only [performRaw, hk, performLoad, load]
  have results := (resultsAt_endCommand w.ctx (arrive u w.ctx w.seq (loadLanding r.size r.signed bs)) w).trans (resultsAt_arrive ..)
  rw [← raw] at results
  simp only [resultsAt, Prod.mk.injEq] at results
  obtain ⟨mem', want', flight, -⟩ := results
  have performs : exec (.landingDataArrives c q) s = .next (perform s w) :=
    congrArg Host.Outcome.next (workEvent_performs hf hm (by rw [hk]) fun x hx => nomatch hk.symm.trans hx)
  refine ⟨_, bs, performs, value, ?_, ?_⟩
  · rw [perform_of_no_want (want'.trans want)]
    exact mem'.trans mem
  · rw [perform_of_no_want (want'.trans want)]
    refine flight.trans ?_
    rw [ctxAt, ctxs, ctxAt]

/-- Settles O23: where the bytes come from in each of the two memories, and their arrival in the results that wait for them. -/
theorem loadDataArrives : Obligations.LoadDataArrives := by
  unfold Obligations.LoadDataArrives
  intro s c q w r hf hm hk hc hsize hal walked gives
  have arrives {m : Nat} (hb : Brings { s with want := [] } (viaOf w) r m) : gives m := by
    obtain ⟨t, bs, goes, value, mem, flight⟩ := exec_landingDataArrives hf hm hk hb
    refine ⟨t, goes, mem, flight.trans (List.map_congr_left fun f _ => ?_)⟩
    unfold withData
    split
    · refine congrArg (fun a => { f with ready := true, act := a }) ?_
      subst value
      cases f.act <;> rfl
    · rfl
  have core : (viaOf w).core = c := hc
  refine ⟨fun u off ha ho hr hh hj he hb => arrives (brings_spad ha ho hr hh hj he hb), fun pa hg hx hw hal' hp hl hb =>
    arrives (brings_global hg (core ▸ hx) (core ▸ hw) hp ?_ (core ▸ hl) hb)⟩
  obtain h | h | h := hsize <;> rw [h] at hal' ⊢ <;> omega

end Sys2Proof.Machine
end

section
/-! PROOFS. O24: an atomic performs on one word (R127, R128). -/

namespace Sys2Proof.Machine

open Sys2Proof.Safety

/-! ### Writes of the device's own memory -/

/-- A write of the device's own memory asks nothing of the host. -/
theorem homeWrite_want {pa : Nat} (h : pa < 2 ^ 47) (s : State) (bs : List Byte) (rank : Option Nat) :
    (homeWrite s pa bs rank).want = s.want := by
  have device : isHost pa = false := decide_eq_false (Nat.not_le.2 h)
  have put (t : State) : (putBytes t pa bs).want = t.want := rfl
  unfold homeWrite
  dsimp only
  rw [sliceTouch_want, put, correctWords_want, device]
  rfl

/-- One without a word in error writes its bytes. -/
theorem homeWrite_mem {s : State} {pa : Nat} {bs : List Byte} (rank : Option Nat) (h : badAt s pa bs.length = false) :
    (homeWrite s pa bs rank).mem = memWrite s.mem pa bs := by
  have clean (t : State) (ht : t.bad = s.bad) : badPart t pa bs.length = false := by
    have none : badParts t pa bs.length = [] := by
      rw [badParts, ht, List.filter_eq_nil_iff]
      intro b hb hpart
      have := List.any_eq_false.1 h b hb
      simp_all
    rw [badPart, none]
    rfl
  unfold homeWrite
  dsimp only
  rw [(sliceTouch_readsOnly ..).mem, putBytes_mem _ _ _ (clean _ ?_), (correctWords_readsOnly ..).mem, wantMsgs_eq]
  rw [(correctWords_readsOnly ..).bad, wantMsgs_eq]

/-! ### The drop of a sector -/

/-- A mask that a fold collects, bit by bit. -/
theorem getLsbD_foldl_mask (f : Nat → Bool) (n i : Nat) (hi : i < 4) :
    ((List.range n).foldl (fun (b : BitVec 4) j => if f j then b ||| (1#4 <<< j) else b) 0).getLsbD i = (decide (i < n) && f i) := by
  induction n with
  | zero => simp
  | succ n ih =>
    rw [List.range_succ, List.foldl_append, List.foldl_cons, List.foldl_nil]
    have one : (1#4 <<< n).getLsbD i = decide (i = n) := by
      rw [BitVec.getLsbD_shiftLeft, BitVec.getLsbD_one, Bool.eq_iff_iff]
      simp only [Bool.and_eq_true, Bool.not_eq_true', decide_eq_true_eq, decide_eq_false_iff_not]
      omega
    by_cases hf : f n = true
    · rw [if_pos hf, BitVec.getLsbD_or, ih, one]
      by_cases e : i = n
      · simp [e, hf]
      · have : i < n + 1 ↔ i < n := by omega
        simp [e, this]
    · rw [if_neg hf, ih]
      by_cases e : i = n
      · simp [e, hf]
      · have : i < n + 1 ↔ i < n := by omega
        simp [this]

theorem getLsbD_l1Mask (hit : Nat → Bool) (l : L1Line) (i : Fin 4) :
    (l1Mask hit l).getLsbD i.val = hit (l.line * 1024 + i.val * 256) := by
  rw [l1Mask, getLsbD_foldl_mask (fun i => hit (l.line * 1024 + i * 256)) 4 i.val i.isLt]
  simp

/-- What is wanted of the host, and the contexts. -/
def wantAndCtxs (s : State) : List HostMsg × Vector Ctx 1024 := (s.want, s.ctxs)

/-- The write-back of sectors of the device's own memory asks nothing of the host. -/
theorem wantAndCtxs_l1WriteBack (c : Fin 256) (s : State) (l : L1Line)
    (h : ∀ i : Fin 4, l.dirty.getLsbD i.val = true → l.line * 1024 + i.val * 256 < 2 ^ 47) :
    wantAndCtxs (l1WriteBack putSector c s l) = wantAndCtxs s := by
  unfold l1WriteBack
  refine foldl_keeps wantAndCtxs (fun s i => ?_) (List.finRange 4) s
  split
  · rfl
  · next hd =>
    split
    · rfl
    · have device := h i (by simpa using hd)
      rw [putSector, wantAndCtxs, homeWrite_want device, (homeWrite_sliceAccess ..).ctxs, wantAndCtxs]

theorem wantAndCtxs_modCore (s : State) (c : Fin 256) (f : Core → Core) : wantAndCtxs (modCore s c f) = wantAndCtxs s := rfl

/-- The write-back of the sector of an address, when a line holds it dirty. -/
def sectorWrittenBack (c : Fin 256) (pa : Nat) (s : State) (l : L1Line) : State :=
  l1WriteBack putSector c s { l with dirty := l.dirty &&& l1Mask (fun x => x == pa / 256 * 256) l }

theorem wantAndCtxs_sectorWrittenBack {pa : Nat} (h : pa < 2 ^ 47) (c : Fin 256) (s : State) (l : L1Line) :
    wantAndCtxs (sectorWrittenBack c pa s l) = wantAndCtxs s := by
  refine wantAndCtxs_l1WriteBack c s _ fun i hi => ?_
  dsimp only at hi ⊢
  rw [BitVec.getLsbD_and, getLsbD_l1Mask, Bool.and_eq_true, beq_iff_eq] at hi
  omega

theorem wantAndCtxs_dropL1 {pa : Nat} (h : pa < 2 ^ 47) (s : State) (c : Fin 256) :
    wantAndCtxs (dropL1 putSector s c pa) = wantAndCtxs s := by
  unfold dropL1
  split
  · change wantAndCtxs (modCore ((coreAt s c).l1.foldl (sectorWrittenBack c pa) s) c _) = _
    rw [wantAndCtxs_modCore]
    exact foldl_keeps wantAndCtxs (wantAndCtxs_sectorWrittenBack h c) (coreAt s c).l1 s
  · rfl

/-! ### The performing -/

theorem amoNew_lt (r : AmoReq) (old : Nat) : amoNew r old < 256 ^ (if r.wide then 8 else 4) := by
  unfold amoNew
  split
  · exact BitVec.isLt _
  · exact BitVec.isLt _

section
variable {s u : State} {w : Work} {r : AmoReq} {ret : Bool} {pa : Nat}

/-- The machine in which an atomic finds its word: its core's L1 holds the sector no more. -/
def sectorDropped (w : Work) (pa : Nat) (u : State) : State := dropL1 putSector u (coreOf w.ctx) pa

/-- The word after an atomic. -/
def atomicWritten (w : Work) (r : AmoReq) (pa : Nat) (u : State) : State :=
  let n := if r.wide then 8 else 4
  homeWrite (homeRead (sectorDropped w pa u) pa n none).2 pa (leBytes n (amoNew r (memVal (sectorDropped w pa u).mem pa n))) none

/-- An atomic on a sound word of the device's own memory. -/
theorem performAmo_device (hg : r.addr.toNat < 2 ^ 48) (hx : xlate s (coreOf w.ctx) w.job r.addr.toNat true = (.ok pa, u))
    (hp : pa < 2 ^ 47) (hb : badAt (sectorDropped w pa u) pa (if r.wide then 8 else 4) = false) :
    performAmo s w r ret = if ret then amoArrive (atomicWritten w r pa u) w.ctx w.seq
      (amoReturn r.wide (memVal (sectorDropped w pa u).mem pa (if r.wide then 8 else 4))) else atomicWritten w r pa u := by
  have device : isHost pa = false := decide_eq_false (Nat.not_le.2 hp)
  have place := locate_global (v := viaOf w) (n := if r.wide then 8 else 4) hg hx hp
  unfold performAmo
  dsimp only
  rw [place]
  dsimp only
  change (if badAt (sectorDropped w pa u) pa (if r.wide then 8 else 4) = true then _ else _) = _
  rw [hb, if_neg Bool.false_ne_true]
  simp only [atomicRead, atomicWrite, device, Bool.false_eq_true, if_false]
  rfl

/-- What it leaves of memory, of the messages to the host and of the contexts. -/
theorem atomicWritten_keeps (hp : pa < 2 ^ 47) (hb : badAt (sectorDropped w pa u) pa (if r.wide then 8 else 4) = false) :
    (atomicWritten w r pa u).mem = memWrite (sectorDropped w pa u).mem pa (leBytes (if r.wide then 8 else 4)
      (amoNew r (memVal (sectorDropped w pa u).mem pa (if r.wide then 8 else 4)))) ∧
    (atomicWritten w r pa u).want = u.want ∧ (atomicWritten w r pa u).ctxs = u.ctxs := by
  have read := homeRead_readsOnly (sectorDropped w pa u) pa (if r.wide then 8 else 4) none
  have dropped : wantAndCtxs (sectorDropped w pa u) = wantAndCtxs u := wantAndCtxs_dropL1 hp u (coreOf w.ctx)
  simp only [wantAndCtxs, Prod.mk.injEq] at dropped
  obtain ⟨want, ctxs⟩ := dropped
  unfold atomicWritten
  dsimp only
  refine ⟨?_, ?_, ?_⟩
  · rw [homeWrite_mem none (by rw [leBytes_length, badAt, read.bad]; exact hb), read.mem]
  · rw [homeWrite_want hp, homeRead_want hp, want]
  · rw [(homeWrite_sliceAccess ..).ctxs, read.ctxs, ctxs]

/-- A place of the return queue with the value of the atomic numbered `q`. -/
def placed (q : Nat) (x : Word) (p : AmoPlace) : AmoPlace := if p.seq = q then { p with value := some x } else p

/-- The arrival of an old value: it enters the place of the return queue, or the result that has taken it. -/
theorem amoArrive_keeps (s : State) (k : Fin 1024) (q : Nat) (x : Word) : (amoArrive s k q x).mem = s.mem ∧
    (amoArrive s k q x).want = s.want ∧ (ctxAt (amoArrive s k q x) k).amoq = (ctxAt s k).amoq.map (placed q x) := by
  refine ⟨rfl, rfl, ?_⟩
  have arrives (t : State) (f : Landing → Landing) : (ctxAt (arrive t k q f) k).amoq = (ctxAt t k).amoq :=
    congrArg (fun y => y.2.2.2) (resultsAt_arrive t k q f)
  unfold amoArrive
  dsimp only
  rw [arrives, ctxAt_modCtx]
  rfl

end

theorem exec_amoPerform {s : State} {c : Fin 256} {q : Nat} {w : Work} {r : AmoReq} {ret : Bool} (hf : findWork s c q = some w)
    (hm : mayPerform s w = true) (hk : w.kind = .amo r ret) : exec (.amoPerform c q) s = .next (perform s w) :=
  congrArg Host.Outcome.next (workEvent_performs hf hm (by rw [hk]) fun x hx => nomatch hk.symm.trans hx)

section
variable {s u : State} {w : Work} {r : AmoReq} {ret : Bool} {pa : Nat}

/-- An atomic's effect on memory, the messages to the host and its context. -/
theorem resultsAt_performAmo (hg : r.addr.toNat < 2 ^ 48) (hx : xlate s (coreOf w.ctx) w.job r.addr.toNat true = (.ok pa, u))
    (hp : pa < 2 ^ 47) (hb : badAt (sectorDropped w pa u) pa (if r.wide then 8 else 4) = false) :
    (performAmo s w r ret).mem = memWrite (sectorDropped w pa u).mem pa (leBytes (if r.wide then 8 else 4)
      (amoNew r (memVal (sectorDropped w pa u).mem pa (if r.wide then 8 else 4)))) ∧
    (performAmo s w r ret).want = u.want ∧
    (ret = true → (ctxAt (performAmo s w r ret) w.ctx).amoq = (ctxAt s w.ctx).amoq.map
      (placed w.seq (amoReturn r.wide (memVal (sectorDropped w pa u).mem pa (if r.wide then 8 else 4))))) ∧
    (ret = false → ctxAt (performAmo s w r ret) w.ctx = ctxAt s w.ctx) := by
  obtain ⟨mem, want, ctxs⟩ := atomicWritten_keeps (r := r) hp hb
  have translated := xlate_keepsData s (coreOf w.ctx) w.job r.addr.toNat true
  rw [hx] at translated
  have ctx : ctxAt (atomicWritten w r pa u) w.ctx = ctxAt s w.ctx := by rw [ctxAt, ctxs, translated.ctxs, ctxAt]
  rw [performAmo_device hg hx hp hb]
  cases ret with
  | true =>
    rw [if_pos rfl]
    obtain ⟨mem', want', amoq⟩ := amoArrive_keeps (atomicWritten w r pa u) w.ctx w.seq
      (amoReturn r.wide (memVal (sectorDropped w pa u).mem pa (if r.wide then 8 else 4)))
    exact ⟨mem'.trans mem, want'.trans want, fun _ => amoq.trans (by rw [ctx]), nofun⟩
  | false =>
    rw [if_neg Bool.false_ne_true]
    exact ⟨mem, want, nofun, fun _ => ctx⟩

/-- The event of an atomic on a sound word of the device's own memory. -/
theorem exec_amoPerform_device {c : Fin 256} {q : Nat} (hf : findWork s c q = some w) (hm : mayPerform s w = true)
    (hk : w.kind = .amo r ret) (hg : r.addr.toNat < 2 ^ 48)
    (hx : xlate { s with want := [] } (coreOf w.ctx) w.job r.addr.toNat true = (.ok pa, u)) (hw : u.want = []) (hp : pa < 2 ^ 47)
    (hb : badAt (sectorDropped w pa u) pa (if r.wide then 8 else 4) = false) : ∃ t, exec (.amoPerform c q) s = .next t ∧
    t.mem = memWrite (sectorDropped w pa u).mem pa (leBytes (if r.wide then 8 else 4)
      (amoNew r (memVal (sectorDropped w pa u).mem pa (if r.wide then 8 else 4)))) ∧
    (ret = true → (ctxAt t w.ctx).amoq = (ctxAt s w.ctx).amoq.map
      (placed w.seq (amoReturn r.wide (memVal (sectorDropped w pa u).mem pa (if r.wide then 8 else 4))))) ∧
    (ret = false → (ctxAt t w.ctx).amoq = (ctxAt s w.ctx).amoq ∧ (ctxAt t w.ctx).flight = (ctxAt s w.ctx).flight) := by
  obtain ⟨mem, want, amoq, ctx⟩ := resultsAt_performAmo (ret := ret) hg hx hp hb
  have raw : performRaw { s with want := [] } w none = endCommand (performAmo { s with want := [] } w r ret) w none := by
    simp only [performRaw, hk]
  have results := resultsAt_endCommand w.ctx (performAmo { s with want := [] } w r ret) w
  rw [← raw] at results
  simp only [resultsAt, Prod.mk.injEq] at results
  obtain ⟨mem', want', flight', amoq'⟩ := results
  refine ⟨_, exec_amoPerform hf hm hk, ?_⟩
  rw [perform_of_no_want (want'.trans (want.trans hw))]
  exact ⟨mem'.trans mem, fun h => amoq'.trans (amoq h), fun h =>
    ⟨amoq'.trans (congrArg Ctx.amoq (ctx h)), flight'.trans (congrArg Ctx.flight (ctx h))⟩⟩

end

/-! ### The operations -/

section
variable {op : BitVec 8} {n : Nat} (o b k : BitVec n)

theorem amoOp_add (h : op = 0x70 ∨ op = 0x78) : amoOp op n o b k = o + b := if_pos h

theorem amoOp_and (h : op = 0x71 ∨ op = 0x79) : amoOp op n o b k = o &&& b := by
  obtain rfl | rfl := h <;> rfl

theorem amoOp_or (h : op = 0x72 ∨ op = 0x7A) : amoOp op n o b k = o ||| b := by
  obtain rfl | rfl := h <;> rfl

theorem amoOp_xor (h : op = 0x73) : amoOp op n o b k = o ^^^ b := by
  obtain rfl := h
  rfl

theorem amoOp_min (h : op = 0x74 ∨ op = 0x7B) : amoOp op n o b k = if o.toInt ≤ b.toInt then o else b := by
  have is : amoOp op n o b k = if o.sle b then o else b := by obtain rfl | rfl := h <;> rfl
  simp [is, BitVec.sle]

theorem amoOp_max (h : op = 0x75 ∨ op = 0x7C) : amoOp op n o b k = if o.toInt ≤ b.toInt then b else o := by
  have is : amoOp op n o b k = if o.sle b then b else o := by obtain rfl | rfl := h <;> rfl
  simp [is, BitVec.sle]

theorem amoOp_swap (h : op = 0x76) : amoOp op n o b k = b := by
  obtain rfl := h
  rfl

theorem amoOp_cas (h : op = 0x77) : amoOp op n o b k = if o = k then b else o := by
  obtain rfl := h
  rfl

end

/-- Settles O24: an atomic is a read and a write of its word where the translation leads, after the drop of its sector. -/
theorem atomicPerforms : Obligations.AtomicPerforms := by
  unfold Obligations.AtomicPerforms
  intro s c q w r ret pa hf hm hk hc hg
  subst hc
  intro walked u hx hw hp n hb old narrow makes
  have translated := xlate_keepsData { s with want := [] } (coreOf w.ctx) w.job r.addr.toNat true
  have leads : xlate { s with want := [] } (coreOf w.ctx) w.job r.addr.toNat true = (.ok pa, walked.2) := Prod.ext hx rfl
  have performs : makes (amoNew r old) := by
    obtain ⟨t, goes, mem, amoq, kept⟩ := exec_amoPerform_device hf hm hk hg leads hw hp hb
    refine ⟨t, goes, ?_, fun b hb => ?_, fun h => ?_, amoq, kept⟩
    · rw [mem, memVal_write, Nat.mod_eq_of_lt (amoNew_lt r _)]
      rfl
    · have outside : ¬ (pa ≤ b ∧ b < pa + n) := by omega
      rw [byteAt, mem, memGet_write, leBytes_length]
      exact if_neg outside
    · have absent : l1Find (coreAt walked.2 (coreOf w.ctx)) pa = none := by
        rw [l1Find, translated.l1]
        exact h
      exact (congrArg State.mem (dropL1_absent putSector walked.2 (coreOf w.ctx) pa absent)).trans translated.mem
  have narrows (f : (m : Nat) → BitVec m → BitVec m → BitVec m → BitVec m) (hop : ∀ m o b k, amoOp r.op m o b k = f m o b k) :
      makes (narrow f) := by
    have same : narrow f = amoNew r old := by simp only [amoNew, hop]; rfl
    exact same ▸ performs
  exact ⟨fun h => narrows _ fun m o b k => amoOp_add o b k h, fun h => narrows _ fun m o b k => amoOp_and o b k h,
    fun h => narrows _ fun m o b k => amoOp_or o b k h, fun h => narrows _ fun m o b k => amoOp_xor o b k h,
    fun h => narrows _ fun m o b k => amoOp_min o b k h, fun h => narrows _ fun m o b k => amoOp_max o b k h,
    fun h => narrows _ fun m o b k => amoOp_swap o b k h, fun h => narrows _ fun m o b k => amoOp_cas o b k h⟩

end Sys2Proof.Machine
end

section
/-! PROOFS. The lanes and the flags of a vector result (R57, R65, R90, R141, R142): the elements of a register that is made of
elements, the flags of the active lanes, and what an operation on lanes lands. -/

namespace Sys2Proof.Machine

open Sys2Proof.Safety

/-! ### Elements of a register -/

/-- Fields that fit make a number that fits in any register wide enough for them. -/
theorem toNat_packNat_of_le {w n width : Nat} (hn : w * n ≤ width) {f : Nat → Nat} (hf : ∀ i, f i < 2 ^ w) :
    (BitVec.ofNat width (packNat w f n)).toNat = packNat w f n := by
  rw [BitVec.toNat_ofNat, Nat.mod_eq_of_lt ((packNat_lt w f hf n).trans_le (Nat.pow_le_pow_right Nat.two_pos hn))]

/-- An element of a register that is made of elements (R65, R82). -/
theorem elem_ofElems {w n : Nat} (hn : w * n ≤ 2048) (f : Nat → BitVec w) {j : Nat} (hj : j < n) : elem (ofElems w n f) w j = f j := by
  have fits : ∀ i, (f i).toNat < 2 ^ w := fun i => (f i).isLt
  apply BitVec.eq_of_toNat_eq
  rw [elem, BitVec.extractLsb'_toNat, ofElems, toNat_packNat_of_le hn fits, Nat.shiftRight_eq_div_pow]
  exact packNat_field w _ fits hj

/-! ### Flags -/

theorem getLsbD_allFlags (l : List (BitVec 6)) (k : Nat) : (allFlags l).getLsbD k = true ↔ ∃ f ∈ l, f.getLsbD k = true := by
  have from_ (a : BitVec 6) : (l.foldl (· ||| ·) a).getLsbD k = true ↔ a.getLsbD k = true ∨ ∃ f ∈ l, f.getLsbD k = true := by
    induction l generalizing a with
    | nil => simp
    | cons f r ih => rw [List.foldl_cons, ih, BitVec.getLsbD_or, Bool.or_eq_true, List.exists_mem_cons_iff, or_assoc]
  simp [allFlags, from_]

/-- The flags of 64 lanes together are those that some lane raises. -/
theorem getLsbD_allFlags_lanes (f : Nat → BitVec 6) (k : Nat) :
    (allFlags ((List.range 64).map f)).getLsbD k = true ↔ ∃ j < 64, (f j).getLsbD k = true := by
  simp [getLsbD_allFlags]

/-- Lanes that raise no flag raise none together. -/
theorem allFlags_eq_zero {l : List (BitVec 6)} (h : ∀ f ∈ l, f = 0) : allFlags l = 0 := by
  apply BitVec.eq_of_getLsbD_eq
  intro k _
  have none : ¬ (allFlags l).getLsbD k = true := by
    rw [getLsbD_allFlags]
    rintro ⟨f, hf, raised⟩
    simp [h f hf] at raised
  simpa using none

/-! ### Lane by lane -/

/-- An active lane of an operation on lanes. -/
theorem elem_mapLanes {lanes : Word} (f : Nat → BitVec 32 × BitVec 6) {j : Nat} (hj : j < 64) (on : lanes.getLsbD j = true) :
    elem (mapLanes lanes f).1 32 j = (f j).1 := by
  rw [mapLanes, elem_ofLanes _ hj, if_pos on]

/-- The flags of an operation on lanes are those that some active lane raises (R90). -/
theorem getLsbD_mapLanes (lanes : Word) (f : Nat → BitVec 32 × BitVec 6) (k : Nat) :
    (mapLanes lanes f).2.getLsbD k = true ↔ ∃ j < 64, lanes.getLsbD j = true ∧ (f j).2.getLsbD k = true := by
  rw [mapLanes, getLsbD_allFlags_lanes]
  refine exists_congr fun j => and_congr_right fun _ => ?_
  cases lanes.getLsbD j <;> simp

theorem mapLanes_no_flags (lanes : Word) (f : Nat → BitVec 32) : (mapLanes lanes fun j => (f j, 0)).2 = 0 :=
  allFlags_eq_zero (by simp)

/-! ### Operations on lanes -/

/-- Lane `j` is active under p[p] (R57). -/
def LaneOn (s : State) (p : Fin 16) (n : Bool) (j : Nat) : Prop := (laneMask (curArch s) p n).getLsbD j = true

/-- Lane `j` of v[a] at issue. -/
def laneOf (s : State) (a : Fin 64) (j : Nat) : BitVec 32 := elem (rV (curArch s) a) 32 j

/-- An outcome that lands `f j` in each active lane j of v[d], `lat` cycles on, and raises no flag (R142). -/
def LandsLanes (s : State) (d : Fin 64) (p : Fin 16) (n : Bool) (lat : Nat) (f : Nat → BitVec 32)
    (o : Host.Outcome State Fault Refusal) : Prop :=
  ∃ v, o = .next (land lat (.vreg d v (laneMask (curArch s) p n)) 0 (issued s)) ∧ ∀ j < 64, LaneOn s p n j → elem v 32 j = f j

/-- An outcome that lands the rounded `f j` in each active lane j of v[d], with the flags of the active lanes (R142, R90). -/
def LandsRounded (s : State) (d : Fin 64) (p : Fin 16) (n : Bool) (lat : Nat) (f : Nat → Res)
    (o : Host.Outcome State Fault Refusal) : Prop :=
  ∃ v g, o = .next (land lat (.vreg d v (laneMask (curArch s) p n)) g (issued s)) ∧
    (∀ j < 64, LaneOn s p n j → elem v 32 j = BitVec.ofNat 32 (f j).bits) ∧
    ∀ k < 6, g.getLsbD k = true ↔ ∃ j < 64, LaneOn s p n j ∧ (f j).flags.getLsbD k = true

theorem LandsLanes.congr {s : State} {d : Fin 64} {p : Fin 16} {n : Bool} {lat : Nat} {f g : Nat → BitVec 32}
    {o : Host.Outcome State Fault Refusal} (h : LandsLanes s d p n lat f o) (e : ∀ j, f j = g j) : LandsLanes s d p n lat g o :=
  (funext e : f = g) ▸ h

section
variable {s : State} (h : Alone 1 s) (d a b : Fin 64) (p : Fin 16) (n : Bool) (lat : Nat)
include h

/-- A result for the active lanes of v[d], made lane by lane. -/
theorem vForm_lands_lanes (f : Arch → Nat → BitVec 32) :
    LandsLanes s d p n lat (f (curArch s)) (vForm d lat (fun r => (ofLanes (f r), 0)) (fun r => laneMask r p n) s) :=
  ⟨_, vForm_next d lat _ _ s h, fun _ hj _ => elem_ofLanes _ hj⟩

/-- An operation on lanes lands its lanes and their flags. -/
theorem laneOp_next (f : Arch → BitVec 32 → BitVec 32 → BitVec 32 → BitVec 32 × BitVec 6) :
    let q := mapLanes (laneMask (curArch s) p n) fun j => f (curArch s) (laneOf s a j) (laneOf s b j) (laneOf s d j)
    laneOp lat f d a b p n s = .next (land lat (.vreg d q.1 (laneMask (curArch s) p n)) q.2 (issued s)) :=
  vForm_next d lat _ _ s h

/-- An operation on lanes that raises no flag lands its value in each active lane. -/
theorem laneOp_lands (f : BitVec 32 → BitVec 32 → BitVec 32) :
    LandsLanes s d p n lat (fun j => f (laneOf s a j) (laneOf s b j)) (laneOp lat (fun _ x y _ => (f x y, 0)) d a b p n s) := by
  have next := laneOp_next h d a b p n lat fun _ x y _ => (f x y, 0)
  simp only [mapLanes_no_flags] at next
  exact ⟨_, next, fun _ hj on => elem_mapLanes _ hj on⟩

/-- An FP32 operation lands its rounded result in each active lane, with the flags of those lanes. -/
theorem laneOp_lands_rounded (f : Arch → BitVec 32 → BitVec 32 → BitVec 32 → Res) :
    LandsRounded s d p n lat (fun j => f (curArch s) (laneOf s a j) (laneOf s b j) (laneOf s d j))
      (laneOp lat (fun r x y z => lane32 (f r x y z)) d a b p n s) :=
  ⟨_, _, laneOp_next h d a b p n lat _, fun _ hj on => elem_mapLanes _ hj on, fun k _ => getLsbD_mapLanes _ _ k⟩

end

end Sys2Proof.Machine
end

section
/-! PROOFS. Lane-wise arithmetic (R142, R143, R145): what each operation lands. -/

namespace Sys2Proof.Machine

open Sys2Proof.Safety

/-- The sign bit of a value that reads as negative. -/
theorem getLsbD_sign_iff (x : BitVec 32) : x.getLsbD 31 = true ↔ x.toInt < 0 := by
  rw [show x.getLsbD 31 = x.msb from (BitVec.msb_eq_getLsbD_last x).symm, BitVec.msb_eq_toInt, decide_eq_true_iff]

/-- Settles O25: an operation on lanes lands lane by lane (`laneOp_lands`), and an FP32 one with its roundings' flags
(`laneOp_lands_rounded`). -/
theorem vectorArithmetic : Obligations.VectorArithmetic := by
  unfold Obligations.VectorArithmetic
  intro s d a b p n h r m on x y z ints floats
  have int (lat : Nat) {i : Instr} {a b : Fin 64} (f : BitVec 32 → BitVec 32 → BitVec 32)
      (hi : exec i s = laneOp lat (fun _ x y _ => (f x y, 0)) d a b p n s) {v : Nat → BitVec 32}
      (hv : ∀ j, f (laneOf s a j) (laneOf s b j) = v j) : ints lat i v :=
    show LandsLanes s d p n lat v (exec i s) from hi ▸ (laneOp_lands h d a b p n lat f).congr hv
  have float (lat : Nat) {i : Instr} {a b : Fin 64} (f : RMode → BitVec 32 → BitVec 32 → BitVec 32 → Res)
      (hi : exec i s = laneOp lat (fun r x y z => lane32 (f (rmodeOf r.fmt) x y z)) d a b p n s) :
      floats lat i fun j => f m (laneOf s a j) (laneOf s b j) (z j) :=
    show LandsRounded s d p n lat _ (exec i s) from hi ▸ laneOp_lands_rounded h d a b p n lat fun r => f (rmodeOf r.fmt)
  have lesser (x y : BitVec 32) : (if x.sle y then x else y) = if x.toInt ≤ y.toInt then x else y := by
    simp only [BitVec.sle_iff_toInt_le]
  have greater (x y : BitVec 32) : (if x.sle y then y else x) = if x.toInt ≤ y.toInt then y else x := by
    simp only [BitVec.sle_iff_toInt_le]
  have magnitude (x : BitVec 32) : (if x.getLsbD 31 then -x else x) = if x.toInt < 0 then -x else x := by
    simp only [getLsbD_sign_iff]
  have vadd := int 4 (i := .vadd d a b p n true) (· + ·) rfl fun _ => rfl
  have vsub := int 4 (i := .vsub d a b p n true) (· - ·) rfl fun _ => rfl
  have vmul := int 4 (i := .vmul d a b p n true) (· * ·) rfl fun _ => rfl
  have vmin := int 2 (i := .vmin d a b p n true) (fun x y => if x.sle y then x else y) rfl fun _ => lesser _ _
  have vmax := int 2 (i := .vmax d a b p n true) (fun x y => if x.sle y then y else x) rfl fun _ => greater _ _
  have vabs := int 2 (i := .vabs d a p n true) (b := a) (fun x _ => if x.getLsbD 31 then -x else x) rfl fun _ => magnitude _
  have vneg := int 2 (i := .vneg d a p n true) (b := a) (fun x _ => -x) rfl fun _ => rfl
  have fadd := float 4 (i := .vadd d a b p n false) (fun m x y _ => fpAdd m (num32 x) (num32 y)) rfl
  have fsub := float 4 (i := .vsub d a b p n false) (fun m x y _ => fpAdd m (num32 x) (num32 y).flip) rfl
  have fmul := float 4 (i := .vmul d a b p n false) (fun m x y _ => fpMul m (num32 x) (num32 y)) rfl
  have fma := float 4 (i := .vfma d a b p n) (fun m x y z => fpFma m (num32 x) (num32 y) (num32 z)) rfl
  have fms := float 4 (i := .vfms d a b p n) (fun m x y z => fpFma m (num32 x).flip (num32 y) (num32 z)) rfl
  have fmin := int 2 (i := .vmin d a b p n false) (fpMinMax false) rfl fun _ => rfl
  have fmax := int 2 (i := .vmax d a b p n false) (fpMinMax true) rfl fun _ => rfl
  have fabs := int 2 (i := .vabs d a p n false) (b := a) (fun x _ => signLane (fun x => x &&& 0x7FFFFFFF) x) rfl fun _ => rfl
  have fneg := int 2 (i := .vneg d a p n false) (b := a) (fun x _ => signLane (fun x => x ^^^ 0x80000000) x) rfl fun _ => rfl
  have exp2 := float 8 (i := .vexp2 d a p n) (b := a) (fun m x _ _ => fpExp2 m (num32 x)) rfl
  have log2 := float 8 (i := .vlog2 d a p n) (b := a) (fun m x _ _ => fpLog2 m (num32 x)) rfl
  have rcp := float 8 (i := .vrcp d a p n) (b := a) (fun m x _ _ => fpRcp m (num32 x)) rfl
  have rsq := float 8 (i := .vrsq d a p n) (b := a) (fun m x _ _ => fpRsq m (num32 x)) rfl
  exact ⟨vadd, vsub, vmul, vmin, vmax, vabs, vneg, fadd, fsub, fmul, fma, fms, fmin, fmax, fabs, fneg, exp2, log2, rcp, rsq⟩

end Sys2Proof.Machine
end

section
/-! PROOFS. Moves of lanes, compares and mask logic, and the softmax triple (R144, R146, R147, R154, R156). -/

namespace Sys2Proof.Machine

open Sys2Proof.Safety

section
variable {s : State} (h : Alone 1 s) (d a b : Fin 64) (p : Fin 16) (n : Bool)
include h

/-- `VPERMB` makes every byte: the mask chooses lanes of them (R154). -/
theorem vpermb_lands : ∃ v, exec (.vpermb d a b p n) s = .next (land 2 (.vreg d v (laneMask (curArch s) p n)) 0 (issued s)) ∧
    ∀ j < 256, elem v 8 j = elem (rV (curArch s) a) 8 (elem (rV (curArch s) b) 8 j).toNat := by
  change ∃ v, execVpermb d a b p n s = _ ∧ _
  rw [execVpermb, vForm_next (h := h)]
  exact ⟨_, rfl, fun j hj => elem_ofElems (by decide) _ hj⟩

/-- `VSEL` writes every lane: those of the mask from v[a], the others from v[b] (R144). -/
theorem vsel_lands : ∃ v, exec (.vsel d a b p n) s = .next (land 2 (.vreg d v (BitVec.allOnes 64)) 0 (issued s)) ∧
    ∀ j < 64, (LaneOn s p n j → elem v 32 j = laneOf s a j) ∧ (¬ LaneOn s p n j → elem v 32 j = laneOf s b j) := by
  change ∃ v, execVsel d a b p n s = _ ∧ _
  rw [execVsel, vForm_next (h := h)]
  exact ⟨_, rfl, fun j hj => ⟨fun on => (elem_mergeLanes _ _ _ hj).trans (if_pos on),
    fun off => (elem_mergeLanes _ _ _ hj).trans (if_neg off)⟩⟩

end

/-- Settles O26: the lane-wise forms by `laneOp_lands`, those that make every lane by `vForm_lands_lanes`. -/
theorem vectorMoves : Obligations.VectorMoves := by
  unfold Obligations.VectorMoves
  intro s d a b p n h r on x y gives
  have op {i : Instr} (f : BitVec 32 → BitVec 32 → BitVec 32)
      (hi : exec i s = laneOp 2 (fun _ x y _ => (f x y, 0)) d a b p n s) : gives i fun j => f (x j) (y j) :=
    show LandsLanes s d p n 2 _ (exec i s) from hi ▸ laneOp_lands h d a b p n 2 f
  have make {i : Instr} (f : Arch → Nat → BitVec 32)
      (hi : exec i s = vForm d 2 (fun r => (ofLanes (f r), 0)) (fun r => laneMask r p n) s) : gives i (f r) :=
    show LandsLanes s d p n 2 _ (exec i s) from hi ▸ vForm_lands_lanes h d p n 2 f
  have vand := op (i := .vand d a b p n) (· &&& ·) rfl
  have vor := op (i := .vor d a b p n) (· ||| ·) rfl
  have vxor := op (i := .vxor d a b p n) (· ^^^ ·) rfl
  have vshl := op (i := .vshl d a b p n) (fun x y => x <<< (y.toNat % 32)) rfl
  have vshr := op (i := .vshr d a b p n) (fun x y => x >>> (y.toNat % 32)) rfl
  have vsra := op (i := .vsra d a b p n) (fun x y => x.sshiftRight (y.toNat % 32)) rfl
  have vbcast := make (i := .vbcast d a p n) (fun r _ => (rS r a).setWidth 32) rfl
  have viota := make (i := .viota d p n) (fun _ j => BitVec.ofNat 32 j) rfl
  have vpermw := make (i := .vpermw d a b p n) (fun r j => elem (rV r a) 32 ((elem (rV r b) 32 j).toNat % 64)) rfl
  refine ⟨vand, vor, vxor, vshl, vshr, vsra, vbcast, viota, vpermw, vpermb_lands h d a b p n, vsel_lands h d a b p n, ?_⟩
  exact (show execVextr d a b s = _ from sForm_next d 2 _ s h)

/-! ### Bits and flags of a compare -/

/-- Bit `j` of a mask that is packed from conditions. -/
theorem getLsbD_packBits (f : Nat → Bool) {j : Nat} (hj : j < 64) :
    (BitVec.ofNat 64 (packNat 1 (fun i => bit (f i)) 64)).getLsbD j = f j := by
  have fits : ∀ i, bit (f i) < 2 ^ 1 := fun i => by cases f i <;> decide
  have field := packNat_field 1 _ fits hj
  rw [Nat.one_mul, Nat.pow_one] at field
  rw [BitVec.getLsbD_ofNat, Nat.testBit_eq_decide_div_mod_eq, field]
  cases f j <;> simp [hj, bit]

/-- The flag `f` where a condition holds, of every active lane together: `f` or nothing. -/
theorem allFlags_flagIf (f : BitVec 6) (hf : f ≠ 0) (on c : Nat → Bool) :
    let g := allFlags ((List.range 64).map fun i => if on i then flagIf (c i) f else 0)
    (g = f ∨ g = 0) ∧ (g = f ↔ ∃ j < 64, on j = true ∧ c j = true) := by
  intro g
  by_cases raised : ∃ j < 64, on j = true ∧ c j = true
  · have all : g = f := by
      obtain ⟨j, hj, active, holds⟩ := raised
      refine BitVec.eq_of_getLsbD_eq fun k _ => Bool.eq_iff_iff.2 ?_
      rw [getLsbD_allFlags_lanes]
      refine ⟨fun ⟨i, _, hi⟩ => ?_, fun hk => ⟨j, hj, by simpa [active, holds, flagIf] using hk⟩⟩
      by_cases active : on i = true <;> by_cases holds : c i = true <;> simp [active, holds, flagIf] at hi
      exact hi
    exact ⟨.inl all, fun _ => raised, fun _ => all⟩
  · have none : g = 0 := by
      refine allFlags_eq_zero fun q hq => ?_
      obtain ⟨j, hj, rfl⟩ := List.mem_map.1 hq
      by_cases active : on j = true
      · have : c j = false := Bool.eq_false_iff.2 fun holds => raised ⟨j, List.mem_range.1 hj, active, holds⟩
        simp [this, flagIf]
      · simp [active]
    exact ⟨.inr none, fun all => absurd (all.symm.trans none) hf, fun h => absurd h raised⟩

/-! ### Compares and mask logic -/

section
variable {s : State} (h : Alone 1 s) (d : Fin 16) (a b : Fin 64) (p : Fin 16) (n : Bool)
include h

/-- A compare lands the condition of each lane, and the flags of the active lanes (R146). -/
theorem vcmpOp_next (f : BitVec 32 → BitVec 32 → Bool × BitVec 6) :
    ∃ v, vcmpOp f d a b p n s = .next (land 2 (.mreg d v (laneMask (curArch s) p n)) (allFlags ((List.range 64).map fun j =>
        if (laneMask (curArch s) p n).getLsbD j then (f (laneOf s a j) (laneOf s b j)).2 else 0)) (issued s)) ∧
      ∀ j < 64, v.getLsbD j = (f (laneOf s a j) (laneOf s b j)).1 := by
  rw [vcmpOp, mForm_next (h := h)]
  simp only [laneOf]
  exact ⟨_, rfl, fun j hj => getLsbD_packBits (fun j => (f (laneOf s a j) (laneOf s b j)).1) hj⟩

/-- A compare that raises no flag. -/
theorem vcmpOp_lands (f : BitVec 32 → BitVec 32 → Bool) :
    ∃ v, vcmpOp (fun x y => (f x y, 0)) d a b p n s = .next (land 2 (.mreg d v (laneMask (curArch s) p n)) 0 (issued s)) ∧
      ∀ j < 64, LaneOn s p n j → v.getLsbD j = f (laneOf s a j) (laneOf s b j) := by
  have quiet : allFlags ((List.range 64).map fun j => if (laneMask (curArch s) p n).getLsbD j then (0 : BitVec 6) else 0) = 0 :=
    allFlags_eq_zero (by simp)
  obtain ⟨v, next, bits⟩ := vcmpOp_next h d a b p n fun x y => (f x y, 0)
  rw [quiet] at next
  exact ⟨v, next, fun j hj _ => bits j hj⟩

/-- An ordered compare of FP32 lanes: a NaN in an active lane raises NV. -/
theorem vcmpOp_signals (f : Num → Num → Bool) :
    let nan (j : Nat) : Bool := (num32 (laneOf s a j)).isNan || (num32 (laneOf s b j)).isNan
    ∃ v g, vcmpOp (fpCond f true) d a b p n s = .next (land 2 (.mreg d v (laneMask (curArch s) p n)) g (issued s)) ∧
      (∀ j < 64, LaneOn s p n j → v.getLsbD j = f (num32 (laneOf s a j)) (num32 (laneOf s b j))) ∧
      (g = fNV ∨ g = 0) ∧ (g = fNV ↔ ∃ j < 64, LaneOn s p n j ∧ nan j = true) := by
  intro nan
  obtain ⟨v, next, bits⟩ := vcmpOp_next h d a b p n (fpCond f true)
  exact ⟨v, _, next, fun j hj _ => bits j hj, allFlags_flagIf fNV (by decide) (fun j => (laneMask (curArch s) p n).getLsbD j) nan⟩

end

/-- Settles O27: compares by `vcmpOp_lands` and `vcmpOp_signals`, mask logic by its one form. -/
theorem vectorComparesAndMasks : Obligations.VectorComparesAndMasks := by
  unfold Obligations.VectorComparesAndMasks
  refine ⟨fun s d a b p n h => ?_, fun s d a b p e n h => ?_⟩
  · intro r on x y nan lt gt eq gives signals
    have quiet {i : Instr} (f : BitVec 32 → BitVec 32 → Bool) (hi : exec i s = vcmpOp (fun x y => (f x y, 0)) d a b p n s)
        {v : Nat → Bool} (hv : ∀ j, f (x j) (y j) = v j) : gives i v := by
      change ∃ _, exec i s = _ ∧ _
      rw [hi, ← funext hv]
      exact vcmpOp_lands h d a b p n f
    have ordered {i : Instr} (f : Num → Num → Bool) (hi : exec i s = vcmpOp (fpCond f true) d a b p n s) :
        signals i fun j => f (num32 (x j)) (num32 (y j)) := by
      change ∃ _ _, exec i s = _ ∧ _
      rw [hi]
      exact vcmpOp_signals h d a b p n f
    have eqW := quiet (i := .vcmpEq d a b p n true) (fun x y => decide (x = y)) rfl fun _ => rfl
    have neW := quiet (i := .vcmpNe d a b p n true) (· != ·) rfl (v := fun j => decide (x j ≠ y j)) fun j => Bool.eq_iff_iff.2 (by simp)
    have ltW := quiet (i := .vcmpLt d a b p n true) (fun x y => x.slt y) rfl fun _ => rfl
    have leW := quiet (i := .vcmpLe d a b p n true) (fun x y => x.sle y) rfl fun _ => rfl
    have gtW := quiet (i := .vcmpGt d a b p n true) (fun x y => y.slt x) rfl fun _ => rfl
    have geW := quiet (i := .vcmpGe d a b p n true) (fun x y => y.sle x) rfl fun _ => rfl
    have ltu := quiet (i := .vcmpLtu d a b p n) (fun x y => x.ult y) rfl fun _ => rfl
    have geu := quiet (i := .vcmpGeu d a b p n) (fun x y => y.ule x) rfl fun _ => rfl
    have feq := quiet (i := .vcmpEq d a b p n false) (fun x y => numEq (num32 x) (num32 y)) rfl fun _ => rfl
    have fne := quiet (i := .vcmpNe d a b p n false) (fun x y => !numEq (num32 x) (num32 y)) rfl fun _ => rfl
    have un := quiet (i := .vcmpUn d a b p n) (fun x y => (num32 x).isNan || (num32 y).isNan) rfl fun _ => rfl
    have ord := quiet (i := .vcmpOrd d a b p n) (fun x y => !((num32 x).isNan || (num32 y).isNan)) rfl fun _ => rfl
    have flt := ordered (i := .vcmpLt d a b p n false) numLt rfl
    have fle := ordered (i := .vcmpLe d a b p n false) (fun x y => numLt x y || numEq x y) rfl
    have fgt := ordered (i := .vcmpGt d a b p n false) (fun x y => numLt y x) rfl
    have fge := ordered (i := .vcmpGe d a b p n false) (fun x y => numLt y x || numEq x y) rfl
    exact ⟨eqW, neW, ltW, leW, gtW, geW, ltu, geu, feq, fne, un, ord, flt, fle, fgt, fge⟩
  · intro r g gives
    have logic {i : Instr} (f : Arch → Word) (hi : exec i s = maskOp f d p n s) : gives i (f r) :=
      hi.trans (mForm_next d 1 _ _ s h)
    have mand := logic (i := .mand d a b p n) (fun r => rM r a &&& rM r b) rfl
    have mor := logic (i := .mor d a b p n) (fun r => rM r a ||| rM r b) rfl
    have mnot := logic (i := .mnot d a p n) (fun r => ~~~(rM r a)) rfl
    refine ⟨mand, mor, mnot, ?_⟩
    rw [← popCount_eq]
    exact (show execMpopc e a p n s = _ from sForm_next e 1 _ s h)

/-! ### The softmax triple -/

/-- An encoding with the top exponent and a fraction is a NaN (R79). -/
theorem isNan_num32 {x : BitVec 32} (top : x.toNat / 2 ^ 23 % 2 ^ 8 = 255) (fraction : x.toNat % 2 ^ 23 ≠ 0) :
    (num32 x).isNan = true := by
  have nan : num32 x = .nan := by
    unfold num32 decodeFp
    exact (if_pos ⟨rfl, top⟩).trans (if_neg fraction)
  rw [nan, Num.isNan]

/-- A value that no maximum with another exceeds is −∞ itself, unless it is a NaN: −∞ is the least of the order of R122. -/
theorem eq_negInf_of_orderKey_le {x : BitVec 32} (hn : (num32 x).isNan = false) (h : orderKey x ≤ orderKey 0xFF800000) :
    x = 0xFF800000 := by
  have number : ¬ (x.toNat / 2 ^ 23 % 2 ^ 8 = 255 ∧ x.toNat % 2 ^ 23 ≠ 0) := fun nan =>
    Bool.false_ne_true (hn.symm.trans (isNan_num32 nan.1 nan.2))
  have least : orderKey 0xFF800000 = -0x7F800001 := by decide
  have size := x.isLt
  have sign : x.getLsbD 31 = decide (x.toNat / 2 ^ 31 % 2 = 1) := by
    rw [BitVec.getLsbD, Nat.testBit_eq_decide_div_mod_eq]
  apply BitVec.eq_of_toNat_eq
  rw [least, orderKey, sign] at h
  change x.toNat = 0xFF800000
  by_cases negative : x.toNat / 2 ^ 31 % 2 = 1
  · rw [if_pos (decide_eq_true negative)] at h
    omega
  · rw [if_neg (by simpa using negative)] at h
    omega

/-- A maximum of −∞ has −∞ on its left (R122). -/
theorem eq_negInf_of_max {x y : BitVec 32} (hx : (num32 x).isNan = false) (hy : (num32 y).isNan = false)
    (h : fpMinMax true x y = 0xFF800000) : x = 0xFF800000 := by
  simp only [fpMinMax, hx, hy, Bool.false_eq_true, if_false] at h
  split at h
  · exact h
  · next le =>
    subst h
    exact eq_negInf_of_orderKey_le hx (by simpa using le)

/-- A weight of the update, its two roundings written out (R156). -/
theorem tripWeight_eq (r : RMode) (c nm : BitVec 32) :
    let y := fpAdd r (num32 c) (num32 nm).flip
    let z := fpMul r (num32 (BitVec.ofNat 32 y.bits)) (num32 0x3FB8AA3B)
    let w := fpExp2 r (num32 (BitVec.ofNat 32 z.bits))
    tripWeight r c nm = if nm = 0x7F800000 then ⟨if c = 0x7F800000 then 0x3F800000 else 0, 0⟩
      else ⟨w.bits, y.flags ||| z.flags ||| w.flags⟩ := by
  simp only [tripWeight, expE, BitVec.or_assoc]

/-- Lane `j` of `VTRIP` on v[d], v[d + 1], v[d + 2], v[a] and v[b]. -/
def tripAt (s : State) (d a b : Fin 64) (j : Nat) : (BitVec 32 × BitVec 32 × BitVec 32) × BitVec 6 :=
  tripLane (rmodeOf (curArch s).fmt) (laneOf s d j) (laneOf s (d + 1) j) (laneOf s (d + 2) j) (laneOf s a j) (laneOf s b j)

/-- Vector registers are written under different names. -/
theorem vectorWrite_injective : Function.Injective fun d : Fin 64 => (⟨2, BitVec.ofNat 8 d.val⟩ : WReg) := by
  intro x y h
  have same : (BitVec.ofNat 8 x.val).toNat = (BitVec.ofNat 8 y.val).toNat := congrArg (fun w : WReg => w.reg.toNat) h
  rw [BitVec.toNat_ofNat, BitVec.toNat_ofNat] at same
  omega

/-- `VTRIP` lands its three registers, with the flags of every lane. -/
theorem vtrip_next {s : State} (h : Alone 3 s) (d a b : Fin 64) : exec (.vtrip d a b) s =
    .next (land 12 (.vreg (d + 2) (ofLanes fun j => (tripAt s d a b j).1.2.2) (BitVec.allOnes 64)) 0
      (land 12 (.vreg (d + 1) (ofLanes fun j => (tripAt s d a b j).1.2.1) (BitVec.allOnes 64)) 0
        (land 12 (.vreg d (ofLanes fun j => (tripAt s d a b j).1.1) (BitVec.allOnes 64))
          (allFlags ((List.range 64).map fun j => (tripAt s d a b j).2)) (issued s)))) := by
  change execVtrip d a b s = _
  have distinct : [d, d + 1, d + 2].Nodup := by simp
  unfold execVtrip
  refine runSlot_does h (Nat.le_refl 3) (distinct.map vectorWrite_injective) (.inl rfl) rfl rfl ?_
  simp only [curArch_issued]
  rfl

/-- Settles O30: each lane by the three cases of the triple's update. -/
theorem softmaxTriple : Obligations.SoftmaxTriple := by
  unfold Obligations.SoftmaxTriple
  intro s d a b h _ r rm val lane cm cl co sc u nan nm minus scaled power weight alpha beta sum kept acc
  have weights (x : BitVec 32) (j : Nat) : tripWeight rm x (nm j) = weight x j := tripWeight_eq rm x (nm j)
  have anyNan (j : Nat) : ([cm j, cl j, co j, sc j, u j].any fun x => (num32 x).isNan) = true ↔ nan j := by simp [nan]
  have ofNan {j : Nat} (hj : nan j) : tripAt s d a b j = ((0x7FC00000, 0x7FC00000, 0x7FC00000), fNV) := if_pos ((anyNan j).2 hj)
  have numbers {j : Nat} (hj : ¬ nan j) : tripAt s d a b j = if nm j = 0xFF800000 then ((cm j, cl j, co j), 0) else
      ((nm j, BitVec.ofNat 32 (sum j).bits, BitVec.ofNat 32 (acc j).bits),
        (alpha j).flags ||| (beta j).flags ||| (sum j).flags ||| (kept j).flags ||| (acc j).flags) := by
    refine (if_neg (mt (anyNan j).1 hj)).trans ?_
    simp only [sum, acc, kept, alpha, beta, ← weights]
    rfl
  have ofLow {j : Nat} (hj : ¬ nan j) (hm : nm j = 0xFF800000) : tripAt s d a b j = ((cm j, cl j, co j), 0) :=
    (numbers hj).trans (if_pos hm)
  have ofNew {j : Nat} (hj : ¬ nan j) (hm : nm j ≠ 0xFF800000) := (numbers hj).trans (if_neg hm)
  refine ⟨_, _, _, _, vtrip_next h d a b, fun j hj => ?_, fun n _ => ?_⟩
  · simp only [elem_ofLanes _ hj]
    refine ⟨fun hn => by simp [ofNan hn], fun hn => ?_, fun hn hm => by simp [ofLow hn hm], fun hn hm => by simp [ofNew hn hm]⟩
    by_cases hm : nm j = 0xFF800000
    · rw [ofLow hn hm, hm]
      have left : (num32 (cm j)).isNan = false := Bool.eq_false_iff.2 fun e => hn (.inl e)
      have right : (num32 (sc j)).isNan = false := Bool.eq_false_iff.2 fun e => hn (.inr (.inr (.inr (.inl e))))
      exact eq_negInf_of_max left right hm
    · rw [ofNew hn hm]
  · rw [getLsbD_allFlags_lanes]
    refine exists_congr fun j => and_congr_right fun _ => ?_
    by_cases hn : nan j
    · simp [hn, ofNan hn]
    · by_cases hm : nm j = 0xFF800000
      · simp [hn, hm, ofLow hn hm]
      · rw [ofNew hn hm]
        exact ⟨fun raised => .inr ⟨hn, hm, raised⟩, fun
          | .inl ⟨isNan, _⟩ => absurd isNan hn
          | .inr ⟨_, _, raised⟩ => raised⟩

end Sys2Proof.Machine
end

section
/-! PROOFS. The vector accesses to the scratchpad: rows, and words of the active lanes (R157 to R159, R281, R375, R393). -/

namespace Sys2Proof.Machine

open Sys2Proof.Safety

/-! ### Rows -/

/-- Byte `j` of a vector register (R65). -/
theorem getD_vBytes (x : VReg) {j : Nat} (hj : j < 256) : (vBytes x).getD j 0 = elem x 8 j := by
  apply BitVec.eq_of_toNat_eq
  rw [vBytes, getD_leBytes hj, elem, BitVec.extractLsb'_toNat, BitVec.toNat_ofNat, Nat.shiftRight_eq_div_pow, Nat.pow_mul]

@[simp] theorem length_vBytes (x : VReg) : (vBytes x).length = 256 := leBytes_length ..

/-- A store at issue writes its bytes but those of a word in error that it covers in part, which is reported, and leaves the rest of
the machine (R123, R158, R393). -/
theorem slotStore_reportPart (s : State) (opc : Nat) (c : Fin 16) (off : Nat) (bs : List Byte) :
    let t := slotStore (reportPart opc c off bs.length (issued s)) off bs
    let key := spadKey (coreOf s.cur) off
    (∀ j < bs.length, byteAt t (key + j) = if ∃ b ∈ badParts s key bs.length, b ≤ key + j ∧ key + j < b + codeWord b
      then byteAt s (key + j) else bs.getD j 0) ∧
    (∀ b, b < key ∨ key + bs.length ≤ b → byteAt t b = byteAt s b) ∧ (∀ k, (ctxAt t k).arch = (ctxAt s k).arch) ∧
    (∀ k, (ctxAt t k).flight = (ctxAt s k).flight) ∧ t.cores = s.cores ∧ t.slices = s.slices := by
  intro t key
  obtain ⟨mem, bad, cores, slices, cur⟩ := reportPart_keeps opc c off bs.length (issued s)
  have write : t = putBytes (reportPart opc c off bs.length (issued s)) key bs := by
    simp only [t, slotStore, cur, issued_cur, key]
  refine ⟨fun j hj => ?_, fun b hb => ?_, fun k => ?_, fun k => ?_, cores, slices⟩
  · rw [byteAt, write, memGet_putBytes_in _ _ _ hj, badParts, bad, mem]
    rfl
  · rw [byteAt, write, memGet_putBytes_out _ _ _ _ hb, mem]
    rfl
  · exact (ctxAt_reportPart ..).1.trans (ctxAt_issued_keeps s k).1
  · exact (ctxAt_reportPart ..).2.trans (ctxAt_issued_keeps s k).2

section
variable {s : State} {d a : Fin 64} {o : BitVec 32} {c : Fin 16} (h : Alone 1 s) (ok : spadOk (memAddr s a o 256) 256 64 = true)
include h ok

theorem vld_lands (hu : Untouched s (memAddr s a o 256).toNat 256)
    (hb : badAt s (spadKey (coreOf s.cur) (memAddr s a o 256).toNat) 256 = false) : exec (.vld d a o c) s =
      .next (land 3 (.vreg d (BitVec.ofNat 2048 (memVal s.mem (spadKey (coreOf s.cur) (memAddr s a o 256).toNat) 256))
        (BitVec.allOnes 64)) 0 (issued s)) := by
  change execVld d a o c s = _
  unfold execVld
  refine runSlot_does h (Nat.le_refl 1) (wrV_nodup d) (.inl rfl) (spadFaults_load ok) ((waitsMet_spad ..).trans hu) ?_
  have clean : badAt (issued s) (spadKey (coreOf s.cur) (memAddr s a o 256).toNat) 256 = false := hb
  simp [clean]

theorem vld_spdata (hu : Untouched s (memAddr s a o 256).toNat 256)
    (hb : badAt s (spadKey (coreOf s.cur) (memAddr s a o 256).toNat) 256 = true) : exec (.vld d a o c) s =
      .next (landFault 3 (.vreg d 0 (BitVec.allOnes 64)) (spData (issued s) 0x70 c d 3 0 (memAddr s a o 256).toNat
        (.spload [some (memAddr s a o 256).toNat] 256 false) (.vreg d 0 (BitVec.allOnes 64))) (issued s)) := by
  change execVld d a o c s = _
  unfold execVld
  refine runSlot_does h (Nat.le_refl 1) (wrV_nodup d) (.inl rfl) (spadFaults_load ok) ((waitsMet_spad ..).trans hu) ?_
  have error : badAt (issued s) (spadKey (coreOf s.cur) (memAddr s a o 256).toNat) 256 = true := hb
  simp [error]

theorem vld_waits (hu : ¬ Untouched s (memAddr s a o 256).toNat 256) : exec (.vld d a o c) s =
    .next (goWaiting [.earlier (spadKey (coreOf s.cur) (memAddr s a o 256).toNat) 256] s) := by
  change execVld d a o c s = _
  unfold execVld
  exact runSlot_holds h (Nat.le_refl 1) (wrV_nodup d) rfl (spadFaults_load ok) ((waitsMet_spad ..).trans (Bool.not_eq_true _ ▸ hu))

theorem vst_waits (hu : ¬ Untouched s (memAddr s a o 256).toNat 256)
    (hc : meets (claimedTiles (curCore s)) (memAddr s a o 256).toNat 256 = false)
    (hp : pendingSource s (memAddr s a o 256).toNat 256 = none) : exec (.vst d a o c) s =
      .next (goWaiting [.earlier (spadKey (coreOf s.cur) (memAddr s a o 256).toNat) 256] s) := by
  change execVst d a o c s = _
  unfold execVst
  exact runSlot_holds h (Nat.zero_le 1) .nil rfl (spadFaults_store ok hc hp) ((waitsMet_spad ..).trans (Bool.not_eq_true _ ▸ hu))

theorem vst_stores (hs : Storable s (memAddr s a o 256).toNat 256) : exec (.vst d a o c) s =
    .next (slotStore (reportPart 0x71 c (memAddr s a o 256).toNat 256 (issued s)) (memAddr s a o 256).toNat
      (vBytes (rV (curArch s) d))) := by
  obtain ⟨hu, hc, hp⟩ := hs
  change execVst d a o c s = _
  unfold execVst
  refine runSlot_does h (Nat.zero_le 1) .nil (.inl rfl) (spadFaults_store ok hc hp) ((waitsMet_spad ..).trans hu) ?_
  simp only [memAddr_issued, curArch_issued]

end

/-! ### The checks of the active lanes -/

/-- What the active lanes wait for, lane by lane (R281). -/
theorem laneWaits_eq (s : State) (f : Arch → Nat → Word) (p : Fin 16) (n : Bool) : laneWaits s f p n =
    (activeLanes (curArch s) p n).map fun j => .earlier (spadKey (coreOf s.cur) (f (curArch s) j).toNat) 4 := by
  rw [List.map_eq_flatMap]
  rfl

theorem waitsMet_earlier (s : State) (k : Fin 1024) (rings tiles : List (Fin 8 × Nat)) (lo : Nat → Nat) (n : Nat) (l : List Nat) :
    waitsMet s k rings tiles (l.map fun j => .earlier (lo j) n) = l.all fun j => earlierDone s k (lo j) n := by
  induction l with
  | nil => rfl
  | cons j r ih => exact congrArg (earlierDone s k (lo j) n && ·) ih

/-- The faults of a slot access inside the scratchpad are CLAIM and XORDER (R381). -/
theorem spadFaults_inside {s : State} {x : Word} {n al : Nat} {store : Bool} (ok : spadOk x n al = true) {g : FaultRec}
    (hg : g ∈ spadFaults s x n al store) : g.code.toNat ∈ [0x10, 0x11] := by
  have order {sub : Nat} {m : Option (Fin 8)} {x y z : Word} : (mkFault 0x10 sub m x y z).code.toNat = 0x10 :=
    toNat_mkFault_code (by decide) ..
  have claim {sub : Nat} {m : Option (Fin 8)} {x y z : Word} : (mkFault 0x11 sub m x y z).code.toNat = 0x11 :=
    toNat_mkFault_code (by decide) ..
  cases store with
  | false => rw [spadFaults_load ok] at hg; exact absurd hg List.not_mem_nil
  | true =>
    simp only [spadFaults, ok, Bool.not_true, Bool.false_eq_true, if_false, if_true, slotFault] at hg
    rcases List.mem_append.1 hg with hg | hg <;> split at hg <;> simp at hg
    · simp [hg, claim]
    · simp [hg, order]

/-- Among faults of slot accesses the first SPADDR is taken (R375). -/
theorem firstFault_spaddr {l : List FaultRec} {f : FaultRec} (hf : l.find? (fun g => g.code.toNat = 0x08) = some f)
    (hl : ∀ g ∈ l, g.code.toNat ∈ [0x08, 0x10, 0x11]) : firstFault l = some f := by
  have none {c : Nat} (hc : c ∉ [0x08, 0x10, 0x11]) : l.find? (fun g => g.code.toNat = c) = none :=
    List.find?_eq_none.2 fun g hg e => hc (of_decide_eq_true e ▸ hl g hg)
  simp [firstFault, codeOrder, none, hf]

theorem mem_activeLanes (r : Arch) (p : Fin 16) (n : Bool) (j : Nat) :
    j ∈ activeLanes r p n ↔ j < 64 ∧ (laneMask r p n).getLsbD j = true := by simp [activeLanes]

/-- The active lanes stand in order: before one of them stand lower ones. -/
theorem activeLanes_split {r : Arch} {p : Fin 16} {n : Bool} {j : Nat} (hj : j ∈ activeLanes r p n) :
    ∃ before after, activeLanes r p n = before ++ j :: after ∧ (∀ k ∈ before, k < j) ∧ ∀ k ∈ after, j < k := by
  obtain ⟨before, after, eq⟩ := List.append_of_mem hj
  have rising : (activeLanes r p n).Pairwise (· < ·) := List.pairwise_lt_range.filter _
  rw [eq, List.pairwise_append, List.pairwise_cons] at rising
  obtain ⟨-, ⟨above, -⟩, below⟩ := rising
  exact ⟨before, after, eq, fun k hk => below k hk j List.mem_cons_self, above⟩

section
variable {s : State} {f : Arch → Nat → Word} {p : Fin 16} {n : Bool}

theorem laneFaults_load (ok : ∀ j ∈ activeLanes (curArch s) p n, spadOk (f (curArch s) j) 4 4 = true) :
    laneFaults s f p n false = [] :=
  List.flatMap_eq_nil_iff.2 fun j hj => spadFaults_load (ok j hj)

theorem laneFaults_store (ok : ∀ j ∈ activeLanes (curArch s) p n, spadOk (f (curArch s) j) 4 4 = true)
    (free : ∀ j ∈ activeLanes (curArch s) p n, Storable s (f (curArch s) j).toNat 4) : laneFaults s f p n true = [] :=
  List.flatMap_eq_nil_iff.2 fun j hj => spadFaults_store (ok j hj) (free j hj).2.1 (free j hj).2.2

/-- Every fault of the lanes has one of the three codes of a slot access (R381). -/
theorem laneFaults_code {store : Bool} {g : FaultRec} (hg : g ∈ laneFaults s f p n store) : g.code.toNat ∈ [0x08, 0x10, 0x11] := by
  obtain ⟨j, -, hj⟩ := List.mem_flatMap.1 hg
  cases ok : spadOk (f (curArch s) j) 4 4 with
  | true => exact List.mem_cons_of_mem _ (spadFaults_inside ok hj)
  | false =>
    rw [spadFaults_outside store ok] at hj
    rw [List.mem_singleton.1 hj, toNat_mkFault_code (by decide)]
    exact List.mem_cons_self

/-- The first active lane outside the scratchpad gives the fault (R159, R375). -/
theorem firstFault_laneFaults (store : Bool) {j : Nat} (hj : j ∈ activeLanes (curArch s) p n)
    (outside : spadOk (f (curArch s) j) 4 4 = false)
    (before : ∀ k < j, k ∈ activeLanes (curArch s) p n → spadOk (f (curArch s) k) 4 4 = true) :
    firstFault (laneFaults s f p n store) = some (mkFault 0x08 s.slot.val (some s.slot) (f (curArch s) j) 0 0) := by
  refine firstFault_spaddr ?_ fun g => laneFaults_code
  obtain ⟨lower, higher, eq, below, -⟩ := activeLanes_split hj
  rw [laneFaults, List.find?_flatMap, List.findSome?_eq_some_iff]
  refine ⟨lower, j, higher, eq, ?_, fun k hk => List.find?_eq_none.2 fun g hg => ?_⟩
  · rw [spadFaults_outside store outside, List.find?_cons_of_pos]
    exact decide_eq_true (toNat_mkFault_code (by decide) ..)
  · have inside := spadFaults_inside (before k (below k hk) (eq ▸ List.mem_append_left _ hk)) hg
    rw [decide_eq_true_iff]
    intro code
    rw [code] at inside
    exact absurd inside (by decide)

/-- An access of the lanes faults with SPADDR where one of them lies outside, whatever else it finds (R159, R375). -/
theorem runSlot_laneFault {probe : State → Probe} {effect : State → State} {m : Nat} (ha : Alone m s) (hn : (probe s).results ≤ m)
    (hw : (probe s).writes.Nodup) (hu : (probe s).unread = []) {store : Bool} (hf : (probe s).faults = laneFaults s f p n store)
    {j : Nat} (hj : j ∈ activeLanes (curArch s) p n) (outside : spadOk (f (curArch s) j) 4 4 = false)
    (before : ∀ k < j, k ∈ activeLanes (curArch s) p n → spadOk (f (curArch s) k) 4 4 = true) :
    runSlot probe effect s = taken (mkFault 0x08 s.slot.val (some s.slot) (f (curArch s) j) 0 0) s := by
  refine runSlot_taken ha hn hw hu (fun g hg delay => ?_) (hf ▸ firstFault_laneFaults store hj outside before)
  have code := laneFaults_code (hf ▸ hg)
  rw [delay] at code
  exact absurd code (by decide)

/-- The waits of the lanes are met when every active lane's bytes are settled (R281). -/
theorem waitsMet_laneWaits : waitsMet s s.cur [] [] (laneWaits s f p n) = true ↔
    ∀ j ∈ activeLanes (curArch s) p n, Untouched s (f (curArch s) j).toNat 4 := by
  rw [laneWaits_eq, waitsMet_earlier _ _ _ _ fun j => spadKey (coreOf s.cur) (f (curArch s) j).toNat, List.all_eq_true]
  rfl

end

/-! ### Gathers -/

section
variable {s : State} {f : Arch → Nat → Word} {p : Fin 16} {n : Bool} {opc : Nat} {d : Fin 64}

/-- `VLDS` and `VGATH` land the words that their active lanes name (R159). -/
theorem gatherForm_lands (h : Alone 1 s) (ok : ∀ j ∈ activeLanes (curArch s) p n, spadOk (f (curArch s) j) 4 4 = true)
    (hu : ∀ j ∈ activeLanes (curArch s) p n, Untouched s (f (curArch s) j).toNat 4)
    (hb : ∀ j ∈ activeLanes (curArch s) p n, badAt s (spadKey (coreOf s.cur) (f (curArch s) j).toNat) 4 = false) :
    ∃ v, gatherForm opc f d p n s = .next (land 6 (.vreg d v (laneMask (curArch s) p n)) 0 (issued s)) ∧
      ∀ j ∈ activeLanes (curArch s) p n,
        elem v 32 j = BitVec.ofNat 32 (memVal s.mem (spadKey (coreOf s.cur) (f (curArch s) j).toNat) 4) := by
  have clean : (activeLanes (curArch s) p n).find? (fun j => badAt (issued s) (spadKey (coreOf s.cur) (f (curArch s) j).toNat) 4) =
      none := List.find?_eq_none.2 fun j hj => Bool.eq_false_iff.1 (hb j hj)
  rw [gatherForm, runSlot_plain _ _ s 1 h (laneFaults_load ok) (.inl rfl) (wrV_nodup d) (Nat.le_refl 1) (waitsMet_laneWaits.2 hu)]
  simp only [curArch_issued, issued_cur, clean, issued_mem]
  refine ⟨_, rfl, fun j hj => ?_⟩
  obtain ⟨lt, on⟩ := (mem_activeLanes ..).1 hj
  rw [elem_ofLanes _ lt]
  simp [lt, on]

theorem gatherForm_waits (h : Alone 1 s) (ok : ∀ j ∈ activeLanes (curArch s) p n, spadOk (f (curArch s) j) 4 4 = true)
    (hu : ∃ j ∈ activeLanes (curArch s) p n, ¬ Untouched s (f (curArch s) j).toNat 4) : gatherForm opc f d p n s =
      .next (goWaiting ((activeLanes (curArch s) p n).map fun j => .earlier (spadKey (coreOf s.cur) (f (curArch s) j).toNat) 4) s) := by
  have unmet : waitsMet s s.cur [] [] (laneWaits s f p n) = false := by
    rw [Bool.eq_false_iff, Ne, waitsMet_laneWaits]
    exact fun all => hu.elim fun j hj => hj.2 (all j hj.1)
  rw [← laneWaits_eq]
  unfold gatherForm
  exact runSlot_holds h (Nat.le_refl 1) (wrV_nodup d) rfl (laneFaults_load ok) unmet

theorem gatherForm_outside (h : Alone 1 s) {j : Nat} (hj : j ∈ activeLanes (curArch s) p n)
    (outside : spadOk (f (curArch s) j) 4 4 = false)
    (before : ∀ k < j, k ∈ activeLanes (curArch s) p n → spadOk (f (curArch s) k) 4 4 = true) :
    gatherForm opc f d p n s = taken (mkFault 0x08 s.slot.val (some s.slot) (f (curArch s) j) 0 0) s := by
  unfold gatherForm
  exact runSlot_laneFault h (Nat.le_refl 1) (wrV_nodup d) rfl rfl hj outside before

end

/-! ### Scatters -/

/-- Words stored one after another at offsets of a core's scratchpad. -/
def storeWords (off : Nat → Nat) (val : Nat → BitVec 32) (l : List Nat) (s : State) : State :=
  l.foldl (fun s j => slotStore s (off j) (leBytes 4 (val j).toNat)) s

/-- A write makes no word part of a bad one: it only takes marks away (R393). -/
theorem badPart_putBytes {s : State} {a n : Nat} (b : Nat) (bs : List Byte) (h : badPart s a n = false) :
    badPart (putBytes s b bs) a n = false := by
  simp only [badPart, badParts, Bool.not_eq_false', List.isEmpty_iff, List.filter_eq_nil_iff] at h ⊢
  exact fun w hw => h w (List.mem_of_mem_filter hw)

section
variable (off : Nat → Nat) (val : Nat → BitVec 32)

theorem badPart_storeWords (l : List Nat) {s : State} {a n : Nat} (h : badPart s a n = false) :
    badPart (storeWords off val l s) a n = false := by
  induction l generalizing s with
  | nil => exact h
  | cons j r ih => exact ih (badPart_putBytes _ _ h)

theorem storeWords_keeps (l : List Nat) (s : State) : (storeWords off val l s).cur = s.cur ∧ (storeWords off val l s).cores = s.cores ∧
    (storeWords off val l s).slices = s.slices ∧ (storeWords off val l s).ctxs = s.ctxs := by
  induction l generalizing s with
  | nil => exact ⟨rfl, rfl, rfl, rfl⟩
  | cons j r ih => exact ih _

/-- Bytes that none of the words covers stay. -/
theorem memGet_storeWords_out {l : List Nat} {s : State} {x : Nat}
    (hx : ∀ j ∈ l, x < spadKey (coreOf s.cur) (off j) ∨ spadKey (coreOf s.cur) (off j) + 4 ≤ x) :
    memGet (storeWords off val l s).mem x = memGet s.mem x := by
  induction l generalizing s with
  | nil => rfl
  | cons j r ih =>
    refine (ih (s := slotStore s (off j) (leBytes 4 (val j).toNat)) fun k hk => hx k (List.mem_cons_of_mem _ hk)).trans ?_
    exact memGet_putBytes_out _ _ _ _ (by rw [leBytes_length]; exact hx j List.mem_cons_self)

/-- A word read where no word was stored. -/
theorem memVal_congr {m m' : List Host.Cell} {a n : Nat} (h : ∀ i < n, memGet m (a + i) = memGet m' (a + i)) :
    memVal m a n = memVal m' a n := by
  rw [memVal, memVal, memRead_eq, memRead_eq]
  exact congrArg leVal (List.map_congr_left fun i hi => h i (List.mem_range.1 hi))

/-- Of several words at one place the last remains (R159). -/
theorem memVal_storeWords {before after : List Nat} {j : Nat} {s : State}
    (clean : badPart s (spadKey (coreOf s.cur) (off j)) 4 = false) (apart : ∀ k ∈ after, off j + 4 ≤ off k ∨ off k + 4 ≤ off j) :
    memVal (storeWords off val (before ++ j :: after) s).mem (spadKey (coreOf s.cur) (off j)) 4 = (val j).toNat := by
  have cur : (storeWords off val before s).cur = s.cur := (storeWords_keeps off val before s).1
  have last : storeWords off val (before ++ j :: after) s =
      storeWords off val after (slotStore (storeWords off val before s) (off j) (leBytes 4 (val j).toNat)) := List.foldl_append ..
  have later : ∀ i < 4, memGet (storeWords off val (before ++ j :: after) s).mem (spadKey (coreOf s.cur) (off j) + i) =
      memGet (slotStore (storeWords off val before s) (off j) (leBytes 4 (val j).toNat)).mem (spadKey (coreOf s.cur) (off j) + i) := by
    intro i hi
    rw [last]
    refine memGet_storeWords_out off val fun k hk => ?_
    rw [show (slotStore (storeWords off val before s) (off j) (leBytes 4 (val j).toNat)).cur = s.cur from cur]
    have := apart k hk
    simp only [spadKey, localKey]
    omega
  have write : (slotStore (storeWords off val before s) (off j) (leBytes 4 (val j).toNat)).mem =
      memWrite (storeWords off val before s).mem (spadKey (coreOf s.cur) (off j)) (leBytes 4 (val j).toNat) := by
    rw [slotStore, cur, putBytes_mem]
    rw [leBytes_length]
    exact badPart_storeWords off val before clean
  rw [memVal_congr later, write, memVal_write]
  exact Nat.mod_eq_of_lt (val j).isLt

end

/-- A scatter that nothing stops or holds stores its words (R159). -/
theorem vscat_stores {s : State} {m : Nat} (h : Alone m s) (d a b : Fin 64) (p : Fin 16) (n : Bool)
    (ok : ∀ j ∈ activeLanes (curArch s) p n, spadOk (indexAddr (curArch s) a b j) 4 4 = true)
    (free : ∀ j ∈ activeLanes (curArch s) p n, Storable s (indexAddr (curArch s) a b j).toNat 4)
    (clean : ∀ j ∈ activeLanes (curArch s) p n, badPart s (spadKey (coreOf s.cur) (indexAddr (curArch s) a b j).toNat) 4 = false) :
    exec (.vscat d a b p n) s = .next (storeWords (fun j => (indexAddr (curArch s) a b j).toNat) (laneOf s d)
      (activeLanes (curArch s) p n) (issued s)) := by
  have whole : (activeLanes (curArch s) p n).find?
      (fun j => badPart (issued s) (spadKey (coreOf s.cur) (indexAddr (curArch s) a b j).toNat) 4) = none :=
    List.find?_eq_none.2 fun j hj => (show badPart (issued s) _ 4 = false from clean j hj) ▸ Bool.false_ne_true
  change execVscat d a b p n s = _
  unfold execVscat
  have noFault : laneFaults s (fun r j => indexAddr r a b j) p n true = [] := laneFaults_store ok free
  have noWait : waitsMet s s.cur [] [] (laneWaits s (fun r j => indexAddr r a b j) p n) = true :=
    waitsMet_laneWaits.2 fun j hj => (free j hj).1
  refine runSlot_does h (Nat.zero_le m) List.nodup_nil (.inl rfl) noFault noWait ?_
  simp only [curArch_issued, issued_cur, whole]
  rfl

/-- Settles O31: rows by `vld_lands` and `slotStore_reportPart`, lanes by the shared form of gathers and by `storeWords`. -/
theorem vectorMemory : Obligations.VectorMemory := by
  unfold Obligations.VectorMemory
  refine ⟨fun s d a o c h => ?_, fun s d a b p n h => ?_⟩
  · intro addr key hend hal
    have ok : spadOk (memAddr s a o 256) 256 64 = true := spadOk_iff.2 ⟨hend, hal⟩
    refine ⟨vld_lands h ok, fun hu hb => ⟨_, vld_spdata h ok hu hb, rfl, rfl, BitVec.ofNat_toNat 64 addr⟩, vld_waits h ok,
      vst_waits h ok, fun hs => ⟨_, vst_stores h ok hs, ?_⟩⟩
    obtain ⟨inside, outside, rest⟩ := slotStore_reportPart s 0x71 c addr.toNat (vBytes (rV (curArch s) d))
    rw [length_vBytes] at inside outside rest
    refine ⟨fun j hj => ?_, outside, rest⟩
    rw [← getD_vBytes _ hj]
    exact inside j hj
  · intro r on stride index fine key loads waits faults
    have active {j : Nat} : j ∈ activeLanes r p n ↔ on j := mem_activeLanes r p n j
    have good {x : Word} : spadOk x 4 4 = true ↔ fine x := spadOk_iff
    have bad {x : Word} (hx : ¬ fine x) : spadOk x 4 4 = false := Bool.eq_false_iff.2 (mt good.1 hx)
    have gathers {opc : Nat} {i : Instr} {f : Arch → Nat → Word} (hi : exec i s = gatherForm opc f d p n s) :
        loads i (f r) ∧ waits i (f r) ∧ faults i (f r) := by
      refine ⟨fun all => ?_, fun ok some => ?_, fun j hj out before => ?_⟩
      · rw [hi]
        obtain ⟨v, next, words⟩ := gatherForm_lands (opc := opc) (d := d) (f := f) h (fun j hj => good.2 (all j (active.1 hj)).1)
          (fun j hj => (all j (active.1 hj)).2.1) (fun j hj => (all j (active.1 hj)).2.2)
        exact ⟨v, next, fun j hj => words j (active.2 hj)⟩
      · rw [hi]
        obtain ⟨j, hj, busy⟩ := some
        exact gatherForm_waits h (fun j hj => good.2 (ok j (active.1 hj))) ⟨j, active.2 hj, busy⟩
      · rw [hi]
        exact gatherForm_outside h (active.2 hj) (bad out) fun k hk on => good.2 (before k hk (active.1 on))
    obtain ⟨vldsLoads, vldsWaits, vldsFaults⟩ := gathers (i := .vlds d a b p n) (opc := 0x72) (f := fun r j => strideAddr r a b j) rfl
    obtain ⟨vgathLoads, vgathWaits, vgathFaults⟩ :=
      gathers (i := .vgath d a b p n) (opc := 0x73) (f := fun r j => indexAddr r a b j) rfl
    refine ⟨vldsLoads, vgathLoads, vldsWaits, vgathWaits, vldsFaults, vgathFaults, fun j hj out before => ?_, fun all => ?_⟩
    · change execVscat d a b p n s = _
      unfold execVscat
      exact runSlot_laneFault (f := fun r j => indexAddr r a b j) h (Nat.zero_le 1) List.nodup_nil rfl rfl (active.2 hj) (bad out)
        fun k hk on => good.2 (before k hk (active.1 on))
    · refine ⟨_, vscat_stores h d a b p n (fun j hj => good.2 (all j (active.1 hj)).1) (fun j hj => (all j (active.1 hj)).2.1)
        (fun j hj => (all j (active.1 hj)).2.2), fun j hj highest => ?_, fun x hx => ?_, ?_⟩
      · obtain ⟨before, after, eq, -, above⟩ := activeLanes_split (active.2 hj)
        rw [eq]
        refine memVal_storeWords _ _ (all j hj).2.2 fun k hk => ?_
        have onK : on k := active.1 (eq ▸ List.mem_append_right before (List.mem_cons_of_mem j hk))
        have differ : (index k).toNat ≠ (index j).toNat := fun e => highest k (above k hk) onK (BitVec.eq_of_toNat_eq e)
        have alignedK : (index k).toNat % 4 = 0 := (all k onK).1.2
        have alignedJ : (index j).toNat % 4 = 0 := (all j hj).1.2
        change (index j).toNat + 4 ≤ (index k).toNat ∨ (index k).toNat + 4 ≤ (index j).toNat
        omega
      · exact memGet_storeWords_out _ _ fun j hj => hx j (active.1 hj)
      · obtain ⟨-, cores, slices, ctxs⟩ := storeWords_keeps (fun j => (indexAddr (curArch s) a b j).toNat) (laneOf s d)
          (activeLanes (curArch s) p n) (issued s)
        refine ⟨fun k => ?_, cores, slices⟩
        rw [ctxAt, ctxs]
        exact (ctxAt_issued_keeps s k).1

end Sys2Proof.Machine
end

section
/-! PROOFS. The rows of accumulator banks: read, written and cleared (R162 to R164, R228, R419). -/

namespace Sys2Proof.Machine

open Sys2Proof.Safety

/-! ### The checks of a bank access -/

theorem waitsMet_bank (s : State) (e : Fin 8) : waitsMet s s.cur [] [] (bankWaits s e) =
    earlierDone s s.cur (localKey 1 (coreOf s.cur).val (e.val * 0x10000)) 0x10000 := Bool.and_true _

theorem packNat_congr {w n : Nat} {f g : Nat → Nat} (h : ∀ i < n, f i = g i) : packNat w f n = packNat w g n := by
  induction n with
  | zero => rfl
  | succ n ih => rw [packNat, packNat, ih fun i hi => h i (Nat.lt_succ_of_lt hi), h n (Nat.lt_succ_self n)]

/-- A mask whose bands are all the issuer's has no foreign one (R175). -/
theorem notOwned_none {b : Bank} {mask : Nat} {k : Fin 4} (h : ∀ i < 8, mask / 2 ^ i % 2 = 1 → bandOwner b i = k.val) :
    notOwned b mask k = 0 := by
  have none : notOwned b mask k = packNat 1 (fun _ => 0) 8 :=
    packNat_congr fun i hi => if_neg fun ⟨named, foreign⟩ => foreign (h i hi named)
  rw [none]
  decide

/-- The mask of one band names that band. -/
theorem two_pow_names_iff (band i : Nat) : 2 ^ band / 2 ^ i % 2 = 1 ↔ i = band := by
  rw [← decide_eq_true_iff (p := _ % 2 = 1), ← Nat.testBit_eq_decide_div_mod_eq, Nat.testBit_two_pow, decide_eq_true_iff, eq_comm]

/-- A foreign band that a mask names alone (R175). -/
theorem notOwned_one {b : Bank} {band : Nat} {k : Fin 4} (hb : band < 8) (h : bandOwner b band ≠ k.val) :
    notOwned b (2 ^ band) k = 2 ^ band := by
  have one : notOwned b (2 ^ band) k = packNat 1 (fun i => if i = band then 1 else 0) 8 := by
    refine packNat_congr fun i _ => if_congr ?_ rfl rfl
    rw [two_pow_names_iff]
    exact ⟨And.left, fun e => ⟨e, e ▸ h⟩⟩
  have bit : ∀ band < 8, packNat 1 (fun i => if i = band then 1 else 0) 8 = 2 ^ band := by decide
  rw [one, bit band hb]

section
variable {s : State} {e : Fin 8}

theorem halfFault_none {half : Bool} (h : (bankAt s (coreOf s.cur) e).al = true → (bankAt s (coreOf s.cur) e).mode = 2 → half = false) :
    halfFault s e half = [] := by
  refine if_neg fun ⟨al, mode, hh⟩ => ?_
  rw [h al mode] at hh
  exact Bool.false_ne_true hh

theorem halfFault_anchored (al : (bankAt s (coreOf s.cur) e).al = true) (mode : (bankAt s (coreOf s.cur) e).mode = 2) :
    halfFault s e true = [mkFault 0x44 (5 * 256 + e.val) (some s.slot) (bankWord (bankAt s (coreOf s.cur) e)) 0 0] :=
  if_pos ⟨al, mode, rfl⟩

theorem bankWriteFaults_unallocated {bands : Nat} (h : (bankAt s (coreOf s.cur) e).al = false) : bankWriteFaults s e bands =
    [mkFault 0x42 (3 * 256 + e.val) (some s.slot) (bankWord (bankAt s (coreOf s.cur) e)) 0 0] := by
  simp [bankWriteFaults, h, slotFault]

theorem bankWriteFaults_none {bands : Nat} (h : (bankAt s (coreOf s.cur) e).al = true)
    (own : (bankAt s (coreOf s.cur) e).mode = 0 → notOwned (bankAt s (coreOf s.cur) e) bands (subOf s.cur) = 0) :
    bankWriteFaults s e bands = [] := by
  simpa [bankWriteFaults, h] using own

theorem bankWriteFaults_foreign {bands m : Nat} (h : (bankAt s (coreOf s.cur) e).al = true)
    (float : (bankAt s (coreOf s.cur) e).mode = 0) (hm : notOwned (bankAt s (coreOf s.cur) e) bands (subOf s.cur) = m) (some_ : m ≠ 0) :
    bankWriteFaults s e bands = [mkFault 0x43 e.val (some s.slot) (BitVec.ofNat 64 m) 0 0] := by
  simp [bankWriteFaults, h, float, hm, some_, slotFault]

end

/-! ### Reading a row -/

/-- Entry `j` of an anchored row at a key, and whether it may have wrapped (R95, R163). -/
def anchoredEntry (s : State) (b : Bank) (key j : Nat) : Num × Bool := anchoredNum b.anc.toInt (memVal s.mem (key + 8 * j) 8)

/-- An entry of 64 bits has not wrapped when its top nine bits agree (R95). -/
theorem anchoredNum_wraps (a : Int) {x : Nat} (hx : x < 2 ^ 64) : (anchoredNum a x).2 = true ↔ x / 2 ^ 55 ∉ [0, 511] := by
  have value : (BitVec.ofNat 64 x).toInt = if 2 * x < 2 ^ 64 then (x : Int) else (x : Int) - 2 ^ 64 := by
    rw [BitVec.toInt_eq_toNat_cond, BitVec.toNat_ofNat, Nat.mod_eq_of_lt hx]
    rfl
  simp only [anchoredNum, value, Bool.not_eq_true', Bool.and_eq_false_iff, decide_eq_false_iff_not, List.mem_cons, List.not_mem_nil,
    or_false]
  split <;> omega

/-- The key of the half row that `VLDA` and `VSTA` name in a bank of 32-bit entries (R163, R174). -/
def rowKey (k : Fin 1024) (e : Fin 8) (row : Nat) (half : Bool) : Nat :=
  localKey 1 (coreOf k).val (e.val * 0x10000 + row * 512 + if half then 256 else 0)

theorem entryOff_half {b : Bank} (e : Fin 8) (row : Nat) (half : Bool) (mode : b.mode ≠ 2) :
    entryOff b e row (64 * bit half) = e.val * 0x10000 + row * 512 + if half then 256 else 0 := by
  rw [entryOff, if_neg mode]
  cases half <;> rfl

theorem rowValue_unallocated {s : State} {k : Fin 1024} {e : Fin 8} (row : Nat) (half : Bool)
    (al : (bankAt s (coreOf k) e).al = false) : rowValue s (coreOf k) e row half = (0, aUnalloc, 0) := by
  simp [rowValue, al]

/-- The row that 64 anchored entries make, rounded to FP32, with ARANGE of the bank where one may have wrapped (R163). -/
def roundedRow (e : Fin 8) (q : Nat → Num × Bool) : VReg × Word × BitVec 6 :=
  (ofLanes fun j => BitVec.ofNat 32 (toFp32 .rne (q j).1).bits, if (List.range 64).any fun j => (q j).2 then aRange e.val else 0,
   allFlags ((List.range 64).map fun j => (toFp32 .rne (q j).1).flags))

theorem roundedRow_congr {e : Fin 8} {q q' : Nat → Num × Bool} (h : ∀ j < 64, q j = q' j) : roundedRow e q = roundedRow e q' := by
  have lanes : ofLanes (fun j => BitVec.ofNat 32 (toFp32 .rne (q j).1).bits) =
      ofLanes fun j => BitVec.ofNat 32 (toFp32 .rne (q' j).1).bits :=
    congrArg (BitVec.ofNat 2048) (packNat_congr fun j hj => by simp only [h j hj])
  have wraps : ((List.range 64).any fun j => (q j).2) = (List.range 64).any fun j => (q' j).2 := by
    rw [Bool.eq_iff_iff, List.any_eq_true, List.any_eq_true]
    exact exists_congr fun j => and_congr_right fun hj => by rw [h j (List.mem_range.1 hj)]
  have flags : ((List.range 64).map fun j => (toFp32 .rne (q j).1).flags) = (List.range 64).map fun j => (toFp32 .rne (q' j).1).flags :=
    List.map_congr_left fun j hj => by rw [h j (List.mem_range.1 hj)]
  rw [roundedRow, lanes, wraps, flags, roundedRow]

section
variable {s : State} {k : Fin 1024} {e : Fin 8} (row : Nat) (half : Bool) (al : (bankAt s (coreOf k) e).al = true)
include al

theorem rowValue_plain (mode : (bankAt s (coreOf k) e).mode ≠ 2) : rowValue s (coreOf k) e row half =
    (BitVec.ofNat 2048 (memVal s.mem (rowKey k e row half) 256), 0, 0) := by
  simp only [rowValue, al, mode, Bool.not_true, Bool.false_eq_true, if_false, entryOff_half e row half mode, memVal, rowKey]

/-- A row of an anchored bank is made of its 64 entries (R163). -/
theorem rowValue_anchored (mode : (bankAt s (coreOf k) e).mode = 2) : rowValue s (coreOf k) e row half =
    roundedRow e (anchoredEntry s (bankAt s (coreOf k) e) (rowKey k e row false)) := by
  have start : localKey 1 (coreOf k).val (entryOff (bankAt s (coreOf k) e) e row 0) = rowKey k e row false := by simp [entryOff, rowKey]
  have read : rowValue s (coreOf k) e row half = roundedRow e fun j => anchoredNum (anchorOf (bankAt s (coreOf k) e))
      (leVal (((memRead s.mem (localKey 1 (coreOf k).val (entryOff (bankAt s (coreOf k) e) e row 0)) 512).drop (8 * j)).take 8)) := by
    unfold rowValue
    simp only [al, Bool.not_true, Bool.false_eq_true, if_false]
    exact if_pos mode
  rw [read, start]
  refine roundedRow_congr fun j hj => ?_
  rw [memRead_part _ (by omega)]
  rfl

end

/-! ### `VLDA` -/

/-- Whether a row that `VLDA` reads lies in part in a word in error (R393). -/
def rowHasError (s : State) (e : Fin 8) (row : Nat) (half : Bool) : Bool :=
  let b := bankAt s (coreOf s.cur) e
  badAt s (localKey 1 (coreOf s.cur).val (entryOff b e row (if b.mode = 2 then 0 else 64 * bit half))) (if b.mode = 2 then 512 else 256)

theorem rowHasError_plain {s : State} {e : Fin 8} (row : Nat) (half : Bool) (mode : (bankAt s (coreOf s.cur) e).mode ≠ 2) :
    rowHasError s e row half = badAt s (rowKey s.cur e row half) 256 := by
  simp only [rowHasError, if_neg mode, entryOff_half e row half mode, rowKey]

theorem rowHasError_anchored {s : State} {e : Fin 8} (row : Nat) (half : Bool) (mode : (bankAt s (coreOf s.cur) e).mode = 2) :
    rowHasError s e row half = badAt s (rowKey s.cur e row false) 512 := by
  simp [rowHasError, mode, entryOff, rowKey]

section
variable {s : State} (h : Alone 1 s) {d a : Fin 64} {half : Bool} {r : Fin 128} {e : Fin 8}
include h

theorem vlda_half (al : (bankAt s (coreOf s.cur) e).al = true) (mode : (bankAt s (coreOf s.cur) e).mode = 2) :
    exec (.vlda d a true r e) s =
      taken (mkFault 0x44 (5 * 256 + e.val) (some s.slot) (bankWord (bankAt s (coreOf s.cur) e)) 0 0) s := by
  change execVlda d a true r e s = _
  unfold execVlda
  exact runSlot_taken_one h (Nat.le_refl 1) (wrV_nodup d) rfl (halfFault_anchored al mode) (by decide)

variable (plain : halfFault s e half = [])
include plain

theorem vlda_waits (busy : ¬ earlierDone s s.cur (localKey 1 (coreOf s.cur).val (e.val * 0x10000)) 0x10000 = true) :
    exec (.vlda d a half r e) s = .next (goWaiting [.earlier (localKey 1 (coreOf s.cur).val (e.val * 0x10000)) 0x10000] s) := by
  change execVlda d a half r e s = _
  unfold execVlda
  exact runSlot_holds h (Nat.le_refl 1) (wrV_nodup d) rfl plain ((waitsMet_bank s e).trans (Bool.not_eq_true _ ▸ busy))

variable (quiet : earlierDone s s.cur (localKey 1 (coreOf s.cur).val (e.val * 0x10000)) 0x10000 = true)
include quiet

/-- A row with a word in error lands SPDATA (R393). -/
theorem vlda_spdata (al : (bankAt s (coreOf s.cur) e).al = true) (bad : rowHasError s e (rowOf (curArch s) a r) half = true) :
    ∃ f, exec (.vlda d a half r e) s = .next (landFault 6 (.vreg d 0 (BitVec.allOnes 64)) f (issued s)) ∧
      f.code = 0x80 ∧ f.sub = 1 := by
  change ∃ f, execVlda d a half r e s = _ ∧ _
  rw [execVlda, runSlot_plain _ _ s 1 h plain (.inl rfl) (wrV_nodup d) (Nat.le_refl 1) ((waitsMet_bank s e).trans quiet)]
  simp only [curArch_issued]
  exact ⟨_, congrArg _ (if_pos (Bool.and_eq_true_iff.2 ⟨al, bad⟩)), rfl, rfl⟩

/-- A row without one lands its lanes, with the flags of its entries (R163). -/
theorem vlda_lands (sound : (bankAt s (coreOf s.cur) e).al = true → rowHasError s e (rowOf (curArch s) a r) half = false) :
    let q := rowValue s (coreOf s.cur) e (rowOf (curArch s) a r) half
    exec (.vlda d a half r e) s = .next (pushFlight (issued s) ⟨now s + 6, s.seq, true, .vreg d q.1 (BitVec.allOnes 64), q.2.2, q.2.1,
      true, 0, none, (curArch s).hm⟩) := by
  have passes : ¬ ((bankAt s (coreOf s.cur) e).al && rowHasError s e (rowOf (curArch s) a r) half) = true := by
    rw [Bool.and_eq_true_iff]
    exact fun ⟨al, bad⟩ => Bool.false_ne_true ((sound al).symm.trans bad)
  change execVlda d a half r e s = _
  rw [execVlda, runSlot_plain _ _ s 1 h plain (.inl rfl) (wrV_nodup d) (Nat.le_refl 1) ((waitsMet_bank s e).trans quiet)]
  simp only [curArch_issued, now_issued]
  exact congrArg _ (if_neg passes)

end

/-! ### `VSTA` and `MZERO` at issue -/

section
variable {s : State} (h : Alone 1 s) {d a : Fin 64} {add half : Bool} {r : Fin 128} {e : Fin 8} {bands : BitVec 8}
include h

theorem mzero_fault {code sub : Nat} {x : Word} (hc : code ∈ codeOrder)
    (faults : bankWriteFaults s e bands.toNat = [mkFault code sub (some s.slot) x 0 0]) :
    exec (.mzero e bands) s = taken (mkFault code sub (some s.slot) x 0 0) s := by
  change execMzero e bands s = _
  unfold execMzero
  exact runSlot_taken_one h (Nat.le_refl 1) List.nodup_nil rfl faults hc

theorem mzero_lands (faults : bankWriteFaults s e bands.toNat = [])
    (quiet : earlierDone s s.cur (localKey 1 (coreOf s.cur).val (e.val * 0x10000)) 0x10000 = true) :
    exec (.mzero e bands) s = .next (land 1 (.zeroBands e bands) 0 (issued s)) := by
  change execMzero e bands s = _
  unfold execMzero
  exact runSlot_does h (Nat.le_refl 1) List.nodup_nil (.inl rfl) faults ((waitsMet_bank s e).trans quiet) rfl

theorem mzero_waits (faults : bankWriteFaults s e bands.toNat = [])
    (busy : ¬ earlierDone s s.cur (localKey 1 (coreOf s.cur).val (e.val * 0x10000)) 0x10000 = true) :
    exec (.mzero e bands) s = .next (goWaiting [.earlier (localKey 1 (coreOf s.cur).val (e.val * 0x10000)) 0x10000] s) := by
  change execMzero e bands s = _
  unfold execMzero
  exact runSlot_holds h (Nat.le_refl 1) List.nodup_nil rfl faults ((waitsMet_bank s e).trans (Bool.not_eq_true _ ▸ busy))

variable (plain : halfFault s e half = [])
include plain

theorem vsta_fault {code sub : Nat} {x : Word} (hc : code ∈ codeOrder)
    (faults : bankWriteFaults s e (2 ^ (rowOf (curArch s) a r / 16)) = [mkFault code sub (some s.slot) x 0 0]) :
    exec (.vsta d a add half r e) s = taken (mkFault code sub (some s.slot) x 0 0) s := by
  change execVsta d a add half r e s = _
  unfold execVsta
  exact runSlot_taken_one h (Nat.le_refl 1) List.nodup_nil rfl (by rw [faults, plain]; rfl) hc

variable (faults : bankWriteFaults s e (2 ^ (rowOf (curArch s) a r / 16)) = [])
include faults

theorem vsta_lands (quiet : earlierDone s s.cur (localKey 1 (coreOf s.cur).val (e.val * 0x10000)) 0x10000 = true) :
    ∃ f, exec (.vsta d a add half r e) s = .next (landFault 1 (.rowStore e (Fin.ofNat 128 (rowOf (curArch s) a r)) half add
      (rV (curArch s) d)) f (issued s)) ∧ f.code = 0x80 ∧ f.sub = 1 := by
  change ∃ f, execVsta d a add half r e s = _ ∧ _
  rw [execVsta, runSlot_plain _ _ s 1 h (by rw [faults, plain]; rfl) (.inl rfl) List.nodup_nil (Nat.le_refl 1)
    ((waitsMet_bank s e).trans quiet)]
  simp only [curArch_issued]
  exact ⟨_, rfl, rfl, rfl⟩

theorem vsta_waits (busy : ¬ earlierDone s s.cur (localKey 1 (coreOf s.cur).val (e.val * 0x10000)) 0x10000 = true) :
    exec (.vsta d a add half r e) s = .next (goWaiting [.earlier (localKey 1 (coreOf s.cur).val (e.val * 0x10000)) 0x10000] s) := by
  change execVsta d a add half r e s = _
  unfold execVsta
  exact runSlot_holds h (Nat.le_refl 1) List.nodup_nil rfl (by rw [faults, plain]; rfl)
    ((waitsMet_bank s e).trans (Bool.not_eq_true _ ▸ busy))

end

/-! ### Landing -/

/-- Chunks of one length, put together, are found again where they stand. -/
theorem take_drop_flatMap {k : Nat} {f : Nat → List Byte} (hf : ∀ i, (f i).length = k) {l : List Nat} {j : Nat} (hj : j < l.length) :
    ((l.flatMap f).drop (k * j)).take k = f l[j] := by
  induction l generalizing j with
  | nil => exact absurd hj (Nat.not_lt_zero j)
  | cons x r ih =>
    cases j with
    | zero => simp [hf x]
    | succ j =>
      have skip : k * (j + 1) = (f x).length + k * j := by rw [hf x, Nat.mul_succ, Nat.add_comm]
      rw [List.flatMap_cons, skip, List.drop_append, List.drop_eq_nil_of_le (by omega), List.nil_append, Nat.add_sub_cancel_left]
      exact ih (Nat.lt_of_succ_lt_succ hj)

/-- A row of numbers of `n` bytes each, written, is read back number by number. -/
theorem memVal_write_chunks (m : List Host.Cell) (key : Nat) {n c : Nat} (v : Nat → Nat) {j : Nat} (hj : j < c) :
    memVal (memWrite m key ((List.range c).flatMap fun i => leBytes n (v i))) (key + n * j) n = v j % 256 ^ n := by
  have length : ((List.range c).flatMap fun i => leBytes n (v i)).length = n * c := by simp [List.length_flatMap, Nat.mul_comm]
  have inside : n * j + n ≤ n * c := by rw [← Nat.mul_succ]; exact Nat.mul_le_mul_left n hj
  have all := memRead_write m key ((List.range c).flatMap fun i => leBytes n (v i))
  rw [length] at all
  rw [memVal, ← memRead_part _ inside, all, take_drop_flatMap (fun i => leBytes_length ..) (by simpa using hj), List.getElem_range,
    leVal_leBytes]

/-- Bytes free of errors cover no part of a bad word, and are so in every part of them. -/
theorem badAt_inside {s : State} {a n b m : Nat} (h : badAt s a n = false) (lo : a ≤ b) (hi : b + m ≤ a + n) : badAt s b m = false := by
  simp only [badAt, List.any_eq_false, Bool.and_eq_true, decide_eq_true_eq] at h ⊢
  intro w hw meets
  exact h w hw ⟨by omega, by omega⟩

theorem badPart_of_badAt {s : State} {a n : Nat} (h : badAt s a n = false) : badPart s a n = false := by
  simp only [badAt, List.any_eq_false, Bool.and_eq_true, decide_eq_true_eq] at h
  simp only [badPart, badParts, Bool.not_eq_false', List.isEmpty_iff, List.filter_eq_nil_iff, Bool.and_eq_true, decide_eq_true_eq]
  exact fun w hw meets => h w hw meets.1

/-- A lane of `VSTA` in an integer bank (R164). -/
theorem rowLane_int {b : Bank} (mode : b.mode = 1) (add : Bool) (old : Nat) (x : BitVec 32) :
    (rowLane b add old x).1 = some (if add then (old + x.toNat) % 2 ^ 32 else x.toNat) := by
  simp [rowLane, laneEntry, mode]

section
variable {s : State} {k : Fin 1024} {e : Fin 8} {row : Fin 128} {half add : Bool}

/-- The landing of a `VSTA` in an integer bank is one write of 64 entries (R164). -/
theorem landRowStore_int (x : VReg) (al : (bankAt s (coreOf k) e).al = true) (mode : (bankAt s (coreOf k) e).mode = 1)
    (sound : badAt s (rowKey k e row half) 256 = false) :
    ∃ g, landAct k (.rowStore e row half add x) s = modArch (putBytes s (rowKey k e row half) ((List.range 64).flatMap fun i =>
      leBytes 4 (if add then (memVal s.mem (rowKey k e row half + 4 * i) 4 + (elem x 32 i).toNat) % 2 ^ 32
        else (elem x 32 i).toNat))) k g := by
  have plain : (bankAt s (coreOf k) e).mode ≠ 2 := by rw [mode]; decide
  have size : entrySize (bankAt s (coreOf k) e) = 4 := if_neg plain
  have start : localKey 1 (coreOf k).val (entryOff (bankAt s (coreOf k) e) e row.val (rowColumn (bankAt s (coreOf k) e) half)) =
      rowKey k e row half := by rw [rowColumn, if_neg plain, entryOff_half _ _ _ plain, rowKey]
  have lane {i : Nat} (hi : i < 64) : laneBad s (coreOf k) (bankAt s (coreOf k) e) e row.val half add i = false := by
    have place : localKey 1 (coreOf k).val (entryOff (bankAt s (coreOf k) e) e row.val (rowColumn (bankAt s (coreOf k) e) half + i)) =
        rowKey k e row half + 4 * i := by
      rw [← start]
      simp only [localKey, entryOff, if_neg plain]
      omega
    rw [laneBad, size, place, badAt_inside sound (by omega) (by omega), Bool.and_false]
  have entries : ((List.range 64).flatMap fun i => leBytes 4 ((if laneBad s (coreOf k) (bankAt s (coreOf k) e) e row.val half add i = true
      then (none, 0) else rowLane (bankAt s (coreOf k) e) add (leVal (((memRead s.mem (rowKey k e row half) (64 * 4)).drop (i * 4)).take 4))
        (elem x 32 i)).1.getD (leVal (((memRead s.mem (rowKey k e row half) (64 * 4)).drop (i * 4)).take 4)))) =
      (List.range 64).flatMap fun i => leBytes 4 (if add then (memVal s.mem (rowKey k e row half + 4 * i) 4 + (elem x 32 i).toNat) % 2 ^ 32
        else (elem x 32 i).toNat) := by
    refine List.flatMap_congr fun i hi => ?_
    have hi := List.mem_range.1 hi
    rw [lane hi, if_neg Bool.false_ne_true, rowLane_int mode, Option.getD_some, memRead_part _ (by omega), Nat.mul_comm i 4, memVal]
  change ∃ g, landRowStore s k e row half add x = _
  simp only [landRowStore, al, Bool.not_true, Bool.false_eq_true, if_false, writeRow, size, start, List.flatMap_map, entries]
  exact ⟨_, rfl⟩

/-- What such a landing writes, and that it writes nothing else. -/
theorem landRowStore_int_entries (x : VReg) (al : (bankAt s (coreOf k) e).al = true) (mode : (bankAt s (coreOf k) e).mode = 1)
    (sound : badAt s (rowKey k e row half) 256 = false) :
    let t := landAct k (.rowStore e row half add x) s
    (∀ j < 64, memVal t.mem (rowKey k e row half + 4 * j) 4 =
      if add then (memVal s.mem (rowKey k e row half + 4 * j) 4 + (elem x 32 j).toNat) % 2 ^ 32 else (elem x 32 j).toNat) ∧
    (∀ y, y < rowKey k e row half ∨ rowKey k e row half + 256 ≤ y → byteAt t y = byteAt s y) ∧ t.cores = s.cores := by
  obtain ⟨g, next⟩ := landRowStore_int (add := add) x al mode sound
  have length (v : Nat → Nat) : ((List.range 64).flatMap fun i => leBytes 4 (v i)).length = 256 := by simp [List.length_flatMap]
  simp only [next, byteAt, modArch_mem, modArch_cores]
  refine ⟨fun j hj => ?_, fun y hy => memGet_putBytes_out _ _ _ _ (by rwa [length]), rfl⟩
  rw [putBytes_mem _ _ _ (by rw [length]; exact badPart_of_badAt sound), memVal_write_chunks _ _ _ hj]
  refine Nat.mod_eq_of_lt ?_
  split
  · exact Nat.mod_lt _ (by decide)
  · exact (elem x 32 j).isLt

end

/-- Zeros written over bytes that are part of no bad word. -/
theorem memGet_putZeros {s : State} {a n : Nat} (h : badPart s a n = false) (y : Nat) :
    memGet (putBytes s a (List.replicate n 0)).mem y = if a ≤ y ∧ y < a + n then 0 else memGet s.mem y := by
  rw [putBytes_mem _ _ _ (by rwa [List.length_replicate]), memGet_write, List.length_replicate]
  refine ite_congr rfl (fun _ => ?_) fun _ => rfl
  rw [List.getD_eq_getElem?_getD, List.getElem?_replicate]
  split <;> rfl

/-- The bands of `n` bytes that a mask names are cleared, one after another (R228). -/
theorem memGet_zeroBands {bank n : Nat} (m : BitVec 8) (l : List (Fin 8)) {s : State}
    (clean : ∀ i < 8, badPart s (bank + i * n) n = false) (y : Nat) :
    memGet (l.foldl (fun s i => if m.getLsbD i.val then putBytes s (bank + i.val * n) (List.replicate n 0) else s) s).mem y =
      if ∃ i ∈ l, m.getLsbD i.val = true ∧ bank + i.val * n ≤ y ∧ y < bank + i.val * n + n then 0 else memGet s.mem y := by
  induction l generalizing s with
  | nil => simp
  | cons i r ih =>
    rw [List.foldl_cons]
    simp only [List.exists_mem_cons_iff]
    by_cases named : m.getLsbD i.val = true
    · rw [if_pos named, ih fun j hj => badPart_putBytes _ _ (clean j hj), memGet_putZeros (clean i.val i.isLt)]
      by_cases later : ∃ i ∈ r, m.getLsbD i.val = true ∧ bank + i.val * n ≤ y ∧ y < bank + i.val * n + n
      · rw [if_pos later, if_pos (.inr later)]
      · rw [if_neg later]
        exact if_congr ⟨fun here => .inl ⟨named, here⟩, fun h => (h.resolve_right later).2⟩ rfl rfl
    · rw [if_neg named, ih clean]
      exact if_congr ⟨.inr, fun h => h.resolve_left fun here => named here.1⟩ rfl rfl

theorem landZeroBands_clears {s : State} (k : Fin 1024) (e : Fin 8) (m : BitVec 8)
    (clean : ∀ i < 8, badPart s (localKey 1 (coreOf k).val (e.val * 0x10000) + i * 0x2000) 0x2000 = false) (y : Nat) :
    let bank := localKey 1 (coreOf k).val (e.val * 0x10000)
    byteAt (landAct k (.zeroBands e m) s) y =
      if bank ≤ y ∧ y < bank + 0x10000 ∧ m.getLsbD ((y - bank) / 0x2000) = true then 0 else byteAt s y := by
  intro bank
  have place (i : Fin 8) : localKey 1 (coreOf k).val (e.val * 0x10000 + i.val * 0x2000) = bank + i.val * 0x2000 := by
    simp only [bank, localKey]
    omega
  have fold : landAct k (.zeroBands e m) s = (List.finRange 8).foldl (fun s i =>
      if m.getLsbD i.val then putBytes s (bank + i.val * 0x2000) (List.replicate 0x2000 0) else s) s := by
    change landZeroBands s k e m = _
    simp only [landZeroBands, place]
  rw [byteAt, fold, memGet_zeroBands m _ clean]
  refine if_congr ⟨?_, ?_⟩ rfl rfl
  · rintro ⟨i, -, named, lo, hi⟩
    have : (y - bank) / 0x2000 = i.val := by omega
    exact ⟨by omega, by omega, this ▸ named⟩
  · rintro ⟨lo, hi, named⟩
    have band : (y - bank) / 0x2000 < 8 := by omega
    exact ⟨⟨_, band⟩, List.mem_finRange _, named, by simp only; omega, by simp only; omega⟩

/-- Settles O32: `VLDA` by the row it reads, `VSTA` and `MZERO` by their shared checks, and what their landings write. -/
theorem bankRows : Obligations.BankRows := by
  unfold Obligations.BankRows
  refine ⟨fun s d a h r e ha => ?_, fun s d a x r e m ha => ?_, fun s k e row half add x m => ?_⟩
  · intro c b row key entry gives quiet
    have plain (hh : b.al = true → b.mode = 2 → h = false) : halfFault s e h = [] := halfFault_none hh
    have unanchored (hm : b.mode ≠ 2) : halfFault s e h = [] := plain fun _ mode => absurd mode hm
    refine ⟨fun busy hh => vlda_waits ha (plain hh) busy, fun hq al => ?_, fun hq al hm hb => ?_, fun hq al hm hb => ?_,
      fun hq al hm hh hb => ?_, fun al hm hh => hh ▸ vlda_half ha al hm⟩
    · have free : halfFault s e h = [] := plain fun al' => absurd (al.symm.trans al') Bool.false_ne_true
      have next := vlda_lands ha (d := d) (a := a) (r := r) free hq fun al' => absurd (al.symm.trans al') Bool.false_ne_true
      rwa [rowValue_unallocated _ _ al] at next
    · have next := vlda_lands ha (d := d) (a := a) (r := r) (unanchored hm) hq fun _ => (rowHasError_plain _ _ hm).trans hb
      rwa [rowValue_plain _ _ al hm] at next
    · exact vlda_spdata ha (unanchored hm) hq al ((rowHasError_plain _ _ hm).trans hb)
    · subst hh
      have next := vlda_lands ha (d := d) (a := a) (r := r) (plain fun _ _ => rfl) hq fun _ => (rowHasError_anchored _ _ hm).trans hb
      simp only [rowValue_anchored _ _ al hm, roundedRow] at next
      have wraps (j : Nat) : (anchoredEntry s b key j).2 = true ↔ memVal s.mem (key + 8 * j) 8 / 2 ^ 55 ∉ [0, 511] :=
        anchoredNum_wraps _ (memVal_lt ..)
      refine ⟨_, _, next, fun all => if_neg ?_, fun some => if_pos ?_, fun j hj => elem_ofLanes _ hj⟩
      · rw [List.any_eq_true]
        rintro ⟨j, hj, wrapped⟩
        exact (wraps j).1 wrapped (all j (List.mem_range.1 hj))
      · obtain ⟨j, hj, out⟩ := some
        exact List.any_eq_true.2 ⟨j, List.mem_range.2 hj, (wraps j).2 out⟩
  · intro b row foreign bank quiet waits lands
    have owned (hf : b.mode = 0 → ¬ foreign (row / 16)) (al : b.al = true) : bankWriteFaults s e (2 ^ (row / 16)) = [] :=
      bankWriteFaults_none al fun mode => notOwned_none fun i _ named => (two_pow_names_iff _ _).1 named ▸ not_not.1 (hf mode)
    have low : halfFault s e false = [] := halfFault_none fun _ _ => rfl
    refine ⟨fun al hf => ?_, fun al hm hf => ?_, fun al hf => ?_, fun al => ?_, fun al mode hf => ?_⟩
    · exact ⟨vsta_lands ha low (owned hf al), vsta_waits ha low (owned hf al)⟩
    · have high : halfFault s e true = [] := halfFault_none fun _ mode => absurd mode hm
      exact ⟨vsta_lands ha high (owned hf al), vsta_waits ha high (owned hf al)⟩
    · have none : bankWriteFaults s e m.toNat = [] := bankWriteFaults_none al fun mode => notOwned_none fun i hi named => by
        refine not_not.1 (hf mode i hi ?_)
        rw [BitVec.getLsbD, Nat.testBit_eq_decide_div_mod_eq, decide_eq_true_iff]
        exact named
      exact ⟨mzero_lands ha none, mzero_waits ha none⟩
    · exact ⟨mzero_fault ha (by decide) (bankWriteFaults_unallocated al),
        vsta_fault ha low (by decide) (bankWriteFaults_unallocated al)⟩
    · have band : row / 16 < 8 := by have : row < 128 := Nat.mod_lt _ (by decide); omega
      exact vsta_fault ha low (by decide) (bankWriteFaults_foreign al mode (notOwned_one band hf) (Nat.two_pow_pos _).ne')
  · intro c b key bank
    exact ⟨fun al mode sound => landRowStore_int_entries x al mode sound, fun clean y => landZeroBands_clears k e m clean y⟩

end Sys2Proof.Machine
end

section
/-! PROOFS. O28 fails: its clause on a run of sixteen columns (R101) ranges over the integers below 16, where it means the numbers from
0 to 15. -/

namespace Sys2Proof.Machine

/-- No offset lies below −15/32 (R101). -/
theorem neg_fifteen_le_ditherOffset (seed row col : BitVec 32) : -15 ≤ ditherOffset seed row col := by
  unfold ditherOffset
  dsimp only
  omega

/-- Refutes O28: the clause that a run of sixteen columns takes each offset 2 n − 15 once is stated of every integer n below 16. At
n = −1, in the first run of seed 0 and row 0, it asks for an offset of −17 32nds, and there is none. -/
theorem not_vectorConversions : ¬ Obligations.VectorConversions := by
  unfold Obligations.VectorConversions
  rintro ⟨-, -, -, ⟨-, -, runs⟩, -⟩
  obtain ⟨once, -⟩ := runs 0 0 0 (by decide)
  have one := once (-1) (by decide)
  have none : ((List.range 16).map fun c => ditherOffset 0 0 (BitVec.ofNat 32 (16 * 0 + c))).filter
      (fun y => decide (y = 2 * (-1) - 15)) = [] := by
    refine List.filter_eq_nil_iff.2 fun y hy => ?_
    obtain ⟨c, -, rfl⟩ := List.mem_map.1 hy
    have := neg_fifteen_le_ditherOffset 0 0 (BitVec.ofNat 32 (16 * 0 + c))
    rw [decide_eq_true_iff]
    omega
  rw [none] at one
  exact absurd one (by decide)

end Sys2Proof.Machine
end

section
/-! PROOFS. O59: memory in its canonical form (log entries 5 and 6; R165, R166, R168), and what the operations that everything
else is made of do to it: an update of another part of the machine leaves memory alone, and bytes are written, cleared and moved by
the operations of Laws/Memory.lean. -/

namespace Sys2Proof.Machine

/-- Memory is in its canonical form: the invariant `Safety.Inv`. -/
def Canonical (s : State) : Prop := Safety.Inv s

/-- A piece of work that answers a value and a state keeps memory canonical. -/
def Keeps {α : Type} (f : State → α × State) : Prop := ∀ s, Canonical s → Canonical (f s).2

variable {s t : State}

/-! ### Putting steps together -/

theorem Canonical.of_mem (h : Canonical s) (e : t.mem = s.mem) : Canonical t := (congrArg (memWf · = true) e).mpr h

/-- The state of an answer that has been taken apart. -/
theorem Canonical.snd {α : Type} {p : α × State} {a : α} (h : Canonical p.2) (e : p = (a, t)) : Canonical t := by
  rw [e] at h
  exact h

/-- The state of an answer that stands written out. -/
theorem Canonical.answer {α : Type} {a : α} (h : Canonical s) : Canonical (a, s).2 := h

theorem Canonical.ite {p : Prop} [Decidable p] (hs : Canonical s) (ht : Canonical t) : Canonical (if p then s else t) := by
  split
  · exact hs
  · exact ht

theorem Canonical.snd_ite {α : Type} {p : Prop} [Decidable p] {q r : α × State} (hq : Canonical q.2) (hr : Canonical r.2) :
    Canonical (if p then q else r).2 := by
  split
  · exact hq
  · exact hr

theorem Canonical.foldl {α : Type} {f : State → α → State} {l : List α} (h : Canonical s)
    (hf : ∀ s x, Canonical s → Canonical (f s x)) : Canonical (l.foldl f s) := by
  induction l generalizing s with
  | nil => exact h
  | cons x r ih => exact ih (hf s x h)

/-- A fold that carries a value along with the state. -/
theorem Canonical.foldl_snd {α β : Type} {f : β × State → α → β × State} {q : β × State} {l : List α} (h : Canonical q.2)
    (hf : ∀ q x, Canonical q.2 → Canonical (f q x).2) : Canonical (l.foldl f q).2 := by
  induction l generalizing q with
  | nil => exact h
  | cons x r ih => exact ih (hf q x h)

/-- A fold that carries the state along with a value. -/
theorem Canonical.foldl_fst {α β : Type} {f : State × β → α → State × β} {q : State × β} {l : List α} (h : Canonical q.1)
    (hf : ∀ q x, Canonical q.1 → Canonical (f q x).1) : Canonical (l.foldl f q).1 := by
  induction l generalizing q with
  | nil => exact h
  | cons x r ih => exact ih (hf q x h)

/-! ### Updates of other parts of the machine -/

protected theorem Canonical.setCtx {k : Fin 1024} {c : Ctx} (h : Canonical s) : Canonical (setCtx s k c) := h
protected theorem Canonical.modCtx {k : Fin 1024} {f : Ctx → Ctx} (h : Canonical s) : Canonical (modCtx s k f) := h
protected theorem Canonical.modArch {k : Fin 1024} {f : Arch → Arch} (h : Canonical s) : Canonical (modArch s k f) := h
protected theorem Canonical.modTask {k : Fin 1024} {f : Task → Task} (h : Canonical s) : Canonical (modTask s k f) := h
protected theorem Canonical.modCore {c : Fin 256} {f : Core → Core} (h : Canonical s) : Canonical (modCore s c f) := h
protected theorem Canonical.modSlice {u : Fin 256} {f : Slice → Slice} (h : Canonical s) : Canonical (modSlice s u f) := h
protected theorem Canonical.modJob {j : BitVec 32} {f : Job → Job} (h : Canonical s) : Canonical (modJob s j f) := h
protected theorem Canonical.modWork {c : Fin 256} {q : Nat} {f : Work → Work} (h : Canonical s) : Canonical (modWork s c q f) := h
protected theorem Canonical.dropWork {c : Fin 256} {q : Nat} (h : Canonical s) : Canonical (dropWork s c q) := h
protected theorem Canonical.pushWork {w : Work} (h : Canonical s) : Canonical (pushWork s w) := h
protected theorem Canonical.pushFlight {f : Flight} (h : Canonical s) : Canonical (pushFlight s f) := h
protected theorem Canonical.land {n : Nat} {a : Landing} {g : BitVec 6} (h : Canonical s) : Canonical (land n a g s) := h
protected theorem Canonical.landFree {n : Nat} {a : Landing} (h : Canonical s) : Canonical (landFree n a s) := h
protected theorem Canonical.landLate {n q : Nat} {a : Landing} (h : Canonical s) : Canonical (landLate n a q s) := h
protected theorem Canonical.landFault {n : Nat} {a : Landing} {f : FaultRec} (h : Canonical s) : Canonical (landFault n a f s) := h
protected theorem Canonical.setRepeat (h : Canonical s) : Canonical (setRepeat s) := h
protected theorem Canonical.reserve {k : Fin 1024} {g : Fin 8} {n : Nat} (h : Canonical s) : Canonical (reserve k g n s) := h
protected theorem Canonical.countEvent {c : Fin 256} {e n : Nat} (h : Canonical s) : Canonical (countEvent s c e n) := h
protected theorem Canonical.countSlice {u : Fin 256} {e n : Nat} (h : Canonical s) : Canonical (countSlice s u e n) := h
protected theorem Canonical.machineEnd {j : BitVec 32} {st code sub : Nat} {c : Option (Fin 256)} (h : Canonical s) :
    Canonical (machineEnd s j st code sub c) := h
protected theorem Canonical.lostData {c : Fin 256} {sub : Nat} (h : Canonical s) : Canonical (lostData s c sub) := h
protected theorem Canonical.goWaiting {ws : List Wait} (h : Canonical s) : Canonical (goWaiting ws s) := h
protected theorem Canonical.modDomain {j : BitVec 32} {d : BitVec 8} {f : Domain → Domain} (h : Canonical s) :
    Canonical (modDomain s j d f) := h
protected theorem Canonical.freeHolds {j : BitVec 32} {d : BitVec 8} {q : Word} (h : Canonical s) : Canonical (freeHolds s j d q) := h
protected theorem Canonical.arrive {k : Fin 1024} {q : Nat} {f : Landing → Landing} (h : Canonical s) : Canonical (arrive s k q f) := h
protected theorem Canonical.arriveFault {k : Fin 1024} {q : Nat} {f : Landing → FaultRec} (h : Canonical s) :
    Canonical (arriveFault s k q f) := h
protected theorem Canonical.defer {k : Fin 1024} {q : Nat} {b : Bool} {f : FaultRec} (h : Canonical s) : Canonical (defer s k q b f) := h
protected theorem Canonical.sendHost {ms : List HostMsg} (h : Canonical s) : Canonical (sendHost s ms) := h
protected theorem Canonical.sendAck {m : BitVec 16} {n : Nat} (h : Canonical s) : Canonical (sendAck s m n) := h

protected theorem Canonical.modTarget {j : BitVec 32} {k : Fin 1024} {f : Ctx → Ctx} (h : Canonical s) : Canonical (modTarget s j k f) :=
  .ite h h

protected theorem Canonical.trapEnter {k : Fin 1024} {f : FaultRec} {bun : Word} (h : Canonical s) : Canonical (trapEnter k f bun s) :=
  h.of_mem (trapEnter_mem k f bun s)

protected theorem Canonical.postMsgs {ms : List HostMsg} (h : Canonical s) : Canonical (postMsgs ms s).2 :=
  .foldl_snd h fun _ _ hs => hs

protected theorem Canonical.wantMsgs {ms : List HostMsg} (h : Canonical s) : Canonical (wantMsgs s ms) :=
  .ite h h

protected theorem Canonical.flushWant (h : Canonical s) : Canonical (flushWant s) := .ite h (.postMsgs h)

/-! ### Bytes -/

protected theorem Canonical.putBytes {a : Nat} {bs : List Byte} (h : Canonical s) : Canonical (putBytes s a bs) :=
  memWf_putBytes s a bs h

protected theorem Canonical.serveAll {c : Fin 256} (h : Canonical s) : Canonical (serveAll s c) :=
  .modCore (.foldl h fun _ _ hs => .putBytes hs)

protected theorem Canonical.serveBank {c : Fin 256} {b : Fin 32} (h : Canonical s) : Canonical (serveBank s c b) := by
  unfold serveBank
  refine .ite h ?_
  split
  · exact h
  · exact .modCore (.putBytes h)

protected theorem Canonical.serveBanks {c : Fin 256} (h : Canonical s) : Canonical (serveBanks s c) :=
  .modCore (.foldl h fun _ _ hs => .serveBank hs)

protected theorem Canonical.serveEvery (h : Canonical s) : Canonical (serveEvery s) :=
  .foldl h fun _ _ hs => .ite hs (.serveAll hs)

/-- The bytes of ways that a slice gives up or takes are cleared (R126). -/
protected theorem Canonical.setWays {u : Fin 256} {n : Nat} {j : BitVec 32} (h : Canonical s) : Canonical (setWays s u n j) :=
  have counted : Canonical (wantMsgs (countSlice s u 0x0102 _) _) := .wantMsgs h.countSlice
  memWf_clear _ _ _ counted

protected theorem Canonical.clearLocal {c : Fin 256} (h : Canonical s) : Canonical (clearLocal s c) :=
  memWf_clear _ _ _ (memWf_clear _ _ _ (memWf_clear _ _ _ h))

/-! ### Home slices -/

protected theorem Canonical.correctWords {u : Fin 256} {a n : Nat} (h : Canonical s) : Canonical (correctWords s u a n) :=
  h.of_mem (correctWords_readsOnly s u a n).mem

protected theorem Canonical.sliceTouch {pa : Nat} {write : Bool} {rank : Option Nat} (h : Canonical s) :
    Canonical (sliceTouch s pa write rank) := h.of_mem (sliceTouch_readsOnly s pa write rank).mem

protected theorem Canonical.homeRead {pa n : Nat} {rank : Option Nat} (h : Canonical s) : Canonical (homeRead s pa n rank).2 :=
  h.of_mem (homeRead_readsOnly s pa n rank).mem

protected theorem Canonical.homeWrite {pa : Nat} {bs : List Byte} {rank : Option Nat} (h : Canonical s) :
    Canonical (homeWrite s pa bs rank) := .sliceTouch (.putBytes (.correctWords (.wantMsgs h)))

protected theorem Canonical.touchRange {pa n : Nat} (h : Canonical s) : Canonical (touchRange s pa n) :=
  h.of_mem (touchRange_readsOnly s pa n).mem

protected theorem Canonical.atomicRead {pa n : Nat} (h : Canonical s) : Canonical (atomicRead s pa n).2 := by
  unfold atomicRead
  split
  · exact .ite (.sliceTouch h) (.wantMsgs h)
  · exact .homeRead h

protected theorem Canonical.atomicWrite {pa : Nat} {bs : List Byte} (h : Canonical s) : Canonical (atomicWrite s pa bs) :=
  .ite (.wantMsgs (.putBytes h)) (.homeWrite h)

end Sys2Proof.Machine
end

section
/-! PROOFS. O59: the accesses that operations make, through translations, L1, the scratchpad's buffer and images, keep memory canonical
(R168 to R183, R125 to R128, R283, R288). -/

namespace Sys2Proof.Machine

variable {s t : State}

/-! ### Translations and images -/

protected theorem Canonical.walk {va l a : Nat} (h : Canonical s) : Canonical (walk va l a s).2 :=
  h.of_mem (walk_readsOnly va l a s).mem

protected theorem Canonical.xlateEntry {c : Fin 256} {j : BitVec 32} {va : Nat} {write : Bool} (h : Canonical s) :
    Canonical (xlateEntry s c j va write).2 := h.of_mem (xlateEntry_keepsData s c j va write).mem

protected theorem Canonical.xlate {c : Fin 256} {j : BitVec 32} {va : Nat} {write : Bool} (h : Canonical s) :
    Canonical (xlate s c j va write).2 := h.of_mem (xlate_keepsData s c j va write).mem

protected theorem Canonical.imagePa {j : BitVec 32} {c : Fin 256} {space off : Nat} {write : Bool} (h : Canonical s) :
    Canonical (imagePa s j c space off write).2 := by
  unfold imagePa
  split
  · exact h
  split
  · exact h
  dsimp only
  split <;> next e => exact h.walk.snd e

protected theorem Canonical.imageRead {j : BitVec 32} {c : Fin 256} {space off n : Nat} (h : Canonical s) :
    Canonical (imageRead s j c space off n).2 := by
  unfold imageRead
  split <;> rename_i e <;> have found := h.imagePa.snd e
  · exact .homeRead found
  · exact .answer found

protected theorem Canonical.imageWrite {j : BitVec 32} {c : Fin 256} {space off : Nat} {bs : List Byte} (h : Canonical s) :
    Canonical (imageWrite s j c space off bs) := by
  unfold imageWrite
  dsimp only
  split <;> rename_i e <;> have found := h.imagePa.snd e
  · exact .homeWrite found
  · exact found

/-! ### L1 -/

/-- A way of putting a sector keeps memory canonical. -/
def KeepsPut (put : State → Nat → List Byte → State) : Prop := ∀ s pa bs, Canonical s → Canonical (put s pa bs)

theorem keepsPut_putSector : KeepsPut putSector := fun _ _ _ => .homeWrite

protected theorem Canonical.l1WriteBack {put : State → Nat → List Byte → State} {c : Fin 256} {l : L1Line} (hp : KeepsPut put)
    (h : Canonical s) : Canonical (l1WriteBack put c s l) := by
  refine .foldl h fun s i hs => ?_
  split
  · exact hs
  · exact .ite (.lostData hs) (hp _ _ _ hs)

protected theorem Canonical.l1Sweep {put : State → Nat → List Byte → State} {c : Fin 256} {inv : Bool} {hit : Nat → Bool}
    (hp : KeepsPut put) (h : Canonical s) : Canonical (l1Sweep put s c inv hit) :=
  .modCore (.foldl h fun _ _ hs => hs.l1WriteBack hp)

protected theorem Canonical.dropL1 {put : State → Nat → List Byte → State} {c : Fin 256} {pa : Nat} (hp : KeepsPut put)
    (h : Canonical s) : Canonical (dropL1 put s c pa) := .ite (h.l1Sweep hp) h

protected theorem Canonical.l1Alloc {c : Fin 256} {pa : Nat} (h : Canonical s) : Canonical (l1Alloc s c pa) := by
  unfold l1Alloc
  dsimp only
  split
  · exact h
  split
  · exact .modCore h
  split
  · exact h
  · exact .modCore (h.l1WriteBack keepsPut_putSector)

protected theorem Canonical.l1SetSector {c : Fin 256} {pa : Nat} {x : VReg} {dirty : Bool} (h : Canonical s) :
    Canonical (l1SetSector s c pa x dirty) := h

protected theorem Canonical.l1Read {c : Fin 256} {pa n : Nat} (h : Canonical s) : Canonical (l1Read s c pa n).2 := by
  unfold l1Read
  split
  · exact h
  dsimp only
  split
  · exact .answer (.homeRead h.countEvent)
  · have filled : Canonical (homeRead (l1Alloc (countEvent s c 0x0006 1) c pa) (pa / 256 * 256) 256 none).2 :=
      .homeRead (.l1Alloc h.countEvent)
    exact .answer (.ite filled (.l1SetSector filled))

/-! ### Bytes at an address -/

protected theorem Canonical.locate {v : Via} {a : Word} {n : Nat} {write : Bool} (h : Canonical s) :
    Canonical (locate s v a n write).2 := by
  unfold locate
  split
  · split <;> rename_i e <;> have placed := h.xlate.snd e
    · exact placed
    · split
      · split <;> exact placed
      · exact placed
  · dsimp only
    split
    · exact h
    split
    · split <;> exact h
    split <;> exact h

protected theorem Canonical.refetchWord {c : Fin 256} {w : Nat} (h : Canonical s) : Canonical (refetchWord s c w) := by
  unfold refetchWord
  split
  · exact .lostData h
  · exact .ite (.lostData (.touchRange h)) (.putBytes (.touchRange h))

protected theorem Canonical.refetch {c : Fin 256} {i n : Nat} (h : Canonical s) : Canonical (refetch s c i n) :=
  .foldl h fun _ _ hs => .refetchWord hs

protected theorem Canonical.readPlace {v : Via} {p : Place} {n : Nat} {rank : Option Nat} (h : Canonical s) :
    Canonical (readPlace s v p n rank).2 := by
  unfold readPlace
  split
  · exact .answer (.homeRead h)
  · dsimp only
    split
    · exact .answer (.modTarget h)
    split
    · exact .answer (.refetch h)
    split
    · exact .answer (.ite (.machineEnd h) h)
    split
    · exact .answer h
    · exact .answer (.ite (.correctWords h) h)
  · have read {sp : Nat} {u : Fin 256} {off : Nat} : Canonical (imageRead s v.job u sp off n).2 := .imageRead h
    dsimp only
    split
    · exact .answer (.modTarget h)
    split
    · exact .answer (.ite (.machineEnd read) read)
    · exact .answer read

protected theorem Canonical.writePlace {w : Work} {p : Place} {bs : List Byte} {rank : Option Nat} (h : Canonical s) :
    Canonical (writePlace s w p bs rank) := by
  unfold writePlace
  split
  · exact .homeWrite h
  · dsimp only
    split
    · exact h
    · exact .putBytes (.ite (.correctWords h) h)
  · exact .imageWrite h

protected theorem Canonical.readPieces {v : Via} {rank : Option Nat} {l : List (Word × Nat)} (h : Canonical s) :
    Canonical (readPieces s v rank l).2 := by
  induction l generalizing s with
  | nil => exact h
  | cons p r ih =>
    unfold readPieces
    split <;> rename_i e <;> have placed := h.locate.snd e
    · exact placed
    split <;> rename_i e <;> have read := placed.readPlace.snd e
    · exact read
    split <;> next e => exact (ih read).snd e

protected theorem Canonical.readAt {v : Via} {a : Word} {n : Nat} {rank : Option Nat} (h : Canonical s) :
    Canonical (readAt s v a n rank).2 := .readPieces h

protected theorem Canonical.locateAll {v : Via} {write : Bool} {l : List (Word × Nat)} (h : Canonical s) :
    Canonical (locateAll s v write l).2 := by
  induction l generalizing s with
  | nil => exact h
  | cons p r ih =>
    unfold locateAll
    split <;> rename_i e <;> have placed := h.locate.snd e
    · exact placed
    split <;> next e => exact (ih placed).snd e

protected theorem Canonical.writePlaces {w : Work} {rank : Option Nat} {l : List (Place × Nat)} {bs : List Byte} (h : Canonical s) :
    Canonical (writePlaces s w rank l bs) := by
  induction l generalizing s bs with
  | nil => exact h
  | cons p r ih => exact ih (.writePlace h)

protected theorem Canonical.writeAt {w : Work} {a : Word} {bs : List Byte} {rank : Option Nat} (h : Canonical s) :
    Canonical (writeAt s w a bs rank).2 := by
  unfold writeAt
  split <;> rename_i e <;> have placed := h.locateAll.snd e
  · exact placed
  · split
    · exact placed
    · exact .answer (.writePlaces placed)

/-! ### Loads, atomics, stores through L1 and range operations -/

protected theorem Canonical.loadBytes {v : Via} {r : LoadReq} (h : Canonical s) : Canonical (loadBytes s v r).2 := by
  unfold loadBytes
  split <;> rename_i e <;> have placed := h.locate.snd e
  · exact placed
  · split <;> next e => exact placed.l1Read.snd e
  · exact .readPlace placed

protected theorem Canonical.performLoad {w : Work} {r : LoadReq} (h : Canonical s) : Canonical (performLoad s w r) := by
  unfold performLoad
  split <;> rename_i e <;> have read := h.loadBytes.snd e
  · exact .arrive read
  · exact .arriveFault read

protected theorem Canonical.amoArrive {k : Fin 1024} {q : Nat} {x : Word} (h : Canonical s) : Canonical (amoArrive s k q x) := h

protected theorem Canonical.refuseAmo {w : Work} {r : AmoReq} {e : Refused} (h : Canonical s) : Canonical (refuseAmo s w r e) :=
  .ite (.arriveFault h) (.defer (.modCtx h))

protected theorem Canonical.performAmo {w : Work} {r : AmoReq} {ret : Bool} (h : Canonical s) : Canonical (performAmo s w r ret) := by
  unfold performAmo
  dsimp only
  split <;> rename_i e <;> have placed := h.locate.snd e
  · exact .refuseAmo placed
  · exact .refuseAmo placed
  · exact .refuseAmo placed
  · have read {pa n : Nat} := (placed.dropL1 (c := coreOf w.ctx) (pa := pa) keepsPut_putSector).atomicRead (pa := pa) (n := n)
    exact .ite (.refuseAmo read) (.ite (.amoArrive (.atomicWrite read)) (.atomicWrite read))

protected theorem Canonical.performVstg {w : Work} {a : Word} {x : VReg} (h : Canonical s) : Canonical (performVstg s w a x) := by
  unfold performVstg
  dsimp only
  split <;> rename_i e <;> have placed := h.locate.snd e
  · exact .defer placed
  · exact .l1SetSector (.l1Alloc placed)
  · exact .ite (.defer placed) (.writePlace placed)
  · exact .writePlace placed

protected theorem Canonical.rangePages {c : Fin 256} {j : BitVec 32} {hi fuel va : Nat} (h : Canonical s) :
    Canonical (rangePages c j hi fuel va s).2 := by
  induction fuel generalizing s va with
  | zero => exact h
  | succ n ih =>
    unfold rangePages
    split
    · exact h
    split <;> next e => exact ih (h.xlateEntry.snd e)

protected theorem Canonical.performL1 {w : Work} {a n : Word} {inv : Bool} (h : Canonical s) : Canonical (performL1 s w a n inv) :=
  .ite (.arrive h) (.arrive (.l1Sweep keepsPut_putSector (.rangePages h)))

protected theorem Canonical.performSpart {w : Work} {u : Fin 256} {n : Nat} (h : Canonical s) : Canonical (performSpart s w u n) :=
  .ite (.defer (.arrive h)) (.arrive (.setWays h))

/-! ### Flags -/

protected theorem Canonical.openGates {j : BitVec 32} {c : Fin 256} {word : Nat} (h : Canonical s) : Canonical (openGates s j c word) :=
  .ite h (.ite (.machineEnd h) (.modJob h))

protected theorem Canonical.writeFlag {j : BitVec 32} {c : Fin 256} {word : Nat} {x : BitVec 32} {add : Bool} (h : Canonical s) :
    Canonical (writeFlag s j c word x add) := by
  unfold writeFlag
  refine .ite (.machineEnd h) ?_
  extract_lets old read new flagged written woken
  have hread : Canonical read := .ite (.imageRead h) h
  have hflagged : Canonical flagged := hread
  have hwritten : Canonical written := .ite (.putBytes hflagged) (.imageWrite hflagged)
  exact .openGates (.foldl hwritten fun _ _ hs => .modTarget hs)

protected theorem Canonical.performFlag {w : Work} {cores : Word} {stack core : Nat} {word : Fin 64} {x : BitVec 32} {add : Bool}
    (h : Canonical s) : Canonical (performFlag s w cores stack core word x add) :=
  .foldl h fun _ _ hs => .ite hs (.writeFlag hs)

protected theorem Canonical.plainFlag {j : BitVec 32} {c : Fin 256} {word : Nat} {x : BitVec 32} {add : Bool} (h : Canonical s) :
    Canonical (plainFlag j c word x add s) := .ite h (.writeFlag h)

/-! ### The instruction store -/

protected theorem Canonical.fillCode {c : Fin 256} {img : Nat} (h : Canonical s) : Canonical (fillCode s c img) := by
  unfold fillCode
  split
  · exact h
  · extract_lets n key read lost filled
    have hread : Canonical read := .touchRange h
    have hclear : Canonical { read with mem := memClear read.mem key 0x80000,
                                        bad := read.bad.filter fun w => !(decide (key ≤ w) && decide (w < key + 0x80000)) } :=
      memWf_clear _ _ _ hread
    have hfilled : Canonical filled := .putBytes hclear
    exact .modCore hfilled

/-! ### Messages that wait for the host -/

/-- What runs an act that may need the host keeps memory canonical if the act does (R358). -/
protected theorem Canonical.runAsk {a : Ask} {o : Owner} {act : Option (BitVec 16) → State → State} (h : Canonical s)
    (ha : ∀ st s, Canonical s → Canonical (act st s)) : Canonical (runAsk s a o act) := by
  have acted := ha a.error { s with want := [] } h
  unfold runAsk
  dsimp only
  split
  · exact h.postMsgs
  · exact Canonical.postMsgs (ms := _) (s := { act a.error { s with want := [] } with want := [] }) acted

protected theorem Canonical.homePost {o : Owner} {pa : Nat} {bs : List Byte} (h : Canonical s) : Canonical (homePost o s pa bs) :=
  h.runAsk fun _ _ hs => .homeWrite hs

theorem keepsPut_postSector (c : Fin 256) : KeepsPut (postSector c) := fun _ _ _ => .homePost

end Sys2Proof.Machine
end

section
/-! PROOFS. O59: what the ladder unit and merge cells do keeps memory canonical (R234 to R256, R271 to R274, R317, R318, R414, R415): their
work is put together from reads and writes of global memory and of the scratchpad. -/

namespace Sys2Proof.Machine

variable {s t : State}

/-! ### Putting pieces of work together -/

protected theorem Keeps.pure {α : Type} {x : α} : Keeps (LM.pure x) := fun _ h => h

protected theorem Keeps.fail {α : Type} {code : BitVec 16} {a : Nat} : Keeps (LM.fail code a : LM α) := fun _ h => h

protected theorem Keeps.ite {α : Type} {p : Prop} [Decidable p] {f g : State → α × State} (hf : Keeps f) (hg : Keeps g) :
    Keeps (if p then f else g) := by
  split
  · exact hf
  · exact hg

protected theorem Keeps.bind {α β : Type} {m : LM α} {f : α → LM β} (hm : Keeps m) (hf : ∀ x, Keeps (f x)) : Keeps (m.bind f) := by
  intro s h
  unfold LM.bind
  split <;> rename_i e <;> have done := (hm s h).snd e
  · exact .answer done
  · exact hf _ _ done

/-- A piece that leaves nothing done goes back to the memory it found. -/
protected theorem Canonical.undone (h : Canonical s) : Canonical (undone s t) := h

protected theorem Keeps.whole {α : Type} {m : LM α} (hm : Keeps m) : Keeps m.whole := by
  intro s h
  unfold LM.whole
  split
  · exact .answer (.undone h)
  · exact hm s h

protected theorem Keeps.prepared {α β : Type} {prepare : LM α} {act : α → LM β} (hp : Keeps prepare) (ha : ∀ x, Keeps (act x)) :
    Keeps (LM.prepared prepare act) := by
  intro s h
  unfold LM.prepared
  split <;> rename_i e <;> have ready := (hp.whole s h).snd e
  · exact .answer ready
  · split
    next e => exact .answer (.ite (.undone h) ((ha _ _ ready).snd e))
    next => exact ha _ _ ready

protected theorem Keeps.each {α : Type} {f : α → LM Unit} {l : List α} (hf : ∀ x, Keeps (f x)) : Keeps (LM.each f l) := by
  induction l with
  | nil => exact .pure
  | cons x r ih => exact .bind (hf x) fun _ => ih

protected theorem Keeps.collect {α β : Type} {f : α → LM β} {l : List α} (hf : ∀ x, Keeps (f x)) : Keeps (LM.collect f l) := by
  induction l with
  | nil => exact .pure
  | cons x r ih => exact .bind (hf x) fun _ => .bind ih fun _ => .pure

protected theorem Keeps.stopIf {c : Bool} {code : BitVec 16} {a : Nat} : Keeps (LM.stopIf c code a) := .ite .fail .pure

protected theorem Canonical.runLM {α : Type} {a : Word} {m : LM α} (hm : Keeps m) (h : Canonical s) : Canonical (runLM a m s).2 := by
  unfold runLM
  split <;> rename_i e <;> have done := (hm s h).snd e
  · exact done
  · exact .answer (.ite (.undone h) done)

/-! ### Accesses -/

protected theorem Keeps.lread {w : Work} {rank : Option Nat} {a n : Nat} : Keeps (lread w rank a n) := by
  intro s h
  unfold lread
  split
  · exact h
  split <;> rename_i e <;> exact .answer (h.readAt.snd e)

protected theorem Keeps.lwrite {w : Work} {rank : Option Nat} {a : Nat} {bs : List Byte} : Keeps (lwrite w rank a bs) := by
  intro s h
  unfold lwrite
  split
  · exact h
  split <;> rename_i e <;> exact .answer (h.writeAt.snd e)

protected theorem Keeps.lnum {w : Work} {a n : Nat} : Keeps (lnum w a n) := .bind .lread fun _ => .pure

protected theorem Keeps.lspad {w : Work} {off n : Nat} : Keeps (lspad w off n) := by
  intro s h
  unfold lspad
  dsimp only
  split
  · exact h
  split <;> exact h

protected theorem Keeps.lspadWrite {w : Work} {off : Nat} {bs : List Byte} : Keeps (lspadWrite w off bs) := by
  intro s h
  unfold lspadWrite
  dsimp only
  split
  · exact h
  split
  · exact h
  split <;> exact h

/-! ### Descriptors, headers and pools -/

protected theorem Keeps.getDesc {w : Work} {a : Nat} : Keeps (getDesc w a) := .bind .lread fun _ => .ite .fail .pure

protected theorem Keeps.putDesc {w : Work} {a : Nat} {d : Desc} : Keeps (putDesc w a d) := .lwrite

protected theorem Keeps.readHeader {w : Work} {a : Nat} : Keeps (readHeader w a) := by
  intro s h
  unfold readHeader
  split
  next e => exact .answer ((Keeps.lread s h).snd e)
  next => exact Keeps.bind .lread (fun _ => .pure) s h

protected theorem Keeps.getHeader {w : Work} {a : Nat} : Keeps (getHeader w a) := .bind .readHeader fun _ => .ite .fail .pure

protected theorem Keeps.putHeader {w : Work} {a : Nat} {x : Header} : Keeps (putHeader w a x) := .lwrite

protected theorem Keeps.checkBlocks {w : Work} {d : Desc} : Keeps (checkBlocks w d) :=
  .collect fun _ => .bind .getHeader fun _ => .ite .pure .fail

protected theorem Keeps.raiseRef {w : Work} {a : Nat} : Keeps (raiseRef w a) := .bind .getHeader fun _ => .ite .fail .putHeader

protected theorem Keeps.getPool {w : Work} {p need : Nat} : Keeps (getPool w p need) := .bind .lread fun _ => .ite .fail .pure

protected theorem Keeps.popBlocks {w : Work} {p need n : Nat} : Keeps (popBlocks w p need n) :=
  .ite .pure (.bind .getPool fun _ => .ite .fail
    (.bind (.collect fun _ => .bind .lnum fun _ => .ite .fail .pure) fun _ => .bind .lwrite fun _ => .pure))

protected theorem Keeps.pushBlock {w : Work} {p need a : Nat} : Keeps (pushBlock w p need a) :=
  .bind .getPool fun _ => .ite .fail (.bind .lwrite fun _ => .lwrite)

protected theorem Keeps.releaseBlock {w : Work} {fuel a : Nat} : Keeps (releaseBlock w fuel a) := by
  induction fuel generalizing a with
  | zero => exact .pure
  | succ n ih =>
    unfold releaseBlock
    exact .ite .pure (.bind .getHeader fun _ => .bind .putHeader fun _ =>
      .ite .pure (.bind ih fun _ => .bind ih fun _ => .pushBlock))

protected theorem Keeps.getState {w : Work} {g a : Nat} : Keeps (getState w g a) := .bind .getHeader fun _ => .lread

/-! ### Spans, merges, appends and carries -/

protected theorem Keeps.newBlock {w : Work} {u : Under} {x : Hand} {level base : Nat} {bs : List Byte} {spold spnew : Nat} {tspur : Bool} :
    Keeps (newBlock w u x level base bs spold spnew tspur) := by
  unfold newBlock
  split
  · exact .fail
  · exact .bind .lwrite fun _ => .bind .putHeader fun _ => .pure

protected theorem Keeps.settleSpan {w : Work} {u : Under} {x : Hand} {base : Nat} {c : Span} : Keeps (settleSpan w u x base c) := by
  cases c with
  | block a => exact .pure
  | token bs => exact .newBlock

protected theorem Keeps.spanState {w : Work} {u : Under} {c : Span} : Keeps (spanState w u c) := by
  cases c with
  | block a => exact .getState
  | token bs => exact .pure

protected theorem Keeps.spanRef {w : Work} {c : Span} : Keeps (spanRef w c) := by
  cases c with
  | block a => exact .bind .getHeader fun _ => .pure
  | token bs => exact .pure

protected theorem Keeps.releaseSpan {w : Work} {c : Span} : Keeps (releaseSpan w c) := by
  cases c with
  | block a => exact .releaseBlock
  | token bs => exact .pure

protected theorem Keeps.raiseSpan {w : Work} {c : Span} : Keeps (raiseSpan w c) := by
  cases c with
  | block a => exact .raiseRef
  | token bs => exact .pure

protected theorem Keeps.mergeSpans {w : Work} {u : Under} {task : Bool} {x : Hand} {a : Nat} {b : Span} {k base : Nat} :
    Keeps (mergeSpans w u task x a b k base) :=
  .bind .getHeader fun _ => .bind .spanRef fun _ => .bind .lread fun _ => .bind .getState fun _ => .bind .spanState fun _ =>
    .ite (.bind .lwrite fun _ => .bind .putHeader fun _ => .bind .releaseBlock fun _ => .bind .releaseBlock fun _ =>
        .bind .releaseSpan fun _ => .pure)
      (.ite (.bind .settleSpan fun _ => .bind .newBlock fun _ => .pure)
        (.bind .newBlock fun _ => .bind .releaseBlock fun _ => .bind .releaseSpan fun _ => .pure))

protected theorem Keeps.place {w : Work} {u : Under} {task : Bool} {n0 fuel : Nat} {x : Hand} {c : Span} {k left : Nat} :
    Keeps (place w u task n0 fuel x c k left) := by
  induction fuel generalizing n0 x c k left with
  | zero => exact .pure
  | succ n ih =>
    unfold place
    exact .ite (.bind .settleSpan fun _ => .pure) (.ite (.bind .settleSpan fun _ => .pure) (.bind .mergeSpans fun _ => ih))

protected theorem Keeps.carryOn {w : Work} {u : Under} {task : Bool} {x : Hand} {beta : Nat} : Keeps (carryOn w u task x beta) :=
  .ite .pure .place

protected theorem Keeps.prepareAppend {w : Work} {u : Under} {c : Span} {j beta : Nat} : Keeps (prepareAppend w u c j beta) :=
  .bind .getDesc fun _ => .bind .checkBlocks fun _ => .bind .stopIf fun _ => .bind .stopIf fun _ => .bind .popBlocks fun _ => .pure

protected theorem Keeps.finishHand {w : Work} {u : Under} {q : Nat} {x : Hand} : Keeps (finishHand w u q x) := .putDesc

protected theorem Keeps.appendSpan {w : Work} {u : Under} {q : Nat} {c : Span} {j beta : Nat} : Keeps (appendSpan w u q c j beta) :=
  .prepared .prepareAppend fun _ => .bind .raiseSpan fun _ => .bind .carryOn fun _ => .bind .place fun _ =>
    .bind .finishHand fun _ => .pure

protected theorem Keeps.prepareCarry {w : Work} {u : Under} {beta : Nat} : Keeps (prepareCarry w u beta) :=
  .bind .getDesc fun _ => .bind .checkBlocks fun _ => .bind .popBlocks fun _ => .pure

protected theorem Keeps.carrySpan {w : Work} {u : Under} {q beta : Nat} : Keeps (carrySpan w u q beta) :=
  .prepared .prepareCarry fun _ => .ite .pure (.bind .carryOn fun _ => .finishHand)

/-! ### Truncation, drop, fork, new ladders, reads -/

protected theorem Keeps.findBlock {w : Work} {k b fuel l a ba : Nat} : Keeps (findBlock w k b fuel l a ba) := by
  induction fuel generalizing l a ba with
  | zero => exact .pure
  | succ n ih =>
    unfold findBlock
    exact .ite .pure (.ite .pure (.bind .getHeader fun _ => .ite .pure ih))

protected theorem Keeps.reach {w : Work} {d : Desc} {k b : Nat} : Keeps (reach w d k b) := by
  unfold reach
  split
  · exact .findBlock
  · exact .pure

protected theorem Keeps.truncate {w : Work} {u : Under} {n : Nat} : Keeps (truncate w u n) := by
  refine .bind .getDesc fun d => .bind .checkBlocks fun _ => .ite .fail (.ite .pure (.bind (.collect fun k => .bind .reach fun o => ?_)
    fun _ => .bind (.each fun _ => .raiseRef) fun _ => .bind (.each fun _ => .releaseBlock) fun _ => .putDesc))
  cases o with
  | none => exact .fail
  | some a => exact .pure

protected theorem Keeps.dropAll {w : Work} {u : Under} : Keeps (dropAll w u) :=
  .bind .getDesc fun _ => .bind .checkBlocks fun _ => .bind (.each fun _ => .releaseBlock) fun _ => .putDesc

protected theorem Keeps.forkInto {w : Work} {x y : Nat} : Keeps (forkInto w x y) :=
  .ite .pure (.bind .getDesc fun _ => .bind .checkBlocks fun _ => .bind .getDesc fun _ => .bind .checkBlocks fun _ =>
    .bind (.each fun _ => .releaseBlock) fun _ => .bind (.each fun _ => .raiseRef) fun _ => .putDesc)

protected theorem Keeps.keepMask {w : Work} {u : Under} {m : Nat} : Keeps (keepMask w u m) :=
  .bind .getDesc fun _ => .bind .checkBlocks fun _ => .putDesc

protected theorem Keeps.newLadder {w : Work} {desc off : Nat} : Keeps (newLadder w desc off) :=
  .bind .lspad fun _ => .ite .fail (.ite .fail (.bind .lread fun _ => .bind .putDesc fun _ => .bind .lwrite fun _ => .pure))

protected theorem Keeps.readLadder {w : Work} {u : Under} {q : List (BitVec 32)} {lo hi : Nat} : Keeps (readLadder w u q lo hi) :=
  .bind .getDesc fun _ => .bind .checkBlocks fun _ =>
    .bind (.collect fun _ => .bind .getState fun _ => .bind .lnum fun _ => .pure) fun _ => .pure

protected theorem Keeps.tokenSpan {w : Work} {c : LadderCmd} : Keeps (tokenSpan w c) :=
  .ite .fail (.bind .lspad fun _ => .bind .lspad fun _ => .pure)

protected theorem Keeps.prebuiltSpan {w : Work} {c : LadderCmd} : Keeps (prebuiltSpan w c) := by
  refine .bind .getDesc fun d => .bind .checkBlocks fun hs => ?_
  split
  · exact .ite .fail (.ite .fail .pure)
  · exact .fail

protected theorem Keeps.takeImage {w : Work} {desc : Nat} : Keeps (takeImage w desc) :=
  .bind .getDesc fun _ => .bind .checkBlocks fun _ => .bind (.each fun _ => .raiseRef) fun _ => .pure

protected theorem Keeps.restoreImage {w : Work} {desc : Nat} {img : Desc} : Keeps (restoreImage w desc img) :=
  .bind .getDesc fun _ => .bind .putDesc fun _ => .each fun _ => .releaseBlock

protected theorem Keeps.withImage {w : Work} {c : LadderCmd} {kind : Nat} {desc : Word} {m : LM Unit} (hm : Keeps m) :
    Keeps (withImage w c kind desc m) :=
  .ite (.prepared .takeImage fun _ => .bind hm fun _ => .pure) (.bind hm fun _ => .pure)

/-! ### Merge cells -/

protected theorem Keeps.cellHeader {w : Work} {a : Nat} : Keeps (cellHeader w a) := .bind .lread fun _ => .pure

protected theorem Keeps.cellFlag {w : Work} {c : Nat} : Keeps (cellFlag w c) := by
  intro s h
  unfold cellFlag
  split <;> exact h

protected theorem Keeps.cellCombine {w : Work} {a c : Nat} : Keeps (cellCombine w a c) :=
  .bind (.collect fun _ => .bind .lread fun _ => .pure) fun _ => .bind .lwrite fun _ => .bind .lwrite fun _ => .cellFlag

protected theorem Keeps.cellDeposit {w : Work} {a off slot : Nat} : Keeps (cellDeposit w a off slot) :=
  .whole fun s => Keeps.bind .cellHeader (fun _ => .ite .fail (.ite .fail (.ite .fail (.bind .lspad fun _ => .bind .lwrite fun _ =>
    .bind .lwrite fun _ => .bind .lwrite fun _ => .ite .cellCombine .pure)))) s

protected theorem Keeps.cellGet {w : Work} {a off : Nat} : Keeps (cellGet w a off) :=
  .bind .cellHeader fun _ => .bind .lread fun _ => .lspadWrite

/-! ### An operation of the unit -/

protected theorem Keeps.ladderRun {w : Work} {c : LadderCmd} : Keeps (ladderRun w c) :=
  .ite (.ite (.bind .prebuiltSpan fun _ => .bind .appendSpan fun _ => .pure) (.bind .tokenSpan fun _ => .bind .appendSpan fun _ => .pure))
    (.ite (.withImage .carrySpan) (.ite (.withImage .forkInto) (.ite (.withImage .truncate) (.ite (.withImage .dropAll)
    (.ite (.withImage .keepMask)
    (.ite (.bind (.bind .lspad fun _ => .pure) fun _ => .bind .readLadder fun _ => .bind .lspadWrite fun _ => .pure)
    (.ite (.bind .getDesc fun _ => .bind .checkBlocks fun _ => .bind .lspadWrite fun _ => .pure)
    (.ite (.bind .lwrite fun _ => .pure) (.ite (.bind .cellDeposit fun _ => .pure) (.bind .cellGet fun _ => .pure))))))))))

/-! ### Steps that go on past failures (R321) -/

/-- One step after another, whatever the first met. -/
protected theorem Canonical.triesThen {r : Tries} {f : State → Tries} (h : Canonical r.2) (hf : Keeps f) : Canonical (triesThen r f).2 := hf _ h

protected theorem Keeps.tryLM {m : LM Unit} (hm : Keeps m) : Keeps (tryLM m) := by
  intro s h
  unfold tryLM
  split <;> rename_i e <;> exact .answer ((hm.whole s h).snd e)

protected theorem Keeps.clearSpurs {w : Work} {fuel a : Nat} : Keeps (clearSpurs w fuel a) := by
  induction fuel generalizing a with
  | zero => exact fun _ h => h
  | succ n ih =>
    intro s h
    unfold clearSpurs
    split
    · exact h
    split <;> rename_i e <;> have read := (Keeps.getHeader s h).snd e
    · exact read
    · refine ((ih _ read).triesThen ih).triesThen fun s h => ?_
      split
      · exact Keeps.tryLM (.bind .getHeader fun _ => .bind .releaseBlock fun _ => .bind .releaseBlock fun _ => .putHeader) s h
      · exact h

protected theorem Keeps.commitLadder {w : Work} {desc : Nat} : Keeps (commitLadder w desc) := by
  intro s h
  unfold commitLadder
  split <;> rename_i e <;> have read := (Keeps.getDesc s h).snd e
  · exact read
  · exact .triesThen (.foldl_snd read fun _ _ hq => hq.triesThen .clearSpurs) (.tryLM .putDesc)

protected theorem Keeps.commitHolds {w : Work} {d : BitVec 8} {q : Word} : Keeps (commitHolds w d q) := fun _ h =>
  .foldl_snd h fun _ _ hr => hr.triesThen .commitLadder

protected theorem Keeps.dropImage {w : Work} {img : Desc} : Keeps (dropImage w img) := .each fun _ => .releaseBlock

protected theorem Keeps.dropImages {w : Work} {base fuel n : Nat} : Keeps (dropImages w base fuel n) := by
  induction fuel generalizing n with
  | zero => exact fun _ h => h
  | succ m ih =>
    intro s h
    unfold dropImages
    split
    · exact h
    split <;> rename_i e <;> have read := (Keeps.lread s h).snd e
    · exact Canonical.triesThen (r := ([_], _)) read ih
    · dsimp only
      split
      · exact .triesThen (Keeps.tryLM (.bind .lread fun _ => .dropImage) _ read) ih
      · exact ih _ read

end Sys2Proof.Machine
end

section
/-! PROOFS. O59: accumulator banks, drains, flits, rings, copies and transformations keep memory canonical (R185 to R232, R361, R362). -/

namespace Sys2Proof.Machine

variable {s t : State}

/-! ### Accumulator banks (R162 to R164, R217 to R231) -/

protected theorem Canonical.writeRow {c : Fin 256} {b : Bank} {e : Fin 8} {row col n : Nat} {f : Nat → Nat → Option Nat × BitVec 6}
    (h : Canonical s) : Canonical (writeRow s c b e row col n f).1 := .putBytes h

protected theorem Canonical.landRowStore {k : Fin 1024} {e : Fin 8} {row : Fin 128} {half add : Bool} {x : VReg} (h : Canonical s) :
    Canonical (landRowStore s k e row half add x) := .ite h (.modArch (.writeRow h))

protected theorem Canonical.landZeroBands {k : Fin 1024} {e : Fin 8} {bands : BitVec 8} (h : Canonical s) :
    Canonical (landZeroBands s k e bands) := .foldl h fun _ _ hs => .ite (.putBytes hs) hs

protected theorem Canonical.landMatrix {k : Fin 1024} {c : StepCmd} (h : Canonical s) : Canonical (landMatrix s k c) := by
  unfold landMatrix
  dsimp only
  refine .ite h (.modArch (.foldl_fst (q := (s, 0)) h fun q i hq => ?_))
  dsimp only
  exact .writeRow hq

protected theorem Canonical.stepEffect {e a b : Fin 8} {shape : Option Word} {ovr : Bool} {f g : Fin 8} {x y : Bool} (h : Canonical s) :
    Canonical (stepEffect e a b shape ovr f g x y s) := by
  unfold stepEffect
  dsimp only
  split <;> exact h

protected theorem Canonical.retireStep {c : Fin 256} (h : Canonical s) : Canonical (retireStep s c) := h

protected theorem Canonical.setBank {e : Fin 8} {b : Bank} (h : Canonical s) : Canonical (setBank s e b) := .modCore (.putBytes h)

protected theorem Canonical.drainEffect {e : Fin 8} {a d : Fin 64} {z : Bool} (h : Canonical s) : Canonical (drainEffect e a d z s) := h

protected theorem Canonical.engineWrite {w : Work} {a : Word} {bs : List Byte} (h : Canonical s) : Canonical (engineWrite s w a bs).2 := by
  unfold engineWrite
  split
  · exact h
  split
  · exact h
  split
  · exact h
  split <;> rename_i e <;> exact .answer (h.writeAt.snd e)

protected theorem Canonical.writeUnits {w : Work} {d : DrainCmd} {l : List DrainUnit} (h : Canonical s) :
    Canonical (writeUnits s w d l).2 := by
  induction l generalizing s with
  | nil => exact h
  | cons u r ih =>
    unfold writeUnits
    split
    · exact h
    split <;> rename_i e <;> have written := h.engineWrite.snd e
    · exact written
    · exact ih (.modArch written)

protected theorem Canonical.performDrain {w : Work} {d : DrainCmd} (h : Canonical s) : Canonical (performDrain s w d).2 :=
  .answer (.modArch (.writeUnits h))

/-! ### Flits (R361, R408) -/

protected theorem Canonical.sendOn {f : Flit} (h : Canonical s) : Canonical (sendOn s f) := .ite h (.machineEnd h)

protected theorem Canonical.sendFlit {dev : BitVec 13} {kind : BitVec 4} {a : Word} {bs : List Byte} {j : BitVec 32} (h : Canonical s) :
    Canonical (sendFlit s dev kind a bs j) := .sendOn h

protected theorem Canonical.sendWrites {dev : BitVec 13} {a : Word} {bs : List Byte} {j : BitVec 32} (h : Canonical s) :
    Canonical (sendWrites s dev a bs j) := .foldl h fun _ _ hs => .sendFlit hs

/-! ### The ends of commands (R192 to R196) -/

protected theorem Canonical.modRing {k : Fin 1024} {g : Fin 8} {f : Ring → Ring} (h : Canonical s) : Canonical (modRing s k g f) := h

protected theorem Canonical.settleList {c : Fin 256} {o : List (Fin 1024 × Fin 8)} {l : List Work} (h : Canonical s) :
    Canonical (settleList s c o l) := by
  induction l generalizing s o with
  | nil => exact h
  | cons w r ih =>
    unfold settleList
    split
    · exact .ite (ih (.dropWork h)) (ih h)
    · exact .ite (ih h) (.ite (ih (.dropWork h)) (.ite (ih h) (ih (.dropWork (.modRing h)))))

protected theorem Canonical.settle {c : Fin 256} (h : Canonical s) : Canonical (settle s c) := .settleList h

protected theorem Canonical.markPerformed {w : Work} (h : Canonical s) : Canonical (markPerformed s w) := h

protected theorem Canonical.failCommand {w : Work} {e : EngineFail} (h : Canonical s) : Canonical (failCommand s w e) := by
  unfold failCommand
  refine .modWork ?_
  split
  · exact .modRing h
  · exact .defer h

protected theorem Canonical.endCommand {w : Work} {o : Option EngineFail} (h : Canonical s) : Canonical (endCommand s w o) := by
  cases o with
  | none => exact .settle (.markPerformed h)
  | some e => exact .settle (.failCommand h)

protected theorem Canonical.ackWork {c : Fin 256} {q : Nat} (h : Canonical s) : Canonical (ackWork s c q) := .settle (.modWork h)

protected theorem Canonical.cellAct {j : BitVec 32} {c : Fin 256} {word : Nat} {src : Fin 256} {q : Nat} (h : Canonical s) :
    Canonical (cellAct j c word src q s) := .ackWork (.plainFlag h)

protected theorem Canonical.runCellAdd {a : CellAdd} (h : Canonical s) : Canonical (runCellAdd s a) := h.runAsk fun _ _ hs => .cellAct hs

protected theorem Canonical.runCellAdds (h : Canonical s) : Canonical (runCellAdds s) :=
  .foldl (s := { s with cellAdds := [] }) h fun _ _ hs => .ite hs (.runCellAdd hs)

/-! ### Copies (R185 to R191, R202 to R207) -/

protected theorem Canonical.setOring {j : BitVec 32} {c : Fin 256} {i : Fin 8} {o : ORing} (h : Canonical s) :
    Canonical (setOring s j c i o) := .ite (.modCore h) h

protected theorem Canonical.copyEffect {op : Nat} {a g : Fin 8} {i : BitVec 6} {r : Bool} {o : Fin 8} {c x : Fin 16} (h : Canonical s) :
    Canonical (copyEffect op a g i r o c x s) := .reserve (.pushWork (.ite (.setRepeat h) h))

protected theorem Canonical.countBlock {c : Fin 256} {n k : Nat} (h : Canonical s) : Canonical (countBlock c n k s) := h

protected theorem Keeps.runBlocks {f : State → Nat → Walked} {n k : Nat} (hf : ∀ k, Keeps fun s => f s k) : Keeps (runBlocks f n k) := by
  induction n generalizing k with
  | zero => exact fun _ h => h
  | succ n ih =>
    intro s h
    unfold runBlocks
    split <;> rename_i e <;> have moved := (hf k s h).snd e
    · exact moved
    · exact ih _ moved

protected theorem Keeps.counted {c : Fin 256} {n : Nat} {f : State → Nat → Walked} (hf : ∀ k, Keeps fun s => f s k) (k : Nat) :
    Keeps fun s => counted c n f s k := by
  intro s h
  unfold counted
  dsimp only
  split
  next e => exact .answer (.countBlock ((hf k s h).snd e))
  next => exact hf k s h

protected theorem Canonical.andThen {r : Walked} {f : State → Walked} (h : Canonical r.2) (hf : Keeps f) : Canonical (andThen r f).2 := by
  unfold andThen
  split
  · exact h
  · exact hf _ h

protected theorem Keeps.moveBlock {w : Work} {spaces : Nat} {spad : Bool} {src dst : Word} {n : Nat} :
    Keeps (moveBlock w spaces spad src dst n) := by
  intro s h
  unfold moveBlock
  split
  · exact h
  split
  · exact h
  split
  · exact h
  split <;> rename_i e <;> have read := h.readAt.snd e
  · exact read
  · exact .engineWrite read

protected theorem Keeps.deliverCore {w : Work} {cmd : CopyCmd} {c : Fin 256} : Keeps (deliverCore w cmd c) := by
  intro s h
  unfold deliverCore
  extract_lets own ring
  have hring : Canonical ring.2 := by
    unfold ring
    split
    · exact h
    split
    · exact h
    dsimp only
    split
    · exact h
    split
    · exact h
    · exact .answer (.setOring h)
  refine hring.andThen fun s h => ?_
  dsimp only
  split
  · exact h
  · exact .answer (.modWork h)

protected theorem Canonical.streamBytes {w : Work} {a : Word} {n : Nat} (h : Canonical s) : Canonical (streamBytes w a n s).2 := by
  unfold streamBytes
  refine .snd_ite h ?_
  split <;> rename_i e <;> exact .answer (h.readAt.snd e)

protected theorem Canonical.streamHeader {w : Work} {dst : List (Nat × Nat × Nat)} {x : Stream} (h : Canonical s) :
    Canonical (streamHeader w dst x s).2 := by
  unfold streamHeader
  split <;> rename_i e <;> have read := h.streamBytes.snd e
  · exact read
  · dsimp only
    split <;> exact .answer read

protected theorem Canonical.streamSector {w : Work} {dst : List (Nat × Nat × Nat)} {x : Stream} (h : Canonical s) :
    Canonical (streamSector w dst x s).2 := by
  unfold streamSector
  extract_lets head
  have hhead : Canonical head.2 := by
    unfold head
    exact .snd_ite (.streamHeader h) h
  clear_value head
  obtain ⟨e | ⟨n, y⟩, u⟩ := head
  · exact hhead
  have began : Canonical u := hhead
  dsimp only
  split
  · exact .answer began
  split
  · exact .answer began
  split <;> rename_i e <;> have mask := began.streamBytes.snd e
  · exact mask
  split
  · exact .answer began
  split <;> rename_i e <;> have bytes := mask.streamBytes.snd e
  · exact bytes
  split
  · exact .answer bytes
  · split <;> exact .answer bytes

protected theorem Canonical.streamSectors {w : Work} {dst : List (Nat × Nat × Nat)} {n : Nat} {x : Stream} (h : Canonical s) :
    Canonical (streamSectors w dst n x s).2 := by
  induction n generalizing s x with
  | zero => exact h
  | succ n ih =>
    unfold streamSectors
    split <;> rename_i e <;> have read := h.streamSector.snd e
    · exact read
    split <;> rename_i e <;> exact .answer ((ih read).snd e)

protected theorem Keeps.streamBlocks {w : Work} {dst : Nat → Word} {boxes : List (Nat × Nat × Nat)} {blk : Nat} {cut : Option Nat}
    {n k : Nat} {x : Stream} : Keeps (streamBlocks w dst boxes blk cut n k x) := by
  induction n generalizing k x with
  | zero =>
    intro s h
    unfold streamBlocks
    split
    · exact h
    split <;> rename_i e <;> have closed := h.streamHeader.snd e
    · exact closed
    · split <;> exact .answer closed
  | succ n ih =>
    intro s h
    unfold streamBlocks
    split
    · exact h
    split
    · exact h
    split <;> rename_i e <;> have read := h.streamSectors.snd e
    · exact read
    split <;> rename_i e <;> have written := read.engineWrite.snd e
    · exact written
    · exact ih _ (.countBlock written)

protected theorem Keeps.moveWord {w : Work} {add : Bool} {src dst : Word} : Keeps (moveWord w add src dst) := by
  intro s h
  unfold moveWord
  split
  · dsimp only
    refine .snd_ite h (.snd_ite h (.snd_ite h (.snd_ite h (.snd_ite h ?_))))
    split <;> rename_i e <;> have read := h.readAt.snd e
    · exact read
    · refine .snd_ite read (.answer (.modArch ?_))
      split
      · exact .writeRow read
      · exact .imageWrite (.imageRead read)
  · exact h

protected theorem Keeps.moveWords {w : Work} {add : Bool} {src dst : Word} {z n k : Nat} : Keeps (moveWords w add src dst z n k) :=
  .runBlocks fun _ => .counted (fun _ => .moveWord) _

protected theorem Canonical.visitFail {w : Work} {l1 : Bool} {a : Word} (h : Canonical s) : Canonical (visitFail w l1 a s).2.2 := by
  unfold visitFail
  split <;> rename_i e <;> exact h.locate.snd e

protected theorem Canonical.visitAll {w : Work} {l1 : Bool} {l : List Word} (h : Canonical s) : Canonical (visitAll w l1 l s).2 := by
  induction l generalizing s with
  | nil => exact h
  | cons a r ih =>
    have visited := h.visitFail (w := w) (l1 := l1) (a := a)
    unfold visitAll
    split <;> rename_i e <;> rw [e] at visited
    · exact visited
    split <;> rename_i e <;> exact .answer ((ih visited).snd e)

protected theorem Canonical.fillSector {w : Work} {l1 : Bool} {sec : Nat} (h : Canonical s) : Canonical (fillSector w l1 s sec) :=
  .ite (.l1Read h) (.homeRead h)

protected theorem Canonical.cleanLine {inv : Bool} {sec : Nat} (h : Canonical s) : Canonical (cleanLine inv s sec) := by
  unfold cleanLine
  dsimp only
  split
  · exact h
  · exact .modSlice (.ite h (.countSlice (.wantMsgs h)))

protected theorem Keeps.visitSectors {w : Work} {l1 : Bool} {f : State → Nat → State} {a : Word} {n : Nat}
    (hf : ∀ s x, Canonical s → Canonical (f s x)) : Keeps (visitSectors w l1 f a n) := by
  intro s h
  unfold visitSectors
  split
  · exact h
  dsimp only
  split <;> rename_i e <;> have visited := h.visitAll.snd e
  · exact visited
  · exact .answer (.foldl visited hf)

protected theorem Keeps.sendCopy {w : Work} {p : Pattern} {blk : Nat → Word × Word} : Keeps (sendCopy w p blk) := by
  refine .runBlocks (Keeps.counted fun k s h => ?_)
  dsimp only
  split
  · exact h
  split
  · exact h
  split <;> rename_i e <;> have read := h.readAt.snd e
  · exact read
  · exact .answer (.modWork (.sendWrites read))

/-- What arrives at every destination core of a copy. -/
theorem Canonical.delivered {w : Work} {cmd : CopyCmd} {cs : List (Fin 256)} (h : Canonical s) :
    Canonical (cs.foldl (fun r c => andThen r (deliverCore w cmd c)) ((none, s) : Walked)).2 :=
  .foldl_snd h fun _ _ hr => hr.andThen .deliverCore

protected theorem Canonical.performCopy {w : Work} {cmd : CopyCmd} {cut : Option Nat} (h : Canonical s) :
    Canonical (performCopy s w cmd cut).2 := by
  have deliver (p : Prop) [Decidable p] (cs : List (Fin 256)) : Keeps fun s =>
      if p then cs.foldl (fun r c => andThen r (deliverCore w cmd c)) ((none, s) : Walked) else (none, s) := by
    intro s h
    dsimp only
    split
    · exact .delivered h
    · exact h
  unfold performCopy
  extract_lets p op n blocks core tbl blk boxes srcBox dst
  split
  · exact h
  split
  · exact Keeps.runBlocks (fun _ => .visitSectors fun _ _ => .fillSector) s h
  split
  · exact Keeps.runBlocks (fun _ => .visitSectors fun _ _ => .cleanLine) s h
  split
  · exact Keeps.sendCopy s h
  split
  · exact Canonical.andThen (Keeps.streamBlocks s h) (deliver _ _)
  split
  · split
    · exact h
    · exact Keeps.runBlocks (fun _ s => Keeps.moveWords s) s h
  split
  · split
    · exact h
    · exact .foldl_snd h fun _ _ hr => hr.andThen fun s h =>
        Canonical.andThen (Keeps.runBlocks (.counted fun _ => .moveBlock) s h) .deliverCore
  · split
    · exact h
    · exact Canonical.andThen (Keeps.runBlocks (.counted fun _ => .moveBlock) s h) (deliver _ _)

/-- A failure of a command at its end, as `DREN` and the host's refusals find it. -/
protected theorem Canonical.applyDren {d : Dren} (h : Canonical s) : Canonical (applyDren s d) := by
  have h : Canonical { s with dren := s.dren.erase d } := h
  unfold applyDren
  extract_lets u core ack fail
  have hack {v : State} (hv : Canonical v) : Canonical (ack v) := .ackWork hv
  have hfail : Canonical (fail u) := by
    unfold fail
    split
    · exact .endCommand h
    · exact h
  refine .ite (hack h) ?_
  split
  · exact hack h
  · exact .ite hfail (.ite (hack h) (.ite hfail (hack (.modTarget h))))

/-! ### Transformations (R209 to R216) -/

protected theorem Canonical.xEffect {kind : XKind} {d a n : Fin 64} {width : Fin 4} {fs fd : Fin 8} {l : Fin 64} (h : Canonical s) :
    Canonical (xEffect kind d a n width fs fd l s) := .ite (.ite (.land h) h) h

protected theorem Canonical.takePorts {c : Fin 256} {off n : Nat} (h : Canonical s) : Canonical (takePorts s c off n) := h

protected theorem Canonical.putChunk {c : Fin 256} {ws : List (Nat × List Byte)} (h : Canonical s) : Canonical (putChunk s c ws) :=
  .foldl h fun _ _ hs => .ite (.putBytes hs) hs

protected theorem Canonical.landChunk {k : Fin 1024} {x : XOp} (h : Canonical s) : Canonical (landChunk s k x) := by
  unfold landChunk
  dsimp only
  split
  · exact h
  · have landed {ws vs : List (Nat × List Byte)} :
        Canonical (vs.foldl (fun s q => takePorts s (coreOf k) q.1 q.2.length) (putChunk s (coreOf k) ws)) :=
      .foldl (.putChunk h) fun _ _ hs => .takePorts hs
    exact .ite (.modCtx (.modArch landed)) (.ite (.modArch (.modCtx (.modArch landed))) (.modCtx (.modArch landed)))

protected theorem Canonical.beatLands {k : Fin 1024} {n : Nat} (h : Canonical s) : Canonical (beatLands k n s) :=
  .foldl h fun _ _ hs => .ite (.landChunk hs) hs

protected theorem Canonical.beatReads {k : Fin 1024} {n : Nat} (h : Canonical s) : Canonical (beatReads k n s) := h

end Sys2Proof.Machine
end

section
/-! PROOFS. O59: tasks, holds, retractions and commits, and every piece of work as it performs, keep memory canonical (R303 to R332, R258). -/

namespace Sys2Proof.Machine

variable {s t : State}

/-! ### Undo entries and task words (R315, R321, R325) -/

protected theorem Canonical.writeEntries {w : Work} {a : Word} {l : List (List Byte)} (h : Canonical s) :
    Canonical (writeEntries w a l s).2 := by
  induction l generalizing s a with
  | nil => exact h
  | cons e r ih =>
    unfold writeEntries
    split <;> rename_i e <;> have written := h.writeAt.snd e
    · exact ih written
    · exact written

protected theorem Canonical.pushUndo {w : Work} {n : Nat} {es : List (List Byte)} (h : Canonical s) : Canonical (pushUndo w n es s) := by
  unfold pushUndo
  dsimp only
  split <;> rename_i e <;> have written := (Canonical.writeEntries h.modTask).snd e
  · exact .modTask written
  · exact .defer written

protected theorem Canonical.putTaskWord {k : Fin 1024} {opc : Nat} {desc : Word} {f : Nat → Nat} {st : Option (BitVec 16)}
    (h : Canonical s) : Canonical (putTaskWord k opc desc f st s) := by
  unfold putTaskWord
  dsimp only
  split <;> rename_i e <;> have read := h.readAt.snd e
  · exact .defer read
  split <;> rename_i e <;> have written := read.writeAt.snd e
  · exact .defer written
  · exact written

protected theorem Canonical.deferStep {k : Fin 1024} {w : Work} {e : EngineFail} (h : Canonical s) : Canonical (deferStep k w s e) :=
  .ite (.defer h) (.defer h)

/-! ### Aborts, retractions and commits (R319 to R321) -/

protected theorem Canonical.abortWord {k : Fin 1024} {desc : Word} {why trsn : Nat} {st : Option (BitVec 16)} (h : Canonical s) :
    Canonical (abortWord k desc why trsn st s) := .putTaskWord h

protected theorem Canonical.beginRetract {k : Fin 1024} {why trsn : Nat} (h : Canonical s) : Canonical (beginRetract k why trsn s) :=
  .modCtx (Canonical.runAsk (.ite h (.countEvent h)) fun _ _ hs => .abortWord hs)

protected theorem Canonical.sendAbort {why : Nat} {x : Hold} (h : Canonical s) : Canonical (sendAbort why s x) := .modTarget h

protected theorem Canonical.retractFail {k : Fin 1024} {code : BitVec 16} {a : Word} (h : Canonical s) :
    Canonical (retractFail k code a s) := h

protected theorem Canonical.dropTask {k : Fin 1024} {d : BitVec 8} {q : Word} (h : Canonical s) : Canonical (dropTask k d q s) := h

protected theorem Canonical.endRetract {k : Fin 1024} {st : Option (BitVec 16)} (h : Canonical s) : Canonical (endRetract k st s) := by
  unfold endRetract
  dsimp only
  split <;> rename_i e <;> have released := (Keeps.commitHolds s h).snd e
  · exact .retractFail released
  · exact .modArch (.dropTask (.modDomain (.putTaskWord (.freeHolds released))))

protected theorem Canonical.retractStep {k : Fin 1024} {st : Option (BitVec 16)} (h : Canonical s) : Canonical (retractStep k st s) := by
  unfold retractStep
  extract_lets a x w n at_ addr
  refine .ite (.endRetract h) ?_
  split <;> rename_i e <;> have read := (Keeps.lread s h).snd e
  · exact .retractFail read
  extract_lets v kind inv argc extra undo
  have hundo : Keeps undo := .ite (.bind .getDesc fun _ => .truncate) (.bind .lread fun _ => .restoreImage)
  refine .ite (.retractFail read) (.ite ?_ (.ite (.retractFail read) (.modArch read)))
  split <;> rename_i e <;> have undone := (read.runLM hundo).snd e
  · exact .retractFail undone
  · exact .modTask undone

protected theorem Canonical.commitNow {k : Fin 1024} {opc : Nat} {st : Option (BitVec 16)} (h : Canonical s) :
    Canonical (commitNow k opc st s) := by
  unfold commitNow
  extract_lets a
  split
  · exact h
  extract_lets r deferred
  have hr : Canonical r.2 := .snd_ite ((Keeps.commitHolds s h).triesThen .dropImages) h
  have hdeferred : Canonical deferred := .foldl hr fun _ _ hs => .deferStep hs
  exact .dropTask (.modDomain (.freeHolds (.putTaskWord hdeferred)))

protected theorem Canonical.commitEffect {opc : Nat} (h : Canonical s) : Canonical (commitEffect opc s) :=
  h.setRepeat.runAsk fun _ _ hs => .commitNow hs

/-! ### Holds (R308 to R314) -/

protected theorem Canonical.holdHome {c : Fin 256} {j : BitVec 32} {obj : Word} (h : Canonical s) : Canonical (holdHome s c j obj).2 :=
  .snd_ite (.xlate h) h

protected theorem Canonical.answerHold {u : Fin 256} {j : BitVec 32} {k : Fin 1024} {kind : BitVec 6} {obj : Word} (h : Canonical s) :
    Canonical (answerHold s u j k kind obj).2 := by
  unfold answerHold
  extract_lets x d others bad counted refused
  have hcounted : Canonical counted := .ite (.countSlice h) h
  clear_value counted
  refine .snd_ite (.snd_ite hcounted (.answer (.foldl hcounted fun _ _ hs => .sendAbort hs))) ?_
  refine .snd_ite (.answer (.modSlice (.countSlice hcounted))) (.snd_ite (.answer (.modSlice (.countSlice hcounted))) ?_)
  refine .snd_ite hcounted ?_
  split
  · exact .answer (.sendAbort hcounted)
  · exact .snd_ite hcounted hcounted

protected theorem Canonical.askHold {j : BitVec 32} {k : Fin 1024} {kind : BitVec 6} {obj : Word} {opc : BitVec 8} (h : Canonical s) :
    Canonical (askHold j k kind obj opc s).2 := by
  unfold askHold
  split <;> rename_i e <;> have placed := h.holdHome.snd e
  · exact placed
  · exact .snd_ite placed (.snd_ite placed (.answerHold placed))

protected theorem Canonical.ownAbort {j : BitVec 32} {k : Fin 1024} (h : Canonical s) : Canonical (ownAbort j k s) :=
  .ite (.beginRetract h) (.modTarget h)

protected theorem Canonical.askHolds {j : BitVec 32} {k : Fin 1024} {l : List (BitVec 6 × Word × BitVec 8)} (h : Canonical s) :
    Canonical (askHolds j k l s) := by
  induction l generalizing s with
  | nil => exact .modTarget h
  | cons q r ih =>
    unfold askHolds
    split <;> rename_i e <;> have answered := h.askHold.snd e
    · exact ih (.modTarget answered)
    · exact .modTarget answered
    · exact .modTarget answered
    · exact .ownAbort answered
    · exact answered

protected theorem Canonical.requestHold {k : Fin 1024} {j : BitVec 32} (h : Canonical s) : Canonical (requestHold k s j) := by
  unfold requestHold
  split
  · exact h
  · exact .ite h (.askHolds h)

/-! ### Commands of tasks (R323 to R325) -/

protected theorem Canonical.taskEffect {opc : Nat} {e : Bool} {g : Fin 8} {kind : Arch → WorkKind} (h : Canonical s) :
    Canonical (taskEffect opc e g kind s) := .ite (.reserve (.pushWork (.setRepeat h))) (.pushWork (.setRepeat h))

/-- One word of a descriptor that `TSPAWN` writes, with its refusal. -/
def spawnPut (w : Work) (a : Word) (x : Nat) (s : State) : Option (Refused × Word) × State :=
  match writeAt s w a (leBytes 8 x) with
  | (.error e, s) => (some (e, a), s)
  | (.ok _, s) => (none, s)

protected theorem Keeps.spawnPut {w : Work} {a : Word} {x : Nat} : Keeps (spawnPut w a x) := by
  intro s h
  unfold spawnPut
  split <;> rename_i e <;> exact .answer (h.writeAt.snd e)

protected theorem Canonical.performSpawn {w : Work} {desc : Word} (h : Canonical s) : Canonical (performSpawn s w desc).2 := by
  have read := h.runLM (a := desc) (Keeps.lread (w := w) (rank := none) (a := desc.toNat) (n := 64))
  unfold performSpawn
  split <;> rename_i e <;> rw [e] at read
  · exact read
  · exact read
  extract_lets v stack dw d gate item added opened put p q refused
  refine .snd_ite read ?_
  have hopened : Canonical opened := by
    unfold opened
    generalize gate = g
    split
    · exact .openGates (.modJob read)
    · exact .modJob read
  have hp : Canonical p.2 := Keeps.spawnPut _ hopened
  have hq : Canonical q.2 := Keeps.spawnPut _ hp
  split
  · exact hq
  · exact .answer (.foldl hq fun _ _ hs => .defer hs)

protected theorem Canonical.performGload {w : Work} {dom a : Word} {n : Nat} (h : Canonical s) : Canonical (performGload s w dom a n).2 := by
  unfold performGload
  refine .snd_ite h ?_
  split <;> rename_i e <;> have read := (h.runLM .lread).snd e
  · exact read
  · exact .answer (.modDomain read)

protected theorem Canonical.performVtab {w : Work} {dom a : Word} (h : Canonical s) : Canonical (performVtab s w dom a).2 := by
  unfold performVtab
  refine .snd_ite h ?_
  split <;> rename_i e <;> have read := (h.runLM .lread).snd e
  · exact read
  · exact .answer (.modDomain read)

/-! ### Ladder operations (R257 to R274) -/

protected theorem Canonical.patchBind {k : Fin 1024} {q : Nat} {g : BitVec 9} (h : Canonical s) : Canonical (patchBind s k q g) := h

protected theorem Canonical.performBind {w : Work} {c : LadderCmd} (h : Canonical s) : Canonical (performBind s w c).2 := by
  unfold performBind
  extract_lets m
  have hm : Keeps m := .ite .newLadder (.bind .getDesc fun _ => .pure)
  split <;> rename_i u e <;> have done : Canonical u := (h.runLM hm).snd e
  · exact .answer (Canonical.patchBind (s := { u with free := u.free + 1 }) done)
  · exact .answer (.patchBind done)

protected theorem Canonical.performCount {w : Work} {c : LadderCmd} (h : Canonical s) : Canonical (performCount s w c) := by
  unfold performCount
  dsimp only
  split <;> rename_i e <;> have read := (h.runLM .getDesc).snd e
  · exact .arrive (.countEvent read)
  · exact .ite (.arriveFault read) (.arriveFault read)

protected theorem Canonical.performLadder {w : Work} {c : LadderCmd} (h : Canonical s) : Canonical (performLadder s w c).2 := by
  unfold performLadder
  refine .snd_ite (.performBind h) ?_
  extract_lets a
  split <;> rename_i e <;> have done := (h.runLM .ladderRun).snd e
  · exact .answer (.modTask done)
  · exact .answer (.ite done (.pushUndo done))

/-! ### Work that performs (R281 to R283, R358) -/

protected theorem Canonical.performSpload {w : Work} {offs : List (Option Nat)} {size : Nat} {signed : Bool} (h : Canonical s) :
    Canonical (performSpload s w offs size signed) := by
  unfold performSpload
  dsimp only
  split
  · exact .arriveFault h
  · exact .arrive h

protected theorem Canonical.performRowload {w : Work} {e : Fin 8} {row : Fin 128} {half : Bool} (h : Canonical s) :
    Canonical (performRowload s w e row half) := .ite (.arriveFault h) (.arrive (.modArch h))

protected theorem Canonical.sendFlag {w : Work} {dev : BitVec 13} {cores : Word} {stack core : Nat} {word : Fin 64} {x : BitVec 32}
    {add : Bool} (h : Canonical s) : Canonical (sendFlag s w dev cores stack core word x add) :=
  .modWork (.foldl h fun _ _ hs => .sendFlit hs)

protected theorem Canonical.performRaw {w : Work} {cut : Option Nat} (h : Canonical s) : Canonical (performRaw s w cut) := by
  unfold performRaw
  split
  · exact .endCommand (.performLoad h)
  · exact .endCommand (.performAmo h)
  · exact .endCommand (.performVstg h)
  · exact .endCommand (.performL1 h)
  · exact .endCommand (.performSpart h)
  · exact .endCommand (.performFlag h)
  · exact .sendFlag h
  · exact .ite (.performCopy h) (.endCommand (.performCopy h))
  · exact .endCommand (.performDrain h)
  · exact .ite (.endCommand (.performCount h)) (.endCommand (.ite (.countEvent (.performLadder h)) (.performLadder h)))
  · exact .endCommand (.performSpawn h)
  · exact .endCommand (.performGload h)
  · exact .endCommand (.performVtab h)
  · exact h
  · exact .endCommand (.performSpload h)
  · exact .endCommand (.performRowload h)

protected theorem Canonical.perform {w : Work} {cut : Option Nat} (h : Canonical s) : Canonical (perform s w cut) := by
  have raw : Canonical (performRaw { s with want := [] } w cut) := .performRaw (s := { s with want := [] }) h
  exact .ite (.modWork (.postMsgs h)) (.ite (.modWork (.postMsgs h)) (raw.of_mem rfl))

end Sys2Proof.Machine
end

section
/-! PROOFS. O59: results as they land, work that is due, the work distributor and barriers keep memory canonical (R21 to R30, R282, R291). -/

namespace Sys2Proof.Machine

variable {s t : State}

/-! ### Landing (R26 to R30) -/

protected theorem Canonical.csrWrite {k : Fin 1024} {i : BitVec 12} {x clear : Word} {rw : Bool} (h : Canonical s) :
    Canonical (csrWrite s k i x clear rw) :=
  .ite (.modArch h) (.ite (.modCore h) (.ite (.modArch h) (.ite (.modArch h) (.ite (.modArch h) (.ite (.modArch h) (.ite (.modArch h)
    (.ite (.modArch h) (.ite (.modArch h) (.ite (.modArch h) (.ite (.modArch h) (.ite (.modCore h) (.ite (.modCore h) h))))))))))))

protected theorem Canonical.landAct {k : Fin 1024} {a : Landing} (h : Canonical s) : Canonical (landAct k a s) := by
  unfold landAct
  split
  · exact .csrWrite h
  · exact .landRowStore h
  · exact .landZeroBands h
  · exact .landMatrix h
  · exact .modArch h

protected theorem Canonical.sign {k : Fin 1024} {a : Landing} (h : Canonical s) : Canonical (sign s k a) := by
  unfold sign
  split
  · exact .modCore h
  · exact h

protected theorem Canonical.landFlight {k : Fin 1024} {f : Flight} (h : Canonical s) : Canonical (landFlight k f s) := by
  have signed : Canonical (sign { s with dirty := addDirty s.dirty (landedUnits s k f) } k f.act) :=
    .sign (s := { s with dirty := addDirty s.dirty (landedUnits s k f) }) h
  unfold landFlight
  dsimp only
  split
  · exact .defer (.modArch (.landAct signed))
  · exact .modArch (.landAct signed)

protected theorem Canonical.landOperation {k : Fin 1024} {n q : Nat} (h : Canonical s) : Canonical (landOperation k n q s) := by
  unfold landOperation
  dsimp only
  refine .foldl (.foldl (.setCtx h) fun _ _ hs => .landFlight hs) fun s x hs => ?_
  split
  · split
    · exact .ite (.landChunk hs) hs
    · exact hs
  · exact hs

protected theorem Canonical.landCycle {k : Fin 1024} {n : Nat} (h : Canonical s) : Canonical (landCycle k n s) :=
  .beatReads (.foldl h fun _ _ hs => .landOperation hs)

protected theorem Canonical.landUpTo {k : Fin 1024} {n : Nat} (h : Canonical s) : Canonical (landUpTo k n s) :=
  .foldl h fun _ _ hs => .landCycle hs

protected theorem Canonical.takeFault {k : Fin 1024} (h : Canonical s) : Canonical (takeFault k s) := by
  unfold takeFault
  dsimp only
  split
  · split
    · exact .trapEnter (.setCtx h)
    · exact h
  · split
    · exact .trapEnter (.setCtx h)
    · exact h

protected theorem Canonical.landStanding {k : Fin 1024} (h : Canonical s) : Canonical (landStanding k s) := by
  unfold landStanding
  dsimp only
  split
  · exact h
  · exact .modCtx (.landCycle (.setCtx h))

/-! ### Work (R281 to R283) -/

protected theorem Canonical.chargeCopy {w : Work} (h : Canonical s) : Canonical (chargeCopy s w) := by
  unfold chargeCopy
  split
  · exact .ite h h
  · exact h

protected theorem Canonical.runWork {c : Fin 256} {q : Nat} (h : Canonical s) : Canonical (runWork s c q) := by
  unfold runWork
  split
  · exact .ite (.chargeCopy (.perform h)) h
  · exact h

protected theorem Canonical.workEvent {sel : WorkKind → Bool} {c : Fin 256} {q : Nat} (h : Canonical s) :
    Canonical (workEvent sel c q s) := by
  unfold workEvent
  split
  · exact .ite (.runWork h) h
  · exact h

protected theorem Canonical.runAll {all : Bool} {c : Fin 256} {fuel : Nat} (h : Canonical s) : Canonical (runAll all c fuel s) := by
  induction fuel generalizing s with
  | zero => exact h
  | succ n ih =>
    unfold runAll
    split
    next w _ =>
      have performed : Canonical (chargeCopy (perform s w) w) := .chargeCopy (.perform h)
      have flagged : Canonical { chargeCopy (perform s w) w with flagged := [] } := performed
      exact ih (.runCellAdds (.serveEvery flagged))
    next => exact h

protected theorem Canonical.runDren {c : Fin 256} {fuel : Nat} (h : Canonical s) : Canonical (runDren c fuel s) := by
  induction fuel generalizing s with
  | zero => exact h
  | succ n ih =>
    unfold runDren
    split
    · exact ih (.applyDren h)
    · exact h

protected theorem Canonical.completeCore {all : Bool} {c : Fin 256} (h : Canonical s) : Canonical (completeCore all s c) :=
  .runDren (.runAll (.serveEvery h))

/-! ### The work distributor (R21 to R23) -/

protected theorem Canonical.modRequest {w : Work} {f : List Work → List Work} (h : Canonical s) : Canonical (modRequest s w f) :=
  .ite (.modCore h) h

protected theorem Canonical.answerOf {w : Work} {p : Fin 16} (h : Canonical s) : Canonical (answerOf s w p).2 := by
  unfold answerOf
  extract_lets i opened
  have hopened : Canonical opened := by
    unfold opened
    split
    · exact .openGates h
    · exact h
  clear_value opened
  split
  · exact hopened
  dsimp only
  refine .snd_ite hopened (.snd_ite (.snd_ite (.answer (.modJob hopened)) hopened) ?_)
  split
  · exact .answer (.modDomain hopened)
  · exact .snd_ite hopened hopened

protected theorem Canonical.serveRequest {w : Work} {p : Fin 16} (h : Canonical s) : Canonical (serveRequest s w p) := by
  unfold serveRequest
  split <;> rename_i e <;> have answered := h.answerOf.snd e
  · exact answered
  · exact .modRequest (.modTarget answered)

protected theorem Canonical.changeRequest {f : Work → Work} {w : Work} (h : Canonical s) : Canonical (changeRequest f s w) := .modRequest h

protected theorem Canonical.judgeRequests {mine : State → List Work} (h : Canonical s) : Canonical (judgeRequests mine s) := by
  unfold judgeRequests
  extract_lets judge judged
  have hjudged : Canonical judged :=
    .foldl h fun _ _ hs => .ite (.ite (.changeRequest hs) hs) (.ite (.changeRequest hs) hs)
  exact .ite hjudged (.foldl hjudged fun _ _ hs => .changeRequest hs)

protected theorem Canonical.serveQueue {stack : Fin 4} {p : Fin 16} {j : BitVec 32} (h : Canonical s) :
    Canonical (serveQueue stack p s j) := by
  unfold serveQueue
  extract_lets mine judged
  have hjudged : Canonical judged := .judgeRequests h
  split
  · exact .serveRequest hjudged
  · exact hjudged

/-! ### Barriers (R291, R297, R362) -/

protected theorem Canonical.tryArrive {k : Fin 1024} (h : Canonical s) : Canonical (tryArrive s k) := by
  unfold tryArrive
  dsimp only
  split
  · have swept {l : Fin 5} : Canonical (if l = 0 then s else l1Sweep (postSector (coreOf k)) s (coreOf k) false fun _ => true) :=
      .ite h (h.l1Sweep (keepsPut_postSector _))
    exact .ite (.ite (.modCtx swept) swept) h
  · exact h

protected theorem Canonical.releaseBarrier {j : BitVec 32} {l : Fin 5} {ms : List (Fin 1024)} (h : Canonical s) :
    Canonical (releaseBarrier s j l ms) :=
  .foldl (.ite h (.foldl h fun _ c hs => hs.l1Sweep (keepsPut_postSector c))) fun _ _ hs => .modTarget hs

protected theorem Canonical.paragraphRelease {j k : BitVec 32} (h : Canonical s) : Canonical (paragraphRelease s j k) := by
  unfold paragraphRelease
  split
  · exact h
  · exact .ite (.modJob (.releaseBarrier h)) h

protected theorem Canonical.countArrival {j k : BitVec 32} {dev : BitVec 13} (h : Canonical s) : Canonical (countArrival s j k dev) := by
  unfold countArrival
  extract_lets old devs all rest sent
  have hsent : Canonical sent := .foldl (s := { s with par := rest }) h fun _ _ hs => .sendFlit hs
  exact .ite (.paragraphRelease hsent) h

protected theorem Canonical.paragraphArrive {j : Job} (h : Canonical s) : Canonical (paragraphArrive s j) :=
  .ite (.paragraphRelease (.modJob h)) (.ite (.countArrival (.modJob h)) (.sendFlit (.modJob h)))

protected theorem Canonical.idleArrive {j : BitVec 32} (h : Canonical s) : Canonical (idleArrive s j) := by
  unfold idleArrive
  extract_lets known
  refine .ite h ?_
  split
  · exact .ite (.paragraphArrive h) h
  · split
    next q _ =>
      have counted : Canonical { s with ended := s.ended.map fun y => if y = q then (q.1, q.2 + 1) else y } := h
      exact .ite (.sendFlit counted) h
    next => exact h

protected theorem Canonical.hearArrival {j k : BitVec 32} {dev : BitVec 13} (h : Canonical s) : Canonical (hearArrival s j k dev) :=
  have heard : Canonical { s with par := ⟨j, k, [dev]⟩ :: s.par } := h
  .ite h (.idleArrive heard)

protected theorem Canonical.releaseDevice {j k : BitVec 32} (h : Canonical s) : Canonical (releaseDevice s j k) :=
  have rest : Canonical { s with par := s.par.filter fun p => !(p.job = j && p.k = k) } := h
  .idleArrive (.paragraphRelease rest)

protected theorem Canonical.recount {j : BitVec 32} (h : Canonical s) : Canonical (recount s j) := by
  unfold recount
  refine .ite h (.foldl h fun s p hs => ?_)
  split
  · exact .countArrival hs
  · exact hs

end Sys2Proof.Machine
end

section
/-! PROOFS. O59: what is saved, restored, launched, ended, scrubbed and repeated keeps memory canonical (R35 to R43, R391, R395 to R406). -/

namespace Sys2Proof.Machine

variable {s t : State}

/-! ### Images through a job's tables (R40, R342) -/

protected theorem Canonical.rootXlate {root va : Nat} {write : Bool} (h : Canonical s) : Canonical (rootXlate s root va write).2 :=
  h.of_mem (rootXlate_readsOnly s root va write).mem

protected theorem Canonical.touchPages {root va n : Nat} {write : Bool} (h : Canonical s) : Canonical (touchPages s root va n write) :=
  h.of_mem (touchPages_readsOnly s root va n write).mem

protected theorem Canonical.rootRead {root : Nat} {va : Word} {n : Nat} (h : Canonical s) : Canonical (rootRead s root va n).2 :=
  h.of_mem (rootRead_readsOnly s root va n).mem

protected theorem Canonical.touchStart {vec img root : Nat} (h : Canonical s) : Canonical (touchStart s vec img root) :=
  h.of_mem (touchStart_readsOnly s vec img root).mem

protected theorem Canonical.rootWrite {o : Owner} {root : Nat} {va : Word} {bs : List Byte} (h : Canonical s) :
    Canonical (rootWrite o s root va bs) := by
  refine .foldl_snd (q := (bs, s)) h fun q p hq => ?_
  split <;> rename_i e <;> have placed := hq.rootXlate.snd e
  · exact .answer (.homePost placed)
  · exact .answer placed

protected theorem Canonical.putPart {j : Job} {c : Fin 256} {u : Nat × List Byte} (h : Canonical s) : Canonical (putPart j c s u) :=
  .rootWrite h

protected theorem Canonical.writeImage {j : Job} {c : Fin 256} {parts : List (Nat × List Byte)} (h : Canonical s) :
    Canonical (writeImage s j c parts) := .foldl (.foldl h fun _ _ hs => .putPart hs) fun _ _ hs => .putPart hs

protected theorem Canonical.readImage {j : Job} {c : Fin 256} {off n : Nat} (h : Canonical s) : Canonical (readImage j c off n s).2 :=
  .rootRead h

protected theorem Canonical.marksAside {j : BitVec 32} {c : Fin 256} (h : Canonical s) : Canonical (marksAside s j c) := h
protected theorem Canonical.marksBack {j : Job} {c : Fin 256} (h : Canonical s) : Canonical (marksBack s j c) := h

/-! ### Cores that are launched, saved and restored (R36 to R43) -/

protected theorem Canonical.launchCore {j : Job} {n : Nat} {c : Fin 256} (h : Canonical s) : Canonical (launchCore s j n c) :=
  .modCore (.foldl (.fillCode (.clearLocal h)) fun _ _ hs => .setCtx hs)

protected theorem Canonical.emptyCore {c : Fin 256} {n : Nat} (h : Canonical s) : Canonical (emptyCore s c n) :=
  .modCore (.foldl h fun _ _ hs => .setCtx hs)

protected theorem Canonical.saveCore {c : Fin 256} (h : Canonical s) (e : saveCore s c = some t) : Canonical t := by
  unfold saveCore at e
  split at e
  · exact nomatch e
  extract_lets completed retired ctxs x parts y cleared at e
  split at e
  · exact nomatch e
  · have hcompleted : Canonical completed := .completeCore h
    have hcleared : Canonical cleared := .clearLocal (.marksAside (.writeImage (.retireStep hcompleted)))
    clear_value cleared
    have hsaved : Canonical { cleared with saved := cleared.saved ++ [y] } := hcleared
    obtain rfl := Option.some.inj e
    exact .emptyCore hsaved

protected theorem Canonical.readLocal {j : Job} {c : Fin 256} {u : Nat × Nat × Nat × Nat} (h : Canonical s) :
    Canonical (readLocal t j c s u) := .putBytes h

protected theorem Canonical.restoreCore {st : Option (BitVec 16)} {x : SavedCore} {j : Job} (h : Canonical s) :
    Canonical (restoreCore st s x j) := by
  unfold restoreCore
  extract_lets c read shared filled counted copied contexts
  have hread : Canonical read := .foldl h fun _ _ hs => .readImage hs
  have herased : Canonical { read with saved := read.saved.erase x } := hread
  have hfilled : Canonical filled := .fillCode (.clearLocal herased)
  have hcopied : Canonical copied := .foldl (.modCore hfilled) fun _ _ hs => .readLocal hs
  have hcontexts : Canonical contexts := .foldl hcopied fun _ _ hs => .setCtx hs
  exact .ite (.machineEnd hread) (.settle (.marksBack hcontexts))

protected theorem Canonical.restoreNow {j : BitVec 32} {c : Fin 256} {st : Option (BitVec 16)} (h : Canonical s) :
    Canonical (restoreNow j c st s) := by
  unfold restoreNow
  split
  · exact .ite h (.restoreCore h)
  · exact h

protected theorem Canonical.giveCore {c : Fin 256} (h : Canonical s) : Canonical (giveCore c s) := by
  unfold giveCore
  refine .ite h ?_
  split
  · exact h.runAsk fun _ _ hs => .restoreNow hs
  · exact h

protected theorem Canonical.takeCores {j : Job} {l : List (Fin 256)} (h : Canonical s) (e : takeCores s j l = some t) : Canonical t := by
  induction l generalizing s with
  | nil => exact Option.some.inj e ▸ h
  | cons c r ih =>
    unfold takeCores at e
    split at e
    · split at e
      next saved => exact ih (h.saveCore saved) e
      next => exact nomatch e
    · exact ih h e

/-! ### Ends of jobs (R38, R391) -/

protected theorem Canonical.completeJob {j : Job} (h : Canonical s) : Canonical (completeJob s j) := .ite (.modJob h) h

protected theorem Canonical.removeJob {j : Job} (h : Canonical s) : Canonical (removeJob s j) := by
  unfold removeJob
  extract_lets freed rest
  have hfreed : Canonical freed := .foldl h fun _ _ hs => .emptyCore hs
  have hrest : Canonical rest := hfreed
  exact .idleArrive (.recount hrest)

protected theorem Canonical.tellHost {j : Job} {stage : Fin 3} {m : HostMsg} (h : Canonical s) : Canonical (tellHost s j stage m) :=
  .modJob (.postMsgs h)

protected theorem Canonical.beginTelling {j : Job} (h : Canonical s) : Canonical (beginTelling s j) := .ite (.removeJob h) (.tellHost h)

protected theorem Canonical.raiseNotify {j : Job} {old : List Byte} (h : Canonical s) : Canonical (raiseNotify s j old) :=
  .tellHost (.putBytes h)

protected theorem Canonical.concludeJob {j : Job} {r : EndRec} (h : Canonical s) : Canonical (concludeJob s j r) := by
  unfold concludeJob
  extract_lets released recorded given
  have hreleased : Canonical released := h
  have hgiven : Canonical given := .foldl (.rootWrite hreleased) fun _ _ hs => .ite (.setWays hs) hs
  exact .modJob hgiven

protected theorem Canonical.finishSaved {x : SavedCore} (h : Canonical s) : Canonical (finishSaved s x) := by
  unfold finishSaved
  extract_lets c ids live work swap completed left restored
  have hswap {ctxs : List Ctx} {ws : List Work} {u : State} (hu : Canonical u) : Canonical (swap ctxs ws u) :=
    .foldl (.modCore hu) fun _ _ hs => .setCtx hs
  have hrestored : Canonical restored := hswap (.completeCore (hswap h))
  clear_value restored
  exact hrestored

protected theorem Canonical.endJob {j : Job} (h : Canonical s) : Canonical (endJob s j) := by
  unfold endJob
  split
  · extract_lets cores stopped saved completed finished swept last
    have hstopped : Canonical stopped := .foldl h fun _ _ hs => .foldl hs fun _ _ hs => .modCtx hs
    have hsaved : Canonical saved := hstopped
    have hcompleted : Canonical completed := .foldl hsaved fun _ _ hs => .modCore (.completeCore hs)
    have hfinished : Canonical finished := .foldl hcompleted fun _ _ hs => .finishSaved hs
    have hswept : Canonical swept := .ite (.foldl hfinished fun _ c hs => hs.l1Sweep (keepsPut_postSector c)) hfinished
    exact .ite hfinished (.ite (.concludeJob hswept) hswept)
  · exact .ite (.ite (.beginTelling h) h) (.ite (.removeJob h) h)
  · exact h

protected theorem Canonical.finishJobs (h : Canonical s) : Canonical (finishJobs s) := by
  unfold finishJobs
  refine .foldl (.foldl h fun s j hs => ?_) fun s j hs => ?_
  · split
    · exact .completeJob hs
    · exact hs
  · split
    · exact .endJob hs
    · exact hs

/-! ### Integrity (R367, R395 to R406) -/

protected theorem Canonical.toHost {a : Nat} {bs : List Byte} (h : Canonical s) : Canonical (toHost s a bs) := .postMsgs (.putBytes h)

protected theorem Canonical.writeHealth (h : Canonical s) : Canonical (writeHealth s) := .toHost h

protected theorem Canonical.refuseWaiting {j : Job} (h : Canonical s) : Canonical (refuseWaiting s j) := by
  unfold refuseWaiting
  dsimp only
  split <;> exact h

protected theorem Canonical.retireCore {c : Fin 256} (h : Canonical s) : Canonical (retireCore s c) :=
  .foldl (.foldl (.writeHealth (.modCore h)) fun _ _ hs => .refuseWaiting hs) fun _ _ hs => .machineEnd hs

protected theorem Canonical.beginPass {c : Fin 256} {r : Rolling} {pass : Nat} (h : Canonical s) : Canonical (beginPass s c r pass) := by
  unfold beginPass
  extract_lets back kept
  have hback : Canonical back := .foldl h fun _ _ hs => .modCtx hs
  have hkept : Canonical kept := hback
  exact .modCore hkept

protected theorem Canonical.noRepeat {c : Fin 256} {sub : Nat} (h : Canonical s) : Canonical (noRepeat s c sub) := by
  unfold noRepeat
  split
  · exact .modCore (.machineEnd h)
  · exact h

protected theorem Canonical.startRollback {c : Fin 256} (h : Canonical s) : Canonical (startRollback s c) :=
  .ite (.noRepeat h) (.ite (.noRepeat h) (.beginPass h))

protected theorem Canonical.waitRollback {c : Fin 256} (h : Canonical s) : Canonical (waitRollback s c) :=
  .ite (.startRollback (.completeCore h)) (.modCore (.completeCore h))

protected theorem Canonical.rollOn {c : Fin 256} (h : Canonical s) : Canonical (rollOn s c) := by
  unfold rollOn
  split
  · exact h
  · exact .ite (.waitRollback h) (.ite (.ite (.beginPass h) (.ite (.modCore h) (.retireCore h))) h)

protected theorem Canonical.rollStop {k : Fin 1024} (h : Canonical s) : Canonical (rollStop s k) := by
  unfold rollStop
  split
  · exact h
  · exact .modCore h

end Sys2Proof.Machine
end

section
/-! PROOFS. O59: what the host and other devices send keeps memory canonical (R355 to R368, R401, R408, R409). -/

namespace Sys2Proof.Machine

variable {s t : State}

/-! ### Messages of the host (R357, R358) -/

protected theorem Canonical.sendData {m : BitVec 16} {a : Nat} {bs : List Byte} (h : Canonical s) : Canonical (sendData s m a bs) := h

protected theorem Canonical.hbmWrite {pa : Nat} {bs : List Byte} (h : Canonical s) : Canonical (hbmWrite s pa bs) :=
  .foldl_snd (q := (bs, s)) h fun _ _ hq => .answer (.homeWrite hq)

protected theorem Canonical.modWorkAny {c : Fin 256} {q : Nat} {f : Work → Work} (h : Canonical s) : Canonical (modWorkAny s c q f) := h

protected theorem Canonical.dropMessage {m : BitVec 16} (h : Canonical s) : Canonical (dropMessage s m) := h

protected theorem Canonical.refuseHost {w : Work} {st : BitVec 16} (h : Canonical s) : Canonical (refuseHost s w st) :=
  .modWorkAny (.foldl h fun _ _ hs => .dropMessage hs)

protected theorem Canonical.takeHostBytes {pa : Nat} {bs : List Byte} (h : Canonical s) : Canonical (takeHostBytes s pa bs) :=
  .ite h (.putBytes h)

protected theorem Canonical.sendWriteAck {dev : BitVec 13} {a : Word} {st : Nat} {j : BitVec 32} (h : Canonical s) :
    Canonical (sendWriteAck s dev a st j) := .sendFlit h

protected theorem Canonical.refuseRemote {o : Owner} {dev : BitVec 13} {a : Word} {j : BitVec 32} (h : Canonical s) :
    Canonical (refuseRemote s o dev a j) :=
  have dropped : Canonical { s with posts := s.posts.filter fun p => p.owner ≠ o, asks := s.asks.filter fun x => x.owner ≠ some o } := h
  .sendWriteAck dropped

protected theorem Canonical.postAnswered {p : Post} {st : BitVec 16} (h : Canonical s) : Canonical (postAnswered s p st) := by
  unfold postAnswered
  extract_lets dropped
  have hdropped : Canonical dropped := h
  split
  · exact .ite (.refuseRemote hdropped) (.ite (.sendWriteAck hdropped) hdropped)
  · exact hdropped

/-! ### `START` (R359, R391) -/

protected theorem Canonical.placeData {img root : Nat} {j : BitVec 32} (h : Canonical s) : Canonical (placeData s img root j) :=
  .foldl h fun _ _ hs => .rootWrite (.touchRange hs)

protected theorem Canonical.installFirmware {m : BitVec 16} {img : Nat} (h : Canonical s) : Canonical (installFirmware s m img) :=
  .ite h (.sendAck h)

protected theorem Canonical.acceptStart {j : BitVec 32} {vec img root notify : Nat} {m : Fin 8} {n : BitVec 16} (h : Canonical s) :
    Canonical (acceptStart s j vec img root notify m n) := by
  unfold acceptStart
  extract_lets job noted
  have hnoted : Canonical noted := Canonical.placeData h
  clear_value noted
  exact hnoted

protected theorem Canonical.startNow {m : Fin 8} {n : BitVec 16} {x : List Byte} {e : Option (BitVec 16)} (h : Canonical s) :
    Canonical (startNow m n x e s) := by
  unfold startNow
  extract_lets v j st firmware touched
  have htouched : Canonical touched := .touchStart h
  exact .ite (.sendAck htouched) (.ite (.ite (.installFirmware htouched) (.sendAck htouched))
    (.ite (.sendAck htouched) (.ite (.sendAck htouched) (.acceptStart htouched))))

/-! ### What has waited for the host (R358, R401) -/

protected theorem Canonical.flagAct {j : BitVec 32} {c : Fin 256} {word : Nat} {x : BitVec 32} {add : Bool} {dev : BitVec 13} {a : Word}
    {st : Option (BitVec 16)} (h : Canonical s) : Canonical (flagAct j c word x add dev a st s) :=
  .ite (.sendWriteAck h) (.sendWriteAck (.plainFlag h))

protected theorem Canonical.cellNow {j : BitVec 32} {c : Fin 256} {word : Nat} {src : Fin 256} {q : Nat} {st : Option (BitVec 16)}
    (h : Canonical s) : Canonical (cellNow j c word src q st s) := by
  unfold cellNow
  split
  · exact .endCommand h
  · exact h
  · exact .cellAct h

protected theorem Canonical.askAct {what : AskKind} {st : Option (BitVec 16)} (h : Canonical s) : Canonical (askAct what st s) := by
  unfold askAct
  cases what with
  | put o pa bs =>
    refine .ite (.homeWrite h) ?_
    split
    · exact .refuseRemote h
    · exact h
  | start m n x => exact .startNow h
  | restore j c => exact .restoreNow h
  | flag j c word x add dev a => exact .flagAct h
  | cell j c word src q => exact .cellNow h
  | abort k desc why trsn => exact .abortWord h
  | retract k => exact .retractStep h
  | commit k opc => exact .commitNow h

protected theorem Canonical.ownerSettled {o : Owner} (h : Canonical s) : Canonical (ownerSettled s o) := by
  unfold ownerSettled
  split
  · exact .ite (.sendWriteAck h) h
  · exact h

protected theorem Canonical.resumeAsk {a : Ask} (h : Canonical s) : Canonical (resumeAsk s a) := by
  have erased : Canonical { s with asks := s.asks.erase a } := h
  have resumed {b : Ask} {o : Owner} : Canonical (runAsk { s with asks := s.asks.erase a } b o (askAct a.what)) :=
    erased.runAsk fun _ _ hs => .askAct hs
  unfold resumeAsk
  dsimp only
  split
  · exact .ite (.ownerSettled resumed) resumed
  · exact resumed

protected theorem Canonical.askAnswered {a : Ask} {m : HostMsg} (h : Canonical s) : Canonical (askAnswered s a m) := by
  unfold askAnswered
  extract_lets b marked
  have hmarked : Canonical marked := h
  exact .ite (.resumeAsk hmarked) hmarked

protected theorem Canonical.askRefused {a : Ask} {st : BitVec 16} (h : Canonical s) : Canonical (askRefused s a st) := by
  unfold askRefused
  extract_lets b
  have marked : Canonical { s with asks := s.asks.map fun x => if x = a then b else x } := h
  exact .resumeAsk (.foldl marked fun _ _ hs => .dropMessage hs)

protected theorem Canonical.readAnswered {m : HostMsg} (h : Canonical s) : Canonical (readAnswered s m) := by
  unfold readAnswered
  extract_lets dropped
  have hdropped : Canonical dropped := .dropMessage h
  split
  · exact .modWorkAny (.takeHostBytes hdropped)
  split
  · exact .askAnswered (.takeHostBytes hdropped)
  split
  · exact .raiseNotify hdropped
  · exact hdropped

protected theorem Canonical.finishBringUp (h : Canonical s) : Canonical (finishBringUp s) := by
  unfold finishBringUp
  extract_lets rest
  have told : Canonical (toHost s 192 rest) := .toHost h
  have ready : Canonical { toHost s 192 rest with ready := true } := told
  exact .writeHealth ready

protected theorem Canonical.expirePosts (h : Canonical s) : Canonical (expirePosts s) :=
  .foldl (.foldl h fun _ _ hs => .postAnswered (.dropMessage hs)) fun _ _ hs => .ite (.askRefused hs) hs

protected theorem Canonical.checkInvals (h : Canonical s) : Canonical (checkInvals s) := by
  unfold checkInvals
  extract_lets busy left
  have kept : Canonical { s with invals := left.filter fun i => i.works ≠ [] } := h
  exact .foldl kept fun _ _ hs => .sendAck hs

protected theorem Canonical.mgmtWrite {a : Nat} {x : Word} (h : Canonical s) : Canonical (mgmtWrite s a x) :=
  .ite h (.ite h (.ite h (.ite h (.ite (.modSlice h) (.ite (.modSlice h) (.ite h h))))))

/-! ### Flits (R361 to R363, R408, R409) -/

protected theorem Canonical.ackFlits {p : Fin 16} {k : BitVec 24} (h : Canonical s) : Canonical (ackFlits s p k) := by
  unfold ackFlits
  dsimp only
  split <;> exact h

protected theorem Canonical.passOn {f : Flit} (h : Canonical s) : Canonical (passOn s f) := .ite (.hearArrival (.sendOn h)) (.sendOn h)

protected theorem Canonical.acceptFlit {p : Fin 16} {k : BitVec 24} {f : Flit} {take : State → State} (h : Canonical s)
    (ht : ∀ s, Canonical s → Canonical (take s)) : Canonical (acceptFlit p k f s take) := by
  unfold acceptFlit
  extract_lets acked x counted
  have hacked : Canonical acked := .ackFlits h
  have hcounted : Canonical counted := hacked
  exact .ite h (.ite hacked (.ite (ht _ hcounted) (.passOn hcounted)))

protected theorem Canonical.remoteAnswered {w : Work} {r : BitVec 16} (h : Canonical s) : Canonical (remoteAnswered s w r) := by
  unfold remoteAnswered
  dsimp only
  split
  · exact .ite (.endCommand h) (.ite (.endCommand (.modWork h)) (.modWork h))
  · exact .ite (.endCommand (.modWork h)) (.modWork h)
  · exact .modWorkAny h

protected theorem Canonical.portDown {p : Fin 16} (h : Canonical s) : Canonical (portDown s p) := by
  unfold portDown
  extract_lets x js down
  have hdown : Canonical down := h
  exact .foldl (.writeHealth hdown) fun _ _ hs => .machineEnd hs

protected theorem Canonical.resend {p : Fin 16} {n : BitVec 24} (h : Canonical s) : Canonical (resend s p n) := by
  unfold resend
  dsimp only
  split
  · exact h
  · exact .ite h (.ite (.portDown h) h)

end Sys2Proof.Machine
end

section
/-! PROOFS. O59: the operations of a slot keep memory canonical (R57, R115 to R166, R209 to R332): each takes its exception, waits, or has
its effect (R375), so it is enough that its effect does. -/

namespace Sys2Proof.Machine

/-- The next state, if there is one, has its memory canonical. -/
def NextCanonical (o : Host.Outcome State Fault Refusal) : Prop := ∀ t, o = .next t → Canonical t

variable {s t : State}

protected theorem NextCanonical.next (h : Canonical t) : NextCanonical (.next t) := fun _ e => Host.Outcome.next.inj e ▸ h

protected theorem NextCanonical.bindOut {o : Host.Outcome State Fault Refusal} {f : State → Host.Outcome State Fault Refusal}
    (ho : NextCanonical o) (hf : ∀ s, Canonical s → NextCanonical (f s)) : NextCanonical (bindOut o f) := by
  cases o with
  | next u => exact hf u (ho u rfl)
  | fault r => exact fun _ e => nomatch e
  | refused r => exact fun _ e => nomatch e

/-! ### Issue (R375) -/

protected theorem Canonical.issue {ps : List Probe} {f : State → State} (h : Canonical s) (hf : ∀ s, Canonical s → Canonical (f s)) :
    Canonical (issue ps f s) := by
  have open_ : Canonical { modCtx s s.cur (fun c => { c with waits := [] }) with flow := .issued } := h
  unfold issue
  split
  · exact .trapEnter h
  · exact .ite (hf _ open_) (.goWaiting h)

/-- A slot operation keeps memory canonical if its effect does. -/
protected theorem NextCanonical.runSlot {probe : State → Probe} {f : State → State} (h : Canonical s)
    (hf : ∀ s, Canonical s → Canonical (f s)) : NextCanonical (runSlot probe f s) := by
  have whole : Canonical { s with phase := .whole } := h
  have done : Canonical (f { s with phase := .whole }) := hf _ whole
  unfold runSlot
  split
  · exact .next (.issue h hf)
  · exact .next h
  · exact .next done

protected theorem Canonical.predEffect {p : Fin 16} {n : Bool} {f : State → State} (hf : ∀ s, Canonical s → Canonical (f s)) (s : State)
    (h : Canonical s) : Canonical (predEffect p n f s) := .ite (hf s h) h

/-! ### Loads and stores of the scratchpad (R123, R124, R157 to R159) -/

protected theorem Canonical.reportPart {opc off n : Nat} {c : Fin 16} (h : Canonical s) : Canonical (reportPart opc c off n s) :=
  .ite (.defer h) h

protected theorem Canonical.slotStore {off : Nat} {bs : List Byte} (h : Canonical s) : Canonical (slotStore s off bs) := .putBytes h

protected theorem NextCanonical.loadForm {opc size : Nat} {signed : Bool} {d a : Fin 64} {o : BitVec 32} {c : Fin 16} (h : Canonical s) :
    NextCanonical (loadForm opc size signed d a o c s) := .runSlot h fun _ hs => .ite (.landFault hs) (.land hs)

protected theorem NextCanonical.storeForm {opc size : Nat} {d a : Fin 64} {o : BitVec 32} {c : Fin 16} (h : Canonical s) :
    NextCanonical (storeForm opc size d a o c s) := .runSlot h fun _ hs => .slotStore (.reportPart hs)

protected theorem NextCanonical.execVld {d a : Fin 64} {o : BitVec 32} {c : Fin 16} (h : Canonical s) :
    NextCanonical (execVld d a o c s) := .runSlot h fun _ hs => .ite (.landFault hs) (.land hs)

protected theorem NextCanonical.execVst {d a : Fin 64} {o : BitVec 32} {c : Fin 16} (h : Canonical s) :
    NextCanonical (execVst d a o c s) := .runSlot h fun _ hs => .slotStore (.reportPart hs)

protected theorem NextCanonical.gatherForm {opc : Nat} {f : Arch → Nat → Word} {d : Fin 64} {p : Fin 16} {n : Bool} (h : Canonical s) :
    NextCanonical (gatherForm opc f d p n s) := by
  refine .runSlot h fun s hs => ?_
  dsimp only
  split
  · exact .landFault hs
  · exact .land hs

protected theorem NextCanonical.execVscat {d a b : Fin 64} {p : Fin 16} {n : Bool} (h : Canonical s) :
    NextCanonical (execVscat d a b p n s) := by
  refine .runSlot h fun s hs => .foldl ?_ fun _ _ hu => .slotStore hu
  split
  · exact .reportPart hs
  · exact hs

/-! ### Rows of banks (R162, R163) -/

protected theorem NextCanonical.execVlda {d a : Fin 64} {half : Bool} {r : Fin 128} {e : Fin 8} (h : Canonical s) :
    NextCanonical (execVlda d a half r e s) := .runSlot h fun _ hs => .ite (.landFault hs) (.pushFlight hs)

/-! ### Landing loads, range operations and atomics (R125 to R130) -/

protected theorem NextCanonical.landForm {opc size : Nat} {signed : Bool} {d a : Fin 64} {o : BitVec 24} {n : BitVec 16} {c : Fin 16}
    (h : Canonical s) : NextCanonical (landForm opc size signed d a o n c s) := .runSlot h fun _ hs => .landLate (.pushWork hs)

protected theorem NextCanonical.rangeForm {inv : Bool} {a b : Fin 64} {p : Fin 16} {n : Bool} (h : Canonical s) :
    NextCanonical (rangeForm inv a b p n s) := .runSlot h (.predEffect fun _ hs => .landLate (.pushWork hs))

protected theorem Canonical.invalidateSector {a : Word} (h : Canonical s) : Canonical (invalidateSector a s) := by
  unfold invalidateSector
  dsimp only
  split
  · exact h.dropL1 (keepsPut_postSector _)
  · exact h

protected theorem NextCanonical.atomicForm {op : Nat} {ret z : Bool} {c : Fin 16} {a b x : Fin 64} (h : Canonical s) :
    NextCanonical (atomicForm op ret z c a b x s) := by
  unfold atomicForm
  refine .runSlot h fun s hs => ?_
  exact .invalidateSector (.ite (.modCtx (.pushWork (.setRepeat hs))) (.pushWork (.setRepeat hs)))

protected theorem NextCanonical.execAmopop {d : Fin 64} {p : Fin 16} {n : Bool} (h : Canonical s) :
    NextCanonical (execAmopop d p n s) := by
  refine .runSlot h (.predEffect fun s hs => ?_)
  dsimp only
  split
  · exact hs
  · split
    · exact .land (.modCtx hs)
    · exact .landLate (.modCtx hs)

/-! ### Control (R61 to R63, R131 to R139) -/

protected theorem Canonical.branchTo {target : Word} {closes : Bool} (h : Canonical s) : Canonical (branchTo target closes s) := h

protected theorem NextCanonical.execLoop {a : Fin 64} {i : BitVec 32} (h : Canonical s) : NextCanonical (execLoop a i s) :=
  .runSlot h fun _ hs => .ite hs (.modArch hs)

protected theorem Canonical.trapByInstr {k : Fin 1024} {i : BitVec 16} {x : Word} (h : Canonical s) : Canonical (trapByInstr k i x s) :=
  h.of_mem (trapByInstr_mem k i x s)

protected theorem NextCanonical.execTrap {i : BitVec 16} (h : Canonical s) : NextCanonical (execTrap i s) := by
  refine .runSlot h fun s hs => ?_
  dsimp only
  split
  · exact .trapByInstr hs
  · exact .trapByInstr (.modArch hs)

protected theorem Canonical.takeCairn (h : Canonical s) : Canonical (takeCairn s) := .ite (.modCtx h) h

protected theorem Canonical.withdrawReplay {x : Replay} (h : Canonical s) : Canonical (withdrawReplay x s) :=
  h.of_mem (withdrawReplay_mem x s)

protected theorem Canonical.replayFlight {a : Landing} {ready : Bool} {src : Nat} (h : Canonical s) :
    Canonical (replayFlight a ready src s) := h.of_mem (replayFlight_mem a ready src s)

protected theorem NextCanonical.execRlandSet {a : Fin 64} {p : Fin 16} {n : Bool} (h : Canonical s) :
    NextCanonical (execRlandSet a p n s) := by
  refine .runSlot h (.predEffect fun s hs => ?_)
  dsimp only
  split
  · exact hs
  · split
    · exact .modCtx (.withdrawReplay hs)
    · exact .replayFlight (.withdrawReplay hs)

protected theorem NextCanonical.execRlandRedo {p : Fin 16} {n : Bool} (h : Canonical s) :
    NextCanonical (execRlandRedo p n s) := by
  refine .runSlot h (.predEffect fun s hs => ?_)
  dsimp only
  split
  · exact hs
  · exact .pushWork (.modCtx (.replayFlight (.withdrawReplay hs)))

protected theorem Canonical.csrSend {i : BitVec 12} {x clear : Word} {rw : Bool} (h : Canonical s) : Canonical (csrSend i x clear rw s) :=
  .ite h (.ite (.csrWrite h) (.landFree h))

/-! ### Flags and waits (R298) -/

protected theorem Canonical.flagEffect {opc : Nat} {y cores : Word} {stack core : Nat} {word : Fin 64} {x : BitVec 32} {add : Bool}
    {ts : List Nat} (h : Canonical s) : Canonical (flagEffect opc y cores stack core word x add ts s) := .pushWork (.setRepeat h)

protected theorem NextCanonical.execFlwait {d v : Fin 64} {c : Fin 4} {w : Fin 64} (h : Canonical s) :
    NextCanonical (execFlwait d v c w s) := .runSlot h fun _ hs => .ite (.lostData hs) (.land (.modCtx hs))

/-! ### Ladder operations (R257 to R274) -/

protected theorem Canonical.queueLadder {op : Nat} {e : Bool} {g : Fin 8} {again : Bool} {foot : List (Nat × Nat)} {c : LadderCmd}
    (h : Canonical s) : Canonical (queueLadder op e g again foot c s) := by
  unfold queueLadder
  extract_lets again asked reserved pushed
  have hagain : Canonical again := .ite (.setRepeat h) h
  have hpushed : Canonical pushed := hagain
  exact .ite (.reserve hpushed) hpushed

protected theorem Canonical.ladderEffect {op : Nat} {e : Bool} {g : Fin 8} {again : Bool} {spans : List (Nat × Nat)} {c : LadderCmd}
    (h : Canonical s) : Canonical (ladderEffect op e g again spans c s) := .queueLadder h

protected theorem Canonical.bindAt {i : Fin 16} {x : Handle} (h : Canonical s) : Canonical (bindAt i x s) := h

/-! ### Tasks (R321 to R330) -/

protected theorem NextCanonical.execTbegin {c d u : Fin 64} {q : Bool} (h : Canonical s) : NextCanonical (execTbegin c d u q s) := by
  refine .runSlot h fun s hs => ?_
  dsimp only
  split
  · exact hs
  · exact .setRepeat (.modArch (.modDomain (.readAt hs)))

protected theorem NextCanonical.execTabort {w : Fin 64} (h : Canonical s) : NextCanonical (execTabort w s) := by
  refine .runSlot h fun s hs => ?_
  have begun : Canonical (setRepeat (beginRetract s.cur 3 w.val s)) := .setRepeat (.beginRetract hs)
  exact begun

protected theorem NextCanonical.execVcall {o k : Fin 64} (h : Canonical s) : NextCanonical (execVcall o k s) :=
  .runSlot h fun _ hs => hs.of_mem rfl

protected theorem NextCanonical.execVret (h : Canonical s) : NextCanonical (execVret s) := by
  refine .runSlot h fun s hs => ?_
  extract_lets r x again popped inv pushed ended
  have hpushed : Canonical pushed := .pushUndo (.setRepeat hs)
  have hended : Canonical ended := .modArch hpushed
  clear_value ended
  exact .ite hs hended

end Sys2Proof.Machine
end

section
/-! PROOFS. O59: events, bundles, the selector and the end of a cycle keep memory canonical (R24, R31 to R34, R52), and so does every
step. -/

namespace Sys2Proof.Machine

variable {s t : State}

/-! ### Events of cores and jobs (R23, R36 to R43, R366, R367) -/

protected theorem Canonical.expire {yields : Bool} {c : Fin 256} (h : Canonical s) : Canonical (expire yields s c) := by
  unfold expire
  dsimp only
  split
  · exact h
  · exact .ite (.modCore h) h

protected theorem Canonical.promote {c : Fin 256} (h : Canonical s) : Canonical (promote s c) := by
  unfold promote
  split
  · exact .ite h (.modCore h)
  · exact h

protected theorem NextCanonical.execTransformBeat {k : Fin 1024} (h : Canonical s) : NextCanonical (execTransformBeat k s) :=
  .next (.foldl h fun _ _ hs => .beatReads (.beatLands hs))

protected theorem NextCanonical.execDomainBarrierRelease {j : BitVec 32} {l : Fin 5} {u : Nat} (h : Canonical s) :
    NextCanonical (execDomainBarrierRelease j l u s) := by
  refine .next ?_
  split
  · exact h
  next x _ =>
    have arrived : Canonical ((members x l u).foldl (fun s k =>
        if (coreAt s (coreOf k)).job = some j then tryArrive s k else s) s) := .foldl h fun _ _ hs => .ite (.tryArrive hs) hs
    exact .ite (.ite (.ite (.paragraphArrive arrived) arrived) (.releaseBarrier arrived)) arrived

protected theorem NextCanonical.execWnextServe {stack : Fin 4} {p : Fin 16} (h : Canonical s) :
    NextCanonical (execWnextServe stack p s) := .next (.foldl h fun _ _ hs => .serveQueue hs)

protected theorem NextCanonical.execThermalHoldTimeout {k : Fin 1024} (h : Canonical s) : NextCanonical (execThermalHoldTimeout k s) :=
  .next (.foldl h fun _ _ hs => .changeRequest hs)

protected theorem NextCanonical.execThermalSample (h : Canonical s) : NextCanonical (execThermalSample s) := by
  refine .next ?_
  split
  · exact h.of_mem rfl
  · exact h

protected theorem NextCanonical.execHoldRequest {k : Fin 1024} (h : Canonical s) : NextCanonical (execHoldRequest k s) :=
  .next (.foldl h fun _ _ hs => .requestHold hs)

protected theorem NextCanonical.execAbortDelivery {k : Fin 1024} (h : Canonical s) : NextCanonical (execAbortDelivery k s) :=
  .next (.ite (.beginRetract h) h)

protected theorem NextCanonical.execResultLands {k : Fin 1024} (h : Canonical s) : NextCanonical (execResultLands k s) :=
  .next (.ite (.landUpTo h) h)

protected theorem NextCanonical.execHaltedEngineResult {k : Fin 1024} (h : Canonical s) : NextCanonical (execHaltedEngineResult k s) :=
  .next (.ite (.landUpTo h) h)

protected theorem NextCanonical.execDecoderWatchdog {c : Fin 256} {q : CutOff} (h : Canonical s) :
    NextCanonical (execDecoderWatchdog c q s) := by
  refine .next ?_
  split
  · split
    · exact .ite (.chargeCopy (.perform h)) h
    · exact h
  · exact h

protected theorem NextCanonical.execDrenIncrement {i : Nat} (h : Canonical s) : NextCanonical (execDrenIncrement i s) := by
  refine .next ?_
  split
  · exact .ite (.applyDren h) h
  · exact h

protected theorem NextCanonical.execMmaStepRetire {c : Fin 256} (h : Canonical s) : NextCanonical (execMmaStepRetire c s) := by
  refine .next ?_
  split
  · exact .ite (.retireStep h) h
  · exact h

protected theorem NextCanonical.execSliceExpiry {c : Fin 256} (h : Canonical s) : NextCanonical (execSliceExpiry c s) := by
  refine .next ?_
  split
  · split
    next saved => exact .giveCore (h.saveCore saved)
    next => exact h
  · exact h

protected theorem NextCanonical.execJobAdmit {j : BitVec 32} (h : Canonical s) : NextCanonical (execJobAdmit j s) := by
  refine .next ?_
  split
  · exact h
  next job _ =>
    refine .ite h ?_
    split
    · exact h
    next u taken =>
      have htaken : Canonical u := h.takeCores taken
      extract_lets running ready launched answered
      have hlaunched : Canonical launched := .foldl (.modJob htaken) fun _ _ hs => .launchCore hs
      have hanswered : Canonical answered := by
        unfold answered
        split
        · exact .sendAck hlaunched
        · exact hlaunched
      exact .idleArrive (.recount hanswered)

protected theorem NextCanonical.execShadowSave {c : Fin 256} (h : Canonical s) : NextCanonical (execShadowSave c s) := by
  refine .next ?_
  split
  · exact h
  next j _ =>
    dsimp only
    split
    · exact h
    next u _ =>
      have spent : Canonical { s with spent2 := s.spent2.set c (s.spent2[c] + (u.2.2.length + 255) / 256) } := h
      have put : Canonical (putUnit j c { s with spent2 := s.spent2.set c (s.spent2[c] + (u.2.2.length + 255) / 256) } u) := .putPart spent
      exact put

protected theorem NextCanonical.execPatrolScrubVisit {u : Fin 256} (h : Canonical s) : NextCanonical (execPatrolScrubVisit u s) := by
  refine .next (.ite (.modSlice ?_) h)
  split
  · exact .correctWords (.countSlice h)
  · exact .countSlice h

protected theorem NextCanonical.execBusTest {c : Fin 256} {b f : Bool} (h : Canonical s) : NextCanonical (execBusTest c b f s) := by
  have spent : Canonical { s with spent1 := s.spent1.set c (s.spent1[c] + 1) } := h
  exact .next (.ite h (.ite spent (.ite (.retireCore (.modCore spent)) (.modCore spent))))

protected theorem NextCanonical.execRollback {c : Fin 256} (h : Canonical s) : NextCanonical (execRollback c s) := by
  refine .next (.ite h ?_)
  split
  · exact .ite h (.retireCore h)
  · exact .waitRollback h

protected theorem NextCanonical.execRollbackPassTimeout {c : Fin 256} (h : Canonical s) : NextCanonical (execRollbackPassTimeout c s) := by
  refine .next ?_
  split
  · exact .ite (.noRepeat h) h
  · exact h

/-! ### Events of the host (R357 to R368) -/

protected theorem NextCanonical.execHostRead {m : Fin 8} {n : BitVec 16} {a : BitVec 64} {l : BitVec 32} (h : Canonical s) :
    NextCanonical (execHostRead m n a l s) :=
  .next (.ite h (.ite (.sendAck h) (.ite (.sendAck h) (.ite (.sendAck (.touchRange h)) (.sendData (.touchRange h))))))

protected theorem NextCanonical.execHostWrite {m : Fin 8} {n : BitVec 16} {a : BitVec 64} {l : BitVec 32} {x : List (BitVec 8)}
    (h : Canonical s) : NextCanonical (execHostWrite m n a l x s) :=
  .next (.ite h (.ite (.sendAck h) (.ite (.sendAck h) (.sendAck (.hbmWrite h)))))

protected theorem NextCanonical.execRdata {m : Fin 8} {n : BitVec 16} {x : List (BitVec 8)} (h : Canonical s) :
    NextCanonical (execRdata m n x s) := by
  refine .next (.ite h ?_)
  split
  · exact h
  · exact .ite h (.ite (.readAnswered h) h)

protected theorem NextCanonical.execAck {m : Fin 8} {n : BitVec 16} {l : BitVec 32} (h : Canonical s) : NextCanonical (execAck m n l s) := by
  refine .next (.ite h (.ite (.finishBringUp h) ?_))
  split
  · exact h
  refine .ite h ?_
  split
  · exact .ite (.refuseHost h) (.modWorkAny (.dropMessage h))
  · exact .postAnswered (.dropMessage h)
  split
  · exact .askRefused h
  split
  · exact .removeJob (.dropMessage h)
  · exact .dropMessage h

protected theorem NextCanonical.execStart {m : Fin 8} {n : BitVec 16} {j : BitVec 32} {x : List (BitVec 8)} (h : Canonical s) :
    NextCanonical (execStart m n j x s) := .next (.ite h (h.runAsk fun _ _ hs => .startNow hs))

protected theorem NextCanonical.execTlbinv {m : Fin 8} {n : BitVec 16} {j : BitVec 32} {a : BitVec 64} {l : BitVec 32}
    (h : Canonical s) : NextCanonical (execTlbinv m n j a l s) := by
  refine .next (.ite h (.ite (.sendAck h) ?_))
  extract_lets r
  have hr : Canonical r := h
  split
  · exact .sendAck hr
  · exact hr

protected theorem NextCanonical.execMread {m : Fin 8} {n : BitVec 16} {a : MgmtSpan} (h : Canonical s) :
    NextCanonical (execMread m n a s) := .next (.ite h (.ite (.sendAck h) (.ite (.sendAck h) (.sendData h))))

protected theorem NextCanonical.execMwrite {m : Fin 8} {n : BitVec 16} {a : MgmtSpan} {x : BitVec 64} (h : Canonical s) :
    NextCanonical (execMwrite m n a x s) := .next (.ite h (.ite (.sendAck h) (.ite (.sendAck h) (.sendAck (.mgmtWrite h)))))

protected theorem NextCanonical.execHostAnswerTimeout {c : Fin 256} {q : Nat} (h : Canonical s) :
    NextCanonical (execHostAnswerTimeout c q s) := by
  refine .next ?_
  split
  · exact .ite (.refuseHost h) h
  · exact h

/-! ### Events of links (R361 to R363, R407 to R409) -/

protected theorem NextCanonical.execRemoteWrite {p : Fin 16} {z : FlitEnds} {n : FlitSeqs} {j : BitVec 32} {a : BitVec 64}
    {x : List (BitVec 8)} (h : Canonical s) : NextCanonical (execRemoteWrite p z n j a x s) := by
  refine .next (h.acceptFlit fun s hs => ?_)
  split
  · exact .sendWriteAck hs
  split
  · exact .sendWriteAck hs
  next job _ _ _ =>
    have written {o : Owner} : Canonical (rootWrite o (touchPages s job.root.toNat a.toNat x.length true) job.root.toNat a x) :=
      .rootWrite (.touchPages hs)
    exact .ite (.sendWriteAck written) written

protected theorem NextCanonical.execWriteAcknowledgement {p : Fin 16} {z : FlitEnds} {n : FlitSeqs} {c : Fin 256} {q : Nat}
    {r : BitVec 16} (h : Canonical s) : NextCanonical (execWriteAcknowledgement p z n c q r s) := by
  refine .next (h.acceptFlit fun s hs => ?_)
  split
  · exact hs
  · exact .ite hs (.remoteAnswered hs)

protected theorem NextCanonical.execFlag {p : Fin 16} {z : FlitEnds} {n : FlitSeqs} {j : BitVec 32} {a : BitVec 64} {v : BitVec 32}
    {o : Bool} (h : Canonical s) : NextCanonical (execFlag p z n j a v o s) :=
  .next (h.acceptFlit fun _ hs => hs.runAsk fun _ _ hu => .flagAct hu)

protected theorem NextCanonical.execBarrierArrival {p : Fin 16} {z : FlitEnds} {n : FlitSeqs} {j b : BitVec 32} (h : Canonical s) :
    NextCanonical (execBarrierArrival p z n j b s) := .next (h.acceptFlit fun _ hs => .ite (.countArrival hs) (.hearArrival hs))

protected theorem NextCanonical.execBarrierRelease {p : Fin 16} {z : FlitEnds} {n : FlitSeqs} {j b : BitVec 32} (h : Canonical s) :
    NextCanonical (execBarrierRelease p z n j b s) := .next (h.acceptFlit fun _ hs => .releaseDevice hs)

protected theorem NextCanonical.execSvethAckTimeout {p : Fin 16} (h : Canonical s) : NextCanonical (execSvethAckTimeout p s) := by
  refine .next ?_
  split
  · exact .resend h
  · exact h

protected theorem NextCanonical.execUcieModuleRetrainFail {m : Fin 8} (h : Canonical s) :
    NextCanonical (execUcieModuleRetrainFail m s) := by
  have failed : Canonical { s with modules := s.modules &&& ~~~(1#8 <<< m.val) } := h
  exact .next (.writeHealth (.ite (.foldl failed fun _ _ hs => .machineEnd hs) failed))

/-- Power-on leaves memory empty but for the report to the host (R365, R368). -/
protected theorem NextCanonical.execPowerOn {f b : Bool} {m : BitVec 8} {c : BitVec 256} {p : BitVec 16} :
    NextCanonical (execPowerOn f m b c p s) := by
  have empty {u : State} (e : u.mem = []) : Canonical u := (congrArg (memWf · = true) e).mpr memWf_nil
  unfold execPowerOn
  extract_lets reset up report
  split
  · exact .next (empty rfl)
  · exact .next (.sendHost (.putBytes (empty rfl)))

end Sys2Proof.Machine
end

section
/-! PROOFS. O59: every meaning of the opcode table keeps memory canonical. -/

namespace Sys2Proof.Machine

variable {s t : State}

/-- A meaning that is a slot operation keeps memory canonical if its effect does. -/
protected theorem NextCanonical.slot {act : State → Host.Outcome State Fault Refusal} {probe : State → Probe} {f : State → State}
    (h : Canonical s) (e : act = Sys2Proof.Machine.runSlot probe f) (hf : ∀ s, Canonical s → Canonical (f s)) :
    NextCanonical (act s) := by
  rw [e]
  exact .runSlot h hf

/-- Every operation and every event keeps memory canonical. The cases are grouped by what the effect of an operation does. -/
protected theorem NextCanonical.exec (h : Canonical s) (i : Instr) : NextCanonical (exec i s) := by
  cases i
  -- A result that lands, when the predicate holds (R57).
  case add | sub | mul | mulhS | mulhU | divS | divU | remS | remU | and | or | xor | andn | shl | shr | sra | rotl | clz | ctz | popc |
      minS | minU | maxS | maxU | fminmaxMin | fminmaxMax | pand | por | pxor | pnot | cmpEq | cmpNe | cmpLt | cmpGe | cmpLtu | cmpGeu |
      cmpTst | cmpTstn | fadd | fmul | fcmpEq | fcmpLt | fcmpLe | fcmpUn =>
    exact .slot h rfl (.predEffect fun _ hs => .land hs)
  -- A result that lands.
  case sext | zext | bfxS | bfxU | bfi | sel | addi | andi | ori | xori | shli | shri | srai | lui | movi | mpopc | vextr | tstat | ffma |
      fcvt | vadd | vsub | vmul | vfma | vfms | vmin | vmax | vabs | vneg | vsel | vand | vor | vxor | vshl | vshr | vsra | vexp2 | vlog2 |
      vrcp | vrsq | vcvt | vpermb | vpermw | vbcast | viota | vredadd | vredmax | vredmin | vcmpEq | vcmpNe | vcmpLt | vcmpLe | vcmpGt |
      vcmpGe | vcmpUn | vcmpLtu | vcmpOrd | vcmpGeu | mand | mor | mnot | vqnt | vdq | mzero | cpset | rinit | dfrm | dfrmAdd | csrr =>
    exact .slot h rfl fun _ hs => .land hs
  case vtrip => exact .slot h rfl fun _ hs => .land (.land (.land hs))
  case fmtw | sclld | release => exact .slot h rfl fun _ hs => .landFree hs
  case wrot => exact .slot h rfl fun _ hs => .landFree (.land hs)
  -- Loads, stores and atomics (R123 to R130, R157 to R163).
  case ldB | ldH | ldW | ldD | ldBz | ldHz | ldWz => exact .loadForm h
  case stB | stH | stW | stD => exact .storeForm h
  case ldlW | ldlWz | ldlD => exact .landForm h
  case l1inv | l1wb => exact .rangeForm h
  case amoAdd | amoAnd | amoOr | amoXor | amoMin | amoMax | amoSwap | amoCas | redAdd | redAnd | redOr | redMin | redMax =>
    exact .atomicForm h
  case amopop => exact .execAmopop h
  case spart => exact .slot h rfl fun _ hs => .landLate (.pushWork (.setRepeat hs))
  case vld => exact .execVld h
  case vst => exact .execVst h
  case vlds | vgath => exact .gatherForm h
  case vscat => exact .execVscat h
  case vldl | lcnt => exact .slot h rfl fun _ hs => .landLate (.pushWork hs)
  case vstg => exact .slot h rfl fun _ hs => .pushWork hs
  case vlda => exact .execVlda h
  case vsta => exact .slot h rfl fun _ hs => .landFault hs
  -- Control (R131 to R139).
  case nop => exact .slot h rfl fun _ hs => .ite (.takeCairn hs) hs
  case br | jmp | jmpr => exact .slot h rfl (.predEffect fun _ hs => .branchTo hs)
  case call => exact .slot h rfl (.predEffect fun _ hs => .branchTo (.land hs))
  case ret => exact .slot h rfl (.predEffect fun _ hs => .countEvent (.branchTo hs))
  case loop => exact .execLoop h
  case trap => exact .execTrap h
  case eret => exact .slot h rfl (.predEffect fun _ hs => hs.of_mem rfl)
  case halt => exact .slot h rfl (.predEffect fun _ hs => .modCtx hs)
  case yield => exact .slot h rfl (.predEffect fun _ hs => .modCore hs)
  case csrw | csrs | csrc => exact .slot h rfl fun _ hs => .csrSend (.land hs)
  case rlandRedo => exact .execRlandRedo h
  case rlandSet => exact .execRlandSet h
  -- Banks, steps and drains (R217 to R232).
  case mma | mtile => exact .slot h rfl fun _ hs => .stepEffect hs
  case mdrain => exact .slot h rfl fun _ hs => .drainEffect hs
  case mring | acown => exact .slot h rfl fun _ hs => .modCore (.setRepeat hs)
  case acalloc => exact .slot h rfl fun _ hs => .setBank (.setRepeat hs)
  case acfree => exact .slot h rfl fun _ hs => .setBank hs
  -- Copies and transforms (R180 to R216).
  case cpy | cpym | cpyr | cpyx | cpf | cpwb => exact .slot h rfl fun _ hs => .copyEffect hs
  case xexp | xtrn | xcvt | xzvc | xfill => exact .slot h rfl fun _ hs => .xEffect hs
  -- Order, barriers, flags and pools (R284 to R300).
  case fence | fencex => exact .slot h rfl fun _ hs => .landLate hs
  case dsyncWord | dsyncPhrase | dsyncClause | dsyncSentence | dsyncParagraph => exact .slot h rfl fun _ hs => .modCtx (.setRepeat hs)
  case fladd | flset => exact .slot h rfl fun _ hs => .flagEffect hs
  case flwait => exact .execFlwait h
  case await => exact .slot h rfl fun _ hs => hs
  case wnext => exact .slot h rfl fun _ hs => .pushWork (.landLate (.setRepeat hs))
  -- Ladders, merge cells and tasks (R257 to R274, R301 to R332).
  case lnew | lbind | ldrop | lfork => exact .slot h rfl fun _ hs => .bindAt (.ladderEffect hs)
  case lappend | lcarry | ltrunc | lread | lwalk | lkeep => exact .slot h rfl fun _ hs => .ladderEffect hs
  case mcinit | mcdep | mcget => exact .slot h rfl fun _ hs => .queueLadder hs
  case tspawn | gload | vtab => exact .slot h rfl fun _ hs => .taskEffect hs
  case tbegin => exact .execTbegin h
  case tcommit | tcommitOrd => exact .slot h rfl fun _ hs => .commitEffect hs
  case tabort => exact .execTabort h
  case vcall => exact .execVcall h
  case vinv => exact .slot h rfl fun _ hs => .modTask hs
  case vret => exact .execVret h
  -- Events of the device (R23 to R52, R366, R367).
  case transformBeat => exact .execTransformBeat h
  case domainBarrierRelease => exact .execDomainBarrierRelease h
  case flagWriteArrives | landingDataArrives | deferredRefusal | amoPerform | copyComplete | drainComplete | ladderOpComplete |
      engineFault =>
    exact .next (.workEvent h)
  case wnextServe => exact .execWnextServe h
  case thermalHoldTimeout => exact .execThermalHoldTimeout h
  case holdRequest => exact .execHoldRequest h
  case abortDelivery => exact .execAbortDelivery h
  case resultLands => exact .execResultLands h
  case haltedEngineResult => exact .execHaltedEngineResult h
  case quantExpiry => exact .next (.expire h)
  case contextPromotion => exact .next (.promote h)
  case drenIncrement => exact .execDrenIncrement h
  case decoderWatchdog => exact .execDecoderWatchdog h
  case mmaStepRetire => exact .execMmaStepRetire h
  case thermalSample => exact .execThermalSample h
  case sliceExpiry => exact .execSliceExpiry h
  case coreRestore => exact .next (.giveCore h)
  case grantFloorMet => exact .next (.ite (.modCore h) h)
  case jobAdmit => exact .execJobAdmit h
  case shadowSave => exact .execShadowSave h
  case budgetPeriod =>
    refine .next ?_
    split
    · exact h.of_mem rfl
    · exact h
  case patrolScrubVisit => exact .execPatrolScrubVisit h
  case busTest => exact .execBusTest h
  case rollback => exact .execRollback h
  case rollbackPassTimeout => exact .execRollbackPassTimeout h
  -- Events of the host and of the links (R357 to R368, R407 to R409).
  case hostRead => exact .execHostRead h
  case hostWrite => exact .execHostWrite h
  case rdata => exact .execRdata h
  case ack => exact .execAck h
  case start m n j x => exact .execStart (j := j) h
  case tlbinv => exact .execTlbinv h
  case mread => exact .execMread h
  case mwrite => exact .execMwrite h
  case attest => exact .next (.ite h (.sendData h))
  case reservedHostType => exact .next (.ite h (.sendAck h))
  case hostAnswerTimeout => exact .execHostAnswerTimeout h
  case remoteWrite => exact .execRemoteWrite h
  case writeAcknowledgement => exact .execWriteAcknowledgement h
  case flag => exact .execFlag h
  case barrierArrival => exact .execBarrierArrival h
  case barrierRelease => exact .execBarrierRelease h
  case svethAckTimeout => exact .execSvethAckTimeout h
  case svethCrcMismatch => exact .next (.resend h)
  case ucieModuleRetrainFail => exact .execUcieModuleRetrainFail h
  case ucieRetrainingSucceeds => exact .next h
  case powerOn => exact .execPowerOn

end Sys2Proof.Machine
end

section
/-! PROOFS. O59: bundles, the turn of a core, the end of a cycle, and the step (R24, R31 to R34, R52, R375). -/

namespace Sys2Proof.Machine

variable {s t : State}

/-! ### Boundaries of contexts (R32, R319, R379) -/

protected theorem Canonical.settleCtx {k : Fin 1024} (h : Canonical s) : Canonical (settleCtx s k) := by
  have landed : Canonical (landUpTo k (ctxAt s k).arch.sched.toNat s) := .landUpTo h
  exact .ite h (.ite (.beginRetract (.setCtx landed)) landed)

protected theorem Canonical.carryRetract {k : Fin 1024} (h : Canonical s) : Canonical (carryRetract s k) :=
  .ite (h.runAsk fun _ _ hs => .retractStep hs) h

protected theorem Canonical.countWaits {c : Fin 256} {sel : Option (Fin 4)} (h : Canonical s) : Canonical (countWaits s c sel) :=
  .foldl h fun _ _ hs => .ite hs (.modCtx hs)

protected theorem Canonical.earn {c : Fin 256} (h : Canonical s) : Canonical (earn s c) := .modCore h

protected theorem Canonical.useWidth {k : Fin 1024} (h : Canonical s) : Canonical (useWidth s k) := h.of_mem (useWidth_mem s k)

protected theorem Canonical.choose {c : Fin 256} (h : Canonical s) : Canonical (choose s c).2 := by
  have handed : Canonical (if holderEnters s c then s else expire true (expire false (promote s c) c) c) :=
    .ite h (.expire (.expire (.promote h)))
  unfold choose
  dsimp only
  split
  · exact .answer (.earn (.modCore handed))
  next i _ =>
    have counted : Canonical (countWaits _ c (some i)) := .countWaits handed
    refine .snd_ite ?_ (.snd_ite ?_ ?_)
    · exact .answer (.modCore counted)
    · exact .answer (.countEvent (.modCore counted))
    · exact .answer (.modCore counted)

/-! ### Bundles (R375) -/

protected theorem NextCanonical.checkOps {k : Fin 1024} {base : Nat} {ops : List (Fin 8 × Instr)} (h : Canonical s) :
    NextCanonical (checkOps k base ops s) := by
  induction ops generalizing s with
  | nil => exact .next h
  | cons q r ih =>
    have placed : Canonical (atSlot k base .check q.1 s) := h
    exact (NextCanonical.exec placed q.2).bindOut fun _ hs => ih hs

protected theorem NextCanonical.effectOps {k : Fin 1024} {base : Nat} {ops : List (Fin 8 × Instr)} (h : Canonical s) :
    NextCanonical (effectOps k base ops s) := by
  induction ops generalizing s with
  | nil => exact .next h
  | cons q r ih =>
    have placed : Canonical (atSlot k base .effect q.1 s) := h
    exact (NextCanonical.exec placed q.2).bindOut fun _ hs => ih hs

protected theorem NextCanonical.runMany {k : Fin 1024} {b : Bundle} (h : Canonical s) : NextCanonical (runMany k b s) := by
  have opened : Canonical { s with probes := [] } := h
  refine (NextCanonical.checkOps opened).bindOut fun u hu => ?_
  have checked : Canonical { u with probes := [], cur := k } := hu
  have issued : Canonical (issue u.probes id { u with probes := [], cur := k }) := checked.issue fun _ hs => hs
  dsimp only
  split
  · exact .effectOps (.ite (.takeCairn issued) issued)
  · exact .next issued

protected theorem NextCanonical.runBundle {k : Fin 1024} {b : Bundle} (h : Canonical s) : NextCanonical (runBundle k b s) := by
  have placed {n : Fin 8} : Canonical (atSlot k s.seq .whole n s) := h
  unfold runBundle
  split
  · exact .exec placed _
  · exact .exec placed _
  · exact .runMany h

protected theorem Canonical.advance {k : Fin 1024} {old : Arch} {next : Word} (h : Canonical s) : Canonical (advance k old next s) :=
  .modCtx h

protected theorem Canonical.finishBundle {k : Fin 1024} {old : Arch} {next : Word} {base : Nat} (h : Canonical s) :
    Canonical (finishBundle k old next base s) := by
  have closed : Canonical { s with phase := .whole, probes := [], seq := base + 8 } := h
  unfold finishBundle
  dsimp only
  split
  · exact closed
  · exact .useWidth closed
  · exact .earn (.countEvent (.useWidth (.advance closed)))
  · exact .earn (.countEvent (.useWidth (.advance closed)))

protected theorem NextCanonical.issueNext {k : Fin 1024} (h : Canonical s) : NextCanonical (issueNext k s) := by
  unfold issueNext
  dsimp only
  split
  · exact .next (.finishBundle (.trapEnter h))
  · exact .next (.finishBundle (.trapEnter h))
  · split
    · exact .next (.rollStop h)
    · exact (NextCanonical.runBundle h).bindOut fun _ hs => .next (.finishBundle hs)

protected theorem NextCanonical.runContext {k : Fin 1024} (h : Canonical s) : NextCanonical (runContext k s) := by
  unfold runContext
  dsimp only
  split
  · exact .next (.useWidth (.takeFault h))
  · split
    · exact .next (.useWidth (.trapEnter h))
    · exact .issueNext h

/-! ### The turn of a core (R32) -/

protected theorem Canonical.lookAhead {k : Fin 1024} (h : Canonical s) : Canonical (lookAhead s k) := by
  refine .ite ?_ h
  split
  · exact .modCtx h
  · exact .ite h (.modCtx h)

protected theorem Canonical.readBundle {k : Fin 1024} (h : Canonical s) : Canonical (readBundle s k) := .ite h (.refetch h)

protected theorem Canonical.prepare {c : Fin 256} (h : Canonical s) : Canonical (prepare s c) :=
  .foldl (.foldl (.foldl h fun _ _ hs => .settleCtx hs) fun _ _ hs => .readBundle hs) fun _ _ hs => .lookAhead hs

protected theorem NextCanonical.coreTurn {c : Fin 256} (h : Canonical s) : NextCanonical (coreTurn c s) := by
  unfold coreTurn
  dsimp only
  split
  · split
    · exact .next (.prepare h)
    · have chosen : Canonical (choose (prepare s c) c).2 := .choose (.prepare h)
      split <;> rename_i e <;> rw [e] at chosen
      · exact .next chosen
      · exact .next chosen
      · exact .runContext chosen
  · exact .next h

/-! ### The end of a cycle -/

protected theorem Canonical.countCycle {c : Fin 256} (h : Canonical s) : Canonical (countCycle s c) :=
  .modCore (.countEvent (.countEvent (.countEvent (.countEvent h))))

protected theorem Canonical.forgetFlagged (h : Canonical s) : Canonical { s with flagged := [] } := h

protected theorem Canonical.setSlices {v : Vector Slice 256} (h : Canonical s) : Canonical { s with slices := v } := h

protected theorem Canonical.nextCycle {n : Nat} (h : Canonical s) : Canonical { s with cycle := n, turn := 0 } := h

protected theorem Canonical.endCycle (h : Canonical s) : Canonical (endCycle s) := by
  unfold endCycle
  extract_lets added opened counted held served landed arrived retracted rolled checked
  have hadded : Canonical added := .runCellAdds h
  have hopened : Canonical opened := .forgetFlagged hadded
  have hcounted : Canonical counted := .foldl hopened fun _ _ hs => .countCycle hs
  have hheld : Canonical held := .setSlices hcounted
  have hserved : Canonical served := .foldl hheld fun _ _ hs => .ite hs (.serveBanks hs)
  have hlanded : Canonical landed := .foldl hserved fun _ _ hs => .ite (.landStanding hs) hs
  have harrived : Canonical arrived := .foldl hlanded fun _ _ hs => .ite (.tryArrive hs) hs
  have hretracted : Canonical retracted := .foldl harrived fun _ _ hs => .ite (.carryRetract hs) hs
  have hrolled : Canonical rolled := .foldl hretracted fun _ _ hs => .rollOn hs
  have hchecked : Canonical checked := .checkInvals (.expirePosts hrolled)
  exact .flushWant (.finishJobs (.nextCycle hchecked))

/-- Meanings that happen one after another keep memory canonical. -/
protected theorem NextCanonical.runActs {l : List Act} (hl : Meanings l) (h : Canonical s) : NextCanonical (runActs l s) := by
  induction l generalizing s with
  | nil => exact .next h
  | cons f r ih =>
    obtain ⟨i, rfl⟩ := hl f List.mem_cons_self
    exact (NextCanonical.exec h i).bindOut fun _ hs => ih (fun g hg => hl g (List.mem_cons_of_mem _ hg)) hs

protected theorem NextCanonical.endTurn (h : Canonical s) : NextCanonical (endTurn s) := by
  unfold endTurn
  dsimp only
  split
  · exact .next h
  · split
    · exact (NextCanonical.runActs (autoEvents_meanings _) (.endCycle h)).bindOut fun _ hs => .next (.flushWant (.runCellAdds hs))
    · exact .next (.endCycle h)

/-! ### The step -/

protected theorem Canonical.takeDue {i : Instr} (h : Canonical s) (e : takeDue s = some (i, t)) : Canonical t := by
  unfold takeDue at e
  split at e
  · cases e
    exact h
  · exact nomatch e

protected theorem NextCanonical.happen {i : Instr} (h : Canonical s) : NextCanonical (happen i s) := by
  unfold happen
  split
  · exact (NextCanonical.exec h i).bindOut fun _ hs => .next (.flushWant hs)
  · exact .next h

protected theorem NextCanonical.step (h : Canonical s) : NextCanonical (step s) := by
  unfold step
  split
  next e => exact .happen (h.takeDue e)
  next => exact (NextCanonical.coreTurn h).bindOut fun _ hs => .endTurn hs

/-- Settles O59: whatever changes memory writes bytes into its canonical list, and a step only puts meanings of operations and events in
sequence, each of which keeps memory canonical (`NextCanonical.exec`). -/
theorem stepKeepsInv : Obligations.StepKeepsInv := fun _ t h e => NextCanonical.step h t e

end Sys2Proof.Machine
end

section
/-! PROOFS. Copy commands at issue, and the addresses of their walks (R186 to R192, R195, R202, R384, R385). -/

namespace Sys2Proof.Machine

open Sys2Proof.Safety

/-! ### Rings at issue -/

section
variable {s : State} {g : Fin 8}

/-- The fault of an operation that names a failed ring (R385). -/
def ringFailure (s : State) (g : Fin 8) : FaultRec :=
  let r := (curArch s).g[g]
  ⟨0x0E, r.fcode, some s.slot, r.faddr, BitVec.ofNat 64 (r.fbun.toNat + r.fslot.toNat * 2 ^ 20), BitVec.ofNat 64 g.val, none⟩

theorem ringFault_sound (h : ((curArch s).g[g]).fcode = 0) : ringFault s g = [] := if_pos h

theorem ringFault_failed (h : ((curArch s).g[g]).fcode ≠ 0) : ringFault s g = [ringFailure s g] := by
  have code : BitVec.ofNat 16 ((curArch s).g[g]).fcode.toNat = ((curArch s).g[g]).fcode := BitVec.ofNat_toNat ..
  rw [ringFault, if_neg h, slotFault, mkFault, code]
  rfl

end

/-- RINGFAIL stands in the order of R375. -/
theorem ringFailure_code (s : State) (g : Fin 8) : (ringFailure s g).code.toNat = 0x0E := rfl

theorem code_of_mem_ringFault {s : State} {g : Fin 8} {f : FaultRec} (h : f ∈ ringFault s g) : f.code.toNat = 0x0E := by
  by_cases sound : ((curArch s).g[g]).fcode = 0
  · rw [ringFault_sound sound] at h
    exact absurd h List.not_mem_nil
  · rw [ringFault_failed sound] at h
    rw [List.mem_singleton.1 h, ringFailure_code]

/-! ### The checks of a copy command -/

/-- The copy commands waiting at the engine of the issuing slot (R192). -/
def copyQueue (s : State) : List Work :=
  (curCore s).work.filter fun w => isCopy w && w.slot.val == 4 + s.slot.val % 2 && !w.done

/-- A ring has room for an increment (R195). -/
def RingFits (s : State) (g : Fin 8) (n : Nat) : Prop :=
  n = 0 ∨ (((curArch s).g[g]).rsv - ((curArch s).g[g]).cons).toNat + n ≤ ((curArch s).g[g]).cap.toNat

/-- The issuing core's operand ring has room for the tiles of a command that it is a destination of (R202). -/
def TilesFit (s : State) (op : Nat) (a : Fin 8) (r : Bool) (o : Fin 8) : Prop :=
  r = false ∨ (dstCores op ((curArch s).a[a])).contains (coreOf s.cur) = false ∨
    (((curCore s).o[o]).tail - ((curCore s).o[o]).head).toNat + ownTiles op a o s ≤ ((curCore s).o[o]).slm.toNat + 1

section
variable {s : State} {g : Fin 8}

theorem waitMet_ringRoom (h : ((curArch s).g[g]).fcode = 0) (n : Nat) :
    waitMet s s.cur [] [] (.ringRoom g n) = true ↔ RingFits s g n := by
  have sound : ((ctxAt s s.cur).arch.g[g]).fcode = 0 := h
  simp only [waitMet, ringRoom, sound]
  simp [RingFits, curArch]
  tauto

theorem waitMet_copyRoom (s : State) (rings tiles : List (Fin 8 × Nat)) :
    waitMet s s.cur rings tiles (.copyRoom (Fin.ofNat 2 s.slot.val)) = true ↔ (copyQueue s).length < 16 := decide_eq_true_iff

theorem waitMet_tileRoom (s : State) (rings : List (Fin 8 × Nat)) (o : Fin 8) (n : Nat) :
    waitMet s s.cur rings [] (.tileRoom o n) = true ↔
      (((curCore s).o[o]).tail - ((curCore s).o[o]).head).toNat + n ≤ ((curCore s).o[o]).slm.toNat + 1 := decide_eq_true_iff

/-- What a copy command waits for: room in its ring, at its engine, and for its tiles (R192, R195, R202). -/
theorem waitsMet_copy (h : ((curArch s).g[g]).fcode = 0) (op : Nat) (a : Fin 8) (i : BitVec 6) (r : Bool) (o : Fin 8) (x : Fin 16) :
    waitsMet s s.cur [] [] (copyProbe op a g i r o x s).waits = true ↔
      RingFits s g i.toNat ∧ (copyQueue s).length < 16 ∧ TilesFit s op a r o := by
  by_cases own : (r && (dstCores op ((curArch s).a[a])).contains (coreOf s.cur)) = true
  · have waits : (copyProbe op a g i r o x s).waits =
        [.ringRoom g i.toNat, .copyRoom (Fin.ofNat 2 s.slot.val), .tileRoom o (ownTiles op a o s)] := by
      simp only [copyProbe, own]; rfl
    obtain ⟨ringed, mine⟩ := Bool.and_eq_true_iff.1 own
    have fit : TilesFit s op a r o ↔
        (((curCore s).o[o]).tail - ((curCore s).o[o]).head).toNat + ownTiles op a o s ≤ ((curCore s).o[o]).slm.toNat + 1 := by
      simp only [TilesFit, ringed, mine, Bool.true_eq_false, false_or]
    simp only [waits, waitsMet, Bool.and_eq_true, waitMet_ringRoom h, waitMet_copyRoom, waitMet_tileRoom, fit, and_true]
  · have waits : (copyProbe op a g i r o x s).waits = [.ringRoom g i.toNat, .copyRoom (Fin.ofNat 2 s.slot.val)] := by
      simp only [copyProbe, own]; rfl
    have fit : TilesFit s op a r o := by
      rw [Bool.and_eq_true, not_and_or, Bool.not_eq_true, Bool.not_eq_true] at own
      exact own.elim .inl fun h => .inr (.inl h)
    simp only [waits, waitsMet, Bool.and_eq_true, waitMet_ringRoom h, waitMet_copyRoom, fit]

/-- The first fault of a list is the first of its code, where no code that the order of R375 puts before it occurs. -/
theorem firstFault_of_order {l : List FaultRec} {f : FaultRec} (before : List Nat) {c : Nat} {after : List Nat}
    (order : codeOrder = before ++ c :: after) (hb : ∀ g ∈ l, g.code.toNat ∉ before)
    (hf : l.find? (fun g => g.code.toNat = c) = some f) : firstFault l = some f := by
  refine List.findSome?_eq_some_iff.2 ⟨before, c, after, order, hf, fun d hd => List.find?_eq_none.2 fun g hg e => ?_⟩
  exact hb g hg (of_decide_eq_true e ▸ hd)

/-- OPERAND comes before all but four codes in the order of R375. -/
theorem firstFault_operand {f : FaultRec} {l : List FaultRec} (hf : f.code.toNat = 0x0D)
    (hl : ∀ g ∈ l, g.code.toNat ∉ [0x06, 0x0B, 0x0C, 0x12]) : firstFault (f :: l) = some f :=
  firstFault_of_order [0x06, 0x0B, 0x0C, 0x12] rfl (List.forall_mem_cons.2 ⟨by rw [hf]; decide, hl⟩)
    (List.find?_cons_of_pos (decide_eq_true hf))

/-- A block size that is no multiple of 64 up to 4096 offends, whatever the rest of the pattern (R384). -/
theorem badWord_block {op : Nat} {p : Pattern} (hc : ∀ l < 6, (patWord p (2 + l)).toNat < 2 ^ 32)
    (hb : (patWord p 20).toNat % 64 ≠ 0 ∨ 4096 < (patWord p 20).toNat) : badWord op p = some 20 := by
  have counts : (List.range 6).find? (fun l => 2 ^ 32 ≤ (patWord p (2 + l)).toNat) = none :=
    List.find?_eq_none.2 fun l hl => by simpa using hc l (List.mem_range.1 hl)
  have block : patBlk p % 64 ≠ 0 ∨ 4096 < patBlk p ∨ (op = 4 ∧ patBlk p % 256 ≠ 0) := hb.imp_right .inl
  simp only [badWord, counts, if_pos block]

theorem copyFaults_block {op : Nat} {a : Fin 8} {r : Bool} {o : Fin 8} {x : Fin 16} (h : badWord op ((curArch s).a[a]) = some 20) :
    copyFaults op a r o x s = [mkFault 0x0D s.slot.val (some s.slot) 20 0 0] := by
  simp only [copyFaults, h]
  rfl

end

/-! ### What a copy command does at issue -/

/-- The six copy commands share one form. -/
theorem exec_copy (a g : Fin 8) (i : BitVec 6) (r : Bool) (o : Fin 8) (c x : Fin 16) (s : State) :
    ∀ q ∈ ([(1, .cpy a g i r o c x), (2, .cpym a g i r o c x), (3, .cpyr a g i r o c x), (4, .cpyx a g i r o c x),
      (5, .cpf a g i r o c x), (6, .cpwb a g i r o c x)] : List (Nat × Instr)),
      exec q.2 s = runSlot (copyProbe q.1 a g i r o x) (copyEffect q.1 a g i r o c x) s := by
  simp only [List.forall_mem_cons]
  exact ⟨rfl, rfl, rfl, rfl, rfl, rfl, nofun⟩

/-- A ring once `n` more is reserved in it (R195). -/
def reserved (r : Ring) (n : Nat) : Ring := { r with rsv := r.rsv + BitVec.ofNat 32 n }

theorem curCtx_reserve (u : State) (g : Fin 8) (n : Nat) : curCtx (reserve u.cur g n u) =
    { curCtx u with arch := { curArch u with g := (curArch u).g.set g (reserved ((curArch u).g[g]) n) } } := ctxAt_modArch u u.cur _

section
variable (op : Nat) (a g : Fin 8) (i : BitVec 6) (r : Bool) (o : Fin 8) (c x : Fin 16) (u : State)

/-- The command that a copy queues (R192). -/
def copyCommand : CopyCmd :=
  { op := BitVec.ofNat 8 op, pat := (curArch u).a[a], opt := x.val % 2 == 1, oring := if r then some o else none,
    tiles := ownTiles op a o u }

/-- The piece of work that stands for it. -/
def copyWork : Work := newWork u op 1 c (some g) i.toNat (.copy (copyCommand op a r o x u))
  (copyFoot op ((curArch u).a[a]) (coreOf u.cur)) 0 0

/-- A copy command is queued and its ring reserved; its bundle may have become one that is not repeated (R192, R195, R397). -/
theorem copyEffect_eq : ∃ t, (t = u ∨ t = setRepeat u) ∧
    copyEffect op a g i r o c x u = reserve u.cur g i.toNat (pushWork t (copyWork op a g i r o c x u)) := by
  by_cases again : op = 3 ∨ r ∨ patDren ((curArch u).a[a]) ∨ patRemote op ((curArch u).a[a])
  · exact ⟨_, .inr rfl, by simp only [copyEffect, again]; rfl⟩
  · exact ⟨_, .inl rfl, by simp only [copyEffect, again]; rfl⟩

theorem copyEffect_does : let t := copyEffect op a g i r o c x u
    t.mem = u.mem ∧ (curCore t).work = (curCore u).work ++ [copyWork op a g i r o c x u] ∧
    curArch t = { curArch u with g := (curArch u).g.set g (reserved ((curArch u).g[g]) i.toNat) } ∧
    (curCtx t).flight = (curCtx u).flight := by
  obtain ⟨t, ht, eq⟩ := copyEffect_eq op a g i r o c x u
  have kept : t.mem = u.mem ∧ t.cur = u.cur ∧ curCore t = curCore u ∧ curArch t = curArch u ∧ (curCtx t).flight = (curCtx u).flight := by
    obtain rfl | rfl := ht
    · exact ⟨rfl, rfl, rfl, rfl, rfl⟩
    · exact ⟨rfl, rfl, rfl, (congrArg Ctx.arch (curCtx_setRepeat u) :), (congrArg Ctx.flight (curCtx_setRepeat u) :)⟩
  obtain ⟨mem, cur, core, arch, flight⟩ := kept
  have ctx := curCtx_reserve (pushWork t (copyWork op a g i r o c x u)) g i.toNat
  rw [show (pushWork t (copyWork op a g i r o c x u)).cur = u.cur from cur] at ctx
  rw [eq]
  refine ⟨mem, ?_, ?_, ?_⟩
  · rw [← core]
    exact work_pushWork t cur.symm
  · rw [← arch]
    exact (congrArg Ctx.arch ctx :)
  · rw [← flight]
    exact (congrArg Ctx.flight ctx :)

end

theorem ownTiles_issued (op : Nat) (a o : Fin 8) (s : State) : ownTiles op a o (issued s) = ownTiles op a o s := by
  simp [ownTiles]

/-! ### The addresses of a walk (R186, R189) -/

theorem digitsOf_cons {c i : Nat} (h : i < c) (r : List Nat) (k : Nat) : digitsOf (c :: r) (i + c * k) = i :: digitsOf r k := by
  rw [digitsOf, Nat.add_mul_mod_self_left, Nat.mod_eq_of_lt h, Nat.add_mul_div_left _ _ (Nat.zero_lt_of_lt h), Nat.div_eq_of_lt h,
    Nat.zero_add]

/-- A digit below its count, above a number below theirs. -/
theorem digit_lt {i c k n : Nat} (hi : i < c) (hk : k < n) : i + c * k < c * n := by
  calc i + c * k < c + c * k := Nat.add_lt_add_right hi _
    _ = c * (k + 1) := by rw [Nat.mul_succ, Nat.add_comm]
    _ ≤ c * n := Nat.mul_le_mul_left c hk

/-- The number of a block, from its six digits. -/
def blockNumber (p : Pattern) (i : Nat → Nat) : Nat :=
  i 0 + patCount p 0 * (i 1 + patCount p 1 * (i 2 + patCount p 2 * (i 3 + patCount p 3 * (i 4 + patCount p 4 * i 5))))

section
variable {p : Pattern} {i : Nat → Nat} (h : ∀ l < 6, i l < patCount p l)
include h

theorem blockNumber_lt : blockNumber p i < patBlocks p := by
  have blocks : patBlocks p = patCount p 0 * (patCount p 1 * (patCount p 2 * (patCount p 3 * (patCount p 4 * patCount p 5)))) := by
    simp [patBlocks, List.range_succ, Nat.mul_assoc]
  rw [blocks]
  exact digit_lt (h 0 (by decide)) <| digit_lt (h 1 (by decide)) <| digit_lt (h 2 (by decide)) <| digit_lt (h 3 (by decide)) <|
    digit_lt (h 4 (by decide)) (h 5 (by decide))

theorem digitsOf_blockNumber : digitsOf ((List.range 6).map (patCount p)) (blockNumber p i) = (List.range 6).map i := by
  change digitsOf [patCount p 0, patCount p 1, patCount p 2, patCount p 3, patCount p 4, patCount p 5] _ = [i 0, i 1, i 2, i 3, i 4, i 5]
  rw [blockNumber, digitsOf_cons (h 0 (by decide)), digitsOf_cons (h 1 (by decide)), digitsOf_cons (h 2 (by decide)),
    digitsOf_cons (h 3 (by decide)), digitsOf_cons (h 4 (by decide)), ← Nat.add_zero (i 5), ← Nat.mul_zero (patCount p 5),
    digitsOf_cons (h 5 (by decide))]
  rfl

end

/-- Without an index table, a block lies at the base plus its digits times the strides, on either side. -/
theorem blockAt_plain {p : Pattern} (hx : idxOn p = false) (op : Nat) (tbl : Nat → Nat) (k : Nat) :
    let is := digitsOf ((List.range 6).map (patCount p)) k
    blockAt op p tbl k =
      ((List.range 6).foldl (fun a l => a + BitVec.ofNat 64 (is.getD l 0) * patWord p (8 + l)) (patWord p 0),
       (List.range 6).foldl (fun a l => a + BitVec.ofNat 64 (is.getD l 0) * patWord p (14 + l)) (patWord p 1)) := by
  have unused : idxUsed op p = false := by rw [idxUsed, hx, Bool.false_and]
  simp only [blockAt, unused, Bool.false_eq_true, false_and, if_false]

/-- Settles O36: the six commands share one probe and one effect; a walk by the digits of a block's number. -/
theorem copyIssue : Obligations.CopyIssue := by
  unfold Obligations.CopyIssue
  refine ⟨fun s a g i r o c x ha => ?_, fun op p tbl i hx hi => ?_⟩
  · intro p ring queue q hq tiles ringOk tilesOk
    have run := exec_copy a g i r o c x s q hq
    have fits : RingFits s g i.toNat ↔ ringOk := or_congr_left (by rw [← BitVec.toNat_inj]; rfl)
    have short : queue = copyQueue s := rfl
    refine ⟨fun hf hg => ?_, fun hf hg => ?_, fun hc hb => ?_⟩
    · have noFault : (copyProbe q.1 a g i r o x s).faults = [] := by
        simp only [copyProbe, hf, ringFault_sound hg, List.append_nil]
      have met : waitsMet s s.cur [] [] (copyProbe q.1 a g i r o x s).waits = true ↔ ringOk ∧ queue.length < 16 ∧ tilesOk :=
        (waitsMet_copy hg q.1 a i r o x).trans (and_congr_left' fits)
      refine ⟨fun ring_ tiles_ queue_ => ?_, fun busy => ⟨_, run.trans (runSlot_holds ha (Nat.le_refl 0) .nil rfl noFault ?_)⟩⟩
      · obtain ⟨mem, work, arch, flight⟩ := copyEffect_does q.1 a g i r o c x (issued s)
        rw [curArch_issued] at arch
        refine ⟨_, copyWork q.1 a g i r o c x (issued s), copyCommand q.1 a r o x (issued s),
          run.trans (runSlot_does ha (Nat.le_refl 0) .nil (.inl rfl) noFault (met.2 ⟨ring_, queue_, tiles_⟩) rfl), mem, work, rfl, rfl,
          ?_, rfl, ownTiles_issued .., rfl, rfl, rfl, rfl, rfl, rfl, ?_, fun h hh => ?_, ?_, ?_, flight.trans ?_⟩
        · exact congrArg (fun r : Arch => r.a[a]) (curArch_issued s)
        · rw [arch]
          exact Vector.getElem_set_self g.isLt
        · rw [arch]
          exact Vector.getElem_set_ne g.isLt h.isLt fun e => hh (Fin.ext e.symm)
        · rw [arch]
        · rw [arch]
        · rw [curCtx_issued]
      · rw [Bool.eq_false_iff, Ne, met]
        rintro ⟨hr, hq, ht⟩
        obtain no | no | no := busy
        · exact no hr
        · exact no ht
        · omega
    · refine run.trans (runSlot_taken (f := ringFailure s g) ha (Nat.le_refl 0) List.nodup_nil rfl ?_ ?_)
      all_goals simp only [copyProbe, hf, ringFault_failed hg, List.nil_append]
      · intro f hf
        rw [List.mem_singleton.1 hf, ringFailure_code]
        decide
      · exact firstFault_one (by rw [ringFailure_code]; decide)
    · have operand : copyFaults q.1 a r o x s = [mkFault 0x0D s.slot.val (some s.slot) 20 0 0] := copyFaults_block (badWord_block hc hb)
      have faults : (copyProbe q.1 a g i r o x s).faults = mkFault 0x0D s.slot.val (some s.slot) 20 0 0 :: ringFault s g := by
        simp only [copyProbe, operand]
        rfl
      refine run.trans (runSlot_taken ha (Nat.le_refl 0) List.nodup_nil rfl ?_ ?_)
      all_goals rw [faults]
      · intro f hf
        obtain rfl | hf := List.mem_cons.1 hf
        · exact Nat.ne_of_beq_eq_false rfl
        · rw [code_of_mem_ringFault hf]
          decide
      · exact firstFault_operand rfl fun f hf => by rw [code_of_mem_ringFault hf]; decide
  · intro c k side
    refine ⟨blockNumber_lt hi, (blockAt_plain hx op tbl k).trans ?_⟩
    have digits : digitsOf ((List.range 6).map (patCount p)) k = (List.range 6).map i := digitsOf_blockNumber hi
    simp only [digits]
    rfl

end Sys2Proof.Machine
end

section
/-! PROOFS. Rings: AWAIT, RELEASE, RINIT, CPSET, and the increments that arrive from other cores (R194 to R200, R299). -/

namespace Sys2Proof.Machine

open Sys2Proof.Safety

/-! ### The operations on rings -/

section
variable {s : State} {g : Fin 8} {n : BitVec 22}

/-- What a ring holds: FILL − CONS (R194). -/
def ringHolds (s : State) (g : Fin 8) : Nat := (((curArch s).g[g]).fill - ((curArch s).g[g]).cons).toNat

theorem waitsMet_ringFill (h : ((curArch s).g[g]).fcode = 0) :
    waitsMet s s.cur [] [] [.ringFill g (n.setWidth 32)] = true ↔ n.toNat ≤ ringHolds s g := by
  have sound : ((ctxAt s s.cur).arch.g[g]).fcode = 0 := h
  have wide : (n.setWidth 32).toNat = n.toNat := BitVec.toNat_setWidth_of_le (by decide)
  simp only [waitsMet, waitMet, sound, wide]
  simp [ringHolds, curArch]

/-- A ring that has not failed is settled once no work of its context is on it (R200). -/
theorem waitsMet_ringEnd (h : ∀ y ∈ (curCore s).work, y.ctx = s.cur → y.ring ≠ some g) :
    waitsMet s s.cur [] [] [.ringEnd g] = true := by
  simp only [waitsMet, waitMet, Bool.and_true, Bool.not_eq_true']
  refine List.any_eq_false.2 fun y hy => ?_
  by_cases hc : y.ctx = s.cur
  · simp [h y hy hc]
  · simp [hc]

theorem waitsMet_ringEnd_false {y : Work} (hy : y ∈ (curCore s).work) (hc : y.ctx = s.cur) (hr : y.ring = some g)
    (hg : ((curArch s).g[g]).fcode = 0) : waitsMet s s.cur [] [] [.ringEnd g] = false := by
  have sound : ((ctxAt s s.cur).arch.g[g]).fcode = 0 := hg
  simp only [waitsMet, waitMet, sound, Bool.and_true, Bool.not_eq_false']
  exact List.any_eq_true.2 ⟨y, hy, by simp [hc, hr]⟩

variable (ha : Alone 1 s)
include ha

theorem exec_await_issues (hg : ((curArch s).g[g]).fcode = 0) (h : n.toNat ≤ ringHolds s g) :
    exec (.await g n) s = .next (issued s) := by
  change execAwait g n s = _
  unfold execAwait
  exact runSlot_does ha (Nat.zero_le 1) .nil (.inl rfl) (ringFault_sound hg) ((waitsMet_ringFill hg).2 h) rfl

theorem exec_await_waits (hg : ((curArch s).g[g]).fcode = 0) (h : ringHolds s g < n.toNat) :
    exec (.await g n) s = .next (goWaiting [.ringFill g (n.setWidth 32)] s) := by
  change execAwait g n s = _
  unfold execAwait
  refine runSlot_holds ha (Nat.zero_le 1) .nil rfl (ringFault_sound hg) ?_
  rw [Bool.eq_false_iff, Ne, waitsMet_ringFill hg]
  exact Nat.not_le.2 h

/-- An operation whose faults begin with those of a failed ring takes RINGFAIL, before RINGCOUNT (R375, R385). -/
theorem runSlot_ringFail {probe : State → Probe} {effect : State → State} (hn : (probe s).results ≤ 1) (hw : (probe s).writes.Nodup)
    (hu : (probe s).unread = []) {more : List FaultRec} (hf : (probe s).faults = ringFault s g ++ more)
    (hm : ∀ f ∈ more, f.code.toNat = 0x0F) (hg : ((curArch s).g[g]).fcode ≠ 0) : runSlot probe effect s = taken (ringFailure s g) s := by
  rw [ringFault_failed hg] at hf
  have codes : ∀ f ∈ (probe s).faults, f = ringFailure s g ∨ f.code.toNat = 0x0F := fun f h => by
    rw [hf] at h
    exact (List.mem_cons.1 h).imp_right (hm f)
  refine runSlot_taken ha hn hw hu (fun f h => ?_) ?_
  · obtain rfl | e := codes f h
    · rw [ringFailure_code]
      decide
    · rw [e]
      decide
  · refine firstFault_of_order (c := 0x0E) [0x06, 0x0B, 0x0C, 0x12, 0x0D, 0x08, 0x09] rfl (fun f h => ?_) ?_
    · obtain rfl | e := codes f h
      · rw [ringFailure_code]
        decide
      · rw [e]
        decide
    · rw [hf]
      exact List.find?_cons_of_pos (decide_eq_true (ringFailure_code s g))

theorem exec_await_failed (hg : ((curArch s).g[g]).fcode ≠ 0) : exec (.await g n) s = taken (ringFailure s g) s := by
  change execAwait g n s = _
  unfold execAwait
  exact runSlot_ringFail ha (Nat.zero_le 1) .nil rfl (List.append_nil _).symm (fun _ h => absurd h List.not_mem_nil) hg

theorem exec_release_failed (hg : ((curArch s).g[g]).fcode ≠ 0) : exec (.release g n) s = taken (ringFailure s g) s := by
  change execRelease g n s = _
  unfold execRelease
  refine runSlot_ringFail ha (Nat.zero_le 1) (List.nodup_singleton _) rfl rfl (fun f hf => ?_) hg
  split at hf
  · rw [List.mem_singleton.1 hf]
    rfl
  · exact absurd hf List.not_mem_nil

theorem exec_release_lowers (hg : ((curArch s).g[g]).fcode = 0) (h : n.toNat ≤ ringHolds s g) :
    exec (.release g n) s = .next (landFree 1 (.ringCons g (n.setWidth 32)) (issued s)) := by
  change execRelease g n s = _
  unfold execRelease
  refine runSlot_does ha (Nat.zero_le 1) (List.nodup_singleton _) (.inl rfl) ?_ rfl rfl
  exact (congrArg₂ _ (ringFault_sound hg) (if_neg (Nat.not_lt.2 h))).trans (List.append_nil [])

theorem exec_release_beyond (hg : ((curArch s).g[g]).fcode = 0) (h : ringHolds s g < n.toNat) : exec (.release g n) s =
    taken (mkFault 0x0F g.val (some s.slot) (((curArch s).g[g]).fill.setWidth 64) (((curArch s).g[g]).cons.setWidth 64) 0) s := by
  change execRelease g n s = _
  unfold execRelease
  refine runSlot_taken_one ha (Nat.zero_le 1) (List.nodup_singleton _) rfl ?_ (by decide)
  exact congrArg₂ _ (ringFault_sound hg) (if_pos h)

theorem exec_rinit_resets (c : BitVec 12) (h : ∀ y ∈ (curCore s).work, y.ctx = s.cur → y.ring ≠ some g) :
    exec (.rinit g c) s = .next (land 1 (.ringInit g c) 0 (issued s)) := by
  change execRinit g c s = _
  unfold execRinit
  exact runSlot_does ha (Nat.le_refl 1) (List.nodup_singleton _) (.inl rfl) rfl (waitsMet_ringEnd h) rfl

theorem exec_rinit_waits (c : BitVec 12) {y : Work} (hy : y ∈ (curCore s).work) (hc : y.ctx = s.cur) (hr : y.ring = some g)
    (hg : ((curArch s).g[g]).fcode = 0) : exec (.rinit g c) s = .next (goWaiting [.ringEnd g] s) := by
  change execRinit g c s = _
  unfold execRinit
  exact runSlot_holds ha (Nat.le_refl 1) (List.nodup_singleton _) rfl rfl (waitsMet_ringEnd_false hy hc hr hg)

theorem exec_cpset_lands (a : Fin 8) (x w : Fin 64) :
    exec (.cpset a x w) s = .next (land 1 (.pattern a (Fin.ofNat 24 w.val) (rS (curArch s) x)) 0 (issued s)) := by
  change execCpset a x w s = _
  unfold execCpset
  refine runSlot_does ha (Nat.le_refl 1) (List.nodup_singleton _) (.inl rfl) rfl rfl ?_
  simp only [curArch_issued]

end

/-! ### An increment that arrives (R199) -/

theorem ctxAt_modRing_ne {j k : Fin 1024} (h : k ≠ j) (s : State) (g : Fin 8) (f : Ring → Ring) :
    ctxAt (modRing s j g f) k = ctxAt s k := ctxAt_modArch_ne s j k _ h

theorem ctxAt_dropWork (s : State) (c : Fin 256) (q : Nat) (k : Fin 1024) : ctxAt (dropWork s c q) k = ctxAt s k := rfl

/-- Settling the work of other contexts leaves a context, memory and the increments on their way as they are (R196). -/
theorem settleList_keeps {k : Fin 1024} {l : List Work} (hl : ∀ w ∈ l, w.ctx ≠ k) (c : Fin 256) (s : State)
    (o : List (Fin 1024 × Fin 8)) :
    (settleList s c o l).mem = s.mem ∧ (settleList s c o l).dren = s.dren ∧ ctxAt (settleList s c o l) k = ctxAt s k := by
  induction l generalizing s o with
  | nil => exact ⟨rfl, rfl, rfl⟩
  | cons w r ih =>
    have rest := ih fun x hx => hl x (List.mem_cons_of_mem w hx)
    unfold settleList
    cases w.ring with
    | none =>
      dsimp only
      split <;> exact rest ..
    | some g =>
      dsimp only
      split
      · exact rest ..
      split
      · exact rest ..
      split
      · exact rest ..
      · obtain ⟨mem, dren, ctx⟩ := rest (dropWork (modRing s w.ctx g fun x => { x with fill := x.fill + BitVec.ofNat 32 w.inc }) c w.seq) o
        exact ⟨mem, dren, ctx.trans ((ctxAt_dropWork ..).trans (ctxAt_modRing_ne (hl w List.mem_cons_self).symm s g _))⟩

/-- An acknowledgement settles the work of one core, and leaves a context of another as it is. -/
theorem ackWork_keeps {s : State} {c : Fin 256} {k : Fin 1024} (hk : coreOf k ≠ c) (hw : ∀ w ∈ (coreAt s c).work, coreOf w.ctx = c)
    (q : Nat) : (ackWork s c q).mem = s.mem ∧ (ackWork s c q).dren = s.dren ∧ ctxAt (ackWork s c q) k = ctxAt s k := by
  refine settleList_keeps (fun w h e => ?_) c _ []
  rw [modWork, coreAt_modCore] at h
  obtain ⟨x, hx, rfl⟩ := List.mem_map.1 h
  refine hk (e.symm ▸ ?_)
  split
  · exact hw x hx
  · exact hw x hx

/-- A ring after an increment (R199). -/
def incremented (r : Ring) (n : Nat) : Ring := { r with fill := r.fill + BitVec.ofNat 32 n, rsv := r.rsv + BitVec.ofNat 32 n }

/-- An increment to a sound ring of a context that runs, with room for it, is added, and its issuer's command acknowledged (R199). -/
theorem applyDren_adds {s : State} {d : Dren} (hr : (coreAt s (coreOf d.dst)).retired = false)
    (hj : (coreAt s (coreOf d.dst)).job = some d.job) (hs : (ctxAt s d.dst).run = .started)
    (hf : ((ctxAt s d.dst).arch.g[d.ring]).fcode = 0)
    (hc : (((ctxAt s d.dst).arch.g[d.ring]).rsv + BitVec.ofNat 32 d.inc - ((ctxAt s d.dst).arch.g[d.ring]).cons).toNat ≤
      ((ctxAt s d.dst).arch.g[d.ring]).cap.toNat) :
    applyDren s d = ackWork (modRing { s with dren := s.dren.erase d } d.dst d.ring fun r => incremented r d.inc) (coreOf d.src) d.seq := by
  have live : liveAt { s with dren := s.dren.erase d } d.job (coreOf d.dst) = true := decide_eq_true hj
  have target : ringTarget { s with dren := s.dren.erase d } d.job d.dst = some (ctxAt s d.dst) := if_pos live
  have here : ¬ (coreAt { s with dren := s.dren.erase d } (coreOf d.dst)).retired = true := ne_true_of_eq_false hr
  have begun : ¬ (ctxAt s d.dst).run = .unstarted := by rw [hs]; nofun
  have sound : ¬ ((ctxAt s d.dst).arch.g[d.ring]).fcode ≠ 0 := not_not_intro hf
  simp only [applyDren, if_neg here, target, if_neg begun, if_neg sound, if_neg (Nat.not_lt.2 hc), modTarget, if_pos live]
  rfl

/-- Settles O37: each operation by its checks and its effect; an arrival by `applyDren_adds`, the acknowledgement leaving the ring. -/
theorem ringOperations : Obligations.RingOperations := by
  unfold Obligations.RingOperations
  refine ⟨fun s g a n c x w ha => ?_, fun s i d hd first retired job started apart home => ?_⟩
  · intro ring full failed
    exact ⟨exec_await_issues ha, exec_await_waits ha, fun hg => ⟨exec_await_failed ha hg, exec_release_failed ha hg⟩,
      exec_release_lowers ha, exec_release_beyond ha, exec_rinit_resets ha c, fun y hy hc hr hg => exec_rinit_waits ha c hy hc hr hg,
      fun _ => exec_cpset_lands ha a x w⟩
  · intro r sound fits
    have arrives : exec (.drenIncrement i) s = .next (applyDren s d) := by
      change execDrenIncrement i s = _
      simp only [execDrenIncrement, hd, first, if_true]
    rw [applyDren_adds retired job started sound fits] at arrives
    obtain ⟨mem, dren, ctx⟩ := ackWork_keeps (k := d.dst) (q := d.seq)
      (s := modRing { s with dren := s.dren.erase d } d.dst d.ring fun r => incremented r d.inc) apart.symm home
    rw [modRing, ctxAt_modArch] at ctx
    refine ⟨_, arrives, mem, dren, ?_, fun h hh => ?_⟩
    · rw [modRing, ctx]
      exact Vector.getElem_set_self d.ring.isLt
    · rw [modRing, ctx]
      exact Vector.getElem_set_ne d.ring.isLt h.isLt fun e => hh (Fin.ext e.symm)

end Sys2Proof.Machine
end

section
/-! PROOFS. What an X operation makes of its source (R79, R82, R87, R88, R184, R213 to R216): conversions fit their format, elements
packed into bytes read back, and sectors are compressed and expanded byte by byte. -/

namespace Sys2Proof.Machine

open Sys2Proof.Safety

/-! ### Conversions fit their format -/

/-- The magnitudes of a float format lie below its sign bit, the top bit of its width (R79). -/
theorem fpOf_sizes : ∀ c ≤ 5, (fpOf c).maxBits < (fpOf c).signBit ∧ (fpOf c).nanBits < (fpOf c).signBit ∧
    ((fpOf c).kind = .ieee → (fpOf c).maxBits + 1 < (fpOf c).signBit) ∧ 2 * (fpOf c).signBit = 2 ^ codeWidth c := by decide

section
variable {c : Nat} (hc : c ≤ 5) (r : RMode) (sat : Bool)
include hc

/-- A magnitude below the sign bit, with its sign, fits the format. -/
theorem signed_fits (neg : Bool) {m : Nat} (hm : m < (fpOf c).signBit) :
    (if neg then (fpOf c).signBit else 0) + m < 2 ^ codeWidth c := by
  obtain ⟨-, -, -, width⟩ := fpOf_sizes c hc
  split <;> omega

theorem overflowBits_fits (neg isInf : Bool) : (overflowBits (fpOf c) r sat neg isInf).bits < 2 ^ codeWidth c := by
  obtain ⟨max, nan, inf, -⟩ := fpOf_sizes c hc
  have maxFits := signed_fits hc neg max
  have nanFits := signed_fits hc neg nan
  unfold overflowBits
  cases kind : (fpOf c).kind with
  | plain => exact maxFits
  | oneNan => cases sat <;> assumption
  | ieee =>
    have infFits := signed_fits hc neg (inf kind)
    rw [← Nat.add_assoc] at infFits
    have edge (p : Prop) [Decidable p] :
        (if neg then (fpOf c).signBit else 0) + (fpOf c).maxBits + (if p then 0 else 1) < 2 ^ codeWidth c := by
      by_cases h : p
      · rw [if_pos h]
        exact maxFits
      · rw [if_neg h]
        exact infFits
    cases sat with
    | true => exact maxFits
    | false =>
      cases isInf with
      | true => exact infFits
      | false => exact edge _

theorem roundFp_fits (neg : Bool) (m : Nat) (e : Int) : (roundFp (fpOf c) r sat neg m e).bits < 2 ^ codeWidth c := by
  obtain ⟨max, -, -, -⟩ := fpOf_sizes c hc
  unfold roundFp
  dsimp only
  split
  · exact signed_fits hc neg (Nat.zero_lt_of_lt max)
  split
  · exact overflowBits_fits hc r sat neg false
  · next fits => exact signed_fits hc neg (by omega)

theorem roundNum_fits (x : Num) : (roundNum (fpOf c) r sat x).bits < 2 ^ codeWidth c := by
  obtain ⟨-, nan, -, width⟩ := fpOf_sizes c hc
  cases x with
  | nan =>
    change (fpOf c).nanBits < _
    omega
  | inf neg => exact overflowBits_fits hc r sat neg true
  | fin neg m e => exact roundFp_fits hc r sat neg m e

end

/-- A format that is no code is a float format or INT32 (R67). -/
theorem float_or_int {c : Nat} (h : c ≤ 10) (hc : isCodeFormat c = false) : c ≤ 5 ∨ c = 8 := by
  have cases_ : ∀ c ≤ 10, isCodeFormat c = false → c ≤ 5 ∨ c = 8 := by decide
  exact cases_ c h hc

theorem convert_fits {dst : Nat} (hd : dst ≤ 5 ∨ dst = 8) (src : Nat) (r : RMode) (sat : Bool) (x : Nat) :
    (convert src dst false r sat x).bits < 2 ^ codeWidth dst := by
  unfold convert
  dsimp only
  split
  · next same =>
    rw [same.1]
    exact Nat.mod_lt x (Nat.two_pow_pos _)
  split
  · next int =>
    subst int
    exact BitVec.isLt _
  · next int => exact roundNum_fits (hd.resolve_right int) r _ _

theorem reencode_fits {c : Nat} (hc : c ≤ 5 ∨ c = 8) (r : RMode) (sat : Bool) (x : Nat) :
    (reencode c r sat x).bits < 2 ^ codeWidth c := by
  have converts := convert_fits hc c r sat x
  unfold reencode
  split
  · next neg inf =>
    split
    · refine roundNum_fits (hc.resolve_right fun e => ?_) r true _
      subst e
      exact nomatch inf
    · exact converts
  · exact converts
  · exact converts

theorem deliver_fits (r : RMode) (x : Num × Bool) : (deliver r x).bits < 2 ^ codeWidth 0 :=
  roundNum_fits (c := 0) (by decide) r false x.1

/-! ### Elements packed into bytes -/

/-- An element that was packed, read back from the bytes (R82). -/
theorem field_of_leBytes {w n m : Nat} (hm : w * n = 8 * m) {f : Nat → Nat} (hf : ∀ i, f i < 2 ^ w) {j : Nat} (hj : j < n) :
    leVal (leBytes m (packNat w f n)) / 2 ^ (w * j) % 2 ^ w = f j := by
  have fits : packNat w f n < 256 ^ m := by
    have := packNat_lt w f hf n
    rwa [hm, Nat.pow_mul] at this
  rw [leVal_leBytes, Nat.mod_eq_of_lt fits]
  exact packNat_field w f hf hj

/-! ### Bytes as the arbitrated port reads them -/

/-- One byte of a running core's scratchpad with its write buffer (R193, R279). -/
def arbByte (s : State) (c : Fin 256) (x : Nat) : Byte :=
  (coreAt s c).buf.foldl (fun b w => if w.off ≤ x ∧ x < w.off + w.bytes.length then w.bytes.getD (x - w.off) 0 else b)
    (memGet s.mem (spadKey c x))

theorem spadKey_add (c : Fin 256) (x y : Nat) : spadKey c (x + y) = spadKey c x + y := (Nat.add_assoc ..).symm

/-- A read of the arbitrated port, byte by byte. -/
theorem arbRead_eq (s : State) (c : Fin 256) (off n : Nat) : arbRead s c off n = (List.range n).map fun i => arbByte s c (off + i) := by
  have buffered (l : List BufWrite) (f : Nat → Byte) :
      l.foldl (fun r w => (List.range n).map fun i =>
        if w.off ≤ off + i ∧ off + i < w.off + w.bytes.length then w.bytes.getD (off + i - w.off) 0 else r.getD i 0)
        ((List.range n).map f) =
      (List.range n).map fun i => l.foldl (fun b w =>
        if w.off ≤ off + i ∧ off + i < w.off + w.bytes.length then w.bytes.getD (off + i - w.off) 0 else b) (f i) := by
    induction l generalizing f with
    | nil => rfl
    | cons w r ih =>
      simp only [List.foldl_cons]
      rw [← ih]
      congr 1
      refine List.map_congr_left fun i hi => ?_
      rw [List.mem_range] at hi
      simp [hi]
  rw [arbRead, memRead_eq, buffered]
  simp only [arbByte, spadKey_add]

@[simp] theorem arbRead_length (s : State) (c : Fin 256) (off n : Nat) : (arbRead s c off n).length = n := by simp [arbRead_eq]

theorem getD_arbRead (s : State) (c : Fin 256) (off : Nat) {n j : Nat} (h : j < n) :
    (arbRead s c off n).getD j 0 = arbByte s c (off + j) := by simp [arbRead_eq, h]

/-! ### Sectors -/

/-- How many of the first `j` bits of a mask are set. -/
def bitsBelow (mask j : Nat) : Nat := ((List.range j).filter mask.testBit).length

theorem bit_iff_testBit (mask i : Nat) : mask / 2 ^ i % 2 = 1 ↔ mask.testBit i = true := by
  rw [Nat.testBit_eq_decide_div_mod_eq, decide_eq_true_iff]

theorem sectorLength_eq (mask : Nat) : sectorLength mask = 32 + 16 * ((bitsBelow mask 256 + 15) / 16) := by
  have same : (fun i => decide (mask / 2 ^ i % 2 = 1)) = mask.testBit := funext fun i => by
    rw [Bool.eq_iff_iff, decide_eq_true_iff, bit_iff_testBit]
  rw [sectorLength, bitsBelow, same]

theorem bitsBelow_succ (mask j : Nat) : bitsBelow mask (j + 1) = bitsBelow mask j + if mask.testBit j then 1 else 0 := by
  rw [bitsBelow, List.range_succ, List.filter_append, List.length_append, bitsBelow]
  cases bit : mask.testBit j <;> simp [bit]

theorem bitsBelow_mono (mask : Nat) {i j : Nat} (h : i ≤ j) : bitsBelow mask i ≤ bitsBelow mask j :=
  ((List.range_sublist.2 h).filter _).length_le

theorem bitsBelow_le (mask j : Nat) : bitsBelow mask j ≤ j := (List.length_filter_le ..).trans (List.length_range).le

theorem expandSector_succ (mask n i : Nat) (bs : List Byte) : expandSector mask (n + 1) i bs =
    if mask.testBit i then bs.headD 0 :: expandSector mask n (i + 1) bs.tail else 0 :: expandSector mask n (i + 1) bs :=
  if_congr (bit_iff_testBit mask i) rfl rfl

@[simp] theorem expandSector_length (mask n i : Nat) (bs : List Byte) : (expandSector mask n i bs).length = n := by
  induction n generalizing i bs with
  | zero => rfl
  | succ n ih =>
    rw [expandSector_succ]
    split <;> rw [List.length_cons, ih]

/-- A byte of an expanded sector: 0 where its bit is clear, else the next of the bytes that follow the mask (R184). -/
theorem getD_expandSector (mask : Nat) {n j : Nat} (h : j < n) (i : Nat) (bs : List Byte) : (expandSector mask n i bs).getD j 0 =
    if mask.testBit (i + j) then bs.getD (bitsBelow mask (i + j) - bitsBelow mask i) 0 else 0 := by
  induction n generalizing i j bs with
  | zero => omega
  | succ n ih =>
    rw [expandSector_succ]
    cases j with
    | zero =>
      cases mask.testBit i <;> cases bs <;> simp
    | succ j =>
      have rest := ih (j := j) (by omega) (i + 1)
      have next : i + (j + 1) = i + 1 + j := by omega
      have above := bitsBelow_mono mask (Nat.le_add_right (i + 1) j)
      have step := bitsBelow_succ mask i
      rw [next]
      cases bit : mask.testBit i with
      | false =>
        rw [if_neg (by simp), List.getD_cons_succ, rest, step, bit]
        rfl
      | true =>
        rw [if_pos rfl, List.getD_cons_succ, rest]
        rw [bit, if_pos rfl] at step
        have index : bitsBelow mask (i + 1 + j) - bitsBelow mask i = bitsBelow mask (i + 1 + j) - bitsBelow mask (i + 1) + 1 := by omega
        rw [index]
        cases bs <;> simp

/-- The present bytes of a sector, with anything after them, expand to the sector under its mask. -/
theorem expandSector_present {mask : Nat} (l : List Byte) (z : List Byte) {i : Nat}
    (h : ∀ j < l.length, mask.testBit (i + j) = true ↔ l.getD j 0 ≠ 0) :
    expandSector mask l.length i (l.filter (· ≠ 0) ++ z) = l := by
  induction l generalizing i with
  | nil => rfl
  | cons b r ih =>
    have head : mask.testBit i = true ↔ b ≠ 0 := by simpa using h 0 (by simp)
    have rest := ih (i := i + 1) fun j hj => by
      have := h (j + 1) (by simpa using hj)
      rwa [List.getD_cons_succ, show i + (j + 1) = i + 1 + j by omega] at this
    rw [List.length_cons, expandSector_succ]
    by_cases zero : b = 0
    · rw [if_neg (mt head.1 (not_not_intro zero)), List.filter_cons_of_neg (by simpa using zero), rest, zero]
    · rw [if_pos (head.2 zero), List.filter_cons_of_pos (by simpa using zero), List.cons_append, List.headD_cons, List.tail_cons, rest]

section
variable {bs : List Byte} (h : bs.length = 256)

/-- The presence mask of a sector (R184). -/
def presenceMask (bs : List Byte) : Nat := packNat 1 (fun i => if bs.getD i 0 = 0 then 0 else 1) 256

theorem presenceMask_bit {j : Nat} (hj : j < 256) : (presenceMask bs).testBit j = true ↔ bs.getD j 0 ≠ 0 := by
  have field := packNat_field 1 (fun i => if bs.getD i 0 = 0 then 0 else 1) (fun i => by split <;> decide) hj
  rw [Nat.one_mul] at field
  rw [← bit_iff_testBit, presenceMask]
  change _ / _ % 2 ^ 1 = 1 ↔ _
  rw [field]
  by_cases zero : bs.getD j 0 = 0
  · rw [if_pos zero]
    exact iff_of_false Nat.zero_ne_one (not_not_intro zero)
  · rw [if_neg zero]
    exact iff_of_true rfl zero

theorem presenceMask_lt (bs : List Byte) : presenceMask bs < 256 ^ 32 :=
  packNat_lt 1 _ (fun i => by split <;> decide) 256

include h

theorem bitsBelow_presenceMask : bitsBelow (presenceMask bs) 256 = (bs.filter (· ≠ 0)).length := by
  have listed : bs = (List.range 256).map fun i => bs.getD i 0 :=
    List.ext_getElem (by simp [h]) fun i hi _ => by simp [hi]
  have counted : (List.range 256).filter (presenceMask bs).testBit = (List.range 256).filter fun i => decide (bs.getD i 0 ≠ 0) :=
    List.filter_congr fun i hi => by
      rw [Bool.eq_iff_iff, presenceMask_bit (List.mem_range.1 hi), decide_eq_true_iff]
  rw [bitsBelow, counted]
  conv_rhs => rw [listed, List.filter_map, List.length_map]
  rfl

/-- A compressed sector: its mask, its present bytes, zeros up to a multiple of 16 (R184). -/
theorem compressSector_eq : compressSector bs = leBytes 32 (presenceMask bs) ++ (bs.filter (· ≠ 0) ++
    List.replicate ((16 - (bs.filter (· ≠ 0)).length % 16) % 16) 0) := by
  have whole : bs.take 256 ++ List.replicate (256 - bs.length) 0 = bs := by simp [h]
  rw [compressSector, whole, List.append_assoc]
  rfl

theorem leVal_take_compressSector : leVal ((compressSector bs).take 32) = presenceMask bs := by
  rw [compressSector_eq h, List.take_left' (leBytes_length ..), leVal_leBytes, Nat.mod_eq_of_lt (presenceMask_lt bs)]

theorem compressSector_length : (compressSector bs).length = sectorLength (presenceMask bs) := by
  rw [compressSector_eq h, sectorLength_eq, bitsBelow_presenceMask h]
  simp only [List.length_append, leBytes_length, List.length_replicate]
  omega

/-- What is compressed expands to itself (R184). -/
theorem expandSector_compressSector : expandSector (presenceMask bs) 256 0 ((compressSector bs).drop 32) = bs := by
  rw [compressSector_eq h, List.drop_left' (leBytes_length ..)]
  have present := expandSector_present bs (mask := presenceMask bs) (i := 0)
    (List.replicate ((16 - (bs.filter (· ≠ 0)).length % 16) % 16) 0) fun j hj => by
      rw [Nat.zero_add]
      exact presenceMask_bit (h ▸ hj)
  rwa [h] at present

end

end Sys2Proof.Machine
end

section
/-! PROOFS. The chunk of a beat (R210, R213 to R216): the register of XFILL, a sector expanded or compressed, a row, and 64 elements
converted. -/

namespace Sys2Proof.Machine

open Sys2Proof.Safety

/-! ### The conversion of a chunk (R215) -/

section
variable (s : State) (c : Fin 256) (x : XOp)

/-- The source chunk that `XCVT` reads next, as one number. -/
def cvtSource : Nat :=
  leVal (beatRead s c (x.src + x.nread * cvtChunk (fmtA x.fmt).toNat) (cvtChunk (fmtA x.fmt).toNat))

/-- The row and the column of element `i` of that chunk. -/
def cvtPlace (i : Nat) : Int × Int :=
  ((((64 * x.nread + i) / cvtRW x.counts : Nat) : Int), (((64 * x.nread + i) % cvtRW x.counts : Nat) : Int))

/-- The bits of element `i`, and the bit at which the header of its block stands (R83). -/
def cvtHeader (i : Nat) : Nat := 8 * (blockSize (fmtA x.fmt).toNat * (i / 32))
def cvtRaw (i : Nat) : Nat :=
  let fa := (fmtA x.fmt).toNat
  if fa = 9 ∨ fa = 10 then cvtSource s c x / 2 ^ (cvtHeader x i + 16 + codeWidth fa * (i % 32)) % 2 ^ codeWidth fa
  else cvtSource s c x / 2 ^ (codeWidth fa * i) % 2 ^ codeWidth fa

/-- The exact value of element `i`, and whether it is invalid (R106). -/
def cvtValue (i : Nat) : Num × Bool :=
  let fa := (fmtA x.fmt).toNat
  let d := consumerOffset x.fsrc fa (cvtPlace x i).1 (cvtPlace x i).2
  if fa = 6 ∨ fa = 7 then intElem fa (cvtRaw s c x i) d (num32 (x.scl[cvtSI x.counts]))
  else if fa = 9 ∨ fa = 10 then dxbElem fa (cvtSource s c x / 2 ^ cvtHeader x i % 65536) (cvtRaw s c x i) d (sclAt x.scl)
  else (convSource fa false (cvtRaw s c x i), false)

/-- The offset with which element `i` is quantised (R104). -/
def cvtOffset (i : Nat) : Int := if fmtDith x.fmt then offsetAt x.fdst (cvtPlace x i).1 (cvtPlace x i).2 else 0

/-- Element `i` in a format that is no DXB code, with its flags. -/
def cvtElem (i : Nat) : Nat × BitVec 6 :=
  let fa := (fmtA x.fmt).toNat
  let fo := (fmtO x.fmt).toNat
  if fo = 6 ∨ fo = 7 then
    match num32 (x.scl[cvtDI x.counts]) with
    | .fin _ mu eu =>
      let k := quantInt fo mu eu (cvtValue s c x i).1 (cvtOffset x i)
      ((BitVec.ofInt (codeWidth fo) k.1).toNat, k.2)
    | .nan => (0, 0)
    | .inf _ => (0, 0)
  else if isCodeFormat fa then
    let y := deliver .rne (cvtValue s c x i)
    if fo = 0 then (y.bits, y.flags)
    else
      let z := convert 0 fo false (rmodeOf x.fmt) (fmtSat x.fmt) y.bits
      (z.bits, y.flags ||| z.flags)
  else
    let z := if fa = fo then reencode fa (rmodeOf x.fmt) (fmtSat x.fmt) (cvtRaw s c x i)
      else convert fa fo false (rmodeOf x.fmt) (fmtSat x.fmt) (cvtRaw s c x i)
    (z.bits, z.flags)

/-- Block `h` in a DXB format. -/
def cvtBlock (h : Nat) : Block :=
  quantDxb (fmtO x.fmt).toNat (cvtDI x.counts).val (x.scl[cvtDI x.counts]) (fmtSat x.fmt)
    ((List.range 32).map fun i => (cvtValue s c x (32 * h + i)).1) ((List.range 32).map fun i => cvtOffset x (32 * h + i))

/-- The flag of the elements whose value is invalid. -/
def cvtInvalid : BitVec 6 := allFlags ((List.range 64).map fun i => flagIf (cvtValue s c x i).2 fNV)

/-- The converted chunk and its flags. -/
def cvtOut : List Byte × BitVec 6 :=
  let fo := (fmtO x.fmt).toNat
  if fo = 9 ∨ fo = 10 then
    let bs := (List.range 2).map (cvtBlock s c x)
    (bs.flatMap (blockBytes fo), cvtInvalid s c x ||| allFlags (bs.map (·.flags)))
  else
    let l := (List.range 64).map (cvtElem s c x)
    (leBytes (8 * codeWidth fo) (packNat (codeWidth fo) (fun i => (l.getD i (0, 0)).1) 64), cvtInvalid s c x ||| allFlags (l.map (·.2)))

/-- An operation that has read a chunk whose output is `out`; `used` bytes of compressed sectors lie behind it (R210). -/
def afterRead (x : XOp) (used : Nat) (out : List Byte × BitVec 6) : XOp :=
  { x with nread := x.nread + 1, srcUsed := used, pend := x.pend ++ [out] }

/-- What a beat of `XCVT` computes. -/
theorem computeChunk_cvt (h : x.kind = .cvt) : computeChunk s c x = afterRead x x.srcUsed (cvtOut s c x) := by
  simp only [computeChunk, h, afterRead]
  rfl

end

/-- 64 elements of `w` bits, packed, with the flags that some element raises (R82, R90). -/
def Packed (w : Nat) (out : List Byte) (g : BitVec 6) (one : Nat → Res) : Prop :=
  (∀ j < 64, leVal out / 2 ^ (w * j) % 2 ^ w = (one j).bits % 2 ^ w) ∧ out.length = 8 * w ∧
    ∀ q < 6, g.getLsbD q = true ↔ ∃ j < 64, (one j).flags.getLsbD q = true

section
variable {s : State} {c : Fin 256} {x : XOp}

theorem getLsbD_cvtInvalid (q : Nat) :
    (cvtInvalid s c x).getLsbD q = true ↔ ∃ j < 64, (flagIf (cvtValue s c x j).2 fNV).getLsbD q = true :=
  getLsbD_allFlags_lanes ..

/-- A chunk in a format that is no DXB code is packed element by element. -/
theorem cvtOut_packed (hd : ¬ ((fmtO x.fmt).toNat = 9 ∨ (fmtO x.fmt).toNat = 10)) {one : Nat → Res}
    (bits : ∀ j, (cvtElem s c x j).1 = (one j).bits) (fits : ∀ j, (one j).bits < 2 ^ codeWidth (fmtO x.fmt).toNat)
    (flags : ∀ j, (one j).flags = flagIf (cvtValue s c x j).2 fNV ||| (cvtElem s c x j).2) :
    Packed (codeWidth (fmtO x.fmt).toNat) (cvtOut s c x).1 (cvtOut s c x).2 one := by
  rw [cvtOut, if_neg hd]
  have listed {i : Nat} (hi : i < 64) : (((List.range 64).map (cvtElem s c x)).getD i (0, 0)).1 = (one i).bits := by
    simp [hi, bits]
  refine ⟨fun j hj => ?_, leBytes_length .., fun q _ => ?_⟩
  · rw [Nat.mod_eq_of_lt (fits j), ← listed hj]
    refine field_of_leBytes (by omega) (fun i => ?_) hj
    by_cases hi : i < 64
    · rw [listed hi]
      exact fits i
    · simp [hi]
  · dsimp only
    rw [List.map_map, BitVec.getLsbD_or, Bool.or_eq_true, getLsbD_cvtInvalid, getLsbD_allFlags_lanes]
    simp only [flags, BitVec.getLsbD_or, Bool.or_eq_true, Function.comp_apply, and_or_left, exists_or]

/-- The source is no code: its value is valid. -/
theorem cvtValue_plain (hs : isCodeFormat (fmtA x.fmt).toNat = false) (j : Nat) :
    cvtValue s c x j = (convSource (fmtA x.fmt).toNat false (cvtRaw s c x j), false) := by
  obtain ⟨h6, h7, h9, h10⟩ : (fmtA x.fmt).toNat ≠ 6 ∧ (fmtA x.fmt).toNat ≠ 7 ∧ (fmtA x.fmt).toNat ≠ 9 ∧ (fmtA x.fmt).toNat ≠ 10 := by
    simpa [isCodeFormat, and_assoc] using hs
  simp [cvtValue, h6, h7, h9, h10]

section
variable (ho : (fmtO x.fmt).toNat ≤ 10) (hf : isCodeFormat (fmtO x.fmt).toNat = false)
include ho hf

/-- An output that is no code is no code of either kind. -/
theorem cvt_no_code : ¬ ((fmtO x.fmt).toNat = 9 ∨ (fmtO x.fmt).toNat = 10) ∧ ¬ ((fmtO x.fmt).toNat = 6 ∨ (fmtO x.fmt).toNat = 7) := by
  obtain h | h := float_or_int ho hf <;> omega

/-- From one float or INT32 format to another (R88, R215). -/
theorem cvtOut_convert (hs : isCodeFormat (fmtA x.fmt).toNat = false) (ne : (fmtA x.fmt).toNat ≠ (fmtO x.fmt).toNat) :
    Packed (codeWidth (fmtO x.fmt).toNat) (cvtOut s c x).1 (cvtOut s c x).2 fun j =>
      convert (fmtA x.fmt).toNat (fmtO x.fmt).toNat false (rmodeOf x.fmt) (fmtSat x.fmt) (cvtRaw s c x j) := by
  obtain ⟨h9, h6⟩ := cvt_no_code ho hf
  have elem (j : Nat) : cvtElem s c x j = _ := if_neg h6
  simp only [hs, Bool.false_eq_true, if_false, if_neg ne] at elem
  refine cvtOut_packed h9 (fun j => by rw [elem]) (fun j => convert_fits (float_or_int ho hf) ..) fun j => ?_
  rw [elem, cvtValue_plain hs]
  exact BitVec.zero_or.symm

/-- A format to itself is re-encoded (R215). -/
theorem cvtOut_reencode (hs : isCodeFormat (fmtA x.fmt).toNat = false) (same : (fmtA x.fmt).toNat = (fmtO x.fmt).toNat) :
    Packed (codeWidth (fmtO x.fmt).toNat) (cvtOut s c x).1 (cvtOut s c x).2 fun j =>
      reencode (fmtA x.fmt).toNat (rmodeOf x.fmt) (fmtSat x.fmt) (cvtRaw s c x j) := by
  obtain ⟨h9, h6⟩ := cvt_no_code ho hf
  have elem (j : Nat) : cvtElem s c x j = _ := if_neg h6
  simp only [hs, Bool.false_eq_true, if_false, if_pos same] at elem
  refine cvtOut_packed h9 (fun j => by rw [elem]) (fun j => same ▸ reencode_fits (same ▸ float_or_int ho hf) ..) fun j => ?_
  rw [elem, cvtValue_plain hs]
  exact BitVec.zero_or.symm

end

/-- The flags of a delivered value have `NV` where it is invalid. -/
theorem deliver_flags (r : RMode) (v : Num × Bool) : (deliver r v).flags = flagIf v.2 fNV ||| (deliver r v).flags := by
  rw [deliver, BitVec.or_comm (flagIf v.2 fNV), BitVec.or_assoc, BitVec.or_self]

section
variable (hs : isCodeFormat (fmtA x.fmt).toNat = true)
include hs

/-- A code is delivered in FP32 (R106, R215). -/
theorem cvtOut_deliver (h0 : (fmtO x.fmt).toNat = 0) :
    Packed (codeWidth (fmtO x.fmt).toNat) (cvtOut s c x).1 (cvtOut s c x).2 fun j => deliver .rne (cvtValue s c x j) := by
  have elem (j : Nat) : cvtElem s c x j = _ := if_neg (by omega)
  simp only [hs, if_true, if_pos h0] at elem
  refine cvtOut_packed (by omega) (fun j => by rw [elem]) (fun j => h0 ▸ deliver_fits ..) fun j => ?_
  rw [elem]
  exact deliver_flags ..

/-- A code is delivered in FP32 and then converted (R215). -/
theorem cvtOut_deliver_convert (ho : (fmtO x.fmt).toNat ≤ 10) (hf : isCodeFormat (fmtO x.fmt).toNat = false)
    (h0 : (fmtO x.fmt).toNat ≠ 0) :
    Packed (codeWidth (fmtO x.fmt).toNat) (cvtOut s c x).1 (cvtOut s c x).2 fun j =>
      let y := deliver .rne (cvtValue s c x j)
      let q := convert 0 (fmtO x.fmt).toNat false (rmodeOf x.fmt) (fmtSat x.fmt) y.bits
      ⟨q.bits, y.flags ||| q.flags⟩ := by
  obtain ⟨h9, h6⟩ := cvt_no_code ho hf
  have elem (j : Nat) : cvtElem s c x j = _ := if_neg h6
  simp only [hs, if_true, if_neg h0] at elem
  refine cvtOut_packed h9 (fun j => by rw [elem]) (fun j => convert_fits (float_or_int ho hf) ..) fun j => ?_
  dsimp only
  rw [elem, ← BitVec.or_assoc, ← deliver_flags]

end

/-- Quantised to an INT code (R104). -/
theorem cvtOut_quantInt (h6 : (fmtO x.fmt).toNat = 6 ∨ (fmtO x.fmt).toNat = 7) {mu : Nat} {eu : Int}
    (unit : num32 (x.scl[cvtDI x.counts]) = .fin false mu eu) :
    Packed (codeWidth (fmtO x.fmt).toNat) (cvtOut s c x).1 (cvtOut s c x).2 fun j =>
      let q := quantInt (fmtO x.fmt).toNat mu eu (cvtValue s c x j).1 (cvtOffset x j)
      ⟨(BitVec.ofInt (codeWidth (fmtO x.fmt).toNat) q.1).toNat, q.2 ||| (if (cvtValue s c x j).2 then fNV else 0)⟩ := by
  have elem (j : Nat) : cvtElem s c x j = _ := if_pos h6
  simp only [unit] at elem
  refine cvtOut_packed (by omega) (fun j => by rw [elem]) (fun j => BitVec.isLt _) fun j => ?_
  dsimp only
  rw [elem, BitVec.or_comm]
  rfl

theorem getLsbD_cvtInvalid_iff (q : Nat) :
    (cvtInvalid s c x).getLsbD q = true ↔ fNV.getLsbD q = true ∧ ∃ j < 64, (cvtValue s c x j).2 = true := by
  rw [getLsbD_cvtInvalid]
  constructor
  · rintro ⟨j, hj, raised⟩
    cases inv : (cvtValue s c x j).2 with
    | false => simp [inv, flagIf] at raised
    | true => exact ⟨by simpa [inv, flagIf] using raised, j, hj, inv⟩
  · rintro ⟨nv, j, hj, inv⟩
    exact ⟨j, hj, by simpa [inv, flagIf] using nv⟩

theorem cvtOut_dxb (h9 : (fmtO x.fmt).toNat = 9 ∨ (fmtO x.fmt).toNat = 10) : cvtOut s c x =
    (blockBytes (fmtO x.fmt).toNat (cvtBlock s c x 0) ++ blockBytes (fmtO x.fmt).toNat (cvtBlock s c x 1),
      cvtInvalid s c x ||| ((cvtBlock s c x 0).flags ||| (cvtBlock s c x 1).flags)) := by
  have out : cvtOut s c x = _ := if_pos h9
  have pair : List.range 2 = [0, 1] := rfl
  have both (f g : BitVec 6) : allFlags [f, g] = f ||| g := by simp [allFlags]
  simpa only [pair, List.flatMap_cons, List.flatMap_nil, List.append_nil, List.map_cons, List.map_nil, both] using out

/-- Quantised to two DXB blocks (R85). -/
theorem cvtOut_blocks (h9 : (fmtO x.fmt).toNat = 9 ∨ (fmtO x.fmt).toNat = 10) :
    (cvtOut s c x).1 = blockBytes (fmtO x.fmt).toNat (cvtBlock s c x 0) ++ blockBytes (fmtO x.fmt).toNat (cvtBlock s c x 1) ∧
    ∀ q < 6, (cvtOut s c x).2.getLsbD q = true ↔ ((cvtBlock s c x 0).flags ||| (cvtBlock s c x 1).flags).getLsbD q = true ∨
      (fNV.getLsbD q = true ∧ ∃ j < 64, (cvtValue s c x j).2 = true) := by
  rw [cvtOut_dxb h9]
  refine ⟨rfl, fun q _ => ?_⟩
  rw [BitVec.getLsbD_or, Bool.or_eq_true, getLsbD_cvtInvalid_iff, or_comm]

end

/-! ### The other chunks -/

section
variable {s : State} {c : Fin 256} {x : XOp}

theorem computeChunk_fill (h : x.kind = .fill) :
    computeChunk s c x = afterRead x x.srcUsed ((List.replicate 32 (leBytes 8 x.fill.toNat)).flatten, 0) := by
  simp only [computeChunk, h, afterRead]

theorem computeChunk_trn (h : x.kind = .trn) :
    computeChunk s c x = afterRead x x.srcUsed (beatRead s c (x.src + x.nread * trnSP x.counts) 256, 0) := by
  simp only [computeChunk, h, afterRead]

theorem computeChunk_zvc (h : x.kind = .zvc) :
    computeChunk s c x = afterRead x x.srcUsed (compressSector (beatRead s c (x.src + 256 * x.nread) 256), 0) := by
  simp only [computeChunk, h, afterRead]

/-- The sector that the compressed sector at an offset decodes to (R184). -/
def expandedAt (s : State) (c : Fin 256) (off : Nat) : List Byte :=
  let mask := leVal (arbRead s c off 32)
  expandSector mask 256 0 (arbRead s c (off + 32) (sectorLength mask - 32))

theorem computeChunk_exp (h : x.kind = .exp) : computeChunk s c x =
    afterRead x (x.srcUsed + sectorLength (leVal (beatRead s c (x.src + x.srcUsed) 32))) (expandedAt s c (x.src + x.srcUsed), 0) := by
  simp only [computeChunk, h, afterRead]
  rfl

end

/-- A beat that reads changes what an operation has read and is to write, and nothing else of it. -/
theorem computeChunk_eq (s : State) (c : Fin 256) (x : XOp) : ∃ used out, computeChunk s c x = afterRead x used out :=
  match h : x.kind with
  | .fill => ⟨_, _, computeChunk_fill h⟩
  | .exp => ⟨_, _, computeChunk_exp h⟩
  | .trn => ⟨_, _, computeChunk_trn h⟩
  | .cvt => ⟨_, _, computeChunk_cvt s c x h⟩
  | .zvc => ⟨_, _, computeChunk_zvc h⟩

/-- A byte of an expanded sector: 0 where its bit is clear, else one of the bytes after the mask, in order (R184, R213). -/
theorem getD_expandedAt (s : State) (c : Fin 256) (off : Nat) {j : Nat} (hj : j < 256) : (expandedAt s c off).getD j 0 =
    if (leVal (arbRead s c off 32)).testBit j then
      (arbRead s c off 512).getD (32 + bitsBelow (leVal (arbRead s c off 32)) j) 0 else 0 := by
  generalize hm : leVal (arbRead s c off 32) = mask
  have below := bitsBelow_le mask j
  rw [expandedAt, hm, getD_expandSector _ hj, Nat.zero_add]
  refine if_ctx_congr Iff.rfl (fun bit => ?_) fun _ => rfl
  have counts := bitsBelow_mono mask (Nat.succ_le_of_lt hj)
  rw [bitsBelow_succ, if_pos bit] at counts
  have none : bitsBelow mask 0 = 0 := rfl
  rw [none, Nat.sub_zero, getD_arbRead _ _ _ (by rw [sectorLength_eq]; omega), getD_arbRead _ _ _ (by omega), Nat.add_assoc]

end Sys2Proof.Machine
end

section
/-! PROOFS. X operations at issue: their faults, an operation without beats, and the read of the first chunk (R209 to R211, R375, R383). -/

namespace Sys2Proof.Machine

open Sys2Proof.Safety

/-! ### The faults of an operation that stores nothing -/

/-- An operation alone that stores nothing meets no chunk that is yet to be read. -/
theorem bundleFault_no_stores (s : State) {p : Probe} (h : p.stores = []) :
    bundleFault s [p] = bundleFault s [{ p with unread := [] }] := by
  have none (p : Probe) (h : p.stores = []) : storeUnread [p] = none := by simp [storeUnread, h]
  have same : codeFault [p] = codeFault [{ p with unread := [] }] := funext fun c => by
    rw [codeFault, codeFault, none p h, none { p with unread := [] } h]
    rfl
  unfold bundleFault
  rw [same]
  rfl

section
variable {s : State} {probe : State → Probe} {effect : State → State} {n : Nat} (ha : Alone n s) (hn : (probe s).results ≤ n)
  (hw : (probe s).writes.Nodup) (hs : (probe s).stores = []) {f : FaultRec}
include ha hn hw hs

/-- An operation alone that stores nothing takes its first fault (R375). -/
theorem runSlot_taken_no_stores (hd : ∀ f ∈ (probe s).faults, f.code.toNat ≠ 0x03) (hf : firstFault (probe s).faults = some f) :
    runSlot probe effect s = taken f s :=
  runSlot_fault probe effect s f ha.1 ((bundleFault_no_stores s hs).trans
    (bundleFault_first (p := { probe s with unread := [] }) hd rfl hw (by have := ha.2; dsimp only; omega) hf))

end

/-! ### The faults of an X operation -/

section
variable {s : State} {kind : XKind} {d a n : Fin 64} {xf : Nat}

/-- The beats of the X operation before have all been (R211). -/
def BeatsOver (s : State) : Prop := (curCtx s).lastX.1 + (curCtx s).lastX.2 ≤ (curArch s).sched.toNat

/-- The fault of an X operation that comes before them. -/
def xEarly (s : State) (kind : XKind) (d a : Fin 64) : FaultRec :=
  mkFault 0x10 1 (some s.slot) (if kind = .fill then rS (curArch s) d else rS (curArch s) a) 0 0

theorem xFaults_none (hb : xBad kind (rS (curArch s) d) (rS (curArch s) a) (rS (curArch s) n) xf s = none) (hf : BeatsOver s) :
    xFaults kind d a n xf s = [] := by
  have late : ¬ now s < (curCtx s).lastX.1 + (curCtx s).lastX.2 := Nat.not_lt.2 hf
  simp [xFaults, hb, late]

theorem xFaults_early (hb : xBad kind (rS (curArch s) d) (rS (curArch s) a) (rS (curArch s) n) xf s = none) (hf : ¬ BeatsOver s) :
    xFaults kind d a n xf s = [xEarly s kind d a] := by
  have early : now s < (curCtx s).lastX.1 + (curCtx s).lastX.2 := Nat.not_le.1 hf
  simp [xFaults, hb, early, xEarly, slotFault]

/-- An operand that is not legal faults with OPERAND, whenever the operation comes. -/
theorem xFaults_operand {v : Word} (hb : xBad kind (rS (curArch s) d) (rS (curArch s) a) (rS (curArch s) n) xf s = some v) :
    ∃ more, xFaults kind d a n xf s = mkFault 0x0D s.slot.val (some s.slot) v 0 0 :: more ∧ ∀ f ∈ more, f.code.toNat = 0x10 := by
  refine ⟨_, by simp only [xFaults, hb]; rfl, fun f hf => ?_⟩
  split at hf
  · rw [List.mem_singleton.1 hf]
    rfl
  · exact absurd hf List.not_mem_nil

end

/-! ### The form of an X operation -/

/-- At `s`, `i` runs as an X operation: it lands one result at most, stores nothing, waits for nothing, and has the faults of an
X operation and no others. -/
def XForm (s : State) (i : Instr) (kind : XKind) (d a n : Fin 64) (xf : Nat) (width : Fin 4) (fs fd : Fin 8) (l : Fin 64) : Prop :=
  ∃ probe : State → Probe, exec i s = runSlot probe (xEffect kind d a n width fs fd l) s ∧ (probe s).results = 1 ∧
    (probe s).writes.Nodup ∧ (probe s).stores = [] ∧ (probe s).waits = [] ∧ (probe s).faults = xFaults kind d a n xf s

section
variable (s : State) (d a n x l : Fin 64) (b f : Fin 8)

theorem xForm_xfill : XForm s (.xfill d a n x) .fill d a n x.val 0 0 0 0 :=
  ⟨xProbe .fill d a n x.val [], rfl, rfl, List.nodup_nil, rfl, rfl, rfl⟩

theorem xForm_xexp : XForm s (.xexp d a n x) .exp d a n x.val 0 0 0 0 :=
  ⟨xProbe .exp d a n x.val [], rfl, rfl, List.nodup_nil, rfl, rfl, rfl⟩

theorem xForm_xtrn : XForm s (.xtrn d a n x) .trn d a n x.val (Fin.ofNat 4 x.val) 0 0 0 :=
  ⟨xProbe .trn d a n x.val [], rfl, rfl, List.nodup_nil, rfl, rfl, rfl⟩

theorem xForm_xzvc : XForm s (.xzvc d a n l) .zvc d a n 0 0 0 0 l :=
  ⟨xProbe .zvc d a n 0 (wrS l), rfl, rfl, wrS_nodup l, rfl, rfl, rfl⟩

/-- What `XCVT` asks for (R383, R420). -/
def cvtProbe (s : State) : Probe :=
  let fa := (fmtA (curArch s).fmt).toNat
  let fo := (fmtO (curArch s).fmt).toNat
  let p := xProbe .cvt d a n 0 [] s
  if 10 < fa ∨ 10 < fo then { p with faults := [slotSub s 0x12 (curArch s).fmt 0] }
  else { p with faults := p.faults ++
    (if isCodeFormat fa then frameFault s f (rD (curArch s) f) fa else []) ++
    (if isCodeFormat fo && fmtDith (curArch s).fmt then frameFault s b (rD (curArch s) b) fo else []) ++
    (if isCodeFormat fo then scaleFault s (cvtDI (rS (curArch s) n)) else []) }

theorem exec_xcvt : exec (.xcvt d a n b f) s = runSlot (cvtProbe d a n b f) (xEffect .cvt d a n 0 f b 0) s := rfl

variable {s d a n b f}

/-- `XCVT` between formats that there are, under frames and scales that it may use. -/
theorem xForm_xcvt (ha : (fmtA (curArch s).fmt).toNat ≤ 10) (ho : (fmtO (curArch s).fmt).toNat ≤ 10)
    (hs : isCodeFormat (fmtA (curArch s).fmt).toNat = true → frameFault s f (rD (curArch s) f) (fmtA (curArch s).fmt).toNat = [])
    (hd : isCodeFormat (fmtO (curArch s).fmt).toNat = true → scaleFault s (cvtDI (rS (curArch s) n)) = [] ∧
      (fmtDith (curArch s).fmt = true → frameFault s b (rD (curArch s) b) (fmtO (curArch s).fmt).toNat = [])) :
    XForm s (.xcvt d a n b f) .cvt d a n 0 0 f b 0 := by
  have formats : ¬ (10 < (fmtA (curArch s).fmt).toNat ∨ 10 < (fmtO (curArch s).fmt).toNat) := by omega
  have source : (if isCodeFormat (fmtA (curArch s).fmt).toNat then frameFault s f (rD (curArch s) f) (fmtA (curArch s).fmt).toNat
      else []) = [] := ite_eq_right_iff.2 hs
  have dither : (if isCodeFormat (fmtO (curArch s).fmt).toNat && fmtDith (curArch s).fmt then
      frameFault s b (rD (curArch s) b) (fmtO (curArch s).fmt).toNat else []) = [] :=
    ite_eq_right_iff.2 fun h => (hd (Bool.and_eq_true_iff.1 h).1).2 (Bool.and_eq_true_iff.1 h).2
  have scale : (if isCodeFormat (fmtO (curArch s).fmt).toNat then scaleFault s (cvtDI (rS (curArch s) n)) else []) = [] :=
    ite_eq_right_iff.2 fun h => (hd h).1
  have probe : cvtProbe d a n b f s = { xProbe .cvt d a n 0 [] s with faults := xFaults .cvt d a n 0 s } := by
    rw [cvtProbe, if_neg formats, source, dither, scale]
    simp only [List.append_nil]
    rfl
  exact ⟨_, exec_xcvt .., by rw [probe]; rfl, by rw [probe]; exact List.nodup_nil, by rw [probe]; rfl, by rw [probe]; rfl, by rw [probe]⟩

/-- A reserved format code faults with FORMAT before anything else (R383). -/
theorem exec_xcvt_format (h : Alone 1 s) (hf : 10 < (fmtA (curArch s).fmt).toNat ∨ 10 < (fmtO (curArch s).fmt).toNat) :
    exec (.xcvt d a n b f) s = taken (mkFault 0x12 s.slot.val (some s.slot) (curArch s).fmt 0 0) s := by
  have probe : cvtProbe d a n b f s = { xProbe .cvt d a n 0 [] s with faults := [slotSub s 0x12 (curArch s).fmt 0] } := if_pos hf
  have one : (cvtProbe d a n b f s).faults = [mkFault 0x12 s.slot.val (some s.slot) (curArch s).fmt 0 0] := by rw [probe]; rfl
  have code : (mkFault 0x12 s.slot.val (some s.slot) (curArch s).fmt 0 0).code.toNat = 0x12 := rfl
  rw [exec_xcvt]
  refine runSlot_taken_no_stores h (by rw [probe]; exact Nat.le_refl 1) (by rw [probe]; exact List.nodup_nil) (by rw [probe]; rfl) ?_ ?_
  · intro g hg
    rw [one] at hg
    rw [List.mem_singleton.1 hg, code]
    decide
  · rw [one]
    exact firstFault_one (by rw [code]; decide)

end

section
variable {s : State} {i : Instr} {kind : XKind} {d a n : Fin 64} {xf : Nat} {width : Fin 4} {fs fd : Fin 8} {l : Fin 64}
  (h : XForm s i kind d a n xf width fs fd l) (ha : Alone 1 s)
include h ha

theorem XForm.operand {v : Word} (hb : xBad kind (rS (curArch s) d) (rS (curArch s) a) (rS (curArch s) n) xf s = some v) :
    exec i s = taken (mkFault 0x0D s.slot.val (some s.slot) v 0 0) s := by
  obtain ⟨probe, run, results, writes, stores, -, faults⟩ := h
  obtain ⟨more, list, code⟩ := xFaults_operand hb
  rw [list] at faults
  refine run.trans (runSlot_taken_no_stores ha results.le writes stores (fun f hf => ?_) ?_)
  · rw [faults] at hf
    obtain rfl | hf := List.mem_cons.1 hf
    · exact Nat.ne_of_beq_eq_false rfl
    · rw [code f hf]
      decide
  · rw [faults]
    exact firstFault_operand rfl fun f hf => by rw [code f hf]; decide

theorem XForm.early (hb : xBad kind (rS (curArch s) d) (rS (curArch s) a) (rS (curArch s) n) xf s = none) (hf : ¬ BeatsOver s) :
    exec i s = taken (xEarly s kind d a) s := by
  obtain ⟨probe, run, results, writes, stores, -, faults⟩ := h
  rw [xFaults_early hb hf] at faults
  have code : (xEarly s kind d a).code.toNat = 0x10 := rfl
  refine run.trans (runSlot_taken_no_stores ha results.le writes stores (fun f hf => ?_) ?_)
  · rw [faults] at hf
    rw [List.mem_singleton.1 hf, code]
    decide
  · rw [faults]
    exact firstFault_one (by rw [code]; decide)

theorem XForm.does (hb : xBad kind (rS (curArch s) d) (rS (curArch s) a) (rS (curArch s) n) xf s = none) (hf : BeatsOver s) :
    exec i s = .next (xEffect kind d a n width fs fd l (issued s)) := by
  obtain ⟨probe, run, results, writes, stores, waits, faults⟩ := h
  rw [xFaults_none hb hf] at faults
  exact run.trans (runSlot_does ha results.le writes (.inr stores) faults (by rw [waits]; rfl) rfl)

end

/-! ### What an X operation does at issue -/

/-- A beat reads the scratchpad and the marks of bad words, and nothing else of the machine. -/
theorem readChunk_congr {s t : State} (hm : t.mem = s.mem) (hc : t.cores = s.cores) (hb : t.bad = s.bad) (c : Fin 256) (x : XOp) :
    readChunk t c x = readChunk s c x := by
  have reads : beatRead t = beatRead s := by
    funext c off n
    simp only [beatRead, arbRead, coreAt, hm, hc]
  have chunks : sourceChunks t c x 1 x.nread x.srcUsed = sourceChunks s c x 1 x.nread x.srcUsed := by
    simp only [sourceChunks, reads]
  have bad : badAt t = badAt s := by
    funext a n
    rw [badAt, hb, badAt]
  have computes : computeChunk t c x = computeChunk s c x := by
    simp only [computeChunk, reads]
  rw [readChunk, computes, chunkBad, chunks, bad]
  rfl

theorem sourceChunks_bad (s : State) (c : Fin 256) (x : XOp) (bad : Option (Nat × Nat)) :
    sourceChunks s c { x with bad := bad } 1 0 0 = sourceChunks s c x 1 0 0 := rfl

section
variable {s : State} {kind : XKind} {d a n : Fin 64} {width : Fin 4} {fs fd : Fin 8} {l : Fin 64}

theorem newXOp_issued : newXOp kind d a n width fs fd l (issued s) = newXOp kind d a n width fs fd l s := by
  simp only [newXOp, curArch_issued, now_issued, issued_slot, issued_seq]

/-- The context once an X operation of `beats` beats has issued: when the next may come (R211). -/
def claimBeats (t beats : Nat) (c : Ctx) : Ctx := { c with lastX := (t, beats) }

/-- The context with a further operation whose beats are to come. -/
def addXOp (y : XOp) (c : Ctx) : Ctx := { c with xops := c.xops ++ [y] }

/-- An operation without beats does nothing, but that `XZVC` lands length 0 (R211, R216). -/
theorem xEffect_none (hN : (rS (curArch s) n).toNat % 2 ^ 16 = 0) : xEffect kind d a n width fs fd l (issued s) =
    let t := modCtx (issued s) s.cur (claimBeats (curArch s).sched.toNat 0)
    if kind = .zvc then land 4 (.sreg l 0) 0 t else t := by
  have beats : (newXOp kind d a n width fs fd l (issued s)).beats = 0 := by rw [newXOp_issued]; exact hN
  unfold xEffect
  dsimp only
  rw [if_pos beats, beats, now_issued]
  rfl

/-- Any other reads its first chunk, and its beats are to come (R210, R211). -/
theorem xEffect_starts (hN : 0 < (rS (curArch s) n).toNat % 2 ^ 16) : xEffect kind d a n width fs fd l (issued s) =
    modCtx (modCtx (issued s) s.cur (claimBeats (curArch s).sched.toNat ((rS (curArch s) n).toNat % 2 ^ 16))) s.cur
      (addXOp (readChunk s (coreOf s.cur) (newXOp kind d a n width fs fd l s))) := by
  have beats : ¬ (newXOp kind d a n width fs fd l (issued s)).beats = 0 := by rw [newXOp_issued]; exact hN.ne'
  unfold xEffect
  dsimp only
  rw [if_neg beats, readChunk_congr (s := s) rfl rfl rfl, newXOp_issued, now_issued, modCtx_cur, issued_cur]
  rfl

end

section
variable {s : State} {i : Instr} {kind : XKind} {d a n : Fin 64} {xf : Nat} {width : Fin 4} {fs fd : Fin 8} {l : Fin 64}
  (h : XForm s i kind d a n xf width fs fd l) (ha : Alone 1 s)
include h ha

/-- An X operation with beats issues, with its first chunk as it is computed. -/
theorem XForm.starts (hb : xBad kind (rS (curArch s) d) (rS (curArch s) a) (rS (curArch s) n) xf s = none) (hf : BeatsOver s)
    (hN : 0 < (rS (curArch s) n).toNat % 2 ^ 16) {content : List Byte → BitVec 6 → Prop} {used : Nat} {out : List Byte × BitVec 6}
    (hc : computeChunk s (coreOf s.cur) (newXOp kind d a n width fs fd l s) = afterRead (newXOp kind d a n width fs fd l s) used out)
    (hg : content out.1 out.2) :
    ∃ t y, exec i s = .next t ∧ t.mem = s.mem ∧ curArch t = curArch s ∧ (curCtx t).xops = (curCtx s).xops ++ [y] ∧
      (curCtx t).lastX = ((curArch s).sched.toNat, (rS (curArch s) n).toNat % 2 ^ 16) ∧ (curCtx t).flight = (curCtx s).flight ∧
      y.kind = kind ∧ y.t = (curArch s).sched.toNat ∧ y.beats = (rS (curArch s) n).toNat % 2 ^ 16 ∧
      y.dst = (rS (curArch s) d).toNat ∧ y.src = (rS (curArch s) a).toNat ∧ y.nread = 1 ∧ y.nland = 0 ∧ y.seq = s.seq ∧
      (∃ out fl, y.pend = [(out, fl)] ∧ content out fl) ∧
      y.bad = ((sourceChunks s (coreOf s.cur) { y with nread := 0, pend := [], srcUsed := 0 } 1 0 0).find? fun q =>
        badAt s (spadKey (coreOf s.cur) q.1) q.2).map fun q => (0, q.1) := by
  have runs := (h.does ha hb hf).trans (congrArg Host.Outcome.next (xEffect_starts hN))
  have ctx : curCtx (modCtx (modCtx (issued s) s.cur (claimBeats (curArch s).sched.toNat ((rS (curArch s) n).toNat % 2 ^ 16))) s.cur
      (addXOp (readChunk s (coreOf s.cur) (newXOp kind d a n width fs fd l s)))) =
      addXOp (readChunk s (coreOf s.cur) (newXOp kind d a n width fs fd l s))
        (claimBeats (curArch s).sched.toNat ((rS (curArch s) n).toNat % 2 ^ 16) { curCtx s with waits := [] }) := by
    refine (ctxAt_modCtx _ s.cur _).trans (congrArg _ ((ctxAt_modCtx _ s.cur _).trans (congrArg _ ?_)))
    exact curCtx_issued s
  refine ⟨_, _, runs, rfl, (congrArg Ctx.arch ctx :), (congrArg Ctx.xops ctx :), (congrArg Ctx.lastX ctx :),
    (congrArg Ctx.flight ctx :), ?_⟩
  rw [readChunk, hc]
  refine ⟨rfl, rfl, rfl, rfl, rfl, rfl, rfl, rfl, ⟨out.1, out.2, rfl, hg⟩, ?_⟩
  refine Eq.trans ?_ (congrArg (Option.map fun q => (0, q.1)) (congrArg (List.find? _) (sourceChunks_bad s _
    (newXOp kind d a n width fs fd l s) _).symm))
  exact Option.map_map ..

theorem XForm.nothing (hb : xBad kind (rS (curArch s) d) (rS (curArch s) a) (rS (curArch s) n) xf s = none) (hf : BeatsOver s)
    (hN : (rS (curArch s) n).toNat % 2 ^ 16 = 0) : exec i s = .next (
      let t := modCtx (issued s) s.cur (claimBeats (curArch s).sched.toNat 0)
      if kind = .zvc then land 4 (.sreg l 0) 0 t else t) :=
  (h.does ha hb hf).trans (congrArg Host.Outcome.next (xEffect_none hN))

end

/-! ### The operands of `XFILL` and `XEXP` (R209, R383) -/

section
variable {d src cnt : Word} {xf : Nat} {s : State}

theorem xBad_fill_legal (hx : xf = 0) (hn : cnt.toNat ≤ 1536) (hd : cnt.toNat % 2 ^ 16 = 0 ∨ d.toNat + 256 * (cnt.toNat % 2 ^ 16) ≤ 0x60000) :
    xBad .fill d src cnt xf s = none := by
  have count : ¬ (cnt.toNat / 2 ^ 16 ≠ 0 ∨ 1536 < cnt.toNat % 2 ^ 16) := by omega
  have inside : cnt.toNat % 2 ^ 16 = 0 ∨ inSpad d.toNat (256 * (cnt.toNat % 2 ^ 16)) = true := hd.imp_right decide_eq_true
  simp only [xBad, hx, ne_eq, not_true, if_false]
  rw [if_neg count, if_pos inside]

theorem xBad_fill_count (hx : xf = 0) (hn : 1536 < cnt.toNat) : xBad .fill d src cnt xf s = some cnt := by
  have count : cnt.toNat / 2 ^ 16 ≠ 0 ∨ 1536 < cnt.toNat % 2 ^ 16 := by omega
  simp only [xBad, hx, ne_eq, not_true, if_false]
  rw [if_pos count]

theorem xBad_width (hx : xf ≠ 0) : xBad .fill d src cnt xf s = some 0 ∧ xBad .exp d src cnt xf s = some 0 := ⟨if_pos hx, if_pos hx⟩

end

end Sys2Proof.Machine
end

section
/-! PROOFS. The first chunk of an X operation, as it is read at issue (R209 to R216, R383). -/

namespace Sys2Proof.Machine

open Sys2Proof.Safety

/-! ### The five parts of an operation's issue -/

section
variable {s : State} {i : Instr} {kind : XKind} {d a n : Fin 64} {xf : Nat} {width : Fin 4} {fs fd : Fin 8} {l : Fin 64}

/-- An X operation issues with its first chunk, does nothing, or faults (R209, R211). -/
theorem XForm.runs (h : XForm s i kind d a n xf width fs fd l) (ha : Alone 1 s) {content : List Byte → BitVec 6 → Prop} {used : Nat}
    {out : List Byte × BitVec 6}
    (hc : computeChunk s (coreOf s.cur) (newXOp kind d a n width fs fd l s) = afterRead (newXOp kind d a n width fs fd l s) used out)
    (hg : content out.1 out.2) :
    let bad := xBad kind (rS (curArch s) d) (rS (curArch s) a) (rS (curArch s) n) xf s
    (bad = none → BeatsOver s → 0 < (rS (curArch s) n).toNat % 2 ^ 16 → ∃ t y, exec i s = .next t ∧ t.mem = s.mem ∧
      curArch t = curArch s ∧ (curCtx t).xops = (curCtx s).xops ++ [y] ∧
      (curCtx t).lastX = ((curArch s).sched.toNat, (rS (curArch s) n).toNat % 2 ^ 16) ∧ (curCtx t).flight = (curCtx s).flight ∧
      y.kind = kind ∧ y.t = (curArch s).sched.toNat ∧ y.beats = (rS (curArch s) n).toNat % 2 ^ 16 ∧
      y.dst = (rS (curArch s) d).toNat ∧ y.src = (rS (curArch s) a).toNat ∧ y.nread = 1 ∧ y.nland = 0 ∧ y.seq = s.seq ∧
      (∃ out fl, y.pend = [(out, fl)] ∧ content out fl) ∧
      y.bad = ((sourceChunks s (coreOf s.cur) { y with nread := 0, pend := [], srcUsed := 0 } 1 0 0).find? fun q =>
        badAt s (spadKey (coreOf s.cur) q.1) q.2).map fun q => (0, q.1)) ∧
    (bad = none → BeatsOver s → (rS (curArch s) n).toNat % 2 ^ 16 = 0 → exec i s = .next (
      let t := modCtx (issued s) s.cur (claimBeats (curArch s).sched.toNat 0)
      if kind = .zvc then land 4 (.sreg l 0) 0 t else t)) ∧
    (bad = none → ¬ BeatsOver s → exec i s = taken (xEarly s kind d a) s) ∧
    (∀ v, bad = some v → exec i s = taken (mkFault 0x0D s.slot.val (some s.slot) v 0 0) s) :=
  ⟨fun hb hf hN => h.starts ha hb hf hN hc hg, fun hb hf hN => h.nothing ha hb hf hN, fun hb hf => h.early ha hb hf,
    fun _ hb => h.operand ha hb⟩

end

/-! ### What the first chunk holds -/

section
variable (s : State) (c : Fin 256) (off : Nat)

theorem expandedAt_length : (expandedAt s c off).length = 256 := expandSector_length ..

/-- The compressed form of a sector: as long as its mask says, it expands to the sector, and its mask marks the bytes that are
not 0 (R184, R216). -/
theorem compressSector_spec {bs : List Byte} (h : bs.length = 256) :
    let out := compressSector bs
    out.length = sectorLength (leVal (out.take 32)) ∧ expandSector (leVal (out.take 32)) 256 0 (out.drop 32) = bs ∧
      ∀ j < 256, (leVal (out.take 32)).testBit j = true ↔ bs.getD j 0 ≠ 0 := by
  intro out
  rw [leVal_take_compressSector h]
  exact ⟨compressSector_length h, expandSector_compressSector h, fun _ hj => presenceMask_bit hj⟩

end

/-- A format code is that of an INT code, of a DXB code, or no code (R67). -/
theorem code_cases {c : Nat} (hc : isCodeFormat c = true) : (c = 6 ∨ c = 7) ∨ (c = 9 ∨ c = 10) := by
  simpa [isCodeFormat, or_assoc] using hc

theorem not_dxb_of_plain {c : Nat} (hc : isCodeFormat c = false) : ¬ (c = 9 ∨ c = 10) := by
  rintro (rfl | rfl) <;> exact nomatch hc

section
variable {s : State} {c : Fin 256} {x : XOp} {raw : Nat → Nat} {value : Nat → Num × Bool} {offset : Nat → Int}

/-- What `XCVT` makes of 64 elements: converted, re-encoded, delivered, or quantised with their offsets (R85, R88, R104, R106, R215). -/
theorem cvtOut_spec (ho : (fmtO x.fmt).toNat ≤ 10)
    (hraw : isCodeFormat (fmtA x.fmt).toNat = false → raw = cvtRaw s c x) (hvalue : value = cvtValue s c x)
    (hoffset : offset = cvtOffset x) :
    let fa := (fmtA x.fmt).toNat
    let fo := (fmtO x.fmt).toNat
    let packed := Packed (codeWidth fo) (cvtOut s c x).1 (cvtOut s c x).2
    ((!isCodeFormat fa) = true → (!isCodeFormat fo) = true → fa ≠ fo →
      packed fun j => convert fa fo false (rmodeOf x.fmt) (fmtSat x.fmt) (raw j)) ∧
    ((!isCodeFormat fa) = true → fa = fo → packed fun j => reencode fa (rmodeOf x.fmt) (fmtSat x.fmt) (raw j)) ∧
    (isCodeFormat fa = true → fo = 0 → packed fun j => deliver .rne (value j)) ∧
    (isCodeFormat fa = true → (!isCodeFormat fo) = true → fo ≠ 0 → packed fun j =>
      let y := deliver .rne (value j)
      let q := convert 0 fo false (rmodeOf x.fmt) (fmtSat x.fmt) y.bits
      ⟨q.bits, y.flags ||| q.flags⟩) ∧
    (fo = 6 ∨ fo = 7 → ∀ mu eu, num32 (x.scl[cvtDI x.counts]) = .fin false mu eu → packed fun j =>
      let q := quantInt fo mu eu (value j).1 (offset j)
      ⟨(BitVec.ofInt (codeWidth fo) q.1).toNat, q.2 ||| (if (value j).2 then fNV else 0)⟩) ∧
    (fo = 9 ∨ fo = 10 →
      let z (h : Nat) : Block := quantDxb fo (cvtDI x.counts).val (x.scl[cvtDI x.counts]) (fmtSat x.fmt)
        ((List.range 32).map fun i => (value (32 * h + i)).1) ((List.range 32).map fun i => offset (32 * h + i))
      (cvtOut s c x).1 = blockBytes fo (z 0) ++ blockBytes fo (z 1) ∧ ∀ q < 6, (cvtOut s c x).2.getLsbD q = true ↔
        ((z 0).flags ||| (z 1).flags).getLsbD q = true ∨ (fNV.getLsbD q = true ∧ ∃ j < 64, (value j).2 = true)) := by
  subst hvalue hoffset
  simp only [Bool.not_eq_true']
  refine ⟨fun hs hf ne => ?_, fun hs same => ?_, fun hs => cvtOut_deliver hs, fun hs hf => cvtOut_deliver_convert hs ho hf,
    fun h6 _ _ unit => cvtOut_quantInt h6 unit, cvtOut_blocks⟩
  · rw [hraw hs]
    exact cvtOut_convert ho hf hs ne
  · rw [hraw hs]
    exact cvtOut_reencode ho (same ▸ hs) hs same

end

/-! ### The elements of the first source chunk -/

section
variable (s : State) (c : Fin 256) (x : XOp)

/-- The first source chunk as one number, and the elements in it of a format without blocks (R82). -/
def firstSource : Nat := leVal (arbRead s c x.src (cvtChunk (fmtA x.fmt).toNat))
def firstRaw (j : Nat) : Nat := firstSource s c x / 2 ^ (codeWidth (fmtA x.fmt).toNat * j) % 2 ^ codeWidth (fmtA x.fmt).toNat

/-- The row and the column of an element of it. -/
def firstPlace (j : Nat) : Int × Int := (((j / cvtRW x.counts : Nat) : Int), ((j % cvtRW x.counts : Nat) : Int))

/-- The offset of an operand of it (R105), and the one with which an element is quantised (R104). -/
def firstOperandOffset (j : Nat) : Int := consumerOffset x.fsrc (fmtA x.fmt).toNat (firstPlace x j).1 (firstPlace x j).2
def firstOffset (j : Nat) : Int := if fmtDith x.fmt then offsetAt x.fdst (firstPlace x j).1 (firstPlace x j).2 else 0

/-- The exact value of an element of it, by the kind of its format (R106). -/
def firstValue (j : Nat) : Num × Bool :=
  let fa := (fmtA x.fmt).toNat
  let block := 8 * (blockSize fa * (j / 32))
  if fa = 6 ∨ fa = 7 then intElem fa (firstRaw s c x j) (firstOperandOffset x j) (num32 x.scl[x.counts.toNat / 2 ^ 16 % 16])
  else if !isCodeFormat fa then (convSource fa false (firstRaw s c x j), false)
  else dxbElem fa (firstSource s c x / 2 ^ block % 65536)
    (firstSource s c x / 2 ^ (block + 16 + codeWidth fa * (j % 32)) % 2 ^ codeWidth fa) (firstOperandOffset x j) fun q => x.scl[q % 16]

variable {s c x} (h : x.nread = 0)
include h

theorem cvtSource_first : cvtSource s c x = firstSource s c x := by
  rw [cvtSource, h, Nat.zero_mul]
  rfl

theorem cvtPlace_first : cvtPlace x = firstPlace x := by
  funext j
  rw [cvtPlace, h, Nat.mul_zero, Nat.zero_add]
  rfl

theorem cvtOffset_first : cvtOffset x = firstOffset x := by
  funext j
  rw [cvtOffset, cvtPlace_first h]
  rfl

theorem cvtRaw_first (hd : ¬ ((fmtA x.fmt).toNat = 9 ∨ (fmtA x.fmt).toNat = 10)) : cvtRaw s c x = firstRaw s c x := by
  funext j
  rw [firstRaw, ← cvtSource_first h]
  exact if_neg hd

theorem cvtValue_first : cvtValue s c x = firstValue s c x := by
  funext j
  by_cases h6 : (fmtA x.fmt).toNat = 6 ∨ (fmtA x.fmt).toNat = 7
  · have value : cvtValue s c x j = _ := if_pos h6
    have first : firstValue s c x j = _ := if_pos h6
    rw [value, first, cvtRaw_first h (by omega), cvtPlace_first h]
    rfl
  cases hc : isCodeFormat (fmtA x.fmt).toNat with
  | false =>
    have first : firstValue s c x j = _ := (if_neg h6).trans (if_pos (congrArg (!·) hc))
    rw [first, cvtValue_plain hc, cvtRaw_first h (not_dxb_of_plain hc)]
  | true =>
    have h9 := (code_cases hc).resolve_left h6
    have value : cvtValue s c x j = _ := (if_neg h6).trans (if_pos h9)
    have raw : cvtRaw s c x j = _ := if_pos h9
    have first : firstValue s c x j = _ := (if_neg h6).trans (if_neg (by simp [hc]))
    rw [value, raw, first, cvtPlace_first h, cvtSource_first h]
    rfl

end

end Sys2Proof.Machine
end

section
/-! PROOFS. The beats of an X operation: the reads before its next chunk is due, and the chunk that lands (R210, R393). -/

namespace Sys2Proof.Machine

open Sys2Proof.Safety

/-! ### What a beat reads -/

/-- `y` is `x` after further reads: nothing else of the operation differs, and what `x` is to write is still first. -/
def ReadsOn (x y : XOp) : Prop :=
  ∃ nread used pend, x.nread ≤ nread ∧ y = { x with nread := nread, srcUsed := used, pend := x.pend ++ pend }

theorem ReadsOn.refl (x : XOp) : ReadsOn x x := ⟨x.nread, x.srcUsed, [], Nat.le_refl _, by rw [List.append_nil]⟩

/-- A read of a source without a word in error changes what the operation has read, and nothing else. -/
theorem ReadsOn.readChunk {x y : XOp} (h : ReadsOn x y) {s : State} (hb : s.bad = []) (c : Fin 256) : ReadsOn x (readChunk s c y) := by
  obtain ⟨nread, used, pend, le, rfl⟩ := h
  obtain ⟨used', out, chunk⟩ := computeChunk_eq s c { x with nread := nread, srcUsed := used, pend := x.pend ++ pend }
  have sound (y : XOp) : chunkBad s c y = none := by simp [chunkBad, badAt, hb]
  refine ⟨nread + 1, used', pend ++ [out], by omega, ?_⟩
  rw [Machine.readChunk, sound, chunk]
  simp only [afterRead, Option.map_none, Option.or_none, List.append_assoc]

/-- From `s` to `t`, the operation `x`, the only one of context `k`, has become `y` by reads, and nothing else has changed that
beats depend on. -/
structure OnlyReads (k : Fin 1024) (x y : XOp) (s t : State) : Prop where
  reads : ReadsOn x y
  ctx : ctxAt t k = { ctxAt s k with xops := [y] }
  mem : t.mem = s.mem
  bad : t.bad = s.bad
  cores : t.cores = s.cores

/-- One schedule cycle of a context's beats: writes first, then reads (R210). -/
def beatCycle (k : Fin 1024) (s : State) (u : Nat) : State := beatReads k u (beatLands k u s)

section
variable {k : Fin 1024} {x y : XOp} {s t : State} {u : Nat}

theorem OnlyReads.refl (hx : (ctxAt s k).xops = [x]) : OnlyReads k x x s s := ⟨.refl x, by rw [← hx], rfl, rfl, rfl⟩

theorem OnlyReads.xops (h : OnlyReads k x y s t) : (ctxAt t k).xops = [y] := by rw [h.ctx]

/-- Before the next chunk is due, a cycle only reads. -/
theorem OnlyReads.beatCycle_before (h : OnlyReads k x y s t) (hb : s.bad = []) (hu : u < x.t + x.nland + xLatency x.kind) :
    ∃ z, OnlyReads k x z s (beatCycle k t u) := by
  have early : landDue u y = false := by
    obtain ⟨nread, used, pend, -, rfl⟩ := h.reads
    unfold landDue landsAt
    split
    · exact decide_eq_false (Nat.not_le.2 hu)
    · rfl
  have lands : beatLands k u t = t := by simp [beatLands, h.xops, early]
  have runs : ctxAt (beatCycle k t u) k = { ctxAt t k with xops := [if readDue u y then readChunk t (coreOf k) y else y] } := by
    rw [beatCycle, lands, beatReads, ctxAt_modCtx, h.xops]
    rfl
  refine ⟨_, ?_, runs.trans (by rw [h.ctx]), ?_, ?_, ?_⟩
  · split
    · exact h.reads.readChunk (h.bad.trans hb) _
    · exact h.reads
  · rw [beatCycle, lands]
    exact h.mem
  · rw [beatCycle, lands]
    exact h.bad
  · rw [beatCycle, lands]
    exact h.cores

theorem OnlyReads.cycles_before (h : OnlyReads k x y s t) (hb : s.bad = []) {l : List Nat}
    (hl : ∀ u ∈ l, u < x.t + x.nland + xLatency x.kind) : ∃ z, OnlyReads k x z s (l.foldl (beatCycle k) t) := by
  induction l generalizing y t with
  | nil => exact ⟨y, h⟩
  | cons u r ih =>
    obtain ⟨z, cycle⟩ := h.beatCycle_before hb (hl u List.mem_cons_self)
    exact ih cycle fun v hv => hl v (List.mem_cons_of_mem _ hv)

end

/-! ### The cycles of the beats that are due -/

/-- A rising list that reaches its bound ends with it. -/
theorem pairwise_lt_ends {l : List Nat} {m : Nat} (hl : l.Pairwise (· < ·)) (hm : m ∈ l) (hle : ∀ u ∈ l, u ≤ m) :
    ∃ r, l = r ++ [m] ∧ ∀ u ∈ r, u < m := by
  obtain ⟨r, q, rfl⟩ := List.append_of_mem hm
  obtain ⟨-, tail, before⟩ := List.pairwise_append.1 hl
  have none : q = [] := List.eq_nil_iff_forall_not_mem.2 fun u hu =>
    absurd ((List.pairwise_cons.1 tail).1 u hu) (Nat.not_lt.2 (hle u (List.mem_append_right r (List.mem_cons_of_mem m hu))))
  subst none
  exact ⟨r, rfl, fun u hu => before u hu m List.mem_cons_self⟩

section
variable {k : Fin 1024} {x : XOp} {s : State} (hrun : (ctxAt s k).run = .started) (hx : (ctxAt s k).xops = [x]) (hb : s.bad = [])

theorem beatCycles_le {t u : Nat} (h : u ∈ rising (beatCycles t x)) : u ≤ t :=
  of_decide_eq_true (List.mem_filter.1 ((mem_rising _ _).1 h)).2

theorem mem_beatCycles_land (h : x.nland < x.beats) {t : Nat} (ht : t = x.t + x.nland + xLatency x.kind) :
    t ∈ rising (beatCycles t x) := by
  rw [mem_rising]
  refine List.mem_filter.2 ⟨List.mem_append_right _ (List.mem_map.2 ⟨0, List.mem_range.2 (Nat.sub_pos_of_lt h), ?_⟩), by simp⟩
  rw [ht, Nat.add_zero]

include hrun hx

theorem exec_transformBeat : exec (.transformBeat k) s =
    .next ((rising (beatCycles (ctxAt s k).arch.sched.toNat x)).foldl (beatCycle k) s) := by
  change execTransformBeat k s = _
  rw [execTransformBeat, beatClock_of_started hrun, hx, List.flatMap_singleton]
  rfl

include hb

/-- Before its next chunk is due, an operation only reads (R210). -/
theorem exec_beat_before (h : (ctxAt s k).arch.sched.toNat < x.t + x.nland + xLatency x.kind) :
    ∃ t, exec (.transformBeat k) s = .next t ∧ t.mem = s.mem := by
  obtain ⟨z, reads⟩ := (OnlyReads.refl hx).cycles_before hb
    (l := rising (beatCycles (ctxAt s k).arch.sched.toNat x)) fun u hu => Nat.lt_of_le_of_lt (beatCycles_le hu) h
  exact ⟨_, exec_transformBeat hrun hx, reads.mem⟩

/-- In the cycle in which its next chunk is due, an operation reads on, and then the chunk lands (R210). -/
theorem exec_beat_due (hn : x.nland < x.nread) (hle : x.nread ≤ x.beats)
    (h : (ctxAt s k).arch.sched.toNat = x.t + x.nland + xLatency x.kind) : ∃ t y, OnlyReads k x y s t ∧
      exec (.transformBeat k) s = .next (beatReads k (ctxAt s k).arch.sched.toNat (landChunk t k y)) := by
  obtain ⟨l, cycles, before⟩ := pairwise_lt_ends (rising_pairwise _) (mem_beatCycles_land (Nat.lt_of_lt_of_le hn hle) h)
    fun u => beatCycles_le
  obtain ⟨y, reads⟩ := (OnlyReads.refl hx).cycles_before hb (l := l) fun u hu => h ▸ before u hu
  refine ⟨_, y, reads, ?_⟩
  have due : landDue (ctxAt s k).arch.sched.toNat y = true := by
    obtain ⟨nread, used, pend, more, rfl⟩ := reads.reads
    rw [landDue, landsAt, if_pos (Nat.lt_of_lt_of_le hn more)]
    exact decide_eq_true h.ge
  rw [exec_transformBeat hrun hx, cycles, List.foldl_append, List.foldl_cons, List.foldl_nil, beatCycle, beatLands, reads.xops,
    List.foldl_cons, List.foldl_nil, if_pos due]

end

/-! ### The writes of a chunk -/

section
variable {c : Fin 256} {s : State} {y : Nat}

/-- A write covers a byte of a core's scratchpad. -/
def Covers (c : Fin 256) (q : Nat × List Byte) (y : Nat) : Prop := ∃ j < q.2.length, y = spadKey c q.1 + j

theorem putChunk_cons (q : Nat × List Byte) (ws : List (Nat × List Byte)) (s : State) : putChunk s c (q :: ws) =
    putChunk (if inSpad q.1 q.2.length then putBytes s (spadKey c q.1) q.2 else s) c ws := rfl

/-- A byte after a write, with no word in error: that of the write where it covers it, else the one that stood there. -/
theorem memGet_putBytes_sound (hb : s.bad = []) (q : Nat × List Byte) (y : Nat) :
    memGet (putBytes s (spadKey c q.1) q.2).mem y = memGet s.mem y ∧ ¬ Covers c q y ∨
      ∃ j < q.2.length, y = spadKey c q.1 + j ∧ memGet (putBytes s (spadKey c q.1) q.2).mem y = q.2.getD j 0 := by
  by_cases h : Covers c q y
  · obtain ⟨j, hj, rfl⟩ := h
    refine .inr ⟨j, hj, rfl, ?_⟩
    rw [memGet_putBytes_in s _ _ hj, if_neg (by simp [badParts, hb])]
  · refine .inl ⟨memGet_putBytes_out s _ _ _ ?_, h⟩
    by_contra inside
    exact h ⟨y - spadKey c q.1, by omega, by omega⟩

/-- A byte after the writes of a chunk, with no word in error: the byte on which the writes that cover it agree, when one of them
covers it or it stood there before. -/
theorem memGet_putChunk {ws : List (Nat × List Byte)} (hb : s.bad = []) {v : Byte}
    (agree : ∀ q ∈ ws, ∀ j < q.2.length, y = spadKey c q.1 + j → q.2.getD j 0 = v)
    (h : memGet s.mem y = v ∨ ∃ q ∈ ws, inSpad q.1 q.2.length = true ∧ Covers c q y) : memGet (putChunk s c ws).mem y = v := by
  induction ws generalizing s with
  | nil => exact h.elim id fun ⟨_, hq, _⟩ => absurd hq List.not_mem_nil
  | cons q ws ih =>
    have rest := fun p hp => agree p (List.mem_cons_of_mem q hp)
    rw [putChunk_cons]
    by_cases inside : inSpad q.1 q.2.length = true
    · rw [if_pos inside]
      refine ih (by simp [putBytes, hb]) rest ?_
      obtain ⟨same, out⟩ | ⟨j, hj, place, written⟩ := memGet_putBytes_sound hb q y
      · rw [same]
        refine h.imp_right fun ⟨p, hp, within, covers⟩ => ⟨p, ?_, within, covers⟩
        exact (List.mem_cons.1 hp).resolve_left fun e => out (e ▸ covers)
      · exact .inl (written.trans (agree q List.mem_cons_self j hj place))
    · rw [if_neg inside]
      refine ih hb rest (h.imp_right fun ⟨p, hp, within, covers⟩ => ⟨p, ?_, within, covers⟩)
      exact (List.mem_cons.1 hp).resolve_left fun e => inside (e ▸ within)

/-- A byte that no write covers stays. -/
theorem memGet_putChunk_out {ws : List (Nat × List Byte)} (hb : s.bad = [])
    (h : ∀ q ∈ ws, y < spadKey c q.1 ∨ spadKey c q.1 + q.2.length ≤ y) : memGet (putChunk s c ws).mem y = memGet s.mem y :=
  memGet_putChunk hb (fun q hq j hj place => by have := h q hq; omega) (.inl rfl)

end

theorem mem_takePorts_all (c : Fin 256) (ws : List (Nat × List Byte)) (s : State) :
    (ws.foldl (fun s q => takePorts s c q.1 q.2.length) s).mem = s.mem := by
  induction ws generalizing s with
  | nil => rfl
  | cons q ws ih => exact ih _

/-! ### The chunk that lands -/

section
variable {k : Fin 1024} {x y : XOp} {s t : State} (h : OnlyReads k x y s t)
include h

/-- The writes of the next chunk do not depend on the reads. -/
theorem OnlyReads.nextWrites {out : List Byte} {fl : BitVec 6} {rest : List (List Byte × BitVec 6)} (hp : x.pend = (out, fl) :: rest)
    (c : Fin 256) : nextWrites t c y = chunkWrites x out fun off => memGet s.mem (spadKey c off) := by
  obtain ⟨nread, used, pend, -, rfl⟩ := h.reads
  rw [Machine.nextWrites, nextOut, h.mem, hp]
  rfl

/-- A chunk whose source held a word in error writes nothing, and lands its fault (R393). -/
theorem OnlyReads.landChunk_bad {f : FaultRec} (hf : beatBad x = some f) (u : Nat) :
    let v := beatReads k u (landChunk t k y)
    v.mem = s.mem ∧ (ctxAt v k).xops = [] ∧ (ctxAt v k).flight = (ctxAt s k).flight ++
      [Flight.mk (x.t + x.nland + xLatency x.kind) x.seq false .nothing 0 0 true 0 (some f) x.handler] := by
  have fault : beatFault t (coreOf k) y = some f := by
    obtain ⟨nread, used, pend, -, rfl⟩ := h.reads
    exact congrArg (Option.or · _) hf
  have off : (ctxAt (landChunk t k y) k).xops = [] := by
    rw [landChunk, fault]
    simp [h.xops]
  intro v
  have v_eq : v = landChunk t k y := beatReads_of_no_beats u off
  refine ⟨?_, v_eq ▸ off, ?_⟩
  · rw [v_eq, landChunk, fault]
    exact h.mem
  · rw [v_eq, landChunk, fault]
    obtain ⟨nread, used, pend, -, rfl⟩ := h.reads
    simp [h.ctx]

section
variable (ha : (coreAt s (coreOf k)).array = none) (hf : ∀ off, x.bad ≠ some (x.nland, off))
include ha hf

/-- Without a claimed tile and a word in error the chunk lands without a fault. -/
theorem OnlyReads.beatFault : beatFault t (coreOf k) y = none := by
  have sound : beatBad y = none := by
    obtain ⟨nread, used, pend, -, rfl⟩ := h.reads
    unfold beatBad
    dsimp only
    cases bad : x.bad with
    | none => rfl
    | some q => exact if_neg fun e => hf q.2 (by rw [bad, ← e])
  have core : coreAt t (coreOf k) = coreAt s (coreOf k) := by rw [coreAt, h.cores, coreAt]
  have unclaimed : claimedTiles (coreAt t (coreOf k)) = [] := by rw [core, claimedTiles, ha]
  rw [Machine.beatFault, sound, Option.none_or, beatClaim, unclaimed]
  simp [meets]

/-- A chunk that lands writes its bytes (R209, R210). -/
theorem OnlyReads.landChunk_mem : (landChunk t k y).mem = (putChunk t (coreOf k) (Machine.nextWrites t (coreOf k) y)).mem := by
  rw [landChunk, h.beatFault ha hf]
  dsimp only
  split
  · exact mem_takePorts_all ..
  · split <;> exact mem_takePorts_all ..

/-- The last chunk of `XZVC` lands the length (R216). -/
theorem OnlyReads.landChunk_length (hz : x.kind = .zvc) (hn : x.nland + 1 = x.beats) {out : List Byte} {fl : BitVec 6}
    {rest : List (List Byte × BitVec 6)} (hp : x.pend = (out, fl) :: rest) :
    rS (ctxAt (landChunk t k y) k).arch x.lreg = if x.lreg = 0 then 0 else BitVec.ofNat 64 (4 + x.dstUsed + out.length) := by
  rw [landChunk, h.beatFault ha hf]
  obtain ⟨nread, used, pend, -, rfl⟩ := h.reads
  dsimp only [landedOne, nextOut]
  rw [if_neg (by omega), if_pos hz, hp, ctxAt_modArch, List.cons_append, List.headD_cons, Nat.add_assoc]
  split
  · next zero =>
    rw [zero]
    rfl
  · next some => exact rS_wS _ _ _ some

end

end

end Sys2Proof.Machine
end

section
/-! PROOFS. What a chunk that lands changes, for each X operation (R209, R213 to R216). -/

namespace Sys2Proof.Machine

open Sys2Proof.Safety

/-- From `s` to `t`, with no word in error, the bytes of the writes of a chunk have been put, and no other byte has changed. -/
def ChunkPut (s t : State) (c : Fin 256) (ws : List (Nat × List Byte)) : Prop :=
  ∃ u, u.mem = s.mem ∧ u.bad = [] ∧ t.mem = (putChunk u c ws).mem

section
variable {s t : State} {c : Fin 256} {ws : List (Nat × List Byte)} {y : Nat} (h : ChunkPut s t c ws)
include h

/-- A byte that some write covers, and on which those that cover it agree. -/
theorem ChunkPut.byte {v : Byte} (agree : ∀ q ∈ ws, ∀ j < q.2.length, y = spadKey c q.1 + j → q.2.getD j 0 = v)
    {q : Nat × List Byte} (hq : q ∈ ws) (inside : q.1 + q.2.length ≤ 0x60000) (covers : Covers c q y) : byteAt t y = v := by
  obtain ⟨u, -, sound, put⟩ := h
  rw [byteAt, put]
  exact memGet_putChunk sound agree (.inr ⟨q, hq, decide_eq_true inside, covers⟩)

theorem ChunkPut.out (hy : ∀ q ∈ ws, y < spadKey c q.1 ∨ spadKey c q.1 + q.2.length ≤ y) : byteAt t y = byteAt s y := by
  obtain ⟨u, mem, sound, put⟩ := h
  rw [byteAt, put, memGet_putChunk_out sound hy, mem, byteAt]

end

/-- A beat that is due writes its chunk (R210). -/
theorem exec_beat_lands {k : Fin 1024} {x : XOp} {s : State} {out : List Byte} {fl : BitVec 6} {rest : List (List Byte × BitVec 6)}
    (hrun : (ctxAt s k).run = .started) (hx : (ctxAt s k).xops = [x]) (hp : x.pend = (out, fl) :: rest) (hn : x.nland < x.nread)
    (hle : x.nread ≤ x.beats) (ha : (coreAt s (coreOf k)).array = none) (hb : s.bad = [])
    (hf : ∀ off, x.bad ≠ some (x.nland, off)) (due : (ctxAt s k).arch.sched.toNat = x.t + x.nland + xLatency x.kind) :
    ∃ t, exec (.transformBeat k) s = .next t ∧
      ChunkPut s t (coreOf k) (chunkWrites x out fun off => memGet s.mem (spadKey (coreOf k) off)) ∧
      (x.kind = .zvc → x.nland + 1 = x.beats →
        rS (ctxAt t k).arch x.lreg = if x.lreg = 0 then 0 else BitVec.ofNat 64 (4 + x.dstUsed + out.length)) := by
  obtain ⟨t, y, reads, runs⟩ := exec_beat_due hrun hx hb hn hle due
  refine ⟨_, runs, ⟨t, reads.mem, reads.bad.trans hb, ?_⟩, fun hz last => ?_⟩
  · rw [← reads.nextWrites hp]
    exact reads.landChunk_mem ha hf
  · rw [beatReads, ctxAt_modCtx]
    exact reads.landChunk_length ha hf hz last hp

/-! ### Where chunks go -/

section
variable {x : XOp} {out : List Byte} {old : Nat → Byte}

theorem chunkWrites_row (h : x.kind = .fill ∨ x.kind = .exp) : chunkWrites x out old = [(x.dst + 256 * x.nland, out)] := by
  obtain h | h := h <;> rw [chunkWrites, h]

theorem chunkWrites_cvt (h : x.kind = .cvt) : chunkWrites x out old = [(x.dst + cvtChunk (fmtO x.fmt).toNat * x.nland, out)] := by
  rw [chunkWrites, h, Nat.mul_comm (cvtChunk _)]

theorem chunkWrites_zvc (h : x.kind = .zvc) (hn : x.nland + 1 < x.beats) :
    chunkWrites x out old = [(x.dst + (4 + x.dstUsed), out)] := by
  rw [chunkWrites, h, ← Nat.add_assoc]
  dsimp only
  rw [if_neg hn.ne]

theorem chunkWrites_zvc_last (h : x.kind = .zvc) (hn : x.nland + 1 = x.beats) : chunkWrites x out old =
    [(x.dst + (4 + x.dstUsed), out), (x.dst, leBytes 4 (x.beats * 2 ^ 24 + x.dstUsed + out.length))] := by
  rw [chunkWrites, h, ← Nat.add_assoc]
  dsimp only
  rw [if_pos hn]

/-- The element of an `XTRN` that goes into row `r` of the destination: `z` bytes (R214). -/
def trnWrite (x : XOp) (out : List Byte) (z r : Nat) : Nat × List Byte :=
  (x.dst + (r * trnDP x.counts + x.nland * z), (out.drop (r * z)).take z)

theorem chunkWrites_trn (h : x.kind = .trn) (hw : 1 ≤ x.width.val) :
    chunkWrites x out old = (List.range (256 / 2 ^ (x.width.val - 1))).map (trnWrite x out (2 ^ (x.width.val - 1))) := by
  have sizes : ∀ w : Fin 4, 1 ≤ w.val → trnBits w.val ≠ 4 ∧ trnBits w.val / 8 = 2 ^ (w.val - 1) ∧ trnRow w.val = 256 / 2 ^ (w.val - 1) := by
    decide
  obtain ⟨wide, bytes, rows⟩ := sizes x.width hw
  rw [chunkWrites, h]
  dsimp only
  rw [rows, bytes]
  refine List.map_congr_left fun r _ => ?_
  rw [if_neg wide, Nat.add_assoc]
  rfl

/-- The element of 4 bits that goes into row `r`, and the byte with it: the other half stays (R214). -/
def trnNibble (out : List Byte) (r : Nat) : Nat := (out.getD (r / 2) 0).toNat / 16 ^ (r % 2) % 16
def withNibble (n nib o : Nat) : Nat := if n % 2 = 0 then o / 16 * 16 + nib else o % 16 + 16 * nib
def trnNibbleWrite (x : XOp) (out : List Byte) (old : Nat → Byte) (r : Nat) : Nat × List Byte :=
  let off := x.dst + (r * trnDP x.counts + x.nland / 2)
  (off, [BitVec.ofNat 8 (withNibble x.nland (trnNibble out r) (old off).toNat)])

theorem chunkWrites_trn_nibble (h : x.kind = .trn) (hw : x.width.val = 0) :
    chunkWrites x out old = (List.range 512).map (trnNibbleWrite x out old) := by
  have rows : trnRow x.width.val = 512 := by rw [hw]; rfl
  have bits : trnBits x.width.val = 4 := by rw [hw]; rfl
  rw [chunkWrites, h]
  dsimp only
  rw [rows]
  refine List.map_congr_left fun r _ => ?_
  rw [if_pos bits, Nat.add_assoc]
  rfl

end

/-! ### The bytes after a chunk -/

section
variable {s t : State} {c : Fin 256} {x : XOp} {out : List Byte}

/-- A chunk in a row. -/
theorem ChunkPut.row {lo n : Nat} (h : ChunkPut s t c [(x.dst + lo, out)]) (hn : out.length = n) (inside : x.dst + lo + n ≤ 0x60000) :
    (∀ j < n, byteAt t (spadKey c x.dst + lo + j) = out.getD j 0) ∧
      ∀ y, y < spadKey c x.dst + lo ∨ spadKey c x.dst + lo + n ≤ y → byteAt t y = byteAt s y := by
  subst hn
  refine ⟨fun j hj => h.byte ?_ List.mem_cons_self inside ⟨j, hj, by rw [spadKey_add]⟩, fun y hy => h.out ?_⟩
  · simp only [List.forall_mem_singleton, spadKey_add]
    intro i _ place
    rw [Nat.add_left_cancel place]
  · simpa only [List.forall_mem_singleton, spadKey_add] using hy

/-- The last chunk of `XZVC`, with the header (R216). -/
theorem ChunkPut.header {used : Nat} {head : Nat} (h : ChunkPut s t c [(x.dst + (4 + used), out), (x.dst, leBytes 4 head)])
    (inside : x.dst + 4 + used + out.length ≤ 0x60000) : memVal t.mem (spadKey c x.dst) 4 = head % 2 ^ 32 ∧
      (∀ j < out.length, byteAt t (spadKey c x.dst + 4 + used + j) = out.getD j 0) ∧
      (∀ y, y < spadKey c x.dst ∨ (spadKey c x.dst + 4 ≤ y ∧ y < spadKey c x.dst + 4 + used) ∨
        spadKey c x.dst + 4 + used + out.length ≤ y → byteAt t y = byteAt s y) := by
  refine ⟨?_, fun j hj => h.byte ?_ List.mem_cons_self (by dsimp only; omega) ⟨j, hj, by rw [spadKey_add]; omega⟩,
    fun y hy => h.out ?_⟩
  · rw [show (2 : Nat) ^ 32 = 256 ^ 4 from rfl, ← memVal_write s.mem (spadKey c x.dst) 4 head]
    refine memVal_congr fun j hj => ?_
    rw [memGet_write, leBytes_length, if_pos (by omega), Nat.add_sub_cancel_left]
    refine h.byte ?_ (List.mem_cons_of_mem _ List.mem_cons_self) (by rw [leBytes_length]; omega) ⟨j, by simpa using hj, rfl⟩
    simp only [List.forall_mem_cons, spadKey_add]
    refine ⟨fun i _ place => absurd place (by omega), fun i _ place => ?_, by simp⟩
    rw [Nat.add_left_cancel place]
  · simp only [List.forall_mem_cons, spadKey_add, leBytes_length]
    refine ⟨fun i _ place => ?_, fun i _ place => absurd place (by omega), by simp⟩
    rw [show i = j by omega]
  · simp only [List.forall_mem_cons, spadKey_add, leBytes_length]
    exact ⟨by omega, by omega, by simp⟩

/-- Rows of at least `d` bytes do not meet in the places below `d`. -/
theorem row_place_inj {d i j r p : Nat} (hj : j < d) (hp : p < d) (h : i * d + j = r * d + p) : i = r ∧ j = p := by
  have quot : (i * d + j) / d = (r * d + p) / d := by rw [h]
  have rem : (i * d + j) % d = (r * d + p) % d := by rw [h]
  rw [Nat.mul_comm i, Nat.mul_comm r, Nat.mul_add_div (by omega), Nat.mul_add_div (by omega), Nat.div_eq_of_lt hj, Nat.div_eq_of_lt hp] at quot
  rw [Nat.mul_comm i, Nat.mul_comm r, Nat.mul_add_mod, Nat.mul_add_mod, Nat.mod_eq_of_lt hj, Nat.mod_eq_of_lt hp] at rem
  exact ⟨quot, rem⟩

theorem getD_slice (l : List Byte) {a z j : Nat} (hj : j < z) : ((l.drop a).take z).getD j 0 = l.getD (a + j) 0 := by
  simp [List.getD_eq_getElem?_getD, hj]

/-- One element into each row (R214). -/
theorem ChunkPut.elements {z : Nat} (h : ChunkPut s t c ((List.range (256 / z)).map (trnWrite x out z))) (hlen : out.length = 256)
    (inside : (256 / z) * trnDP x.counts + x.dst + x.beats * z ≤ 0x60000) (hn : x.nland < x.beats)
    (fits : (x.nland + 1) * z ≤ trnDP x.counts) :
    (∀ i < 256 / z, ∀ j < z, byteAt t (spadKey c x.dst + i * trnDP x.counts + x.nland * z + j) = out.getD (i * z + j) 0) ∧
      ∀ y, (∀ i < 256 / z, y < spadKey c x.dst + i * trnDP x.counts + x.nland * z ∨
        spadKey c x.dst + i * trnDP x.counts + x.nland * z + z ≤ y) → byteAt t y = byteAt s y := by
  have bytes {i : Nat} (hi : i < 256 / z) : (trnWrite x out z i).2.length = z := by
    have := Nat.mul_le_of_le_div z (i + 1) 256 hi
    rw [Nat.add_mul, Nat.one_mul] at this
    simp only [trnWrite, List.length_take, List.length_drop, hlen]
    omega
  rw [Nat.add_mul, Nat.one_mul] at fits
  refine ⟨fun i hi j hj => h.byte (fun q hq p hp place => ?_) (List.mem_map_of_mem (List.mem_range.2 hi)) ?_ ⟨j, ?_, ?_⟩,
    fun y hy => h.out fun q hq => ?_⟩
  · obtain ⟨r, hr, rfl⟩ := List.mem_map.1 hq
    rw [bytes (List.mem_range.1 hr)] at hp
    simp only [trnWrite, spadKey_add] at place
    obtain ⟨rfl, same⟩ := row_place_inj (d := trnDP x.counts) (i := i) (r := r) (j := x.nland * z + j) (p := x.nland * z + p)
      (by omega) (by omega) (by omega)
    rw [← Nat.add_left_cancel same]
    exact getD_slice out hj
  · have rows := Nat.mul_le_mul_right (trnDP x.counts) hi.le
    have lands := Nat.mul_le_mul_right z hn
    rw [Nat.succ_mul] at lands
    rw [bytes hi, trnWrite]
    omega
  · rwa [bytes hi]
  · simp only [trnWrite, spadKey_add]
    omega
  · obtain ⟨r, hr, rfl⟩ := List.mem_map.1 hq
    rw [bytes (List.mem_range.1 hr)]
    simpa only [trnWrite, spadKey_add, Nat.add_assoc] using hy r (List.mem_range.1 hr)

theorem withNibble_lt (n : Nat) {nib o : Nat} (hn : nib < 16) (ho : o < 256) : withNibble n nib o < 256 := by
  unfold withNibble
  split <;> omega

/-- One element of 4 bits into each row, beside the one that shares its byte (R214). -/
theorem ChunkPut.nibbles (h : ChunkPut s t c ((List.range 512).map (trnNibbleWrite x out fun off => memGet s.mem (spadKey c off))))
    (inside : 512 * trnDP x.counts + x.dst + x.beats ≤ 0x60000) (hn : x.nland < x.beats) (fits : x.nland / 2 < trnDP x.counts) :
    (∀ i < 512, (byteAt t (spadKey c x.dst + i * trnDP x.counts + x.nland / 2)).toNat =
        withNibble x.nland (trnNibble out i) (byteAt s (spadKey c x.dst + i * trnDP x.counts + x.nland / 2)).toNat) ∧
      ∀ y, (∀ i < 512, y ≠ spadKey c x.dst + i * trnDP x.counts + x.nland / 2) → byteAt t y = byteAt s y := by
  refine ⟨fun i hi => ?_, fun y hy => h.out fun q hq => ?_⟩
  · have value : byteAt t (spadKey c x.dst + i * trnDP x.counts + x.nland / 2) =
        BitVec.ofNat 8 (withNibble x.nland (trnNibble out i) (byteAt s (spadKey c x.dst + i * trnDP x.counts + x.nland / 2)).toNat) := by
      refine h.byte (fun q hq p hp place => ?_) (List.mem_map_of_mem (List.mem_range.2 hi)) ?_ ⟨0, Nat.zero_lt_one, ?_⟩
      · obtain ⟨r, hr, rfl⟩ := List.mem_map.1 hq
        obtain rfl : p = 0 := Nat.lt_one_iff.1 hp
        simp only [trnNibbleWrite, spadKey_add] at place
        obtain ⟨rfl, -⟩ := row_place_inj (d := trnDP x.counts) (i := i) (r := r) fits fits (by omega)
        simp only [trnNibbleWrite, spadKey_add, byteAt, Nat.add_assoc]
        rfl
      · have rows := Nat.mul_le_mul_right (trnDP x.counts) hi.le
        simp only [trnNibbleWrite, List.length_singleton]
        omega
      · simp only [trnNibbleWrite, spadKey_add]
        omega
    rw [value, BitVec.toNat_ofNat]
    exact Nat.mod_eq_of_lt (withNibble_lt _ (Nat.mod_lt _ (by decide)) (BitVec.isLt _))
  · obtain ⟨r, hr, rfl⟩ := List.mem_map.1 hq
    have away := hy r (List.mem_range.1 hr)
    simp only [trnNibbleWrite, spadKey_add, List.length_singleton]
    omega

end

end Sys2Proof.Machine
end

section
/-! PROOFS. Transforms (R209 to R216). -/

namespace Sys2Proof.Machine

open Sys2Proof.Safety

/-- The first row of `XTRN` starts at the source. -/
theorem computeChunk_trn_first {s : State} {c : Fin 256} {x : XOp} (h : x.kind = .trn) (hn : x.nread = 0) :
    computeChunk s c x = afterRead x x.srcUsed (arbRead s c x.src 256, 0) := by
  rw [computeChunk_trn h, hn, Nat.zero_mul]
  rfl

theorem beatBad_source {x : XOp} {off : Nat} (h : x.bad = some (x.nland, off)) : ∃ f, beatBad x = some f ∧ f.code = 0x80 ∧ f.sub = 0 := by
  rw [beatBad, h]
  dsimp only
  rw [if_pos rfl]
  exact ⟨_, rfl, rfl, rfl⟩

/-- Settles O38: each operation has the form of an X operation, whose first chunk is what `computeChunk` makes of its source; and a
context with one operation under way only reads before its next chunk is due, in whose cycle that chunk lands, byte by byte. -/
theorem transforms : Obligations.Transforms := by
  unfold Obligations.Transforms
  refine ⟨fun s d a n x l b f ha => ?_, fun s k x out fl rest hrun hx hp hn hle harray hb => ⟨?_, fun hf => ?_⟩⟩
  · intro r N fa fo free fault src byte present raw block floats rw place value offset scale packed content runs inside
    refine ⟨?_, ?_, ?_, ?_, fun hfa hfo hs hd => ?_, exec_xcvt_format ha,
      fun ⟨hx, hn, hi⟩ => xBad_fill_legal (congrArg Fin.val hx) hn hi, fun ⟨hx, hn⟩ => xBad_fill_count (congrArg Fin.val hx) hn,
      fun hx => xBad_width fun h => hx (Fin.ext h)⟩
    · exact (xForm_xfill s d a n x).runs ha (content := content .fill) (computeChunk_fill rfl) ⟨rfl, rfl⟩
    · exact (xForm_xexp s d a n x).runs ha (content := content .exp) (computeChunk_exp rfl)
        ⟨rfl, expandedAt_length .., fun j hj => getD_expandedAt s _ _ hj⟩
    · exact (xForm_xtrn s d a n x).runs ha (content := content .trn) (computeChunk_trn_first rfl rfl) ⟨rfl, rfl⟩
    · exact (xForm_xzvc s d a n l).runs ha (content := content .zvc) (computeChunk_zvc rfl)
        ⟨rfl, compressSector_spec (arbRead_length ..)⟩
    · have spec := cvtOut_spec (s := s) (c := coreOf s.cur) (x := newXOp .cvt d a n 0 f b 0 s) hfo
        (fun h => (cvtRaw_first rfl (not_dxb_of_plain h)).symm) (cvtValue_first rfl).symm (cvtOffset_first rfl).symm
      exact (xForm_xcvt hfa hfo hs hd).runs ha (content := content .cvt) (computeChunk_cvt _ _ (newXOp .cvt d a n 0 f b 0 s) rfl) spec
  · rintro due ⟨off, bad⟩
    obtain ⟨t, y, reads, runs⟩ := exec_beat_due hrun hx hb hn hle due
    obtain ⟨g, fault, code, sub⟩ := beatBad_source bad
    obtain ⟨mem, none, flight⟩ := reads.landChunk_bad fault (ctxAt s k).arch.sched.toNat
    exact ⟨_, _, runs, mem, none, flight, due.symm, rfl, rfl, g, rfl, code, sub⟩
  · intro key at_ now z dp row
    have lands (due : now = at_) := exec_beat_lands hrun hx hp hn hle harray hb hf due
    refine ⟨exec_beat_before hrun hx hb, fun due kind len inside => ?_, fun due kind n chunk len inside => ?_,
      fun due kind inside => ⟨fun more => ?_, fun last => ?_⟩, fun due kind wide len inside fits => ?_,
      fun due kind narrow len inside fits => ?_⟩ <;> obtain ⟨t, runs, put, length⟩ := lands due
    · rw [chunkWrites_row kind] at put
      exact ⟨t, runs, put.row len (by rwa [Nat.add_assoc, ← Nat.mul_succ])⟩
    · subst chunk
      rw [chunkWrites_cvt kind] at put
      exact ⟨t, runs, put.row len (by rwa [Nat.add_assoc, ← Nat.mul_succ])⟩
    · rw [chunkWrites_zvc kind more] at put
      exact ⟨t, runs, put.row rfl (by omega)⟩
    · rw [chunkWrites_zvc_last kind last] at put
      obtain ⟨head, bytes, others⟩ := put.header inside
      exact ⟨t, runs, head, bytes, others, length kind last⟩
    · rw [chunkWrites_trn kind wide] at put
      exact ⟨t, runs, put.elements len inside (Nat.lt_of_lt_of_le hn hle) fits⟩
    · rw [chunkWrites_trn_nibble kind narrow] at put
      exact ⟨t, runs, put.nibbles inside (Nat.lt_of_lt_of_le hn hle) fits⟩

end Sys2Proof.Machine
end
